-- ==== Sys2Proof/Word.lean ====
section
/-! DEFINITION. The word types of the KX-440 and the sparse table type of the state. -/

namespace Sys2Proof

/-- A byte (R20). -/
abbrev Byte := BitVec 8
/-- A 64-bit word: scalar registers, control registers, mailboxes (R94, R95). -/
abbrev Word := BitVec 64
/-- A 32-bit word: predicate registers, lanes, header words (R40, R94). -/
abbrev Half := BitVec 32
/-- A 1,024-bit vector register (R20, R94). -/
abbrev VWord := BitVec 1024

/-- A sparse table: (key, value) pairs with strictly rising keys. -/
abbrev SMap (α : Type) := List (Nat × α)

end Sys2Proof
end

