-- ==== Sys2Proof/Config.lean ====
section
/-! DEFINITION. What the spec leaves to the unit or to physics: constants of the configuration, and
free values that no proof can see. A free value drawn more than once takes a counter of the state. -/

namespace Sys2Proof.Config

/-- The n-th wait of untimed work, in wall cycles beyond the least one (DESIGN CHOICE, log 5). -/
opaque latency : Nat → Nat

/-- Lead of the n-th bind record within R231's range, above 1,000 wall cycles (DESIGN CHOICE, log 5). -/
opaque bindLead : Nat → Nat

/-- BAM state code of a site after boot, of at most eight sites (R1, R182, R314; DESIGN CHOICE, log 20). -/
opaque bootState : Nat → Nat

/-- Vertical-bus class of a site after boot training: half width (R183, R314; DESIGN CHOICE, log 20). -/
opaque bootHalf : Nat → Bool

/-- The pulse table of the configuration block (R195). -/
opaque xpamp : Nat → Word

/-- The wear budget of the configuration block (R195). -/
opaque xwbud : Nat → Word

/-- Conductance of a cell, in 1/4,096 of a level spacing, after the n-th pulse on it (R199). -/
opaque pulsed : (n : Nat) → (old : Nat) → (amp : Nat) → (width : Nat) → (reset : Bool) → Nat

/-- Conductance of a cell after the n-th erasure of it (R200). -/
opaque erased : (n : Nat) → (old : Nat) → Nat

/-- Deviation of the n-th conversion of a CALIBRATED array, before it is bound to -1..1 (R170). -/
opaque deviation : Nat → Int

/-- The n-th raw converter output, in code steps beside the ideal one (R170, R201, R203). -/
opaque rawOffset : Nat → Int

/-- The conservative wear count of the configuration block (R206, R315). -/
opaque conservativeWear : Nat

/-- Stage 4's test of an array finds it fit for use (R315). -/
opaque arrayFit : Nat → Bool

/-- What the n-th injected or natural error adds to the bits that are read (R133, R286, R307). -/
opaque errorBits : Nat → VWord

/-- SHA-384 (R208, R314 to R317; DESIGN CHOICE, log 21). -/
opaque sha384 : List Byte → List Byte

/-- ECDSA P-384 verification of a signature over a digest under a public key (R317; DESIGN CHOICE, log 21). -/
opaque ecdsaP384 : (key : List Byte) → (digest : List Byte) → (signature : List Byte) → Bool

/-- Data column that stage 4's test gives to spare k of an array (R202, R315). -/
opaque testSpare : Nat → Option Nat

/-- Body of the repair record that holds these numbers, and the numbers that a body holds: its layout is
not given (R315; DESIGN CHOICE, log 75). -/
opaque packRepair : List Nat → List Byte
opaque unpackRepair : List Byte → List Nat

/-- Byte i of the n-th run of bytes whose layout the spec does not give (R100, R312; DESIGN CHOICE,
log 18). -/
opaque recordByte : Nat → Nat → Byte

/-- HMAC-SHA-384 of bytes under a key (R315). -/
opaque hmac384 : (key : List Byte) → List Byte → List Byte

/-- The seed that the fuzzy extractor forms, and the key derived from it and a digest (R316). -/
opaque deviceSeed : List Byte
opaque deriveKey : (seed : List Byte) → (digest : List Byte) → List Byte

/-- The key of the repair record, derived from the device identity (R315). -/
opaque repairKey : (identity : List Byte) → List Byte

/-- The report whose parts these are: its layout is not given (R316; DESIGN CHOICE, log 21). -/
opaque packReport : List (List Byte) → List Byte

/-- ECDSA P-384 signature over a digest, and the certificate of a key by another (R316). -/
opaque signP384 : (key : List Byte) → (digest : List Byte) → List Byte
opaque certificate : (issuer : List Byte) → (subject : List Byte) → List Byte

/-- Bytes of the firmware image at BOOTADDR, and its public key, signed body and signature: its layout is
not given (R314; DESIGN CHOICE, log 20). -/
opaque firmwareSize : Nat
opaque firmwareKey : List Byte → List Byte
opaque firmwareBody : List Byte → List Byte
opaque firmwareSignature : List Byte → List Byte

/-- Hash of the root key in the mask ROM (R314). -/
opaque rootKeyHash : List Byte

/-- The configuration block and its signature (R314, R316). -/
opaque configBlock : List Byte
opaque configSignature : List Byte

/-- The training of the n-th boot fails (R313, R314). -/
opaque trainingFails : Nat → Bool

/-- Byte i of the configuration space of a function that exists (R268; DESIGN CHOICE, log 73). -/
opaque configSpace : (fn : Nat) → (i : Nat) → Byte

/-- The key hash of a manifest-signing slot in the configuration block (R317); none: empty. -/
opaque keySlot : Nat → Option (List Byte)

/-- PWRFIX.PFIX, in W, before its bound of 300 (R319). -/
opaque pfix : Nat

/-- TVAL of the n-th double trap of an operation that R293 bars from a handler: R286 gives the code
of the second trap, and such an operation raises none. -/
opaque openTval : Nat → Word

/-- Which of several faulting items the n-th trap reports, where the spec names none of them. -/
opaque choice : Nat → Nat

end Sys2Proof.Config
end

