-- ==== Sys2Proof/Machine/Float.lean ====
section
/-! DEFINITION. Floating-point values as exact dyadic numbers, and the one rounding of R25, with the
flags of R27. Rounding modes are numbered as NCTL.RM: 0 RNE, 1 RTZ, 2 RDN, 3 RUP (R23). -/

namespace Sys2Proof.Machine

/-- Flags IV, DZ, OV, UN, IX, SQ in bits 0..5: NCTL[13:8] shifted down (R23). -/
abbrev NFlags := BitVec 6

def fNone : NFlags := 0
def fIV : NFlags := 1
def fDZ : NFlags := 2
def fOV : NFlags := 4
def fUN : NFlags := 8
def fIX : NFlags := 16
def fSQ : NFlags := 32

/-- A floating-point format: exponent bits and fraction bits (R21). -/
structure Fmt where
  eb : Nat
  fb : Nat
  deriving DecidableEq, Repr

def fmtF32 : Fmt := { eb := 8, fb := 23 }
def fmtBF16 : Fmt := { eb := 8, fb := 7 }
def fmtF16 : Fmt := { eb := 5, fb := 10 }

def Fmt.width (f : Fmt) : Nat := 1 + f.eb + f.fb
def Fmt.bias (f : Fmt) : Nat := 2 ^ (f.eb - 1) - 1
/-- Exponent of the smallest normal. -/
def Fmt.emin (f : Fmt) : Int := 1 - (f.bias : Int)
/-- FTZ acts on FP32 and BF16 only (R26). -/
def Fmt.flushes (f : Fmt) : Bool := f.eb == 8

/-- The value of an element: NaN (signalling or quiet), infinity, or (-1)^neg · m · 2^e. -/
inductive FV where
  | nan (signalling : Bool)
  | inf (neg : Bool)
  | fin (neg : Bool) (m : Nat) (e : Int)
  deriving DecidableEq, Repr

/-- The value of a pattern (R21), subnormals read as zero under FTZ (R26). -/
def fdec (f : Fmt) (ftz : Bool) (x : Nat) : FV :=
  let neg := x / 2 ^ (f.eb + f.fb) % 2 == 1
  let e := x / 2 ^ f.fb % 2 ^ f.eb
  let m := x % 2 ^ f.fb
  if e == 2 ^ f.eb - 1 then
    if m == 0 then .inf neg else .nan (m / 2 ^ (f.fb - 1) == 0)
  else if e == 0 then
    .fin neg (if ftz && f.flushes then 0 else m) (f.emin - f.fb)
  else .fin neg (2 ^ f.fb + m) (f.emin - f.fb + ((e : Int) - 1))

def fsign (f : Fmt) (neg : Bool) : Nat := if neg then 2 ^ (f.eb + f.fb) else 0

/-- The canonical NaN (R22). -/
def fnan (f : Fmt) : Nat := (2 ^ f.eb - 1) * 2 ^ f.fb + 2 ^ (f.fb - 1)

def finf (f : Fmt) (neg : Bool) : Nat := fsign f neg + (2 ^ f.eb - 1) * 2 ^ f.fb

/-- The largest finite value. -/
def fmax (f : Fmt) (neg : Bool) : Nat := finf f neg - 1

/-- A result past the largest finite value, by mode (R25). -/
def foverflow (f : Fmt) (mode : Nat) (neg : Bool) : Nat :=
  match mode with
  | 0 => finf f neg
  | 1 => fmax f neg
  | 2 => if neg then finf f neg else fmax f neg
  | _ => if neg then fmax f neg else finf f neg

/-- The multiple of 2^q to which a magnitude is rounded, and whether that is inexact. The magnitude
is m · 2^e, or lies strictly between it and the next multiple of 2^e when `sticky`. -/
def roundAt (mode : Nat) (neg : Bool) (m : Nat) (e : Int) (sticky : Bool) (q : Int) : Nat × Bool :=
  if q ≤ e then (m * 2 ^ (e - q).toNat, sticky)
  else
    let s := (q - e).toNat
    let n := m / 2 ^ s
    let r := m % 2 ^ s
    let inexact := r != 0 || sticky
    let up := match mode with
      | 0 => 2 * r > 2 ^ s || 2 * r == 2 ^ s && (sticky || n % 2 == 1)
      | 1 => false
      | 2 => neg && inexact
      | _ => !neg && inexact
    (if up then n + 1 else n, inexact)

/-- Number of bits of m. -/
def bitLen (m : Nat) : Nat := if m == 0 then 0 else Nat.log2 m + 1

/-- One rounding of a non-zero magnitude to a format, with OV, UN and IX (R25 to R27). -/
def roundMag (f : Fmt) (mode : Nat) (ftz neg : Bool) (m : Nat) (e : Int) (sticky : Bool) :
    Nat × NFlags :=
  let qu := e + (bitLen m : Int) - 1 - f.fb
  let qmin := f.emin - f.fb
  let free := roundAt mode neg m e sticky qu
  let tiny := decide (qu < qmin) &&
    !(decide (qu + 1 == qmin) && free.1 == 2 ^ (f.fb + 1))
  if tiny && ftz && f.flushes then (fsign f neg, fUN ||| fIX)
  else
    let q := if qu < qmin then qmin else qu
    let r := roundAt mode neg m e sticky q
    let carry := r.1 == 2 ^ (f.fb + 1)
    let n := if carry then 2 ^ f.fb else r.1
    let q' := if carry then q + 1 else q
    let flags := (if tiny && r.2 then fUN else fNone) ||| (if r.2 then fIX else fNone)
    if n < 2 ^ f.fb then (fsign f neg + n, flags)
    else
      let be := q' - qmin + 1
      if be ≥ (2 : Int) ^ f.eb - 1 then (foverflow f mode neg, fOV ||| fIX)
      else (fsign f neg + be.toNat * 2 ^ f.fb + (n - 2 ^ f.fb), flags)

/-- The pattern of an exact value rounded once; a zero keeps its sign, a NaN is canonical (R22). -/
def fround (f : Fmt) (mode : Nat) (ftz : Bool) (v : FV) : Nat × NFlags :=
  match v with
  | .nan _ => (fnan f, fNone)
  | .inf neg => (finf f neg, fNone)
  | .fin neg m e => if m == 0 then (fsign f neg, fNone) else roundMag f mode ftz neg m e false

/-- IV of a signalling operand. -/
def fsig (v : FV) : NFlags :=
  match v with
  | .nan true => fIV
  | _ => fNone

def fisNan (v : FV) : Bool :=
  match v with
  | .nan _ => true
  | _ => false

def fisZero (v : FV) : Bool :=
  match v with
  | .fin _ 0 _ => true
  | _ => false

def fneg (v : FV) : FV :=
  match v with
  | .nan s => .nan s
  | .inf n => .inf (!n)
  | .fin n m e => .fin (!n) m e

/-- Exact product; infinity times zero is invalid. -/
def fmulx (a b : FV) : FV × NFlags :=
  match a, b with
  | .nan _, _ => (.nan false, fNone)
  | _, .nan _ => (.nan false, fNone)
  | .inf x, .inf y => (.inf (x != y), fNone)
  | .inf x, .fin y m _ => if m == 0 then (.nan false, fIV) else (.inf (x != y), fNone)
  | .fin x m _, .inf y => if m == 0 then (.nan false, fIV) else (.inf (x != y), fNone)
  | .fin x m e, .fin y n d => (.fin (x != y) (m * n) (e + d), fNone)

def fneg? (v : FV) : Bool :=
  match v with
  | .inf n => n
  | .fin n _ _ => n
  | .nan _ => false

def fisInf (v : FV) : Bool :=
  match v with
  | .inf _ => true
  | _ => false

/-- A finite value in units of 2^q, q at most its exponent. -/
def funits (q : Int) (v : FV) : Int :=
  match v with
  | .fin n m e => (if n then -1 else 1) * (m : Int) * 2 ^ (e - q).toNat
  | _ => 0

/-- The least exponent of the non-zero finite terms. -/
def fleast : List FV → Option Int
  | [] => none
  | v :: l =>
    match v, fleast l with
    | .fin _ 0 _, r => r
    | .fin _ _ e, some q => some (if e < q then e else q)
    | .fin _ _ e, none => some e
    | _, r => r

/-- Exact sum of terms; infinities of opposite sign are invalid; the sign of an exact zero sum is
that of R25. A NaN among the terms decides before the infinities, and terms that are all +0 give +0
under RDN (DEDUCED, log 50). -/
def fsumx (mode : Nat) (l : List FV) : FV × NFlags :=
  if l.any fisNan then (.nan false, fNone)
  else
    let p := l.any fun v => fisInf v && !fneg? v
    let n := l.any fun v => fisInf v && fneg? v
    if p && n then (.nan false, fIV)
    else if p || n then (.inf n, fNone)
    else
      match fleast l with
      | none =>
        let neg := if l.all fneg? then true else if l.any fneg? then mode == 2 else false
        (.fin neg 0 0, fNone)
      | some q =>
        let t := (l.map (funits q)).foldl (· + ·) 0
        if t == 0 then (.fin (mode == 2) 0 0, fNone) else (.fin (t < 0) t.natAbs q, fNone)

/-- Sum of the flags of several values' signalling operands. -/
def fsigs (l : List FV) : NFlags := (l.map fsig).foldl (· ||| ·) fNone

/-- a + b, rounded once. -/
def faddR (f : Fmt) (mode : Nat) (ftz : Bool) (a b : FV) : Nat × NFlags :=
  let s := fsumx mode [a, b]
  let r := fround f mode ftz s.1
  (r.1, r.2 ||| s.2 ||| fsigs [a, b])

def fmulR (f : Fmt) (mode : Nat) (ftz : Bool) (a b : FV) : Nat × NFlags :=
  let s := fmulx a b
  let r := fround f mode ftz s.1
  (r.1, r.2 ||| s.2 ||| fsigs [a, b])

/-- a · b + c, rounded once. -/
def ffmaR (f : Fmt) (mode : Nat) (ftz : Bool) (a b c : FV) : Nat × NFlags :=
  let p := fmulx a b
  let s := fsumx mode [p.1, c]
  let r := fround f mode ftz s.1
  (r.1, r.2 ||| p.2 ||| s.2 ||| fsigs [a, b, c])

/-- Order of two values that are not NaN: -1, 0 or 1; zeros are equal. -/
def fcmp (a b : FV) : Int :=
  match a, b with
  | .inf x, .inf y => if x == y then 0 else if x then -1 else 1
  | .inf x, _ => if x then -1 else 1
  | _, .inf y => if y then 1 else -1
  | .fin .., .fin .. =>
    match fleast [a, b] with
    | none => 0
    | some q =>
      let d := funits q a - funits q b
      if d < 0 then -1 else if d == 0 then 0 else 1
  | _, _ => 0

/-- a is ordered below b, -0 below +0 (R117). -/
def flt (a b : FV) : Bool :=
  fcmp a b < 0 || fisZero a && fisZero b && fneg? a && !fneg? b

/-- The dyadic value rounded to an integer under a mode, and whether that is inexact. -/
def roundInt (mode : Nat) (neg : Bool) (m : Nat) (e : Int) : Int × Bool :=
  let r := roundAt mode neg m e false 0
  ((if neg then -(r.1 : Int) else r.1), r.2)

/-- floor of a · 2^e, round to nearest with ties to even. -/
def roundHalfEven (num : Int) (s : Nat) : Int :=
  let r := roundAt 0 (num < 0) num.natAbs (-(s : Int)) false 0
  if num < 0 then -(r.1 : Int) else r.1

/-! ## Reciprocal, square root, powers and logarithms (R127) -/

/-- Newton's iteration for the integer square root, from above. -/
def isqrtGo : Nat → Nat → Nat → Nat
  | 0, _, x => x
  | k + 1, n, x =>
    let y := (x + n / x) / 2
    if y < x then isqrtGo k n y else x

/-- The greatest r with r² ≤ n. -/
def isqrt (n : Nat) : Nat :=
  if n == 0 then 0 else isqrtGo (bitLen n + 2) n (2 ^ ((bitLen n + 1) / 2))

/-- A rounded magnitude of a quotient or root: m · 2^e, inexact when `sticky`. -/
def roundSticky (f : Fmt) (mode : Nat) (ftz neg : Bool) (m : Nat) (e : Int) (sticky : Bool) :
    Nat × NFlags :=
  roundMag f mode ftz neg m e sticky

def frcp (f : Fmt) (mode : Nat) (ftz : Bool) (a : FV) : Nat × NFlags :=
  match a with
  | .nan _ => (fnan f, fsig a)
  | .inf n => (fsign f n, fNone)
  | .fin n m e =>
    if m == 0 then (finf f n, fDZ)
    else
      let k := 2 * bitLen m + 64
      roundSticky f mode ftz n (2 ^ k / m) (-e - k) (2 ^ k % m != 0)

def frsq (f : Fmt) (mode : Nat) (ftz : Bool) (a : FV) : Nat × NFlags :=
  match a with
  | .nan _ => (fnan f, fsig a)
  | .inf n => if n then (fnan f, fIV) else (fsign f false, fNone)
  | .fin n m e =>
    if m == 0 then (finf f n, fDZ)
    else if n then (fnan f, fIV)
    else
      let m' := if e % 2 == 0 then m else 2 * m
      let e' := if e % 2 == 0 then e else e - 1
      let k := bitLen m' + 64
      let y := isqrt (2 ^ (2 * k) / m')
      roundSticky f mode ftz false y (-(e' / 2) - k) (y * y * m' != 2 ^ (2 * k))

/-- Fraction bits kept in the evaluation of powers. -/
def expBits : Nat := 320

/-- 2^f rounded down in units of 2^-expBits: the product of the roots 2^(2^-k) selected by the bits
of f, where f = frac / 2^len; `c` is 2^(2^-k) for the current k. -/
def expGo : Nat → Nat → Nat → Nat → Nat → Nat
  | 0, _, _, _, acc => acc
  | j + 1, frac, len, c, acc =>
    let c' := isqrt (c * 2 ^ expBits)
    let acc' := if frac / 2 ^ (len - 1) % 2 == 1 then acc * c' / 2 ^ expBits else acc
    expGo j frac (len - 1) c' acc'

/-- 2^frac/2^len for a non-zero fraction, rounded down in units of 2^-expBits. -/
def expFrac (frac len : Nat) : Nat := expGo len frac len (2 * 2 ^ expBits) (2 ^ expBits)

/-- 2^x, correctly rounded; x a multiple of 2^-len, given as floor and fraction. -/
def fexp2 (f : Fmt) (mode : Nat) (ftz : Bool) (a : FV) : Nat × NFlags :=
  match a with
  | .nan _ => (fnan f, fsig a)
  | .inf n => (if n then fsign f false else finf f false, fNone)
  | .fin n m e =>
    if m == 0 then fround f mode ftz (.fin false 1 0)
    else
      let top := (bitLen m : Int) + e
      if top > 12 then
        if n then roundSticky f mode ftz false 1 (-4096) true
        else roundMag f mode ftz false 1 4096 false
      else if 0 ≤ e then
        let i := (if n then -1 else 1) * (m : Int) * 2 ^ e.toNat
        roundMag f mode ftz false 1 i false
      else
        let len := (-e).toNat
        let x := if n then -(m : Int) else m
        let i := x / 2 ^ len
        let frac := (x % 2 ^ len).toNat
        if frac == 0 then roundMag f mode ftz false 1 i false
        else roundSticky f mode ftz false (expFrac frac len) (i - expBits) true

/-- Fraction bits of a logarithm that are formed. -/
def logBits : Nat := 240

/-- k bits of log2 y, most significant first, by repeated squaring; y in [1, 2) in units of 2^-p. -/
def logGo (p : Nat) : Nat → Nat → Nat → Nat
  | 0, _, acc => acc
  | k + 1, y, acc =>
    let z := y * y / 2 ^ p
    if z / 2 ^ (p + 1) != 0 then logGo p k (z / 2) (2 * acc + 1) else logGo p k z (2 * acc)

def flog2 (f : Fmt) (mode : Nat) (ftz : Bool) (a : FV) : Nat × NFlags :=
  match a with
  | .nan _ => (fnan f, fsig a)
  | .inf n => if n then (fnan f, fIV) else (finf f false, fNone)
  | .fin n m e =>
    if m == 0 then (finf f true, fDZ)
    else if n then (fnan f, fIV)
    else
      let l := bitLen m - 1
      let E : Int := e + l
      if m == 2 ^ l then
        if E == 0 then (fsign f false, fNone)
        else roundMag f mode ftz (E < 0) E.natAbs 0 false
      else
        let p := 2 * logBits + 64
        let F := logGo p logBits (m * 2 ^ (p - l)) 0
        if 0 ≤ E then
          roundSticky f mode ftz false (E.toNat * 2 ^ logBits + F) (-(logBits : Int)) true
        else
          roundSticky f mode ftz true ((-E).toNat * 2 ^ logBits - F - 1) (-(logBits : Int)) true

end Sys2Proof.Machine
end

