-- ==== Sys2Proof/Syntax.lean ====
section
/-! DEFINITION. The instructions and events of the KX-440: one constructor per row of the
opcode table. A syllable's constructor carries the encoded fields of its entry; the slot it
fills and its stop bit belong to the bundle (R44). An event's constructor names what it acts
on, and the outcome where the outside world decides it. -/

namespace Sys2Proof

/-- Guard field [36:32]: INV in bit 4, predicate register in bits 3..0 (R43). -/
abbrev Guard := BitVec 5

/-- Layout RR of a scalar operation (R102). -/
structure ScRR where
  g : Guard
  sd : BitVec 6
  sa : BitVec 6
  sb : BitVec 6
  deriving DecidableEq, Repr

/-- Layout RI of a scalar operation (R102). -/
structure ScRI where
  g : Guard
  sd : BitVec 6
  sa : BitVec 6
  imm : BitVec 8
  deriving DecidableEq, Repr

/-- Layout RS of a scalar operation (R102). -/
structure ScRS where
  g : Guard
  sd : BitVec 6
  sa : BitVec 6
  sh : BitVec 6
  deriving DecidableEq, Repr

/-- Layout RU of a scalar operation (R102). -/
structure ScRU where
  g : Guard
  sd : BitVec 6
  sa : BitVec 6
  deriving DecidableEq, Repr

/-- Layouts PC and PI of a comparison: the last field is SB or the immediate (R102). -/
structure ScCmp where
  g : Guard
  pd : BitVec 4
  cc : BitVec 4
  sa : BitVec 6
  sb : BitVec 6
  deriving DecidableEq, Repr

/-- Layout PP of a predicate operation (R102). -/
structure ScPP where
  g : Guard
  pd : BitVec 4
  pa : BitVec 4
  pb : BitVec 4
  deriving DecidableEq, Repr

/-- Scalar scratchpad access: SD or SS, base, size code, offset in units of the size (R141). -/
structure ScMem where
  g : Guard
  sr : BitVec 6
  sa : BitVec 6
  sz : BitVec 2
  off : BitVec 5
  deriving DecidableEq, Repr

/-- The vector syllable of opcodes 0x00..0x33 without FN (R111). -/
structure VOp where
  g : Guard
  sh : Bool
  vd : BitVec 10
  va : BitVec 10
  vb : BitVec 10
  ty : BitVec 3
  sat : Bool
  rms : BitVec 3
  deriving DecidableEq, Repr

/-- The vector scratchpad syllable of opcodes 0x38..0x3C (R142). -/
structure VMem where
  g : Guard
  sh : Bool
  vd : BitVec 10
  sa : BitVec 6
  vx : BitVec 10
  off : BitVec 16
  deriving DecidableEq, Repr

/-- A tile move between tile and scratchpad (R156, R157). -/
structure TMem where
  g : Guard
  bs : Bool
  t : BitVec 5
  sa : BitVec 6
  off : BitVec 16
  deriving DecidableEq, Repr

/-- XMV (R171). -/
structure XmvOp where
  g : Guard
  bs : Bool
  vd : BitVec 10
  va : BitVec 10
  grp : BitVec 6
  nm : BitVec 3
  sf : BitVec 6
  sx : BitVec 6
  deriving DecidableEq, Repr

/-- The common fields of a calibration operation: guard, BS, cell-address register (R196). -/
structure XOp where
  g : Guard
  bs : Bool
  sa : BitVec 6
  deriving DecidableEq, Repr

/-- The common fields of a copy-slot operation: guard, BS, first scalar source at [19:14] (R218). -/
structure DOp where
  g : Guard
  bs : Bool
  sa : BitVec 6
  deriving DecidableEq, Repr

/-- The common fields of ATOM and RED (R262). -/
structure AOp where
  g : Guard
  bs : Bool
  sa : BitVec 6
  sz : Bool
  sp : Bool
  deriving DecidableEq, Repr

/-- How a vertical-bus retrain ends (R184). -/
inductive Retrain where
  | full
  | half
  | failed
  deriving DecidableEq, Repr

/-- The fatal errors of R312. -/
inductive FatalCause where
  | management
  | dispatchMemory
  | bridgeLoss
  | temperature
  | dumpCommand
  deriving DecidableEq, Repr

/-- What a 10 µs sample measures: package power in W; in mW the power of each pair with its bank, of each
pseudo-channel and of each partition's UCIe traffic; temperatures of the banks in half degrees and of the
stacks in degrees (R318, R319). -/
structure PowerReading where
  pwr : Nat
  pair : SMap Nat
  pch : SMap Nat
  link : SMap Nat
  bankTemp : SMap Int
  stackTemp : SMap Int
  deriving DecidableEq, Repr

/-- The instructions and events: those of the table's order that programs and the device itself bring
about, then those that only the host and the surroundings do, and those without operands. -/
inductive Instr where
  /-- TMPL (R50). -/
  | tmpl (rpt : BitVec 8) (stk : BitVec 6)
  /-- SCOPE (R54). -/
  | scope (scp : BitVec 3)
  /-- BLOCK (R55). -/
  | block (len : BitVec 8)
  /-- BLOCK_LOCK_EXPIRE (R140). -/
  | blockLockExpire (site : Nat)
  /-- XIMM (R56). -/
  | ximm (tgt : BitVec 3) (x : BitVec 32)
  /-- NOP (R93). -/
  | nop (g : Guard)
  /-- HALT (R93). -/
  | halt (g : Guard)
  /-- TRAP (R294). -/
  | trap (g : Guard) (code : BitVec 8)
  /-- RFT (R294). -/
  | rft (g : Guard)
  /-- ADD (R104). -/
  | add (sat : Bool) (o : ScRR)
  /-- SUB (R104). -/
  | sub (sat : Bool) (o : ScRR)
  /-- ADDI (R104). -/
  | addi (sat : Bool) (o : ScRI)
  /-- MUL (R104). -/
  | mul (sat : Bool) (o : ScRR)
  /-- MULH (R104). -/
  | mulh (o : ScRR)
  /-- MULHU (R104). -/
  | mulhu (o : ScRR)
  /-- DIV (R104). -/
  | div (o : ScRR)
  /-- DIVU (R104). -/
  | divu (o : ScRR)
  /-- REM (R104). -/
  | rem (o : ScRR)
  /-- REMU (R104). -/
  | remu (o : ScRR)
  /-- AND (R105). -/
  | and (o : ScRR)
  /-- OR (R105). -/
  | or (o : ScRR)
  /-- XOR (R105). -/
  | xor (o : ScRR)
  /-- ANDI (R105). -/
  | andi (o : ScRI)
  /-- ORI (R105). -/
  | ori (o : ScRI)
  /-- XORI (R105). -/
  | xori (o : ScRI)
  /-- SHL (R105). -/
  | shl (o : ScRR)
  /-- SHR (R105). -/
  | shr (o : ScRR)
  /-- SRA (R105). -/
  | sra (o : ScRR)
  /-- SHLI (R105). -/
  | shli (o : ScRS)
  /-- SHRI (R105). -/
  | shri (o : ScRS)
  /-- SRAI (R105). -/
  | srai (o : ScRS)
  /-- MIN (R105). -/
  | min (o : ScRR)
  /-- MAX (R105). -/
  | max (o : ScRR)
  /-- MINU (R105). -/
  | minu (o : ScRR)
  /-- MAXU (R105). -/
  | maxu (o : ScRR)
  /-- CLZ (R105). -/
  | clz (o : ScRU)
  /-- POPC (R105). -/
  | popc (o : ScRU)
  /-- LI (R106). -/
  | li (g : Guard) (sd : BitVec 6) (imm : BitVec 14)
  /-- MOV (R106). -/
  | mov (o : ScRU)
  /-- SEL (R106). -/
  | sel (pc : BitVec 4) (o : ScRR)
  /-- CMP (R107). -/
  | cmp (o : ScCmp)
  /-- CMPI (R107). -/
  | cmpi (o : ScCmp)
  /-- PAND (R108). -/
  | pand (o : ScPP)
  /-- POR (R108). -/
  | por (o : ScPP)
  /-- PXOR (R108). -/
  | pxor (o : ScPP)
  /-- PANDN (R108). -/
  | pandn (o : ScPP)
  /-- PMOV_PP (R109). -/
  | pmovPP (g : Guard) (dst src : BitVec 6)
  /-- PMOV_PS (R109). -/
  | pmovPS (g : Guard) (dst src : BitVec 6)
  /-- PMOV_SP (R109). -/
  | pmovSP (g : Guard) (dst src : BitVec 6)
  /-- LDS (R141). -/
  | lds (o : ScMem) (u : Bool)
  /-- STS (R141). -/
  | sts (o : ScMem)
  /-- BR (R87). -/
  | br (g : Guard) (off : BitVec 20)
  /-- BRL (R87). -/
  | brl (g : Guard) (sd : BitVec 6) (off : BitVec 14)
  /-- RET (R87). -/
  | ret (g : Guard) (sa : BitVec 6)
  /-- JMP (R87). -/
  | jmp (g : Guard) (sa : BitVec 6) (off : BitVec 14)
  /-- LOOP (R89). -/
  | loop (g : Guard) (ln : BitVec 2) (blen : BitVec 12) (cnt : BitVec 16)
  /-- LOOPM (R89). -/
  | loopm (g : Guard) (ln : BitVec 2) (blen : BitVec 12) (mbi : BitVec 4)
  /-- ALIGN (R82). -/
  | align (tag : BitVec 8)
  /-- ALIGN_BARRIER_COMPLETE (R82). -/
  | alignBarrierComplete (coh : Nat)
  /-- START_ALIGNMENT (R81). -/
  | startAlignment (coh : Nat)
  /-- WAITS (R84). -/
  | waits (g : Guard) (sa : BitVec 6)
  /-- WAITX (R85). -/
  | waitx (g : Guard) (ch : BitVec 2) (sa : BitVec 6)
  /-- CYC_W (R87). -/
  | cycW (g : Guard) (sd : BitVec 6)
  /-- CYC_C (R87). -/
  | cycC (g : Guard) (sd se : BitVec 6)
  /-- CSRR (R110). -/
  | csrr (g : Guard) (sd : BitVec 6) (csr : BitVec 12)
  /-- CSRW (R110). -/
  | csrw (g : Guard) (sa : BitVec 6) (csr : BitVec 12)
  /-- MBR (R110). -/
  | mbr (g : Guard) (sd : BitVec 6) (mbi : BitVec 4)
  /-- MBW (R110). -/
  | mbw (g : Guard) (sa : BitVec 6) (mbi : BitVec 4)
  /-- RBEGIN (R302). -/
  | rbegin
  /-- RPRES (R302). -/
  | rpres (kind : BitVec 3) (first : BitVec 10) (cnt : BitVec 7)
  /-- REND (R302). -/
  | rend (sd : BitVec 6)
  /-- RFAIL (R302). -/
  | rfail (g : Guard)
  /-- FENCE (R255). -/
  | fence (g : Guard) (scp : BitVec 3)
  /-- IINV (R248). -/
  | iinv (g : Guard) (sa sb : BitVec 6)
  /-- ISYNC (R248). -/
  | isync (g : Guard)
  /-- VADD (R115). -/
  | vadd (o : VOp)
  /-- VSUB (R115). -/
  | vsub (o : VOp)
  /-- VMUL (R115). -/
  | vmul (o : VOp)
  /-- VMULH (R115). -/
  | vmulh (o : VOp) (u : Bool)
  /-- VFMA (R115). -/
  | vfma (o : VOp)
  /-- VFMS (R115). -/
  | vfms (o : VOp)
  /-- VFNMA (R115). -/
  | vfnma (o : VOp)
  /-- VMAC (R116). -/
  | vmac (o : VOp)
  /-- VMIN (R117). -/
  | vmin (o : VOp)
  /-- VMAX (R117). -/
  | vmax (o : VOp)
  /-- VMINU (R115). -/
  | vminu (o : VOp)
  /-- VMAXU (R115). -/
  | vmaxu (o : VOp)
  /-- VABS (R115). -/
  | vabs (o : VOp)
  /-- VNEG (R115). -/
  | vneg (o : VOp)
  /-- VAND (R118). -/
  | vand (o : VOp)
  /-- VOR (R118). -/
  | vor (o : VOp)
  /-- VXOR (R118). -/
  | vxor (o : VOp)
  /-- VANDN (R118). -/
  | vandn (o : VOp)
  /-- VSHL (R118). -/
  | vshl (o : VOp)
  /-- VSHL_IMM (R118). -/
  | vshlImm (o : VOp) (k : BitVec 5)
  /-- VSHR (R118). -/
  | vshr (o : VOp)
  /-- VSHR_IMM (R118). -/
  | vshrImm (o : VOp) (k : BitVec 5)
  /-- VSRA (R118). -/
  | vsra (o : VOp)
  /-- VSRA_IMM (R118). -/
  | vsraImm (o : VOp) (k : BitVec 5)
  /-- VCMP (R119). -/
  | vcmp (o : VOp) (cc : BitVec 4)
  /-- VCMP_P (R119). -/
  | vcmpP (o : VOp) (cc : BitVec 4)
  /-- VSEL (R120). -/
  | vsel (o : VOp) (ps : BitVec 4)
  /-- VMOV (R120). -/
  | vmov (o : VOp)
  /-- VBC (R120). -/
  | vbc (o : VOp) (idx : BitVec 7)
  /-- VBC_IMM (R120). -/
  | vbcImm (o : VOp) (imm : BitVec 8)
  /-- VCVT (R121). -/
  | vcvt (o : VOp) (dst src : BitVec 4)
  /-- VRED (R123). -/
  | vred (o : VOp) (op : BitVec 3)
  /-- VPERM (R124). -/
  | vperm (o : VOp)
  /-- VROT (R124). -/
  | vrot (o : VOp) (k : BitVec 7)
  /-- VSLIDE_DN (R124). -/
  | vslideDn (o : VOp) (k : BitVec 7)
  /-- VSLIDE_UP (R124). -/
  | vslideUp (o : VOp) (k : BitVec 7)
  /-- VTINT (R126). -/
  | vtint (o : VOp)
  /-- VRCP (R127). -/
  | vrcp (o : VOp)
  /-- VRSQ (R127). -/
  | vrsq (o : VOp)
  /-- VEXP2 (R127). -/
  | vexp2 (o : VOp)
  /-- VLOG2 (R127). -/
  | vlog2 (o : VOp)
  /-- VSCL (R128). -/
  | vscl (o : VOp)
  /-- VMXQ (R129). -/
  | vmxq (o : VOp) (q : BitVec 2)
  /-- VBFPQ (R130). -/
  | vbfpq (o : VOp) (n q : BitVec 4)
  /-- VDQG (R131). -/
  | vdqg (o : VOp) (gs : BitVec 3) (eb : Bool) (nm : BitVec 3) (h : Bool)
  /-- VLD (R143). -/
  | vld (o : VMem)
  /-- VST (R143). -/
  | vst (o : VMem)
  /-- VLDS (R143). -/
  | vlds (o : VMem)
  /-- VGTH (R143). -/
  | vgth (o : VMem)
  /-- VSCT (R143). -/
  | vsct (o : VMem)
  /-- TLD (R157). -/
  | tld (o : TMem)
  /-- TST (R157). -/
  | tst (o : TMem)
  /-- TST_OV (R157). -/
  | tstOV (o : TMem)
  /-- TWL (R159). -/
  | twl (g : Guard) (tw : BitVec 5)
  /-- TWL_MX (R159). -/
  | twlMx (g : Guard) (tw tsc : BitVec 5)
  /-- TMMA (R160). -/
  | tmma (g : Guard) (tc ta : BitVec 5) (asc : BitVec 6)
  /-- TMMA_MX (R160). -/
  | tmmaMx (g : Guard) (tc ta tsc : BitVec 5) (asc : BitVec 6)
  /-- KATT (R162). -/
  | katt (g : Guard) (tc ta : BitVec 5) (asc : BitVec 6)
  /-- KATT_MX (R162). -/
  | kattMx (g : Guard) (tc ta tsc : BitVec 5) (asc : BitVec 6)
  /-- TMMA_SMX (R163). -/
  | tmmaSmx (g : Guard) (tc ta tx qs : BitVec 5) (asc : BitVec 6)
  /-- TSMX_INIT (R164). -/
  | tsmxInit (g : Guard) (tx : BitVec 5)
  /-- TSMX_NORM (R164). -/
  | tsmxNorm (g : Guard) (tc tx ns : BitVec 5)
  /-- TZERO (R158). -/
  | tzero (g : Guard) (td : BitVec 5)
  /-- TMOV (R158). -/
  | tmov (g : Guard) (td ts : BitVec 5)
  /-- TTRN (R158). -/
  | ttrn (g : Guard) (td ts : BitVec 5)
  /-- XMV (R173). -/
  | xmv (o : XmvOp)
  /-- XMV_FALLBACK_END (R175). -/
  | xmvFallbackEnd (coh : Nat)
  /-- XSWAP (R177). -/
  | xswap (g : Guard) (grp : BitVec 6)
  /-- XSTAT (R178). -/
  | xstat (g : Guard) (sd : BitVec 6) (idx : BitVec 7)
  /-- XSTAT_A (R178). -/
  | xstatA (g : Guard) (sd : BitVec 6) (idx : BitVec 7)
  /-- XPROG_SET (R199). -/
  | xprogSet (o : XOp) (vm : BitVec 10) (win : BitVec 3) (amp : BitVec 4)
  /-- XPROG_RST (R199). -/
  | xprogRst (o : XOp) (vm : BitVec 10) (win : BitVec 3) (amp : BitVec 4)
  /-- XERASE (R200). -/
  | xerase (o : XOp)
  /-- XERASE_ALL (R200). -/
  | xeraseAll (o : XOp)
  /-- XREAD (R201). -/
  | xread (o : XOp) (vd : BitVec 10) (win : BitVec 3)
  /-- XREAD_E (R201). -/
  | xreadE (o : XOp) (vd ve : BitVec 10) (rs win : BitVec 3)
  /-- XREMAP (R202). -/
  | xremap (o : XOp) (spr : BitVec 4)
  /-- XDRIFT (R203). -/
  | xdrift (o : XOp) (vd : BitVec 10)
  /-- XCAL_O (R205). -/
  | xcalO (o : XOp) (vs : BitVec 10)
  /-- XCAL_G (R205). -/
  | xcalG (o : XOp) (vs : BitVec 10)
  /-- XCAL_G_C (R205). -/
  | xcalGC (o : XOp) (vs : BitVec 10) (rs : BitVec 3)
  /-- COMMIT_SWEEP_COMPLETE (R205). -/
  | commitSweepComplete (site : Nat) (arr : Nat)
  /-- XWEAR (R206). -/
  | xwear (o : XOp) (sd : BitVec 6)
  /-- PULSE_SETTLE (R199). -/
  | pulseSettle (site : Nat) (arr : Nat)
  /-- MACT (R222). -/
  | mact (o : DOp)
  /-- MPRE (R222). -/
  | mpre (o : DOp)
  /-- MPREA (R222). -/
  | mprea (o : DOp)
  /-- MRD (R222). -/
  | mrd (o : DOp) (sb : BitVec 6)
  /-- MRDA (R223). -/
  | mrda (o : DOp) (sb : BitVec 6)
  /-- MWR (R222). -/
  | mwr (o : DOp) (sb : BitVec 6)
  /-- MWRA (R223). -/
  | mwra (o : DOp) (sb : BitVec 6)
  /-- MREF (R222). -/
  | mref (o : DOp)
  /-- MREFP (R222). -/
  | mrefp (o : DOp)
  /-- MRCP (R222). -/
  | mrcp (o : DOp) (sb : BitVec 6)
  /-- MRCB_LD (R224). -/
  | mrcbLd (o : DOp) (line : BitVec 5)
  /-- MRCB_ST (R224). -/
  | mrcbSt (o : DOp) (line : BitVec 5)
  /-- MRCB_INV (R224). -/
  | mrcbInv (o : DOp) (line : BitVec 5)
  /-- MZRO (R222). -/
  | mzro (o : DOp)
  /-- GUARD_COMMAND_DRIVE (R221). -/
  | guardCommandDrive (pch : Nat)
  /-- TIMING_FAULT (R225). -/
  | timingFault (site : Nat)
  /-- AUTO_PRECHARGE (R223). -/
  | autoPrecharge (pch : Nat) (bank : Nat)
  /-- DRAM_OPERATION_COMPLETE (R222). -/
  | dramOperationComplete (pch : Nat) (bank : Nat)
  /-- DRAM_READ_LANDING (R230). -/
  | dramReadLanding (pch : Nat)
  /-- REFRESH_FRAME_BOUNDARY (R226). -/
  | refreshFrameBoundary (pch : Nat)
  /-- CUSTODIAL_REFRESH (R228). -/
  | custodialRefresh (pch : Nat)
  /-- IDLE_REFRESH (R231). -/
  | idleRefresh (pch : Nat)
  /-- PUSH (R146). -/
  | push (o : DOp) (sr : BitVec 6) (peer : BitVec 7) (sz : BitVec 2)
  /-- PULL (R146). -/
  | pull (o : DOp) (sr : BitVec 6) (peer : BitVec 7) (sz : BitVec 2)
  /-- LAYOUT (R243). -/
  | layout (o : DOp) (lyn : BitVec 4)
  /-- XFR_G (R244). -/
  | xfrG (o : DOp) (sv : BitVec 6) (lyn : BitVec 4) (ch : BitVec 2) (st : BitVec 6)
  /-- XFR_P (R244). -/
  | xfrP (o : DOp) (sv : BitVec 6) (lyn : BitVec 4) (ch : BitVec 2) (st : BitVec 6)
  /-- XFR_BEGIN (R245). -/
  | xfrBegin (site : Nat) (ch id : Nat)
  /-- XFR_COMPLETE (R245). -/
  | xfrComplete (site : Nat) (ch id : Nat)
  /-- UNTIMED_PORT_ACCESS (R139). -/
  | untimedPortAccess (site : Nat) (ch id : Nat)
  /-- ISTAGE (R247). -/
  | istage (o : DOp) (nl : BitVec 6)
  /-- DEMAND_STAGING (R246). -/
  | demandStaging (site : Nat) (line : Nat)
  /-- LINE_STAGING_COMPLETE (R246). -/
  | lineStagingComplete (site : Nat) (slot : Nat)
  /-- RETRY_ENTRY_WRITE (R239). -/
  | retryEntryWrite (part : Nat)
  /-- TLBINV_COMPLETE (R237). -/
  | tlbinvComplete (part : Nat)
  /-- ATOM_ADD (R263). -/
  | atomAdd (o : AOp) (sb sd : BitVec 6)
  /-- ATOM_SWAP (R263). -/
  | atomSwap (o : AOp) (sb sd : BitVec 6)
  /-- ATOM_CAS (R263). -/
  | atomCas (o : AOp) (sb sc sd : BitVec 6)
  /-- ATOM_AND (R263). -/
  | atomAnd (o : AOp) (sb sd : BitVec 6)
  /-- ATOM_OR (R263). -/
  | atomOr (o : AOp) (sb sd : BitVec 6)
  /-- ATOM_XOR (R263). -/
  | atomXor (o : AOp) (sb sd : BitVec 6)
  /-- ATOM_MIN (R263). -/
  | atomMin (o : AOp) (sb sd : BitVec 6)
  /-- ATOM_MAX (R263). -/
  | atomMax (o : AOp) (sb sd : BitVec 6)
  /-- ATOM_MINU (R263). -/
  | atomMinu (o : AOp) (sb sd : BitVec 6)
  /-- ATOM_MAXU (R263). -/
  | atomMaxu (o : AOp) (sb sd : BitVec 6)
  /-- ATOM_FADD (R263). -/
  | atomFadd (o : AOp) (sb sd : BitVec 6)
  /-- ATOM_LD (R263). -/
  | atomLd (o : AOp) (sd : BitVec 6)
  /-- RED_ADD (R263). -/
  | redAdd (o : AOp) (sb : BitVec 6)
  /-- RED_ST (R263). -/
  | redSt (o : AOp) (sb : BitVec 6)
  /-- RED_AND (R263). -/
  | redAnd (o : AOp) (sb : BitVec 6)
  /-- RED_OR (R263). -/
  | redOr (o : AOp) (sb : BitVec 6)
  /-- RED_XOR (R263). -/
  | redXor (o : AOp) (sb : BitVec 6)
  /-- RED_MIN (R263). -/
  | redMin (o : AOp) (sb : BitVec 6)
  /-- RED_MAX (R263). -/
  | redMax (o : AOp) (sb : BitVec 6)
  /-- RED_MINU (R263). -/
  | redMinu (o : AOp) (sb : BitVec 6)
  /-- RED_MAXU (R263). -/
  | redMaxu (o : AOp) (sb : BitVec 6)
  /-- RED_FADD (R263). -/
  | redFadd (o : AOp) (sb : BitVec 6)
  /-- ATOMIC_PERFORM (R265). -/
  | atomicPerform (site : Nat) (n : Nat)
  /-- ATOM_RETURN (R265). -/
  | atomReturn (site : Nat) (n : Nat)
  /-- TRC (R310). -/
  | trc (o : DOp) (tag : BitVec 8)
  /-- TRC_FRZ (R310). -/
  | trcFrz (o : DOp) (tag : BitVec 8)
  /-- TRACE_FREEZE (R309). -/
  | traceFreeze (site : Nat)
  /-- RESULT_LANDING (R75). -/
  | resultLanding (site : Nat)
  /-- HOLD_RELEASE (R78). -/
  | holdRelease (coh : Nat)
  /-- TRAP_HANDLER_ENTRY (R292). -/
  | trapHandlerEntry (site : Nat)
  /-- THAW (R295). -/
  | thaw (site : Nat)
  /-- REGION_ROLLBACK (R303). -/
  | regionRollback (site : Nat)
  /-- LATENCY_CLASS (R185). -/
  | latencyClass (coh : Nat)
  /-- RETRAIN_COMPLETE (R184). -/
  | retrainComplete (site : Nat) (result : Retrain)
  /-- PREEMPT (R296). -/
  | preempt (coh : Nat)
  /-- RESUME (R296). -/
  | resume (coh : Nat)
  /-- NODE_BIND (R277). -/
  | nodeBind (part : Nat) (queue node : Nat)
  /-- NODE_RETIRE (R258). -/
  | nodeRetire (coh : Nat)
  /-- NODE_REQUEUE (R306). -/
  | nodeRequeue (coh : Nat)
  /-- WDOG_TIMEOUT (R280). -/
  | wdogTimeout (coh : Nat)
  /-- EVENT_RECORD_WRITE (R282). -/
  | eventRecordWrite (part : Nat)
  /-- EVCOAL_TIMEOUT (R282). -/
  | evcoalTimeout (part : Nat)
  /-- IMAGE_LOAD_COMPLETE (R273). -/
  | imageLoadComplete (part : Nat)
  /-- SHARD_PROGRAM (R208). -/
  | shardProgram (part : Nat) (handle idx : Nat)
  /-- RECLAMATION_COMPLETE (R19). -/
  | reclamationComplete (part : Nat)
  /-- POWER_SAMPLE (R319). -/
  | powerSample (r : PowerReading)
  /-- FLR_COMPLETE (R285). -/
  | flrComplete (part : Nat)
  /-- GLINT_EVALUATION (R204). -/
  | glintEvaluation (site : Nat) (arr : Nat)
  /-- RRRESP_RETRY (R240). -/
  | rrrespRetry (part : Nat) (tag : Nat)
  /-- RRRESP_ABORT (R240). -/
  | rrrespAbort (part : Nat) (tag : Nat)
  /-- RRCNT_WRITE (R241). -/
  | rrcntWrite (part : Nat) (v : Word)
  /-- PTROOT_WRITE (R237). -/
  | ptrootWrite (part : Nat) (v : Word)
  /-- TLBINV_WRITE (R237). -/
  | tlbinvWrite (part : Nat) (v : Word)
  /-- RETRAIN_REQUEST (R184). -/
  | retrainRequest (site : Nat)
  /-- OVER_TEMPERATURE (R187). -/
  | overTemperature (site : Nat) (cls : BitVec 2)
  /-- LAUNCH_WRITE (R275). -/
  | launchWrite (part : Nat) (queue : Nat) (full : Bool) (v : Word)
  /-- QCTL_ABORT (R283). -/
  | qctlAbort (part : Nat) (queue : Nat)
  /-- QCTL_ERR_CLEAR (R276). -/
  | qctlErrClear (part : Nat) (queue : Nat)
  /-- IMGLOAD_LOAD (R273). -/
  | imgloadLoad (part : Nat) (v : Word)
  /-- IMGLOAD_UNLOAD (R273). -/
  | imgloadUnload (part : Nat) (v : Word)
  /-- PARTITION_CREATE (R18). -/
  | partitionCreate
  /-- PARTITION_RESIZE (R18). -/
  | partitionResize
  /-- PARTITION_RELEASE (R18). -/
  | partitionRelease
  /-- FUNCTION_LEVEL_RESET (R285). -/
  | functionLevelReset (part : Nat)
  /-- RRBASE_WRITE (R271). -/
  | rrbaseWrite (part : Nat) (v : Word)
  /-- EVBASE_WRITE (R271). -/
  | evbaseWrite (part : Nat) (v : Word)
  /-- EVTAIL_WRITE (R271). -/
  | evtailWrite (part : Nat) (v : Word)
  /-- SYNCWIN_READ (R260). -/
  | syncwinRead (part : Nat) (off size : Nat)
  /-- SYNCWIN_WRITE (R260). -/
  | syncwinWrite (part : Nat) (off size : Nat) (v : Word)
  /-- REGISTER_WRITE (R7). -/
  | registerWrite (fn off : Nat) (v : Word)
  /-- TRCCTL_FROZEN_CLEAR (R309). -/
  | trcctlFrozenClear (site : Nat)
  /-- TRCCOPY_WRITE (R309). -/
  | trccopyWrite (v : Word)
  /-- TRCCOPY_COMPLETE (R309). -/
  | trccopyComplete
  /-- QTRCOPY_WRITE (R313). -/
  | qtrcopyWrite (v : Word)
  /-- QTRCOPY_COMPLETE (R313). -/
  | qtrcopyComplete
  /-- ATTREQ_WRITE (R316). -/
  | attreqWrite (v : Word)
  /-- ATTESTATION_REPORT (R316). -/
  | attestationReport
  /-- DUMPCMD_GO (R312). -/
  | dumpcmdGo
  /-- FATAL_ERROR (R312). -/
  | fatalError (cause : FatalCause)
  /-- ERRINJ_WRITE (R307). -/
  | errinjWrite (v : Word)
  /-- BOOT (R314). -/
  | boot
  /-- BOOTADDR_WRITE (R314). -/
  | bootaddrWrite (v : Word)
  /-- PWRCAP_WRITE (R319). -/
  | pwrcapWrite (v : Word)
  deriving DecidableEq, Repr

end Sys2Proof
end

