-- ==== Sys2Proof/Decode.lean ====
section
/-! DEFINITION. Decoding and encoding: the fields of a syllable, the opcode map with rejection by
name, the checks of R46 and R112 on the bits of one syllable, the forming of bundles, and the
encoder. -/

namespace Sys2Proof

/-- Why the bits of a syllable are not an instruction (R46). -/
inductive Reject where
  /-- the opcode is not assigned in its class's map -/
  | unassigned
  /-- a reserved field is not zero (R7) -/
  | reserved
  /-- the width is not permitted (R41, R45) -/
  | width
  /-- a register field beyond its file (R94) -/
  | register
  /-- a rounding selector that names no mode, or where the entry rounds nothing (R24, R112) -/
  | rounding
  /-- an element type the entry does not list (R112) -/
  | type
  /-- SAT where the entry has no .SAT form (R103, R112) -/
  | saturation
  /-- any other field value that the entry lists as illegal -/
  | field
  deriving DecidableEq, Repr

/-! ## Fields -/

/-- The len bits of w from bit lo upward. -/
def fld (w lo len : Nat) : BitVec len := BitVec.ofNat len (w / 2 ^ lo)

def bit (w lo : Nat) : Bool := w / 2 ^ lo % 2 == 1

/-- Class, opcode, stop and wide bit of a header (R40). -/
def clsOf (w : Nat) : Nat := w / 2 ^ 27 % 8

def opOf (w : Nat) : Nat := w / 2 ^ 20 % 128

def stopOf (w : Nat) : Bool := bit w 31

def wideOf (w : Nat) : Bool := bit w 30

/-- The instruction, when every reserved field (lo, len) of the syllable is zero (R7). -/
def whole (w : Nat) (reserved : List (Nat × Nat)) (i : Instr) : Except Reject Instr :=
  if reserved.all (fun r => w / 2 ^ r.1 % 2 ^ r.2 == 0) then .ok i else .error .reserved

def ScRR.of (w : Nat) : ScRR :=
  { g := fld w 32 5, sd := fld w 14 6, sa := fld w 8 6, sb := fld w 2 6 }
def ScRI.of (w : Nat) : ScRI :=
  { g := fld w 32 5, sd := fld w 14 6, sa := fld w 8 6, imm := fld w 0 8 }
def ScRS.of (w : Nat) : ScRS :=
  { g := fld w 32 5, sd := fld w 14 6, sa := fld w 8 6, sh := fld w 2 6 }
def ScRU.of (w : Nat) : ScRU :=
  { g := fld w 32 5, sd := fld w 14 6, sa := fld w 8 6 }
def ScCmp.of (w : Nat) : ScCmp :=
  { g := fld w 32 5, pd := fld w 16 4, cc := fld w 12 4, sa := fld w 6 6, sb := fld w 0 6 }
def ScPP.of (w : Nat) : ScPP :=
  { g := fld w 32 5, pd := fld w 16 4, pa := fld w 12 4, pb := fld w 8 4 }
def ScMem.of (w : Nat) : ScMem :=
  { g := fld w 32 5, sr := fld w 14 6, sa := fld w 8 6, sz := fld w 6 2, off := fld w 0 5 }
def VOp.of (w : Nat) : VOp :=
  { g := fld w 32 5, sh := bit w 37, vd := fld w 10 10, va := fld w 0 10, vb := fld w 38 10,
      ty := fld w 48 3, sat := bit w 51, rms := fld w 52 3 }
def VMem.of (w : Nat) : VMem :=
  { g := fld w 32 5, sh := bit w 37, vd := fld w 10 10, sa := fld w 4 6, vx := fld w 38 10,
      off := fld w 48 16 }
def TMem.of (w : Nat) : TMem :=
  { g := fld w 32 5, bs := bit w 37, t := fld w 15 5, sa := fld w 9 6, off := fld w 48 16 }
def XmvOp.of (w : Nat) : XmvOp :=
  { g := fld w 32 5, bs := bit w 37, vd := fld w 10 10, va := fld w 0 10, grp := fld w 38 6,
      nm := fld w 44 3, sf := fld w 47 6, sx := fld w 53 6 }
def XOp.of (w : Nat) : XOp :=
  { g := fld w 32 5, bs := bit w 37, sa := fld w 4 6 }
def DOp.of (w : Nat) : DOp :=
  { g := fld w 32 5, bs := bit w 37, sa := fld w 14 6 }
def AOp.of (w : Nat) : AOp :=
  { g := fld w 32 5, bs := bit w 37, sa := fld w 14 6, sz := bit w 3, sp := bit w 2 }

/-! ## The opcode map -/

/-- The TM map (R58). -/
def decodeTm (w : Nat) : Except Reject Instr :=
  match opOf w with
  | 0x00 => whole w [(0, 6), (32, 32)]
      (.tmpl (fld w 12 8) (fld w 6 6))
  | _ => .error .unassigned

/-- The PF map (R58). -/
def decodePf (w : Nat) : Except Reject Instr :=
  match opOf w with
  | 0x00 => whole w [(0, 17), (32, 32)]
      (.scope (fld w 17 3))
  | 0x01 => whole w [(0, 12), (32, 32)]
      (.block (fld w 12 8))
  | 0x02 => whole w [(0, 17)]
      (.ximm (fld w 17 3) (fld w 32 32))
  | _ => .error .unassigned

/-- The SC map (R59). -/
def decodeSc (w : Nat) : Except Reject Instr :=
  match opOf w with
  | 0x00 => whole w [(0, 20), (37, 27)]
      (.nop (fld w 32 5))
  | 0x01 => whole w [(0, 20), (37, 27)]
      (.halt (fld w 32 5))
  | 0x02 => whole w [(0, 12), (37, 27)]
      (.trap (fld w 32 5) (fld w 12 8))
  | 0x03 => whole w [(0, 20), (37, 27)]
      (.rft (fld w 32 5))
  | 0x08 => whole w [(0, 2), (38, 26)]
      (.add (bit w 37) (ScRR.of w))
  | 0x09 => whole w [(0, 2), (38, 26)]
      (.sub (bit w 37) (ScRR.of w))
  | 0x0A => whole w [(38, 26)]
      (.addi (bit w 37) (ScRI.of w))
  | 0x0B => whole w [(0, 2), (38, 26)]
      (.mul (bit w 37) (ScRR.of w))
  | 0x0C => whole w [(0, 2), (37, 27)]
      (.mulh (ScRR.of w))
  | 0x0D => whole w [(0, 2), (37, 27)]
      (.mulhu (ScRR.of w))
  | 0x0E => whole w [(0, 2), (37, 27)]
      (.div (ScRR.of w))
  | 0x0F => whole w [(0, 2), (37, 27)]
      (.divu (ScRR.of w))
  | 0x10 => whole w [(0, 2), (37, 27)]
      (.rem (ScRR.of w))
  | 0x11 => whole w [(0, 2), (37, 27)]
      (.remu (ScRR.of w))
  | 0x12 => whole w [(0, 2), (37, 27)]
      (.and (ScRR.of w))
  | 0x13 => whole w [(0, 2), (37, 27)]
      (.or (ScRR.of w))
  | 0x14 => whole w [(0, 2), (37, 27)]
      (.xor (ScRR.of w))
  | 0x15 => whole w [(37, 27)]
      (.andi (ScRI.of w))
  | 0x16 => whole w [(37, 27)]
      (.ori (ScRI.of w))
  | 0x17 => whole w [(37, 27)]
      (.xori (ScRI.of w))
  | 0x18 => whole w [(0, 2), (37, 27)]
      (.shl (ScRR.of w))
  | 0x19 => whole w [(0, 2), (37, 27)]
      (.shr (ScRR.of w))
  | 0x1A => whole w [(0, 2), (37, 27)]
      (.sra (ScRR.of w))
  | 0x1B => whole w [(0, 2), (37, 27)]
      (.shli (ScRS.of w))
  | 0x1C => whole w [(0, 2), (37, 27)]
      (.shri (ScRS.of w))
  | 0x1D => whole w [(0, 2), (37, 27)]
      (.srai (ScRS.of w))
  | 0x1E => whole w [(0, 2), (37, 27)]
      (.min (ScRR.of w))
  | 0x1F => whole w [(0, 2), (37, 27)]
      (.max (ScRR.of w))
  | 0x20 => whole w [(0, 2), (37, 27)]
      (.minu (ScRR.of w))
  | 0x21 => whole w [(0, 2), (37, 27)]
      (.maxu (ScRR.of w))
  | 0x22 => whole w [(0, 8), (37, 27)]
      (.clz (ScRU.of w))
  | 0x23 => whole w [(0, 8), (37, 27)]
      (.popc (ScRU.of w))
  | 0x24 => whole w [(37, 27)]
      (.li (fld w 32 5) (fld w 14 6) (fld w 0 14))
  | 0x25 => whole w [(0, 8), (37, 27)]
      (.mov (ScRU.of w))
  | 0x26 => whole w [(0, 2), (37, 1), (42, 22)]
      (.sel (fld w 38 4) (ScRR.of w))
  | 0x28 => whole w [(37, 27)]
      (.cmp (ScCmp.of w))
  | 0x29 => whole w [(37, 27)]
      (.cmpi (ScCmp.of w))
  | 0x2A => whole w [(0, 8), (37, 27)]
      (.pand (ScPP.of w))
  | 0x2B => whole w [(0, 8), (37, 27)]
      (.por (ScPP.of w))
  | 0x2C => whole w [(0, 8), (37, 27)]
      (.pxor (ScPP.of w))
  | 0x2D => whole w [(0, 8), (37, 27)]
      (.pandn (ScPP.of w))
  | 0x2E =>
    match w / 2 ^ 18 % 4 with
    | 0 => whole w [(0, 6), (37, 27)]
        (.pmovPP (fld w 32 5) (fld w 12 6) (fld w 6 6))
    | 1 => whole w [(0, 6), (37, 27)]
        (.pmovPS (fld w 32 5) (fld w 12 6) (fld w 6 6))
    | 2 => whole w [(0, 6), (37, 27)]
        (.pmovSP (fld w 32 5) (fld w 12 6) (fld w 6 6))
    | _ => .error .field
  | 0x30 => whole w [(37, 27)]
      (.lds (ScMem.of w) (bit w 5))
  | 0x31 => whole w [(5, 1), (37, 27)]
      (.sts (ScMem.of w))
  | 0x38 => whole w [(37, 27)]
      (.br (fld w 32 5) (fld w 0 20))
  | 0x39 => whole w [(37, 27)]
      (.brl (fld w 32 5) (fld w 14 6) (fld w 0 14))
  | 0x3A => whole w [(0, 14), (37, 27)]
      (.ret (fld w 32 5) (fld w 14 6))
  | 0x3B => whole w [(37, 27)]
      (.jmp (fld w 32 5) (fld w 14 6) (fld w 0 14))
  | 0x3C => whole w [(0, 6), (37, 11)]
      (.loop (fld w 32 5) (fld w 18 2) (fld w 6 12) (fld w 48 16))
  | 0x3D => whole w [(0, 2), (37, 27)]
      (.loopm (fld w 32 5) (fld w 18 2) (fld w 6 12) (fld w 2 4))
  | 0x3E => whole w [(0, 12), (32, 32)]
      (.align (fld w 12 8))
  | 0x40 => whole w [(0, 14), (37, 27)]
      (.waits (fld w 32 5) (fld w 14 6))
  | 0x41 => whole w [(0, 12), (37, 27)]
      (.waitx (fld w 32 5) (fld w 18 2) (fld w 12 6))
  | 0x42 => whole w [(0, 14), (37, 27)]
      (.cycW (fld w 32 5) (fld w 14 6))
  | 0x43 => whole w [(0, 8), (37, 27)]
      (.cycC (fld w 32 5) (fld w 14 6) (fld w 8 6))
  | 0x44 => whole w [(12, 2), (37, 27)]
      (.csrr (fld w 32 5) (fld w 14 6) (fld w 0 12))
  | 0x45 => whole w [(12, 2), (37, 27)]
      (.csrw (fld w 32 5) (fld w 14 6) (fld w 0 12))
  | 0x46 => whole w [(4, 10), (37, 27)]
      (.mbr (fld w 32 5) (fld w 14 6) (fld w 0 4))
  | 0x47 => whole w [(4, 10), (37, 27)]
      (.mbw (fld w 32 5) (fld w 14 6) (fld w 0 4))
  | 0x48 => whole w [(0, 20), (32, 32)]
      (.rbegin)
  | 0x49 => whole w [(32, 32)]
      (.rpres (fld w 17 3) (fld w 7 10) (fld w 0 7))
  | 0x4A => whole w [(0, 14), (32, 32)]
      (.rend (fld w 14 6))
  | 0x4B => whole w [(0, 20), (37, 27)]
      (.rfail (fld w 32 5))
  | 0x4C => whole w [(0, 17), (37, 27)]
      (.fence (fld w 32 5) (fld w 17 3))
  | 0x4D => whole w [(0, 2), (14, 6), (37, 27)]
      (.iinv (fld w 32 5) (fld w 8 6) (fld w 2 6))
  | 0x4E => whole w [(0, 20), (37, 27)]
      (.isync (fld w 32 5))
  | _ => .error .unassigned

/-- The VA and VB map (R60). -/
def decodeV (w : Nat) : Except Reject Instr :=
  match opOf w with
  | 0x00 => whole w [(55, 9)]
      (.vadd (VOp.of w))
  | 0x01 => whole w [(55, 9)]
      (.vsub (VOp.of w))
  | 0x02 => whole w [(55, 9)]
      (.vmul (VOp.of w))
  | 0x03 => whole w [(56, 8)]
      (.vmulh (VOp.of w) (bit w 55))
  | 0x04 => whole w [(55, 9)]
      (.vfma (VOp.of w))
  | 0x05 => whole w [(55, 9)]
      (.vfms (VOp.of w))
  | 0x06 => whole w [(55, 9)]
      (.vfnma (VOp.of w))
  | 0x07 => whole w [(55, 9)]
      (.vmac (VOp.of w))
  | 0x08 => whole w [(55, 9)]
      (.vmin (VOp.of w))
  | 0x09 => whole w [(55, 9)]
      (.vmax (VOp.of w))
  | 0x0A => whole w [(55, 9)]
      (.vminu (VOp.of w))
  | 0x0B => whole w [(55, 9)]
      (.vmaxu (VOp.of w))
  | 0x0C => whole w [(55, 9)]
      (.vabs (VOp.of w))
  | 0x0D => whole w [(55, 9)]
      (.vneg (VOp.of w))
  | 0x10 => whole w [(55, 9)]
      (.vand (VOp.of w))
  | 0x11 => whole w [(55, 9)]
      (.vor (VOp.of w))
  | 0x12 => whole w [(55, 9)]
      (.vxor (VOp.of w))
  | 0x13 => whole w [(55, 9)]
      (.vandn (VOp.of w))
  | 0x14 =>
    match w / 2 ^ 63 % 2 with
    | 0 => whole w [(55, 8)]
        (.vshl (VOp.of w))
    | _ => whole w [(60, 3)]
        (.vshlImm (VOp.of w) (fld w 55 5))
  | 0x15 =>
    match w / 2 ^ 63 % 2 with
    | 0 => whole w [(55, 8)]
        (.vshr (VOp.of w))
    | _ => whole w [(60, 3)]
        (.vshrImm (VOp.of w) (fld w 55 5))
  | 0x16 =>
    match w / 2 ^ 63 % 2 with
    | 0 => whole w [(55, 8)]
        (.vsra (VOp.of w))
    | _ => whole w [(60, 3)]
        (.vsraImm (VOp.of w) (fld w 55 5))
  | 0x18 =>
    match w / 2 ^ 63 % 2 with
    | 0 => whole w [(59, 4)]
        (.vcmp (VOp.of w) (fld w 55 4))
    | _ => whole w [(59, 4)]
        (.vcmpP (VOp.of w) (fld w 55 4))
  | 0x19 => whole w [(59, 5)]
      (.vsel (VOp.of w) (fld w 55 4))
  | 0x1A => whole w [(55, 9)]
      (.vmov (VOp.of w))
  | 0x1B =>
    match w / 2 ^ 63 % 2 with
    | 0 => whole w [(62, 1)]
        (.vbc (VOp.of w) (fld w 55 7))
    | _ => whole w []
        (.vbcImm (VOp.of w) (fld w 55 8))
  | 0x1C => whole w [(63, 1)]
      (.vcvt (VOp.of w) (fld w 55 4) (fld w 59 4))
  | 0x1D => whole w [(58, 6)]
      (.vred (VOp.of w) (fld w 55 3))
  | 0x20 => whole w [(55, 9)]
      (.vperm (VOp.of w))
  | 0x21 => whole w [(62, 2)]
      (.vrot (VOp.of w) (fld w 55 7))
  | 0x22 =>
    match w / 2 ^ 62 % 2 with
    | 0 => whole w [(63, 1)]
        (.vslideDn (VOp.of w) (fld w 55 7))
    | _ => whole w [(63, 1)]
        (.vslideUp (VOp.of w) (fld w 55 7))
  | 0x24 => whole w [(55, 9)]
      (.vtint (VOp.of w))
  | 0x25 => whole w [(55, 9)]
      (.vrcp (VOp.of w))
  | 0x26 => whole w [(55, 9)]
      (.vrsq (VOp.of w))
  | 0x27 => whole w [(55, 9)]
      (.vexp2 (VOp.of w))
  | 0x28 => whole w [(55, 9)]
      (.vlog2 (VOp.of w))
  | 0x30 => whole w [(55, 9)]
      (.vscl (VOp.of w))
  | 0x31 => whole w [(57, 7)]
      (.vmxq (VOp.of w) (fld w 55 2))
  | 0x32 => whole w [(63, 1)]
      (.vbfpq (VOp.of w) (fld w 55 4) (fld w 59 4))
  | 0x33 => whole w [(63, 1)]
      (.vdqg (VOp.of w) (fld w 55 3) (bit w 58) (fld w 59 3) (bit w 62))
  | 0x38 => whole w [(0, 4)]
      (.vld (VMem.of w))
  | 0x39 => whole w [(0, 4)]
      (.vst (VMem.of w))
  | 0x3A => whole w [(0, 4)]
      (.vlds (VMem.of w))
  | 0x3B => whole w [(0, 4)]
      (.vgth (VMem.of w))
  | 0x3C => whole w [(0, 4)]
      (.vsct (VMem.of w))
  | _ => .error .unassigned

/-- The MT map (R61). -/
def decodeMt (w : Nat) : Except Reject Instr :=
  match opOf w with
  | 0x00 => whole w [(0, 9), (38, 10)]
      (.tld (TMem.of w))
  | 0x01 =>
    match w / 2 ^ 38 % 2 with
    | 0 => whole w [(0, 9), (39, 9)]
        (.tst (TMem.of w))
    | _ => whole w [(0, 9), (39, 9)]
        (.tstOV (TMem.of w))
  | 0x02 =>
    match w / 2 ^ 9 % 2 with
    | 0 => whole w [(0, 9), (10, 5), (37, 27)]
        (.twl (fld w 32 5) (fld w 15 5))
    | _ => whole w [(0, 9), (37, 27)]
        (.twlMx (fld w 32 5) (fld w 15 5) (fld w 10 5))
  | 0x03 =>
    match w / 2 ^ 4 % 2 with
    | 0 => whole w [(0, 4), (5, 5), (37, 1), (44, 20)]
        (.tmma (fld w 32 5) (fld w 15 5) (fld w 10 5) (fld w 38 6))
    | _ => whole w [(0, 4), (37, 1), (44, 20)]
        (.tmmaMx (fld w 32 5) (fld w 15 5) (fld w 10 5) (fld w 5 5) (fld w 38 6))
  | 0x04 => whole w [(0, 5), (37, 1), (49, 15)]
      (.tmmaSmx (fld w 32 5) (fld w 15 5) (fld w 10 5) (fld w 5 5) (fld w 44 5) (fld w 38 6))
  | 0x05 =>
    match w / 2 ^ 9 % 2 with
    | 0 => whole w [(0, 9), (15, 5), (37, 27)]
        (.tsmxInit (fld w 32 5) (fld w 10 5))
    | _ => whole w [(0, 9), (37, 1), (43, 21)]
        (.tsmxNorm (fld w 32 5) (fld w 15 5) (fld w 10 5) (fld w 38 5))
  | 0x06 => whole w [(0, 15), (37, 27)]
      (.tzero (fld w 32 5) (fld w 15 5))
  | 0x07 => whole w [(0, 10), (37, 27)]
      (.tmov (fld w 32 5) (fld w 15 5) (fld w 10 5))
  | 0x08 => whole w [(0, 10), (37, 27)]
      (.ttrn (fld w 32 5) (fld w 15 5) (fld w 10 5))
  | 0x09 =>
    match w / 2 ^ 4 % 2 with
    | 0 => whole w [(0, 4), (5, 5), (37, 1), (44, 20)]
        (.katt (fld w 32 5) (fld w 15 5) (fld w 10 5) (fld w 38 6))
    | _ => whole w [(0, 4), (37, 1), (44, 20)]
        (.kattMx (fld w 32 5) (fld w 15 5) (fld w 10 5) (fld w 5 5) (fld w 38 6))
  | 0x10 => whole w [(59, 5)]
      (.xmv (XmvOp.of w))
  | 0x11 => whole w [(0, 14), (37, 27)]
      (.xswap (fld w 32 5) (fld w 14 6))
  | 0x12 =>
    match w / 2 ^ 13 % 2 with
    | 0 => whole w [(0, 6), (37, 27)]
        (.xstat (fld w 32 5) (fld w 14 6) (fld w 6 7))
    | _ => whole w [(0, 6), (37, 27)]
        (.xstatA (fld w 32 5) (fld w 14 6) (fld w 6 7))
  | 0x13 =>
    match w / 2 ^ 41 % 2 with
    | 0 => whole w [(0, 4), (46, 18)]
        (.xprogSet (XOp.of w) (fld w 10 10) (fld w 38 3) (fld w 42 4))
    | _ => whole w [(0, 4), (46, 18)]
        (.xprogRst (XOp.of w) (fld w 10 10) (fld w 38 3) (fld w 42 4))
  | 0x14 =>
    match w / 2 ^ 41 % 2 with
    | 0 => whole w [(0, 4), (42, 22)]
        (.xread (XOp.of w) (fld w 10 10) (fld w 38 3))
    | _ => whole w [(0, 4), (55, 9)]
        (.xreadE (XOp.of w) (fld w 10 10) (fld w 45 10) (fld w 42 3) (fld w 38 3))
  | 0x15 => whole w [(0, 4), (14, 6), (38, 26)]
      (.xremap (XOp.of w) (fld w 10 4))
  | 0x16 => whole w [(0, 4), (38, 26)]
      (.xdrift (XOp.of w) (fld w 10 10))
  | 0x17 => whole w [(0, 4), (38, 26)]
      (.xcalO (XOp.of w) (fld w 10 10))
  | 0x18 =>
    match w / 2 ^ 38 % 2 with
    | 0 => whole w [(0, 4), (39, 25)]
        (.xcalG (XOp.of w) (fld w 10 10))
    | _ => whole w [(0, 4), (42, 22)]
        (.xcalGC (XOp.of w) (fld w 10 10) (fld w 39 3))
  | 0x19 =>
    match w / 2 ^ 38 % 2 with
    | 0 => whole w [(0, 4), (10, 10), (39, 25)]
        (.xerase (XOp.of w))
    | _ => whole w [(0, 4), (10, 10), (39, 25)]
        (.xeraseAll (XOp.of w))
  | 0x1A => whole w [(0, 4), (10, 4), (38, 26)]
      (.xwear (XOp.of w) (fld w 14 6))
  | _ => .error .unassigned

/-- The CA and CB map (R62). -/
def decodeC (w : Nat) : Except Reject Instr :=
  match opOf w with
  | 0x00 => whole w [(0, 14), (38, 26)]
      (.mact (DOp.of w))
  | 0x01 => whole w [(0, 14), (38, 26)]
      (.mpre (DOp.of w))
  | 0x02 => whole w [(0, 14), (38, 26)]
      (.mprea (DOp.of w))
  | 0x03 => whole w [(0, 8), (38, 26)]
      (.mrd (DOp.of w) (fld w 8 6))
  | 0x04 => whole w [(0, 8), (38, 26)]
      (.mwr (DOp.of w) (fld w 8 6))
  | 0x05 => whole w [(0, 8), (38, 26)]
      (.mrda (DOp.of w) (fld w 8 6))
  | 0x06 => whole w [(0, 8), (38, 26)]
      (.mwra (DOp.of w) (fld w 8 6))
  | 0x07 => whole w [(0, 14), (38, 26)]
      (.mref (DOp.of w))
  | 0x08 => whole w [(0, 14), (38, 26)]
      (.mrefp (DOp.of w))
  | 0x09 => whole w [(0, 8), (38, 26)]
      (.mrcp (DOp.of w) (fld w 8 6))
  | 0x0A =>
    match w / 2 ^ 6 % 4 with
    | 0 => whole w [(5, 1), (8, 6), (38, 26)]
        (.mrcbLd (DOp.of w) (fld w 0 5))
    | 1 => whole w [(5, 1), (8, 6), (38, 26)]
        (.mrcbSt (DOp.of w) (fld w 0 5))
    | 2 => whole w [(5, 1), (8, 6), (38, 26)]
        (.mrcbInv (DOp.of w) (fld w 0 5))
    | _ => .error .field
  | 0x0B => whole w [(0, 14), (38, 26)]
      (.mzro (DOp.of w))
  | 0x10 => whole w [(0, 1), (40, 24)]
      (.push (DOp.of w) (fld w 8 6) (fld w 1 7) (fld w 38 2))
  | 0x11 => whole w [(0, 1), (40, 24)]
      (.pull (DOp.of w) (fld w 8 6) (fld w 1 7) (fld w 38 2))
  | 0x12 => whole w [(4, 10), (38, 26)]
      (.layout (DOp.of w) (fld w 0 4))
  | 0x14 => whole w [(0, 2), (44, 20)]
      (.xfrG (DOp.of w) (fld w 8 6) (fld w 4 4) (fld w 2 2) (fld w 38 6))
  | 0x15 => whole w [(0, 2), (44, 20)]
      (.xfrP (DOp.of w) (fld w 8 6) (fld w 4 4) (fld w 2 2) (fld w 38 6))
  | 0x16 =>
    match w / 2 ^ 4 % 16 with
    | 0 => whole w [(0, 2), (44, 20)]
        (.atomAdd (AOp.of w) (fld w 8 6) (fld w 38 6))
    | 1 => whole w [(0, 2), (44, 20)]
        (.atomSwap (AOp.of w) (fld w 8 6) (fld w 38 6))
    | 2 => whole w [(0, 2), (50, 14)]
        (.atomCas (AOp.of w) (fld w 8 6) (fld w 44 6) (fld w 38 6))
    | 3 => whole w [(0, 2), (44, 20)]
        (.atomAnd (AOp.of w) (fld w 8 6) (fld w 38 6))
    | 4 => whole w [(0, 2), (44, 20)]
        (.atomOr (AOp.of w) (fld w 8 6) (fld w 38 6))
    | 5 => whole w [(0, 2), (44, 20)]
        (.atomXor (AOp.of w) (fld w 8 6) (fld w 38 6))
    | 6 => whole w [(0, 2), (44, 20)]
        (.atomMin (AOp.of w) (fld w 8 6) (fld w 38 6))
    | 7 => whole w [(0, 2), (44, 20)]
        (.atomMax (AOp.of w) (fld w 8 6) (fld w 38 6))
    | 8 => whole w [(0, 2), (44, 20)]
        (.atomMinu (AOp.of w) (fld w 8 6) (fld w 38 6))
    | 9 => whole w [(0, 2), (44, 20)]
        (.atomMaxu (AOp.of w) (fld w 8 6) (fld w 38 6))
    | 10 => whole w [(0, 2), (44, 20)]
        (.atomFadd (AOp.of w) (fld w 8 6) (fld w 38 6))
    | 11 => whole w [(0, 2), (8, 6), (44, 20)]
        (.atomLd (AOp.of w) (fld w 38 6))
    | _ => .error .field
  | 0x17 =>
    match w / 2 ^ 4 % 16 with
    | 0 => whole w [(0, 2), (38, 26)]
        (.redAdd (AOp.of w) (fld w 8 6))
    | 1 => whole w [(0, 2), (38, 26)]
        (.redSt (AOp.of w) (fld w 8 6))
    | 3 => whole w [(0, 2), (38, 26)]
        (.redAnd (AOp.of w) (fld w 8 6))
    | 4 => whole w [(0, 2), (38, 26)]
        (.redOr (AOp.of w) (fld w 8 6))
    | 5 => whole w [(0, 2), (38, 26)]
        (.redXor (AOp.of w) (fld w 8 6))
    | 6 => whole w [(0, 2), (38, 26)]
        (.redMin (AOp.of w) (fld w 8 6))
    | 7 => whole w [(0, 2), (38, 26)]
        (.redMax (AOp.of w) (fld w 8 6))
    | 8 => whole w [(0, 2), (38, 26)]
        (.redMinu (AOp.of w) (fld w 8 6))
    | 9 => whole w [(0, 2), (38, 26)]
        (.redMaxu (AOp.of w) (fld w 8 6))
    | 10 => whole w [(0, 2), (38, 26)]
        (.redFadd (AOp.of w) (fld w 8 6))
    | _ => .error .field
  | 0x18 => whole w [(6, 8), (38, 26)]
      (.istage (DOp.of w) (fld w 0 6))
  | 0x19 =>
    match w / 2 ^ 3 % 2 with
    | 0 => whole w [(0, 3), (12, 2), (38, 26)]
        (.trc (DOp.of w) (fld w 4 8))
    | _ => whole w [(0, 3), (12, 2), (38, 26)]
        (.trcFrz (DOp.of w) (fld w 4 8))
  | _ => .error .unassigned

/-! ## Field values an entry lists as illegal -/

/-- What a vector entry permits (R112): types, types with .SAT, types that round, VA a source, and
the use of VB: 0 reserved, 1 source, 2 destination, 3 the broadcast port. -/
structure VRule where
  ty : List Nat
  sat : List Nat
  rms : List Nat
  va : Bool
  vb : Nat
  vd : Bool

/-- A vector source is V0..V639 or B (R94). -/
def vsrcOk (r : BitVec 10) : Bool := r.toNat < 640 || r.toNat == 0x3FF

def vdstOk (r : BitVec 10) : Bool := r.toNat < 640

/-- The checks of R112 against an entry's rule. -/
def vcheck (k : VRule) (o : VOp) : Option Reject :=
  if o.rms.toNat != 0 && o.rms.toNat < 4 then some .rounding
  else if !k.ty.contains o.ty.toNat then some .type
  else if o.sat && !k.sat.contains o.ty.toNat then some .saturation
  else if o.rms != 0 && !k.rms.contains o.ty.toNat then some .rounding
  else if k.vd && !vdstOk o.vd then some .register
  else if !(if k.va then vsrcOk o.va else o.va == 0) then some .register
  else if k.vb == 0 && o.vb != 0 then some .reserved
  else if k.vb == 1 && !vsrcOk o.vb then some .register
  else if k.vb == 2 && !vdstOk o.vb then some .register
  else if k.vb == 3 && o.vb != 0x3FF then some .field
  else none

/-- One more condition on a field. -/
def also (a : Option Reject) (r : Reject) (ok : Bool) : Option Reject :=
  match a with
  | some x => some x
  | none => if ok then none else some r

/-- Assigned control-register numbers (R95, R181, R195). -/
def csrAssigned (csr : BitVec 12) : Bool :=
  [(0x001, 0x004), (0x010, 0x010), (0x021, 0x026), (0x030, 0x033), (0x040, 0x087), (0x090, 0x09F),
   (0x100, 0x184), (0x190, 0x197)].any fun (a, b) => a ≤ csr.toNat && csr.toNat ≤ b

/-- Numbers that CSRW may write; writes of the read-only 0x194..0x197 are ignored (R95, R96,
    R195). -/
def csrWritable (csr : BitVec 12) : Bool :=
  [(0x001, 0x002), (0x010, 0x010), (0x021, 0x026), (0x040, 0x05F), (0x140, 0x183),
   (0x190, 0x197)].any fun (a, b) => a ≤ csr.toNat && csr.toNat ≤ b

def tyAll : List Nat := [0, 1, 2, 3, 4, 5]
def tyFloat : List Nat := [0, 1, 2]
def tyInt : List Nat := [3, 4, 5]

/-- Element width of a type code (R112). -/
def tyWidth (ty : BitVec 3) : Nat :=
  match ty.toNat with
  | 0 => 32 | 5 => 32 | 1 => 16 | 2 => 16 | 4 => 16 | _ => 8

/-- Elements per register of a type (R20). -/
def tyElems (ty : BitVec 3) : Nat := 1024 / tyWidth ty

/-- Width of a VCVT code in bits (R121). -/
def cvtWidth (c : BitVec 4) : Nat :=
  match c.toNat with
  | 0 => 32 | 5 => 32 | 8 => 32 | 1 => 16 | 2 => 16 | 4 => 16 | 7 => 16 | 10 => 16 | _ => 8

/-- Conversions with .SAT, and whether the pair is assigned, rounds, by code (R121). -/
def cvtFloat (c : BitVec 4) : Bool := c.toNat ≤ 2
def cvtInt (c : BitVec 4) : Bool := 3 ≤ c.toNat && c.toNat ≤ 8

def cvtPair (dst src : BitVec 4) : Bool :=
  src != dst &&
    ((cvtFloat src || cvtInt src) && (cvtFloat dst || cvtInt dst) ||
      src == 3 && dst == 9 || src == 9 && dst == 3 || src == 3 && dst == 10 ||
      src == 10 && dst == 4)

/-- VCVT's TY field holds Q (R121, R122). -/
def vcvtCheck (o : VOp) (dst src : BitVec 4) : Option Reject :=
  let rounds := cvtPair dst src && dst.toNat ≤ 8 && src.toNat ≤ 8 && (cvtFloat dst || cvtFloat src)
  let sats := cvtInt dst && (cvtFloat src || cvtInt src)
  let wd := cvtWidth dst
  let ws := cvtWidth src
  let k := if wd < ws then ws / wd else wd / ws
  if !cvtPair dst src then some .field
  else if o.ty.toNat ≥ 4 then some .reserved
  else if o.ty.toNat ≥ k then some .field
  else if o.sat && !sats then some .saturation
  else if o.rms != 0 && (!rounds || o.rms.toNat < 4) then some .rounding
  else if !vdstOk o.vd || !vsrcOk o.va then some .register
  else if o.vb != 0 then some .reserved
  else none

/-- Slots of BFP-n in one register (R33). -/
def bfpSlots (n : Nat) : Nat := if n == 2 then 16 else if n ≤ 4 then 8 else 4

/-- Loads and gathers (true) write VD; stores read it; `x` says how VX is used: 0 reserved, 1 a
vector source, 2 a stride (R142, R144). -/
def vmemCheck (load : Bool) (x : Nat) (o : VMem) : Option Reject :=
  if load && !vdstOk o.vd then some .register
  else if !load && !vsrcOk o.vd then some .register
  else if x == 0 && o.vx != 0 then some .reserved
  else if x == 1 && !vsrcOk o.vx then some .register
  else none

def reg (r : BitVec 10) : Option Reject := also none .register (vdstOk r)

/-- SP = 0 outside ADD, SWAP, CAS and LD, or a 64-bit FADD (R263). -/
def atomCheck (svm fadd : Bool) (o : AOp) : Option Reject :=
  if !svm && !o.sp then some .field else if fadd && o.sz then some .field else none

def fusedRule : VRule :=
  { ty := tyFloat, sat := [], rms := tyFloat, va := true, vb := 1, vd := true }
def arithRule : VRule :=
  { ty := tyAll, sat := tyInt, rms := tyFloat, va := true, vb := 1, vd := true }
def plainRule : VRule :=
  { ty := tyAll, sat := [], rms := [], va := true, vb := 1, vd := true }
def intRule : VRule :=
  { ty := tyInt, sat := [], rms := [], va := true, vb := 1, vd := true }
def logicRule : VRule :=
  { ty := [0], sat := [], rms := [], va := true, vb := 1, vd := true }
def funcRule : VRule :=
  { ty := tyFloat, sat := [], rms := tyFloat, va := true, vb := 0, vd := true }
def quantRule : VRule :=
  { ty := [0, 1], sat := [], rms := [0, 1], va := true, vb := 2, vd := true }

/-- VCMP's conditions by type (R119). -/
def vcmpCc (o : VOp) (cc : BitVec 4) : Bool :=
  let c := cc.toNat
  if c == 4 || c == 5 || c == 8 || c == 9 then tyInt.contains o.ty.toNat
  else if c == 10 || c == 11 then tyFloat.contains o.ty.toNat
  else c < 12

/-- The field values that the entries list as illegal; none: the syllable is an instruction. The
events have no syllable and are rejected. A field that an entry gives no use is reserved (DEDUCED, log 55). -/
def legal (i : Instr) : Option Reject :=
  match i with
  | .tmpl _ _ => none
  | .scope scp => also none .field (scp.toNat < 5)
  | .block len => also none .field (len != 0)
  | .blockLockExpire _ => some .field
  | .ximm tgt _ => also none .field (2 ≤ tgt.toNat)
  | .nop _ => none
  | .halt _ => none
  | .trap _ _ => none
  | .rft _ => none
  | .add _ _ => none
  | .sub _ _ => none
  | .addi _ _ => none
  | .mul _ _ => none
  | .mulh _ => none
  | .mulhu _ => none
  | .div _ => none
  | .divu _ => none
  | .rem _ => none
  | .remu _ => none
  | .and _ => none
  | .or _ => none
  | .xor _ => none
  | .andi _ => none
  | .ori _ => none
  | .xori _ => none
  | .shl _ => none
  | .shr _ => none
  | .sra _ => none
  | .shli _ => none
  | .shri _ => none
  | .srai _ => none
  | .min _ => none
  | .max _ => none
  | .minu _ => none
  | .maxu _ => none
  | .clz _ => none
  | .popc _ => none
  | .li _ _ _ => none
  | .mov _ => none
  | .sel _ _ => none
  | .cmp o => also none .field (o.cc.toNat < 12)
  | .cmpi o => also none .field (o.cc.toNat < 12)
  | .pand _ => none
  | .por _ => none
  | .pxor _ => none
  | .pandn _ => none
  | .pmovPP _ dst src => also none .register (dst.toNat < 16 && src.toNat < 16)
  | .pmovPS _ dst _ => also none .register (dst.toNat < 16)
  | .pmovSP _ _ src => also none .register (src.toNat < 16)
  | .lds _ _ => none
  | .sts _ => none
  | .br _ _ => none
  | .brl _ _ _ => none
  | .ret _ _ => none
  | .jmp _ _ _ => none
  | .loop _ _ blen _ => also none .field (blen != 0)
  | .loopm _ _ blen _ => also none .field (blen != 0)
  | .align _ => none
  | .alignBarrierComplete _ => some .field
  | .startAlignment _ => some .field
  | .waits _ _ => none
  | .waitx _ _ _ => none
  | .cycW _ _ => none
  | .cycC _ sd se => also none .field (se == 0 || se != sd)
  | .csrr _ _ csr => also none .field (csrAssigned csr)
  | .csrw _ _ csr => also none .field (csrWritable csr)
  | .mbr _ _ _ => none
  | .mbw _ _ _ => none
  | .rbegin => none
  | .rpres kind first cnt =>
    if kind.toNat ≥ 5 then some .field
    else if kind == 4 then also none .field (first == 0 && cnt == 0)
    else
      let top := match kind.toNat with | 0 => 64 | 1 => 640 | 2 => 16 | _ => 32
      also none .register (first.toNat + cnt.toNat < top)
  | .rend _ => none
  | .rfail _ => none
  | .fence _ scp => also none .field (scp.toNat < 5)
  | .iinv _ _ _ => none
  | .isync _ => none
  | .vadd o => vcheck arithRule o
  | .vsub o => vcheck arithRule o
  | .vmul o => vcheck arithRule o
  | .vmulh o _ => vcheck intRule o
  | .vfma o => vcheck fusedRule o
  | .vfms o => vcheck fusedRule o
  | .vfnma o => vcheck fusedRule o
  | .vmac o => vcheck { plainRule with ty := [1, 2, 3, 4], sat := [3, 4], rms := [1, 2] } o
  | .vmin o => vcheck plainRule o
  | .vmax o => vcheck plainRule o
  | .vminu o => vcheck intRule o
  | .vmaxu o => vcheck intRule o
  | .vabs o => vcheck { plainRule with sat := tyInt, vb := 0 } o
  | .vneg o => vcheck { plainRule with sat := tyInt, vb := 0 } o
  | .vand o => vcheck logicRule o
  | .vor o => vcheck logicRule o
  | .vxor o => vcheck logicRule o
  | .vandn o => vcheck logicRule o
  | .vshl o => vcheck intRule o
  | .vshlImm o k => also (vcheck { intRule with vb := 0 } o) .field (k.toNat < tyWidth o.ty)
  | .vshr o => vcheck intRule o
  | .vshrImm o k => also (vcheck { intRule with vb := 0 } o) .field (k.toNat < tyWidth o.ty)
  | .vsra o => vcheck intRule o
  | .vsraImm o k => also (vcheck { intRule with vb := 0 } o) .field (k.toNat < tyWidth o.ty)
  | .vcmp o cc => also (vcheck plainRule o) .field (vcmpCc o cc)
  | .vcmpP o cc => also (also (vcheck { plainRule with vd := false } o) .field (vcmpCc o cc)) .field
      (o.vd.toNat < 16)
  | .vsel o _ => vcheck logicRule o
  | .vmov o => vcheck { logicRule with ty := if o.va == 0x3FF then tyAll else [0], vb := 0 } o
  | .vbc o idx => also (vcheck { plainRule with vb := 0 } o) .field (idx.toNat < tyElems o.ty)
  | .vbcImm o _ => vcheck { plainRule with va := false, vb := 0 } o
  | .vcvt o dst src => vcvtCheck o dst src
  | .vred o op =>
    let float := tyFloat.contains o.ty.toNat
    let k := { plainRule with
      vb := 0, sat := if op == 0 then tyInt else [], rms := if op == 0 then tyFloat else [] }
    also (also (vcheck k o) .field (op.toNat < 5)) .field (!(float && 3 ≤ op.toNat))
  | .vperm o => vcheck plainRule o
  | .vrot o k => also (vcheck { plainRule with vb := 0 } o) .field (k.toNat < tyElems o.ty)
  | .vslideDn o k => also (vcheck plainRule o) .field (k.toNat < tyElems o.ty)
  | .vslideUp o k => also (vcheck plainRule o) .field (k.toNat < tyElems o.ty)
  | .vtint o => vcheck { plainRule with ty := [0, 1], rms := [0, 1], vb := 3 } o
  | .vrcp o => vcheck funcRule o
  | .vrsq o => vcheck funcRule o
  | .vexp2 o => vcheck funcRule o
  | .vlog2 o => vcheck funcRule o
  | .vscl o => vcheck { plainRule with sat := tyInt, rms := tyAll } o
  | .vmxq o q => also (vcheck quantRule o) .field (o.ty == 0 || q == 0 || q == 2)
  | .vbfpq o n q =>
    let last := q.toNat + (if o.ty == 1 then 1 else 0)
    also (also (vcheck quantRule o) .field (2 ≤ n.toNat && n.toNat ≤ 8)) .field
      (last < bfpSlots n.toNat)
  | .vdqg o gs eb nm h =>
    also (vcheck { fusedRule with ty := [0, 1], rms := [0, 1] } o) .field
      (gs.toNat < 6 && (if eb then nm != 0 else nm == 0) && !(h && o.ty == 0))
  | .vld o => vmemCheck true 0 o
  | .vst o => vmemCheck false 0 o
  | .vlds o => vmemCheck true 2 o
  | .vgth o => vmemCheck true 1 o
  | .vsct o => vmemCheck false 1 o
  | .tld _ => none
  | .tst _ => none
  | .tstOV _ => none
  | .twl _ _ => none
  | .twlMx _ _ _ => none
  | .tmma _ _ _ _ => none
  | .tmmaMx _ _ _ _ _ => none
  | .katt _ _ _ _ => none
  | .kattMx _ _ _ _ _ => none
  | .tmmaSmx _ _ _ _ _ _ => none
  | .tsmxInit _ _ => none
  | .tsmxNorm _ _ _ _ => none
  | .tzero _ _ => none
  | .tmov _ _ _ => none
  | .ttrn _ _ _ => none
  | .xmv o => also (also none .register (vdstOk o.vd && vdstOk o.va)) .field (o.nm != 0)
  | .xmvFallbackEnd _ => some .field
  | .xswap _ _ => none
  | .xstat _ _ _ => none
  | .xstatA _ _ _ => none
  | .xprogSet _ vm win _ => also (reg vm) .field (win.toNat < 5)
  | .xprogRst _ vm win _ => also (reg vm) .field (win.toNat < 5)
  | .xerase _ => none
  | .xeraseAll _ => none
  | .xread _ vd win => also (reg vd) .field (win.toNat < 5)
  | .xreadE _ vd ve rs win => also (also (reg vd) .register (vdstOk ve)) .field (win.toNat < 4 && rs.toNat < 5)
  | .xremap _ _ => none
  | .xdrift _ vs => reg vs
  | .xcalO _ vs => reg vs
  | .xcalG _ vs => reg vs
  | .xcalGC _ vs _ => reg vs
  | .commitSweepComplete _ _ => some .field
  | .xwear _ _ => none
  | .pulseSettle _ _ => some .field
  | .glintEvaluation _ _ => some .field
  | .mact _ => none
  | .mpre _ => none
  | .mprea _ => none
  | .mrd _ _ => none
  | .mrda _ _ => none
  | .mwr _ _ => none
  | .mwra _ _ => none
  | .mref _ => none
  | .mrefp _ => none
  | .mrcp _ _ => none
  | .mrcbLd _ _ => none
  | .mrcbSt _ _ => none
  | .mrcbInv _ _ => none
  | .mzro _ => none
  | .guardCommandDrive _ => some .field
  | .timingFault _ => some .field
  | .autoPrecharge _ _ => some .field
  | .dramOperationComplete _ _ => some .field
  | .dramReadLanding _ => some .field
  | .refreshFrameBoundary _ => some .field
  | .custodialRefresh _ => some .field
  | .idleRefresh _ => some .field
  | .push _ _ _ sz => also none .field (sz != 3)
  | .pull _ _ _ sz => also none .field (sz != 3)
  | .layout _ _ => none
  | .xfrG _ _ _ _ _ => none
  | .xfrP _ _ _ _ _ => none
  | .xfrBegin _ _ _ => some .field
  | .xfrComplete _ _ _ => some .field
  | .untimedPortAccess _ _ _ => some .field
  | .istage _ _ => none
  | .demandStaging _ _ => some .field
  | .lineStagingComplete _ _ => some .field
  | .retryEntryWrite _ => some .field
  | .rrrespRetry _ _ => some .field
  | .rrrespAbort _ _ => some .field
  | .rrcntWrite _ _ => some .field
  | .ptrootWrite _ _ => some .field
  | .tlbinvWrite _ _ => some .field
  | .tlbinvComplete _ => some .field
  | .atomAdd _ _ _ => none
  | .atomSwap _ _ _ => none
  | .atomCas _ _ _ _ => none
  | .atomAnd o _ _ => atomCheck false false o
  | .atomOr o _ _ => atomCheck false false o
  | .atomXor o _ _ => atomCheck false false o
  | .atomMin o _ _ => atomCheck false false o
  | .atomMax o _ _ => atomCheck false false o
  | .atomMinu o _ _ => atomCheck false false o
  | .atomMaxu o _ _ => atomCheck false false o
  | .atomFadd o _ _ => atomCheck false true o
  | .atomLd _ _ => none
  | .redAdd _ _ => none
  | .redSt _ _ => none
  | .redAnd o _ => atomCheck false false o
  | .redOr o _ => atomCheck false false o
  | .redXor o _ => atomCheck false false o
  | .redMin o _ => atomCheck false false o
  | .redMax o _ => atomCheck false false o
  | .redMinu o _ => atomCheck false false o
  | .redMaxu o _ => atomCheck false false o
  | .redFadd o _ => atomCheck false true o
  | .atomicPerform _ _ => some .field
  | .atomReturn _ _ => some .field
  | .trc _ _ => none
  | .trcFrz _ _ => none
  | .traceFreeze _ => some .field
  | .resultLanding _ => some .field
  | .holdRelease _ => some .field
  | .trapHandlerEntry _ => some .field
  | .thaw _ => some .field
  | .regionRollback _ => some .field
  | .latencyClass _ => some .field
  | .retrainRequest _ => some .field
  | .retrainComplete _ _ => some .field
  | .overTemperature _ _ => some .field
  | .preempt _ => some .field
  | .resume _ => some .field
  | .nodeBind _ _ _ => some .field
  | .nodeRetire _ => some .field
  | .nodeRequeue _ => some .field
  | .wdogTimeout _ => some .field
  | .eventRecordWrite _ => some .field
  | .evcoalTimeout _ => some .field
  | .launchWrite _ _ _ _ => some .field
  | .qctlAbort _ _ => some .field
  | .qctlErrClear _ _ => some .field
  | .imgloadLoad _ _ => some .field
  | .imgloadUnload _ _ => some .field
  | .imageLoadComplete _ => some .field
  | .shardProgram _ _ _ => some .field
  | .partitionCreate => some .field
  | .partitionResize => some .field
  | .partitionRelease => some .field
  | .reclamationComplete _ => some .field
  | .functionLevelReset _ => some .field
  | .flrComplete _ => some .field
  | .rrbaseWrite _ _ => some .field
  | .evbaseWrite _ _ => some .field
  | .evtailWrite _ _ => some .field
  | .syncwinRead _ _ _ => some .field
  | .syncwinWrite _ _ _ _ => some .field
  | .registerWrite _ _ _ => some .field
  | .trcctlFrozenClear _ => some .field
  | .trccopyWrite _ => some .field
  | .trccopyComplete => some .field
  | .qtrcopyWrite _ => some .field
  | .qtrcopyComplete => some .field
  | .attreqWrite _ => some .field
  | .attestationReport => some .field
  | .dumpcmdGo => some .field
  | .fatalError _ => some .field
  | .errinjWrite _ => some .field
  | .boot => some .field
  | .bootaddrWrite _ => some .field
  | .pwrcapWrite _ => some .field
  | .powerSample _ => some .field

/-! ## Decoding a syllable -/

/-- The widths that a class permits (R41, R45). -/
def widthOk (wide : Bool) (w : Nat) : Bool :=
  match clsOf w with
  | 0 => !wide
  | 1 => if opOf w == 2 then wide else !wide
  | 3 => wide
  | 4 => wide
  | _ => true

def decodeClass (w : Nat) : Except Reject Instr :=
  match clsOf w with
  | 0 => decodeTm w
  | 1 => decodePf w
  | 2 => decodeSc w
  | 3 => decodeV w
  | 4 => decodeV w
  | 5 => decodeMt w
  | _ => decodeC w

/-- The instruction of a syllable whose bits are w (R42); total, rejecting by name. A 32-bit
syllable is given with a high word of zero. -/
def decodeSyl (wide : Bool) (w : Nat) : Except Reject Instr :=
  match decodeClass w with
  | .error r => .error r
  | .ok i =>
    if !widthOk wide w then .error .width
    else match legal i with
      | some r => .error r
      | none => .ok i

/-! ## Bundles -/

/-- A raw syllable: its width and its bits. -/
structure Syl where
  wide : Bool
  w : Nat
  deriving DecidableEq, Repr

/-- Bytes of a syllable. -/
def Syl.bytes (x : Syl) : Nat := if x.wide then 8 else 4

def Syl.cls (x : Syl) : Nat := clsOf x.w

def Syl.op (x : Syl) : Nat := opOf x.w

/-- Little-endian value of a byte list. -/
def leNat : List Byte → Nat
  | [] => 0
  | b :: bs => b.toNat + 256 * leNat bs

/-- n little-endian bytes of x. -/
def leBytes : Nat → Nat → List Byte
  | 0, _ => []
  | n + 1, x => BitVec.ofNat 8 x :: leBytes n (x / 256)

/-- The first syllable of a byte list with the rest, or nothing where the bytes end too early
(R40, R42). -/
def takeSyl (bs : List Byte) : Option (Syl × List Byte) :=
  if bs.length < 4 then none
  else
    let h := leNat (bs.take 4)
    if wideOf h then
      if bs.length < 8 then none
      else some ({ wide := true, w := leNat (bs.take 8) }, bs.drop 8)
    else some ({ wide := false, w := h }, bs.drop 4)

/-- Decode the first instruction of a byte list. -/
def decodeBytes (bs : List Byte) : Except Reject (Instr × List Byte) :=
  match takeSyl bs with
  | none => .error .width
  | some (x, rest) =>
    match decodeSyl x.wide x.w with
    | .error r => .error r
    | .ok i => .ok (i, rest)

/-- Slot position that a class fills (R41). -/
def slotOf (cls : Nat) : Nat := cls - 1

/-- The syllable of slot position k, 1..6. -/
def slotSyl (l : List Syl) (k : Nat) : Option Syl := l.find? (fun x => x.cls == k + 1)

/-- The opcode is assigned in its class's map (R58 to R62). -/
def assigned (w : Nat) : Bool :=
  match decodeClass w with
  | .error .unassigned => false
  | _ => true

/-- The operation of a syllable has an immediate for XIMM (R56, R87, R102, R106, R120, R141, R142,
R156). -/
def hasImm (x : Syl) : Bool :=
  match x.cls with
  | 2 => [0x0A, 0x15, 0x16, 0x17, 0x24, 0x29, 0x30, 0x31, 0x38, 0x39, 0x3B].contains x.op
  | 3 => x.op == 0x1B && bit x.w 63 || 0x38 ≤ x.op && x.op ≤ 0x3C
  | 4 => x.op == 0x1B && bit x.w 63 || 0x38 ≤ x.op && x.op ≤ 0x3C
  | 5 => x.op == 0 || x.op == 1
  | _ => false

/-- Classes ascend, and only PF appears more than once (R44). -/
def ascending : List Syl → Bool
  | a :: b :: l => (a.cls < b.cls || a.cls == 1 && b.cls == 1) && ascending (b :: l)
  | _ => true

/-- XIMM target class. -/
def tgtOf (w : Nat) : Nat := w / 2 ^ 17 % 8

/-- The order key of a PF syllable: SCOPE, BLOCK, then XIMM by target (R45). -/
def pfKey (x : Syl) : Nat := if x.op == 2 then 2 + tgtOf x.w else x.op

def rising : List Nat → Bool
  | a :: b :: l => a < b && rising (b :: l)
  | _ => true

/-- PF syllables keep the order and limits of R45. -/
def prefixesOk (l : List Syl) : Bool :=
  let p := l.filter (fun x => x.cls == 1)
  p.length ≤ 5 && rising ((p.filter (fun x => x.op ≤ 2)).map pfKey) &&
    (p.filter (fun x => x.op == 2)).length ≤ 3

/-- An XIMM syllable with a legal target. A 32-bit PF syllable with opcode 0x02 is no XIMM: it takes the trap of
its width, and what stands in the target slot is not tested (R41, R46; DEDUCED, log 88). -/
def ximmOf (x : Syl) : Option (Nat × Half) :=
  if x.cls == 1 && x.op == 2 && x.wide && 2 ≤ tgtOf x.w then
    some (slotOf (tgtOf x.w), fld x.w 32 32) else none

/-- The extensions of a bundle: slot position and X (R56). -/
def ximms (l : List Syl) : List (Nat × Half) := l.filterMap ximmOf

def extOf (e : List (Nat × Half)) (k : Nat) : Option Half :=
  (e.find? (fun x => x.1 == k)).map (·.2)

/-- Every XIMM's target slot is present and, where its opcode is assigned,
    has an immediate (R46). -/
def ximmsOk (l : List Syl) : Bool :=
  (ximms l).all fun e =>
    match slotSyl l e.1 with
    | none => false
    | some x => hasImm x || !assigned x.w

/-- The bits of a vector syllable that a shadow shares with its primary: all but CLS, S and SH. -/
def shadowKey (w : Nat) : Nat :=
  w / 2 ^ 38 * 2 ^ 37 + w / 2 ^ 32 % 2 ^ 5 * 2 ^ 32 + w / 2 ^ 30 % 2 * 2 ^ 30 + w % 2 ^ 27

/-- The shadow rule on the two vector operations, each with its extension (R132). -/
def shadowOk (a b : Option (Nat × Option Half)) : Bool :=
  match a, b with
  | some (x, ex), some (y, ey) =>
    if bit x 37 || bit y 37 then
      bit x 37 != bit y 37 && shadowKey x == shadowKey y && ex == ey
    else true
  | some (x, _), none => !bit x 37
  | none, some (y, _) => !bit y 37
  | none, none => true

/-- The shadow rule as far as the syllables alone decide it: a slot that a sticky class re-issues
is left to the issue. -/
def shadowsOk (l : List Syl) (stk : Nat → Bool) : Bool :=
  let f := fun k => (slotSyl l k).map fun x => (x.w, extOf (ximms l) k)
  match slotSyl l 2, slotSyl l 3 with
  | some _, none => stk 3 || shadowOk (f 2) none
  | none, some _ => stk 2 || shadowOk none (f 3)
  | _, _ => shadowOk (f 2) (f 3)

/-- Sticky bit of slot position k in a TMPL word (R50). -/
def stkOf (w k : Nat) : Bool := bit w (12 - k)

/-- The template of a bundle: RPT and sticky bits, where its TM syllable is a TMPL. -/
def tmplOf (l : List Syl) : Nat × (Nat → Bool) :=
  match l.find? (fun x => x.cls == 0 && x.op == 0 && !x.wide) with
  | some x => (x.w / 2 ^ 12 % 256, stkOf x.w)
  | none => (0, fun _ => false)

/-- The illegal-bundle cases of R46 and R132 on a run of syllables that ends with a stop bit. -/
def bundleLegal (l : List Syl) : Bool :=
  l.length ≤ 12 && ascending l && prefixesOk l && ximmsOk l && shadowsOk l (tmplOf l).2

/-- SC opcodes that are not reissuable: 0x01..0x03 and 0x38..0x4E (R51). -/
def controlOp (op : Nat) : Bool := 1 ≤ op && op ≤ 3 || 0x38 ≤ op && op ≤ 0x4E

/-! ## Encoding -/

/-- Header bits of class and opcode (R40). -/
def head (cls op : Nat) : Nat := cls * 2 ^ 27 + op * 2 ^ 20

/-- A field's value at its place. -/
def at_ (v lo : Nat) : Nat := v * 2 ^ lo

def total : List Nat → Nat
  | [] => 0
  | x :: l => x + total l

def pack (cls op : Nat) (l : List Nat) : Option Nat := some (head cls op + total l)

def ScRR.enc (o : ScRR) : Nat :=
  total [at_ o.g.toNat 32, at_ o.sd.toNat 14, at_ o.sa.toNat 8, at_ o.sb.toNat 2]
def ScRI.enc (o : ScRI) : Nat :=
  total [at_ o.g.toNat 32, at_ o.sd.toNat 14, at_ o.sa.toNat 8, at_ o.imm.toNat 0]
def ScRS.enc (o : ScRS) : Nat :=
  total [at_ o.g.toNat 32, at_ o.sd.toNat 14, at_ o.sa.toNat 8, at_ o.sh.toNat 2]
def ScRU.enc (o : ScRU) : Nat :=
  total [at_ o.g.toNat 32, at_ o.sd.toNat 14, at_ o.sa.toNat 8]
def ScCmp.enc (o : ScCmp) : Nat :=
  total [at_ o.g.toNat 32, at_ o.pd.toNat 16, at_ o.cc.toNat 12, at_ o.sa.toNat 6,
      at_ o.sb.toNat 0]
def ScPP.enc (o : ScPP) : Nat :=
  total [at_ o.g.toNat 32, at_ o.pd.toNat 16, at_ o.pa.toNat 12, at_ o.pb.toNat 8]
def ScMem.enc (o : ScMem) : Nat :=
  total [at_ o.g.toNat 32, at_ o.sr.toNat 14, at_ o.sa.toNat 8, at_ o.sz.toNat 6,
      at_ o.off.toNat 0]
def VOp.enc (o : VOp) : Nat :=
  total [at_ o.g.toNat 32, at_ o.sh.toNat 37, at_ o.vd.toNat 10, at_ o.va.toNat 0,
      at_ o.vb.toNat 38, at_ o.ty.toNat 48, at_ o.sat.toNat 51, at_ o.rms.toNat 52]
def VMem.enc (o : VMem) : Nat :=
  total [at_ o.g.toNat 32, at_ o.sh.toNat 37, at_ o.vd.toNat 10, at_ o.sa.toNat 4,
      at_ o.vx.toNat 38, at_ o.off.toNat 48]
def TMem.enc (o : TMem) : Nat :=
  total [at_ o.g.toNat 32, at_ o.bs.toNat 37, at_ o.t.toNat 15, at_ o.sa.toNat 9,
      at_ o.off.toNat 48]
def XmvOp.enc (o : XmvOp) : Nat :=
  total [at_ o.g.toNat 32, at_ o.bs.toNat 37, at_ o.vd.toNat 10, at_ o.va.toNat 0,
      at_ o.grp.toNat 38, at_ o.nm.toNat 44, at_ o.sf.toNat 47, at_ o.sx.toNat 53]
def XOp.enc (o : XOp) : Nat :=
  total [at_ o.g.toNat 32, at_ o.bs.toNat 37, at_ o.sa.toNat 4]
def DOp.enc (o : DOp) : Nat :=
  total [at_ o.g.toNat 32, at_ o.bs.toNat 37, at_ o.sa.toNat 14]
def AOp.enc (o : AOp) : Nat :=
  total [at_ o.g.toNat 32, at_ o.bs.toNat 37, at_ o.sa.toNat 14, at_ o.sz.toNat 3,
      at_ o.sp.toNat 2]

/-- The fields of an instruction's syllable, S and W zero, VA for a vector and CA for a copy
operation; none for the events, which have no syllable. -/
def encodeFields (i : Instr) : Option Nat :=
  match i with
  | .tmpl rpt stk => pack 0 0x00 [at_ rpt.toNat 12, at_ stk.toNat 6]
  | .scope scp => pack 1 0x00 [at_ scp.toNat 17]
  | .block len => pack 1 0x01 [at_ len.toNat 12]
  | .ximm tgt x => pack 1 0x02 [at_ tgt.toNat 17, at_ x.toNat 32]
  | .nop g => pack 2 0x00 [at_ g.toNat 32]
  | .halt g => pack 2 0x01 [at_ g.toNat 32]
  | .trap g code => pack 2 0x02 [at_ g.toNat 32, at_ code.toNat 12]
  | .rft g => pack 2 0x03 [at_ g.toNat 32]
  | .add sat o => pack 2 0x08 [at_ sat.toNat 37, o.enc]
  | .sub sat o => pack 2 0x09 [at_ sat.toNat 37, o.enc]
  | .mul sat o => pack 2 0x0B [at_ sat.toNat 37, o.enc]
  | .addi sat o => pack 2 0x0A [at_ sat.toNat 37, o.enc]
  | .mulh o => pack 2 0x0C [o.enc]
  | .mulhu o => pack 2 0x0D [o.enc]
  | .div o => pack 2 0x0E [o.enc]
  | .divu o => pack 2 0x0F [o.enc]
  | .rem o => pack 2 0x10 [o.enc]
  | .remu o => pack 2 0x11 [o.enc]
  | .and o => pack 2 0x12 [o.enc]
  | .or o => pack 2 0x13 [o.enc]
  | .xor o => pack 2 0x14 [o.enc]
  | .andi o => pack 2 0x15 [o.enc]
  | .ori o => pack 2 0x16 [o.enc]
  | .xori o => pack 2 0x17 [o.enc]
  | .shl o => pack 2 0x18 [o.enc]
  | .shr o => pack 2 0x19 [o.enc]
  | .sra o => pack 2 0x1A [o.enc]
  | .shli o => pack 2 0x1B [o.enc]
  | .shri o => pack 2 0x1C [o.enc]
  | .srai o => pack 2 0x1D [o.enc]
  | .min o => pack 2 0x1E [o.enc]
  | .max o => pack 2 0x1F [o.enc]
  | .minu o => pack 2 0x20 [o.enc]
  | .maxu o => pack 2 0x21 [o.enc]
  | .clz o => pack 2 0x22 [o.enc]
  | .popc o => pack 2 0x23 [o.enc]
  | .li g sd imm => pack 2 0x24 [at_ g.toNat 32, at_ sd.toNat 14, at_ imm.toNat 0]
  | .mov o => pack 2 0x25 [o.enc]
  | .sel pc o => pack 2 0x26 [at_ pc.toNat 38, o.enc]
  | .cmp o => pack 2 0x28 [o.enc]
  | .cmpi o => pack 2 0x29 [o.enc]
  | .pand o => pack 2 0x2A [o.enc]
  | .por o => pack 2 0x2B [o.enc]
  | .pxor o => pack 2 0x2C [o.enc]
  | .pandn o => pack 2 0x2D [o.enc]
  | .pmovPP g dst src => pack 2 0x2E [at_ g.toNat 32, at_ dst.toNat 12, at_ src.toNat 6]
  | .pmovPS g dst src => pack 2 0x2E [at_ 1 18, at_ g.toNat 32, at_ dst.toNat 12, at_ src.toNat 6]
  | .pmovSP g dst src => pack 2 0x2E [at_ 2 18, at_ g.toNat 32, at_ dst.toNat 12, at_ src.toNat 6]
  | .lds o u => pack 2 0x30 [o.enc, at_ u.toNat 5]
  | .sts o => pack 2 0x31 [o.enc]
  | .br g off => pack 2 0x38 [at_ g.toNat 32, at_ off.toNat 0]
  | .brl g sd off => pack 2 0x39 [at_ g.toNat 32, at_ sd.toNat 14, at_ off.toNat 0]
  | .ret g sa => pack 2 0x3A [at_ g.toNat 32, at_ sa.toNat 14]
  | .jmp g sa off => pack 2 0x3B [at_ g.toNat 32, at_ sa.toNat 14, at_ off.toNat 0]
  | .loop g ln blen cnt => pack 2 0x3C [at_ g.toNat 32, at_ ln.toNat 18, at_ blen.toNat 6,
      at_ cnt.toNat 48]
  | .loopm g ln blen mbi => pack 2 0x3D [at_ g.toNat 32, at_ ln.toNat 18, at_ blen.toNat 6,
      at_ mbi.toNat 2]
  | .align tag => pack 2 0x3E [at_ tag.toNat 12]
  | .waits g sa => pack 2 0x40 [at_ g.toNat 32, at_ sa.toNat 14]
  | .waitx g ch sa => pack 2 0x41 [at_ g.toNat 32, at_ ch.toNat 18, at_ sa.toNat 12]
  | .cycW g sd => pack 2 0x42 [at_ g.toNat 32, at_ sd.toNat 14]
  | .cycC g sd se => pack 2 0x43 [at_ g.toNat 32, at_ sd.toNat 14, at_ se.toNat 8]
  | .csrr g sd csr => pack 2 0x44 [at_ g.toNat 32, at_ sd.toNat 14, at_ csr.toNat 0]
  | .csrw g sa csr => pack 2 0x45 [at_ g.toNat 32, at_ sa.toNat 14, at_ csr.toNat 0]
  | .mbr g sd mbi => pack 2 0x46 [at_ g.toNat 32, at_ sd.toNat 14, at_ mbi.toNat 0]
  | .mbw g sa mbi => pack 2 0x47 [at_ g.toNat 32, at_ sa.toNat 14, at_ mbi.toNat 0]
  | .rbegin => pack 2 0x48 []
  | .rpres kind first cnt => pack 2 0x49 [at_ kind.toNat 17, at_ first.toNat 7, at_ cnt.toNat 0]
  | .rend sd => pack 2 0x4A [at_ sd.toNat 14]
  | .rfail g => pack 2 0x4B [at_ g.toNat 32]
  | .fence g scp => pack 2 0x4C [at_ g.toNat 32, at_ scp.toNat 17]
  | .iinv g sa sb => pack 2 0x4D [at_ g.toNat 32, at_ sa.toNat 8, at_ sb.toNat 2]
  | .isync g => pack 2 0x4E [at_ g.toNat 32]
  | .vadd o => pack 3 0x00 [o.enc]
  | .vsub o => pack 3 0x01 [o.enc]
  | .vmul o => pack 3 0x02 [o.enc]
  | .vmulh o u => pack 3 0x03 [o.enc, at_ u.toNat 55]
  | .vfma o => pack 3 0x04 [o.enc]
  | .vfms o => pack 3 0x05 [o.enc]
  | .vfnma o => pack 3 0x06 [o.enc]
  | .vmac o => pack 3 0x07 [o.enc]
  | .vmin o => pack 3 0x08 [o.enc]
  | .vmax o => pack 3 0x09 [o.enc]
  | .vminu o => pack 3 0x0A [o.enc]
  | .vmaxu o => pack 3 0x0B [o.enc]
  | .vabs o => pack 3 0x0C [o.enc]
  | .vneg o => pack 3 0x0D [o.enc]
  | .vand o => pack 3 0x10 [o.enc]
  | .vor o => pack 3 0x11 [o.enc]
  | .vxor o => pack 3 0x12 [o.enc]
  | .vandn o => pack 3 0x13 [o.enc]
  | .vshl o => pack 3 0x14 [o.enc]
  | .vshlImm o k => pack 3 0x14 [at_ 1 63, o.enc, at_ k.toNat 55]
  | .vshr o => pack 3 0x15 [o.enc]
  | .vshrImm o k => pack 3 0x15 [at_ 1 63, o.enc, at_ k.toNat 55]
  | .vsra o => pack 3 0x16 [o.enc]
  | .vsraImm o k => pack 3 0x16 [at_ 1 63, o.enc, at_ k.toNat 55]
  | .vcmp o cc => pack 3 0x18 [o.enc, at_ cc.toNat 55]
  | .vcmpP o cc => pack 3 0x18 [at_ 1 63, o.enc, at_ cc.toNat 55]
  | .vsel o ps => pack 3 0x19 [o.enc, at_ ps.toNat 55]
  | .vmov o => pack 3 0x1A [o.enc]
  | .vbc o idx => pack 3 0x1B [o.enc, at_ idx.toNat 55]
  | .vbcImm o imm => pack 3 0x1B [at_ 1 63, o.enc, at_ imm.toNat 55]
  | .vcvt o dst src => pack 3 0x1C [o.enc, at_ dst.toNat 55, at_ src.toNat 59]
  | .vred o op => pack 3 0x1D [o.enc, at_ op.toNat 55]
  | .vperm o => pack 3 0x20 [o.enc]
  | .vrot o k => pack 3 0x21 [o.enc, at_ k.toNat 55]
  | .vslideDn o k => pack 3 0x22 [o.enc, at_ k.toNat 55]
  | .vslideUp o k => pack 3 0x22 [at_ 1 62, o.enc, at_ k.toNat 55]
  | .vtint o => pack 3 0x24 [o.enc]
  | .vrcp o => pack 3 0x25 [o.enc]
  | .vrsq o => pack 3 0x26 [o.enc]
  | .vexp2 o => pack 3 0x27 [o.enc]
  | .vlog2 o => pack 3 0x28 [o.enc]
  | .vscl o => pack 3 0x30 [o.enc]
  | .vmxq o q => pack 3 0x31 [o.enc, at_ q.toNat 55]
  | .vbfpq o n q => pack 3 0x32 [o.enc, at_ n.toNat 55, at_ q.toNat 59]
  | .vdqg o gs eb nm h => pack 3 0x33 [o.enc, at_ gs.toNat 55, at_ eb.toNat 58, at_ nm.toNat 59,
      at_ h.toNat 62]
  | .vld o => pack 3 0x38 [o.enc]
  | .vst o => pack 3 0x39 [o.enc]
  | .vlds o => pack 3 0x3A [o.enc]
  | .vgth o => pack 3 0x3B [o.enc]
  | .vsct o => pack 3 0x3C [o.enc]
  | .tld o => pack 5 0x00 [o.enc]
  | .tst o => pack 5 0x01 [o.enc]
  | .tstOV o => pack 5 0x01 [at_ 1 38, o.enc]
  | .twl g tw => pack 5 0x02 [at_ g.toNat 32, at_ tw.toNat 15]
  | .twlMx g tw tsc => pack 5 0x02 [at_ 1 9, at_ g.toNat 32, at_ tw.toNat 15, at_ tsc.toNat 10]
  | .tmma g tc ta asc => pack 5 0x03 [at_ g.toNat 32, at_ tc.toNat 15, at_ ta.toNat 10,
      at_ asc.toNat 38]
  | .tmmaMx g tc ta tsc asc => pack 5 0x03 [at_ 1 4, at_ g.toNat 32, at_ tc.toNat 15,
      at_ ta.toNat 10, at_ tsc.toNat 5, at_ asc.toNat 38]
  | .katt g tc ta asc => pack 5 0x09 [at_ g.toNat 32, at_ tc.toNat 15, at_ ta.toNat 10,
      at_ asc.toNat 38]
  | .kattMx g tc ta tsc asc => pack 5 0x09 [at_ 1 4, at_ g.toNat 32, at_ tc.toNat 15,
      at_ ta.toNat 10, at_ tsc.toNat 5, at_ asc.toNat 38]
  | .tmmaSmx g tc ta tx qs asc => pack 5 0x04 [at_ g.toNat 32, at_ tc.toNat 15, at_ ta.toNat 10,
      at_ tx.toNat 5, at_ qs.toNat 44, at_ asc.toNat 38]
  | .tsmxInit g tx => pack 5 0x05 [at_ g.toNat 32, at_ tx.toNat 10]
  | .tsmxNorm g tc tx ns => pack 5 0x05 [at_ 1 9, at_ g.toNat 32, at_ tc.toNat 15,
      at_ tx.toNat 10, at_ ns.toNat 38]
  | .tzero g td => pack 5 0x06 [at_ g.toNat 32, at_ td.toNat 15]
  | .tmov g td ts => pack 5 0x07 [at_ g.toNat 32, at_ td.toNat 15, at_ ts.toNat 10]
  | .ttrn g td ts => pack 5 0x08 [at_ g.toNat 32, at_ td.toNat 15, at_ ts.toNat 10]
  | .xmv o => pack 5 0x10 [o.enc]
  | .xswap g grp => pack 5 0x11 [at_ g.toNat 32, at_ grp.toNat 14]
  | .xstat g sd idx => pack 5 0x12 [at_ g.toNat 32, at_ sd.toNat 14, at_ idx.toNat 6]
  | .xstatA g sd idx => pack 5 0x12 [at_ 1 13, at_ g.toNat 32, at_ sd.toNat 14, at_ idx.toNat 6]
  | .xprogSet o vm win amp => pack 5 0x13 [o.enc, at_ vm.toNat 10, at_ win.toNat 38,
      at_ amp.toNat 42]
  | .xprogRst o vm win amp => pack 5 0x13 [at_ 1 41, o.enc, at_ vm.toNat 10, at_ win.toNat 38,
      at_ amp.toNat 42]
  | .xread o vd win => pack 5 0x14 [o.enc, at_ vd.toNat 10, at_ win.toNat 38]
  | .xreadE o vd ve rs win => pack 5 0x14 [at_ 1 41, o.enc, at_ vd.toNat 10, at_ ve.toNat 45,
      at_ rs.toNat 42, at_ win.toNat 38]
  | .xremap o spr => pack 5 0x15 [o.enc, at_ spr.toNat 10]
  | .xdrift o vd => pack 5 0x16 [o.enc, at_ vd.toNat 10]
  | .xcalO o vs => pack 5 0x17 [o.enc, at_ vs.toNat 10]
  | .xcalG o vs => pack 5 0x18 [o.enc, at_ vs.toNat 10]
  | .xcalGC o vs rs => pack 5 0x18 [at_ 1 38, o.enc, at_ vs.toNat 10, at_ rs.toNat 39]
  | .xerase o => pack 5 0x19 [o.enc]
  | .xeraseAll o => pack 5 0x19 [at_ 1 38, o.enc]
  | .xwear o sd => pack 5 0x1A [o.enc, at_ sd.toNat 14]
  | .mact o => pack 6 0x00 [o.enc]
  | .mpre o => pack 6 0x01 [o.enc]
  | .mprea o => pack 6 0x02 [o.enc]
  | .mrd o sb => pack 6 0x03 [o.enc, at_ sb.toNat 8]
  | .mwr o sb => pack 6 0x04 [o.enc, at_ sb.toNat 8]
  | .mrda o sb => pack 6 0x05 [o.enc, at_ sb.toNat 8]
  | .mwra o sb => pack 6 0x06 [o.enc, at_ sb.toNat 8]
  | .mrcp o sb => pack 6 0x09 [o.enc, at_ sb.toNat 8]
  | .mref o => pack 6 0x07 [o.enc]
  | .mrefp o => pack 6 0x08 [o.enc]
  | .mrcbLd o line => pack 6 0x0A [o.enc, at_ line.toNat 0]
  | .mrcbSt o line => pack 6 0x0A [at_ 1 6, o.enc, at_ line.toNat 0]
  | .mrcbInv o line => pack 6 0x0A [at_ 2 6, o.enc, at_ line.toNat 0]
  | .mzro o => pack 6 0x0B [o.enc]
  | .push o sr peer sz => pack 6 0x10 [o.enc, at_ sr.toNat 8, at_ peer.toNat 1, at_ sz.toNat 38]
  | .pull o sr peer sz => pack 6 0x11 [o.enc, at_ sr.toNat 8, at_ peer.toNat 1, at_ sz.toNat 38]
  | .layout o lyn => pack 6 0x12 [o.enc, at_ lyn.toNat 0]
  | .xfrG o sv lyn ch st => pack 6 0x14 [o.enc, at_ sv.toNat 8, at_ lyn.toNat 4, at_ ch.toNat 2,
      at_ st.toNat 38]
  | .xfrP o sv lyn ch st => pack 6 0x15 [o.enc, at_ sv.toNat 8, at_ lyn.toNat 4, at_ ch.toNat 2,
      at_ st.toNat 38]
  | .atomAdd o sb sd => pack 6 0x16 [o.enc, at_ sb.toNat 8, at_ sd.toNat 38]
  | .atomSwap o sb sd => pack 6 0x16 [at_ 1 4, o.enc, at_ sb.toNat 8, at_ sd.toNat 38]
  | .atomCas o sb sc sd => pack 6 0x16 [at_ 2 4, o.enc, at_ sb.toNat 8, at_ sc.toNat 44,
      at_ sd.toNat 38]
  | .atomAnd o sb sd => pack 6 0x16 [at_ 3 4, o.enc, at_ sb.toNat 8, at_ sd.toNat 38]
  | .atomOr o sb sd => pack 6 0x16 [at_ 4 4, o.enc, at_ sb.toNat 8, at_ sd.toNat 38]
  | .atomXor o sb sd => pack 6 0x16 [at_ 5 4, o.enc, at_ sb.toNat 8, at_ sd.toNat 38]
  | .atomMin o sb sd => pack 6 0x16 [at_ 6 4, o.enc, at_ sb.toNat 8, at_ sd.toNat 38]
  | .atomMax o sb sd => pack 6 0x16 [at_ 7 4, o.enc, at_ sb.toNat 8, at_ sd.toNat 38]
  | .atomMinu o sb sd => pack 6 0x16 [at_ 8 4, o.enc, at_ sb.toNat 8, at_ sd.toNat 38]
  | .atomMaxu o sb sd => pack 6 0x16 [at_ 9 4, o.enc, at_ sb.toNat 8, at_ sd.toNat 38]
  | .atomFadd o sb sd => pack 6 0x16 [at_ 10 4, o.enc, at_ sb.toNat 8, at_ sd.toNat 38]
  | .atomLd o sd => pack 6 0x16 [at_ 11 4, o.enc, at_ sd.toNat 38]
  | .redAdd o sb => pack 6 0x17 [o.enc, at_ sb.toNat 8]
  | .redSt o sb => pack 6 0x17 [at_ 1 4, o.enc, at_ sb.toNat 8]
  | .redAnd o sb => pack 6 0x17 [at_ 3 4, o.enc, at_ sb.toNat 8]
  | .redOr o sb => pack 6 0x17 [at_ 4 4, o.enc, at_ sb.toNat 8]
  | .redXor o sb => pack 6 0x17 [at_ 5 4, o.enc, at_ sb.toNat 8]
  | .redMin o sb => pack 6 0x17 [at_ 6 4, o.enc, at_ sb.toNat 8]
  | .redMax o sb => pack 6 0x17 [at_ 7 4, o.enc, at_ sb.toNat 8]
  | .redMinu o sb => pack 6 0x17 [at_ 8 4, o.enc, at_ sb.toNat 8]
  | .redMaxu o sb => pack 6 0x17 [at_ 9 4, o.enc, at_ sb.toNat 8]
  | .redFadd o sb => pack 6 0x17 [at_ 10 4, o.enc, at_ sb.toNat 8]
  | .istage o nl => pack 6 0x18 [o.enc, at_ nl.toNat 0]
  | .trc o tag => pack 6 0x19 [o.enc, at_ tag.toNat 4]
  | .trcFrz o tag => pack 6 0x19 [at_ 1 3, o.enc, at_ tag.toNat 4]
  | .blockLockExpire _ => none
  | .alignBarrierComplete _ => none
  | .startAlignment _ => none
  | .xmvFallbackEnd _ => none
  | .commitSweepComplete _ _ => none
  | .pulseSettle _ _ => none
  | .glintEvaluation _ _ => none
  | .guardCommandDrive _ => none
  | .timingFault _ => none
  | .autoPrecharge _ _ => none
  | .dramOperationComplete _ _ => none
  | .dramReadLanding _ => none
  | .refreshFrameBoundary _ => none
  | .custodialRefresh _ => none
  | .idleRefresh _ => none
  | .xfrBegin _ _ _ => none
  | .xfrComplete _ _ _ => none
  | .untimedPortAccess _ _ _ => none
  | .demandStaging _ _ => none
  | .lineStagingComplete _ _ => none
  | .retryEntryWrite _ => none
  | .rrrespRetry _ _ => none
  | .rrrespAbort _ _ => none
  | .rrcntWrite _ _ => none
  | .ptrootWrite _ _ => none
  | .tlbinvWrite _ _ => none
  | .tlbinvComplete _ => none
  | .atomicPerform _ _ => none
  | .atomReturn _ _ => none
  | .traceFreeze _ => none
  | .resultLanding _ => none
  | .holdRelease _ => none
  | .trapHandlerEntry _ => none
  | .thaw _ => none
  | .regionRollback _ => none
  | .latencyClass _ => none
  | .retrainRequest _ => none
  | .retrainComplete _ _ => none
  | .overTemperature _ _ => none
  | .preempt _ => none
  | .resume _ => none
  | .nodeBind _ _ _ => none
  | .nodeRetire _ => none
  | .nodeRequeue _ => none
  | .wdogTimeout _ => none
  | .eventRecordWrite _ => none
  | .evcoalTimeout _ => none
  | .launchWrite _ _ _ _ => none
  | .qctlAbort _ _ => none
  | .qctlErrClear _ _ => none
  | .imgloadLoad _ _ => none
  | .imgloadUnload _ _ => none
  | .imageLoadComplete _ => none
  | .shardProgram _ _ _ => none
  | .partitionCreate => none
  | .partitionResize => none
  | .partitionRelease => none
  | .reclamationComplete _ => none
  | .functionLevelReset _ => none
  | .flrComplete _ => none
  | .rrbaseWrite _ _ => none
  | .evbaseWrite _ _ => none
  | .evtailWrite _ _ => none
  | .syncwinRead _ _ _ => none
  | .syncwinWrite _ _ _ _ => none
  | .registerWrite _ _ _ => none
  | .trcctlFrozenClear _ => none
  | .trccopyWrite _ => none
  | .trccopyComplete => none
  | .qtrcopyWrite _ => none
  | .qtrcopyComplete => none
  | .attreqWrite _ => none
  | .attestationReport => none
  | .dumpcmdGo => none
  | .fatalError _ => none
  | .errinjWrite _ => none
  | .boot => none
  | .bootaddrWrite _ => none
  | .pwrcapWrite _ => none
  | .powerSample _ => none

/-- The low word's wide bit: every vector syllable, every XIMM, and any syllable with a non-zero
high word (R41, R42). -/
def encodeWide (f : Nat) : Bool :=
  clsOf f == 3 || clsOf f == 1 && opOf f == 2 || f / 2 ^ 32 != 0

/-- The words of an instruction, as the Gretal assembler emits them (R42): `second` takes VB or CB,
`stop` sets the stop bit. -/
def encode (second stop : Bool) (i : Instr) : Option Syl :=
  match encodeFields i with
  | none => none
  | some f =>
    let wide := encodeWide f
    let sec := second && (clsOf f == 3 || clsOf f == 6)
    some { wide := wide
           w := f + (if stop then 2 ^ 31 else 0) + (if wide then 2 ^ 30 else 0) +
             (if sec then 2 ^ 27 else 0) }

/-- A syllable's bytes, little-endian (R42). -/
def Syl.toBytes (x : Syl) : List Byte := leBytes x.bytes x.w

/-- The instruction whose bits are w, bit 0 the least significant bit of the first word; bits above
nbits are zero. -/
def decodeTableWord (nbits w : Nat) : Option Instr :=
  match decodeBytes (leBytes 8 (w % 2 ^ nbits)) with
  | .ok (i, _) => some i
  | .error _ => none

end Sys2Proof
end

