-- ==== Sys2Proof/Machine/State.lean ====
section
/-! DEFINITION. The state of the KX-440 as plain data, the reasons a step can stop, and the state
after power-on. Register files and tables are sparse (`SMap`): an entry that is not listed has the
reset value. Byte memories are lists of `Host.Cell` with rising addresses and no zero byte listed
(DESIGN CHOICE, log 2). -/

namespace Sys2Proof.Machine

/-- Why a step stops. -/
inductive Fault where
  /-- `step` on a device that took a fatal error: it holds every function in reset until a power
  cycle (R312), so no step follows. Raised by `step` only; safe. -/
  | heldInReset (cause : FatalCause)
  deriving DecidableEq, Repr

/-- Why an instruction has no meaning. -/
inductive Refusal where
  /-- The instruction has no meaning in the model yet. No arm of `exec` answers it; safe. -/
  | notModelled (mnemonic : String)
  deriving DecidableEq, Repr

/-- The part of a wall cycle that the step works on, in this order (DESIGN CHOICE, log 4). -/
inductive Phase where
  | inbox | background | release | land | boundary | fetch | issue | ports | guard | untimed
  | manage | finish
  deriving DecidableEq, Repr

/-- A natural error of the device or of its host link; what it does where it is met is the spec's. -/
inductive Upset where
  /-- register r of file S (0), V (1) or P (2) becomes uncorrectable (R286) -/
  | register (site file r : Nat)
  /-- a 64-bit word of a scratchpad (R135) -/
  | word (site w : Nat)
  /-- a slot of the instruction store (R246) -/
  | line (site slot : Nat)
  /-- a line of the tile file (R152) -/
  | tile (site l : Nat)
  /-- the n-th result in flight: a shadowed result, an accumulation, a known-answer test (R133, R152, R162) -/
  | result (site n : Nat)
  /-- a 32-byte block of a pseudo-channel (R234) -/
  | block (pch b : Nat)
  /-- CRC error of the oldest read data on its way, or of the oldest write command (R234) -/
  | crc (pch : Nat) (write : Bool)
  /-- an 8-byte unit of the sync SRAM (R259) -/
  | sync (u : Nat)
  /-- the host side reports poisoned data or a completion error to a transfer (R245) -/
  | transfer (site ch id : Nat)
  /-- the read of a launch's argument block met an uncorrectable error (R277) -/
  | argument (part queue : Nat)
  deriving DecidableEq, Repr

/-- An act of the outside world: an event row of the opcode table, the host die storing into its own
memory (R257), or an error (DESIGN CHOICE, log 24; DESIGN CHOICE, log 7). -/
inductive Input where
  | act (i : Instr)
  | hostStore (addr : Nat) (bytes : List Byte)
  /-- access of `size` bytes to a function's BAR0: a read, or a write of a value (R268, R270) -/
  | access (fn off size : Nat) (write : Option Word)
  /-- 8-byte read of a function's configuration space (R268) -/
  | configRead (fn off : Nat)
  /-- the VF enable of SR-IOV (R268) -/
  | vfEnable (on : Bool)
  /-- function-level reset of function 0 (R268) -/
  | pfReset
  /-- what the power and temperature sensors show from now on (R318) -/
  | sense (r : PowerReading)
  | upset (u : Upset)
  deriving DecidableEq, Repr

/-! ## Core -/

/-- A sticky latch: the operation with its extension applied, its header word, its last effective
address, and the second address of operations that step two (R51, R146, R219). -/
structure Latch where
  op : Instr
  raw : Half
  ext : Option Half
  ea : Int
  ea2 : Int
  deriving DecidableEq, Repr

/-- A hardware loop counter with the addresses it holds (R88). -/
structure Loop where
  count : Half
  act : Bool
  start : BitVec 54
  fin : BitVec 54
  deriving DecidableEq, Repr

/-- The weight latch of the matrix unit: K × N signed bytes in row order, the format, and the
scale bytes 2n + b (R153, R159). -/
structure Weights where
  k : Nat
  n : Nat
  mx : Bool
  w : List Byte
  scale : List Byte
  deriving DecidableEq, Repr

/-- The matrix unit: the weights in use, weight loads not yet in effect with the cycle from which
they are used, the cycle of the last TWL, and the occupied cycles of the array (R153, R154). -/
structure Matrix where
  weights : Option Weights
  loading : List (Nat × Weights)
  lastTwl : Option Nat
  busy : List (Nat × Nat)
  deriving DecidableEq, Repr

/-- What a timed result does when it lands. -/
inductive Effect where
  /-- nothing: only the flags, or only the shadow check, take effect -/
  | none
  /-- scalar register (R94) -/
  | sreg (r : Nat) (v : Word)
  /-- the bits of a vector register that `mask` selects (R113) -/
  | vreg (r : Nat) (mask v : VWord)
  /-- the bits of a predicate register that `mask` selects (R119) -/
  | preg (r : Nat) (mask v : Half)
  /-- control register written by CSRW (R96) -/
  | csr (n : Nat) (v : Word)
  /-- mailbox (R99) -/
  | mbox (n : Nat) (v : Word)
  /-- bytes of the tile file, and the lines whose poison mark is cleared or set (R152, R157, R158, R164) -/
  | tile (at_ : List (Nat × List Byte)) (clear set : List Nat)
  /-- OVC[t] := 0 (R158) -/
  | ovcClear (t : Nat)
  /-- TST.OV clears OVC[t]; the count goes to the port access that writes it (R157) -/
  | ovcStore (t : Nat)
  /-- saturations counted in OVC[t] (R164) -/
  | ovcCount (t : Nat) (sat : Nat)
  /-- accumulate m × n products, each with its NaN mark, into tile tc (R160); `bad`: rows from
  poisoned sources; `par`: draws of the parity errors that hit it (R152) -/
  | accumulate (tc m n : Nat) (v : List (Bool × Int)) (bad par : List Nat)
  /-- one online-softmax step (R163): scores, weights, shift; `bad` and `par` as above -/
  | softmax (tc tx m : Nat) (scores : List Int) (w : Weights) (qs : Nat) (asc : Int)
    (bad par : List Nat)
  /-- glint reading of XDRIFT with the references and status of the landing cycle (R203) -/
  | drift (vd a : Nat) (rg : List Int)
  /-- slots of lines overlapping a range become invalid (R248) -/
  | iinv (va len : Nat)
  /-- known-answer comparison (R162) -/
  | known (tr : Nat) (differs : Bool)
  /-- crossbar counter updates (R169, R173) -/
  | xcount (grp : Nat) (sat fb : Nat) (clip : BitVec 256)
  /-- trace record of TRC: payload, slot and freeze mark (R310) -/
  | trace (payload : BitVec 52) (slot : Nat) (freeze : Bool)
  deriving DecidableEq, Repr

/-- A timed result in flight (R74, R75). `land` counts in the time in which it was issued: cohort
cycles, or wall cycles in a handler. -/
structure Pend where
  land : Nat
  /-- order of issue (R48): 8 times the cycle of issue plus the slot position -/
  seq : Nat
  slot : Nat
  /-- cohort cycle of issue -/
  issued : Nat
  /-- a replay issues the operation again (R301) -/
  again : Bool
  /-- NCTL flags IV, DZ, OV, UN, IX, SQ in bits 0..5 (R28) -/
  flags : BitVec 6
  /-- a shadow check is made at landing (R133) -/
  shadow : Bool
  eff : Effect
  deriving DecidableEq, Repr

/-- What a timed scratchpad access does in its port cycle. -/
inductive Port where
  /-- bytes written; `again` as in `Pend` -/
  | write (bytes : List (Nat × Byte)) (shadow : Option Nat)
  /-- LDS: n bytes to a scalar register, zero-extended or not, landing at `land` -/
  | toS (r addr n : Nat) (u : Bool) (land : Nat)
  /-- VLD, VLDS, VGTH: (lane, address) pairs to a vector register; the 64-bit words that are read -/
  | toV (r : Nat) (lanes : List (Nat × Nat)) (words : List Nat) (land : Nat) (shadow : Bool)
  /-- TLD: a tile image -/
  | toTile (t addr land : Nat)
  /-- VTINT: the table at `addr`; source, mask, type, rounding mode, flush, landing (R126) -/
  | table (r addr : Nat) (src mask : VWord) (ty mode : Nat) (ftz : Bool) (land : Nat) (shadow : Bool)
  /-- PUSH: n bytes at addr to site `peer` at `dst`, written in port cycle `due` -/
  | push (addr n peer dst due member : Nat)
  /-- PULL at the remote core: n bytes to site `issuer` at `dst`, written in port cycle `due` -/
  | pull (addr n issuer dst due : Nat)
  /-- TST.OV: the 32 bytes of OVC[t]; `old` is the count taken when it was cleared (R157) -/
  | ovc (t addr : Nat) (old : Word)
  /-- XMV fallback from the copy at `addr`: group, destination, exponent register, columns, aligned
  mantissas, largest exponent, landing (R175) -/
  | fallback (addr grp vd sx cols : Nat) (x : List Int) (top land : Nat)
  /-- MWR: the 32 bytes of DRAM command `cmd` of pseudo-channel `pch` -/
  | toDram (addr pch cmd : Nat)
  deriving DecidableEq, Repr

/-- A timed access to one core's scratchpad. -/
structure Access where
  /-- port cycle (R136) -/
  due : Nat
  /-- place in the order of R137: class 1 peer writes, 2 own landing writes, 3 stores -/
  cls : Nat
  /-- within the class: sender's member number, or order of issue -/
  key : Nat
  issued : Nat
  again : Bool
  /-- gather window c..due in which the access excludes every other one (R143) -/
  window : Option Nat
  /-- 32-byte units touched -/
  units : List Nat
  /-- banks that a collision in an earlier cycle of the window took from it (R138) -/
  lost : List Nat
  act : Port
  deriving DecidableEq, Repr

/-- What is due at a bundle boundary (R287). -/
inductive BKind where
  | collision (tval : Word)
  | timing (tval : Word)
  | regionError (cause : Nat) (tval : Word)
  | latencyClass
  deriving DecidableEq, Repr

/-- A boundary event: taken before the first bundle that issues at `due` or later; `issued` is the
cycle in which the erring operation issued. -/
structure BEvent where
  due : Nat
  issued : Nat
  kind : BKind
  /-- a replay issues the erring operation again (R301) -/
  again : Bool := true
  deriving DecidableEq, Repr

/-- A register named in a preserve entry, with the uncorrectable mark that it had (R286, R302). -/
inductive Preserved where
  | s (r : Nat) (v : Word) (bad : Bool)
  | v (r : Nat) (v : VWord) (bad : Bool)
  | p (r : Nat) (v : Half) (bad : Bool)
  | t (r : Nat) (bytes : List Byte) (marks : List Nat)
  | block (nctl : Word) (stride : SMap Half) (tshape ovc mb ly : SMap Word)
  deriving DecidableEq, Repr

/-- A penumbra entry (R300). -/
inductive PEntry where
  | preserve (r : Preserved)
  /-- the old 32 bytes of a scratchpad unit, and which of its 64-bit words were uncorrectable -/
  | undo (unit : Nat) (old : List Byte) (bad : List Nat)
  /-- a landing at cohort cycle `at_` that a replay does not re-create -/
  | arrival (at_ : Nat) (e : Pend)
  /-- bytes seen from cohort cycle `at_` on that a replay does not store again; `port`: the port cycle of a
  timed write, none for an untimed delivery; `again`: the issue cycle of a write that a replay from before
  it issues again -/
  | delivery (at_ : Nat) (bytes : List (Nat × Byte)) (port again : Option Nat)
  /-- a tagged ALIGN issued at `at_` and its resume cycle -/
  | barrier (at_ resume : Nat)
  deriving DecidableEq, Repr

/-- What RBEGIN records outside the penumbra store (R300): as its bundle leaves it, since the region acts from
the next bundle (R75; DEDUCED, log 79). -/
structure Snapshot where
  latch : SMap Latch
  loops : SMap Loop
  stack : List Nat
  matrix : Matrix
  deriving DecidableEq, Repr

/-- An open recovery region (R300 to R304). -/
structure Region where
  /-- cohort cycle at which RBEGIN issued -/
  began : Nat
  /-- address of the bundle after RBEGIN's -/
  next : BitVec 54
  /-- cycle at which that bundle issues -/
  nextAt : Nat
  committed : Bool
  overflowed : Bool
  rollbacks : Nat
  snap : Snapshot
  /-- newest first -/
  entries : List PEntry
  deriving DecidableEq, Repr

/-- What the committed slots of a bundle whose higher slot trapped decided about what follows it:
transfer, extra cycles, halt. It takes effect when the same bundle is resumed above them (R288)
(DEDUCED, log 41). -/
structure Tail where
  pc : BitVec 54
  rep : Nat
  jump : Option (BitVec 54 × Nat)
  bubble : Nat
  halt : Bool
  deriving DecidableEq, Repr

/-- A handler running in place (R292). The context's own `flight` and `acc` meanwhile are the
afterglow of the trapped bundle's time (R289). -/
structure Handler where
  /-- cohort cycle of the trapped bundle -/
  cyc : Nat
  /-- the trapped bundle had issued at `cyc` (SRES ≥ 1 at entry, R294) -/
  issuedAt : Bool
  /-- results and accesses of handler bundles, counted in wall cycles -/
  flight : List Pend
  acc : List Access
  /-- boundary events of handler bundles, in wall cycles -/
  bev : List BEvent
  /-- latches and loop state saved at trap entry -/
  latch : SMap Latch
  loops : SMap Loop
  stack : List Nat
  tail : Option Tail
  /-- wall cycle in which the trap was taken -/
  entered : Nat
  /-- units that the committed slots' port cycle `cyc` has used, and the bytes it overwrote: the rest of
  the bundle shares that port cycle (R136, R138, R288) -/
  served : List Nat
  was : List (Nat × Byte)
  /-- wall cycle at which RFT executed -/
  returned : Option Nat
  /-- the rest of the trapped bundle issues in this wall cycle (R294) -/
  resuming : Bool
  deriving DecidableEq, Repr

/-- A replay of a rolled-back region (R303). -/
structure Replay where
  /-- wall cycle in which the replay of the first bundle issues -/
  startWall : Nat
  /-- wall cycle in which the hold began -/
  heldFrom : Nat
  /-- cohort cycle being replayed -/
  cyc : Nat
  /-- boundary at which the error was taken, and the address and repeat recorded there -/
  upTo : Nat
  upToPc : BitVec 54
  upToRep : Nat
  /-- what lands in that cycle had landed when the error was taken; where a hold began there it lands at
  release -/
  landed : Bool
  /-- region depth -/
  depth : Nat
  /-- arrivals, deliveries and barriers still to be applied, oldest first -/
  log : List PEntry
  deriving DecidableEq, Repr

/-- A LAYOUT not yet in effect: copies in the bundle issued when `left` reaches 0 see it (R243). -/
structure LyPend where
  /-- cohort cycle of issue -/
  issued : Nat
  /-- slot of the LAYOUT -/
  slot : Nat
  left : Nat
  n : Nat
  v : Word
  deriving DecidableEq, Repr

/-- The register context of a core, with the state that moves with it (R95, R100, R155, R289). -/
structure Ctx where
  s : SMap Word
  v : SMap VWord
  p : SMap Half
  /-- pending bits of S1..S63 (R84) -/
  pending : Word
  mb : SMap Word
  nctl : Word
  stride : SMap Half
  latch : SMap Latch
  loops : SMap Loop
  /-- active loops, innermost first (R88) -/
  stack : List Nat
  tstat : Word
  taddr : Word
  tval : Word
  tshape : SMap Word
  ovc : SMap Word
  xdone : SMap Word
  xnext : SMap Word
  ly : SMap Word
  lyPend : List LyPend
  tile : List Host.Cell
  /-- poisoned lines of the tile file (R152) -/
  poison : List Nat
  /-- poisoned lines whose uncorrectable error no read has met yet (R152, R286) -/
  badLine : List Nat
  matrix : Matrix
  /-- address of the bundle to issue -/
  pc : BitVec 54
  /-- repeat and slot at which it is taken up (R51, R288) -/
  rpos : Nat
  sres : Nat
  /-- the bundle is resumed, not issued anew (R81, R288) -/
  resumed : Bool
  /-- cycle in which it issues -/
  nextIssue : Nat
  /-- lines and decode checked for this issue (phase fetch) -/
  ready : Bool
  flight : List Pend
  acc : List Access
  bev : List BEvent
  /-- open regions, innermost first -/
  regions : List Region
  /-- waiting at ALIGN: tag and cycle of issue (R82) -/
  waiting : Option (Nat × Nat)
  halted : Bool
  handler : Option Handler
  replay : Option Replay
  deriving DecidableEq, Repr

/-- A line of the instruction store (R246). -/
inductive LineState where
  | staging | valid | failed
  deriving DecidableEq, Repr

/-- A slot of the instruction store that is not invalid: state, tag A[53:18], the 64 bytes as one
little-endian number, an uncorrectable-error mark, when staging makes progress, and whether the
line is discarded on arrival (R246, R248). -/
structure ILine where
  st : LineState
  tag : BitVec 36
  data : BitVec 512
  bad : Bool
  /-- wall cycle in which its read ends -/
  ready : Nat
  /-- the untimed operation that stages it -/
  op : Nat
  deriving DecidableEq, Repr

/-- A BLOCK lock in the issuing core's scratchpad (R140). -/
structure Lock where
  banks : List Nat
  /-- first and last cohort cycle in force -/
  from_ : Nat
  to_ : Nat
  deriving DecidableEq, Repr

/-- Atomic operation codes of R263. -/
inductive AtomOp where
  | add | swap | cas | and | or | xor | min | max | minu | maxu | fadd | ld
  deriving DecidableEq, Repr

/-- What an untimed operation is (R244, R262, R255). -/
inductive UKind where
  /-- XFR.G (get) or XFR.P: channel, identifier, issue time, scratchpad and host address, shape -/
  | xfr (get : Bool) (ch : Nat) (id : Nat) (T : Nat) (sa va : Nat) (ly : Word)
  /-- ATOM (ret) or RED: operation, size in bytes, sync space, address, operands, destination -/
  | atom (ret : Bool) (op : AtomOp) (bytes : Nat) (sp : Bool) (addr : Nat) (v c : Word) (sd : Nat)
  | fence
  /-- staging of n lines from an address: ISTAGE, or one line on demand -/
  | stage (addr n : Nat)
  deriving DecidableEq, Repr

/-- How far an untimed operation has come. -/
inductive UStage where
  /-- in the time-sorted buffer, or held back by R255 or R256 -/
  | waiting
  /-- begun: translating, moving units or travelling to its target -/
  | running
  /-- stopped at a translation fault until its retry entry is answered (R239) -/
  | faulted
  /-- its engine has read the word and has still to write it (R261) -/
  | rewriting
  /-- an ATOM was performed, its value travels back -/
  | returning
  /-- complete at CORE; at COHORT, PART and DEV; at SYS (R254) -/
  | atCore | atPort | atSys
  deriving DecidableEq, Repr

/-- A page that an untimed operation has translated, each once: its first byte, its size and its physical
first byte (R236, R238). -/
structure Page where
  va : Nat
  size : Nat
  pa : Nat
  deriving DecidableEq, Repr

/-- An untimed operation of a core, in issue order (R253, R267). -/
structure UOp where
  n : Nat
  coh : Nat
  scope : Nat
  kind : UKind
  stage : UStage
  /-- wall cycle of its next progress -/
  ready : Nat
  /-- pieces of a transfer still to move: (host address, scratchpad address, length) -/
  todo : List (Nat × Nat × Nat)
  /-- the pages it has translated -/
  pages : List Page
  /-- a walk slot walks for it until `ready` (R238) -/
  walk : Bool
  /-- units of which an XFR.P has still bytes to take: as it read them (R245) -/
  units : SMap (List Byte)
  /-- bytes read and not yet written to the host (XFR.P, an engine's rewriting), as (physical address,
  byte) -/
  held : List (Nat × Byte)
  /-- bytes of an XFR.G read with another piece's words: (host address, scratchpad address, byte) (R253) -/
  ahead : List (Nat × Nat × Byte) := []
  failed : Bool
  /-- old value of an ATOM on its way back -/
  old : Word
  /-- performed with an uncorrectable error (R259) -/
  bad : Bool
  deriving DecidableEq, Repr

/-- A trace record (R308). -/
structure TraceRec where
  payload : BitVec 52
  slot : BitVec 3
  kind : BitVec 8
  wcyc : Half
  ccyc : Half
  deriving DecidableEq, Repr

/-- A core's trace buffer and its control (R308, R309). -/
structure Trace where
  recs : SMap TraceRec
  kmask : BitVec 16
  tkind : BitVec 8
  post : BitVec 12
  frozen : Bool
  wptr : BitVec 12
  wrap : Bool
  /-- records still to be written after the trigger record -/
  armed : Option Nat
  deriving DecidableEq, Repr

/-- A context in a shadow slot or evicted, the cohort it belongs to, what else of the core returns
with it (CID, BLOCK locks, handler and entry address), and scratchpad bytes evicted with it (R296,
R297). -/
structure Saved where
  coh : Nat
  ctx : Ctx
  cid : Word
  locks : List Lock
  handlerPc : Option (BitVec 54)
  entryPc : BitVec 54
  /-- bus width and thermal class that the node was bound with (R185, R187) -/
  half : Bool
  therm : BitVec 2
  evicted : Bool
  spad : List (Nat × List Byte)
  /-- uncorrectable 64-bit words of the displaced granules (R135) -/
  bad : List Nat := []
  deriving DecidableEq, Repr

/-- Whether a core is free, in use by a cohort, or in frost (R295). -/
inductive Run where
  | free
  | bound (coh : Nat)
  | frozen (coh : Nat)
  deriving DecidableEq, Repr

/-- One core site. -/
structure Core where
  run : Run
  ctx : Ctx
  cid : Word
  spad : List Host.Cell
  /-- 64-bit words of the scratchpad with an uncorrectable error (R135) -/
  badWord : List Nat
  /-- S (0), V (1), P (2) registers with an uncorrectable error (R286) -/
  badReg : List (Nat × Nat)
  /-- the lines that the core has staged, whichever `.core` section holds them (R67, R246) -/
  istore : SMap ILine
  locks : List Lock
  /-- banks whose untimed port has served in this wall cycle (R139) -/
  portBusy : List Nat
  uops : List UOp
  nextUop : Nat
  trace : Trace
  shadow : List Saved
  /-- address of the `_handler` of the core's own section, and of the entry bundle, loaded at bind (R67, R277,
  R291) -/
  handlerPc : Option (BitVec 54)
  entryPc : BitVec 54
  deriving DecidableEq, Repr

/-! ## Crossbar bank -/

/-- Status of an array, with the codes of R178. -/
inductive ArrStatus where
  | calibrated | drift | programming | offline | retired
  deriving DecidableEq, Repr

/-- One crossbar array (R165, R192 to R207). -/
structure Arr where
  status : ArrStatus
  sealed_ : Bool
  /-- OFFS[l], 12 bits signed -/
  offs : SMap (BitVec 12)
  /-- GAIN[l] minus its nominal value 4,096, modulo 2^16 -/
  gain : SMap (BitVec 16)
  /-- measured conductance of cell 528·row + column, in 1/4,096 of a level spacing (DESIGN CHOICE, log 12) -/
  cells : SMap Nat
  /-- consumed spares: spare number and the data column it was given -/
  spares : SMap Nat
  /-- order in which spares were consumed, newest first -/
  sparesNew : List Nat
  gref : Option (List Int)
  fresh : Option (List Int)
  stale : Bool
  wear : Nat
  deriving DecidableEq, Repr

/-- An occupied window of a bank resource: 0..127 an array, 128 the down bus, 129 the up bus. -/
structure Occ where
  /-- cohort whose cycles it counts -/
  coh : Nat
  res : Nat
  from_ : Nat
  to_ : Nat
  deriving DecidableEq, Repr

/-- An effect of a calibration operation that is pending in the bank (R198). -/
inductive BankEffect where
  /-- the array's status becomes PROGRAMMING (R192) -/
  | programming (a : Nat)
  /-- cells settle to these conductances and wear rises (R199, R200) -/
  | settle (a : Nat) (cells : List (Nat × Nat)) (wear : Nat)
  | erase (a : Nat) (row : Option Nat) (wear : Nat)
  /-- offsets or gains land (R205) -/
  | offsets (a l0 : Nat) (v : List (BitVec 12))
  | gains (a l0 : Nat) (v : List (BitVec 16))
  | remap (a spr col : Nat)
  /-- the commit sweep ends (R205): range shift -/
  | sweep (a rs : Nat)
  /-- a drift evaluation lands (R203) -/
  | drift (a : Nat) (rg : List Int)
  deriving DecidableEq, Repr

/-- A pending bank effect: the cohort whose cycles it counts, the cycle it lands, order of issue. -/
structure BankPend where
  coh : Nat
  due : Nat
  seq : Nat
  eff : BankEffect
  deriving DecidableEq, Repr

/-- An XMV in flight from its issue cycle through its landing cycle (R174, R197). -/
structure Xmv where
  coh : Nat
  grp : Nat
  set : Bool
  from_ : Nat
  to_ : Nat
  deriving DecidableEq, Repr

/-- One crossbar bank with its registers (R166, R179 to R181, R195). -/
structure Bank where
  xgrp : SMap Word
  xovc : SMap Word
  xclip : BitVec 256
  /-- width and thermal class in force: they change between nodes (R185, R187; DEDUCED, log 11) -/
  half : Bool
  therm : BitVec 2
  /-- the last training of the bus ended at half width -/
  narrow : Bool
  retr : Nat
  xpamp : Word
  xvthr : Word
  xdthr : Word
  xrsel : Word
  xcres : Word
  arrs : SMap Arr
  occ : List Occ
  xmvs : List Xmv
  pend : List BankPend
  /-- content tags of groups (R189) -/
  tags : SMap Nat
  /-- arrays that a shard was programmed into: 2·group + set (R189, R208; DEDUCED, log 35) -/
  home : SMap Nat
  /-- wall cycle in which the vertical bus's retraining ends (R184) -/
  retraining : Option Nat
  /-- wall cycle of the last hardware glint evaluation of each array (R204) -/
  glintAt : SMap Nat
  deriving DecidableEq, Repr

/-! ## HBM pseudo-channel -/

/-- What a bank is doing (R221). -/
inductive BankState where
  | idle
  | opened (row : Nat)
  | busy (det : Nat) (until_ : Nat)
  deriving DecidableEq, Repr

/-- The history of drive cycles the guard keeps for one bank (R220), and its pending automatic
precharge (R223). -/
structure BankTime where
  st : BankState
  act : Option Nat
  pre : Option Nat
  rd : Option Nat
  wr : Option Nat
  auto : Option Nat
  owed : Int
  /-- refresh units received in the present frame (R227) -/
  units : Nat
  deriving DecidableEq, Repr

/-- The DRAM commands by operation (R219). -/
inductive DCmd where
  | act | pre | prea | rd | rda | wr | wra | ref | refp | rcp | rcbLd | rcbSt | rcbInv | zro
  deriving DecidableEq, Repr

/-- A DRAM command on its way to the guard, or accepted (R217). -/
structure Cmd where
  id : Nat
  cmd : DCmd
  site : Nat
  coh : Nat
  member : Nat
  slot : Nat
  issued : Nat
  hops : Nat
  bank : Nat
  row : Nat
  col : Nat
  /-- destination row of MRCP, staging line of MRCB, scratchpad address of a read -/
  arg : Nat
  /-- write data, once read -/
  data : List Byte
  deriving DecidableEq, Repr

/-- Read data on its way to a scratchpad (R217, R230). -/
structure Landing where
  site : Nat
  coh : Nat
  port : Nat
  addr : Nat
  data : List Byte
  issued : Nat
  hops : Nat
  bad : Bool
  seq : Nat
  deriving DecidableEq, Repr

/-- An operation of the pseudo-channel that ends later: what the rows or line hold from then on. -/
structure DramJob where
  bank : Nat
  done : Nat
  /-- destination: some row of a bank, or none for a staging line -/
  row : Option Nat
  line : Nat
  data : List Byte
  deriving DecidableEq, Repr

/-- Hold-mode record of a guard (R228, R229). -/
structure Custody where
  start : Nat
  /-- rows to reopen: bank and row -/
  recorded : List (Nat × Nat)
  nextRef : Nat
  busyUntil : Nat
  deriving DecidableEq, Repr

/-- One pseudo-channel with its timing guard. -/
structure Pch where
  mem : List Host.Cell
  /-- 32-byte blocks with an uncorrectable error (R234) -/
  bad : List Nat
  banks : SMap BankTime
  /-- recent activate-class units: drive cycle, bank group (R220) -/
  acts : List (Nat × Nat)
  /-- last column command per bank group -/
  cols : List (Nat × Nat)
  lastRd : Option Nat
  lastWr : Option Nat
  lastRef : Option Nat
  /-- row and column command accepted in this drive cycle (R221) -/
  rowAt : Option Nat
  colAt : Option Nat
  path : List Cmd
  nextCmd : Nat
  landing : List Landing
  jobs : List DramJob
  /-- wall cycle from which no refresh that has begun is in progress (R78, R229, R232) -/
  refUntil : Nat
  /-- valid staging lines -/
  valid : List Nat
  /-- contents of staging lines, 1,024·line + byte -/
  lines : List Host.Cell
  /-- pending MRCB operations: line, is it a load, last cycle (R224) -/
  linePend : List (Nat × Bool × Nat)
  frame : Option Nat
  hot : Bool
  custody : Option Custody
  /-- next idle-mode refresh, wall (R231) -/
  idleNext : Nat
  deriving DecidableEq, Repr

/-! ## Partitions, images, launches -/

/-- A cohort shape of an image (R329). -/
structure Shape where
  nm : Nat
  digital : Bool
  lat : Option Bool
  therm : Option Nat
  agmax : Nat
  nlpc : Nat
  entry : List Nat
  handler : List Nat
  scratch : List Nat
  hops : List Nat
  mhops : List Nat
  uses : List Nat
  deriving DecidableEq, Repr

/-- A node of the task graph (R272, R329). -/
structure NodeRec where
  vars : List Nat
  preds : List Nat
  wdog : Nat
  ovl : Bool
  deriving DecidableEq, Repr

/-- A placement (R329). -/
structure Place where
  lpc : Nat
  bank : Nat
  row : Nat
  rows : Nat
  deriving DecidableEq, Repr

/-- A group of a weight manifest (R329). -/
structure GroupRec where
  grp : Nat
  owns : Bool
  xgv : Nat
  tag : Nat
  deriving DecidableEq, Repr

/-- A shard of a weight manifest (R329). -/
structure ShardRec where
  grp : Nat
  setB : Bool
  tag : Nat
  len : Nat
  va : Nat
  digest : List Byte
  deriving DecidableEq, Repr

/-- Initial data of an image (R329, R330). -/
structure DataRec where
  placed : Bool
  sel : Nat
  sub : Nat
  addr : Nat
  /-- offset of the data bytes from BASE, for relocated fields -/
  off : Nat
  bytes : List Byte
  deriving DecidableEq, Repr

/-- A loaded image (R273). -/
structure Image where
  base : Nat
  len : Nat
  mbname : Nat
  mbrel : Nat
  shapes : List Shape
  nodes : List NodeRec
  places : List Place
  /-- relocated fields: offset and bit -/
  relocs : List (Nat × Nat)
  groups : List GroupRec
  shards : List ShardRec
  keySlot : Nat
  /-- SHA-384 of the manifest body; none: the image has no manifest (R208, R316) -/
  manifest : Option (List Byte)
  data : List DataRec
  /-- shards still to be programmed, and groups whose shard was rejected (R208, R209) -/
  unprogrammed : List Nat
  rejected : List Nat
  /-- shards whose first fetch failed, and the wall cycle from which they are fetched again (R209) -/
  refetch : SMap Nat
  deriving DecidableEq, Repr

/-- Where a node of a launch stands. -/
inductive NodeState where
  | waiting | bound | retired
  deriving DecidableEq, Repr

/-- Which variants a requeued node may take (R306). -/
inductive Requeue where
  | any | digital | half | therm (cls : Nat)
  deriving DecidableEq, Repr

/-- A launch in progress (R276, R281). -/
structure Launch where
  hseq : Nat
  img : Nat
  eset : Nat
  arg : Nat
  args : Option (List Word)
  nodes : SMap NodeState
  /-- requeued nodes: the rule for their next bind -/
  rule : SMap Requeue
  requeues : SMap Nat
  /-- status that ends the launch once bound nodes are done -/
  ending : Option Nat
  fcause : Nat
  fnode : Nat
  fabt : Nat
  fxfr : Nat
  freq : Nat
  deriving DecidableEq, Repr

/-- A start word accepted by a queue (R274). -/
structure StartWord where
  hseq : Nat
  img : Nat
  eset : Nat
  arg : Nat
  deriving DecidableEq, Repr

/-- A launch queue (R276). -/
structure Queue where
  prio : Nat
  en : Bool
  pre : Bool
  err : Bool
  words : List StartWord
  /-- start words, from the head on, that an ABORT drops once its launch has ended (R283) -/
  abort : Nat
  lastHseq : Nat
  launch : Option Launch
  deriving DecidableEq, Repr

/-- A 32-byte record as four words (R281, R311, R239). -/
structure Rec4 where
  w0 : Word
  w1 : Word
  w2 : Word
  w3 : Word
  deriving DecidableEq, Repr

/-- Who waits on a translation fault: an untimed operation of a core (R239). -/
structure Requester where
  site : Nat
  op : Nat
  deriving DecidableEq, Repr

/-- A translation fault: waiting for room, or open on the ring with its tag (R239, R240). -/
structure Retry where
  tag : Option Nat
  va : Nat
  kind : Nat
  src : Nat
  who : Requester
  coh : Nat
  ch : Nat
  id : Nat
  after : Bool
  hseq : Nat
  deriving DecidableEq, Repr

/-- Queue-trace records of one kind held back to be written as one: when the first came, how many,
their lengths together and the longest, header and word 2 of the last (R311; DESIGN CHOICE, log 17). -/
structure Merged where
  since : Nat
  count : Nat
  total : Nat
  longest : Nat
  head : Word
  w2 : Word
  deriving DecidableEq, Repr

/-- A frozen core's context kept in the frost area (R311). -/
structure FrostRec where
  ctx : Ctx
  site : Nat
  wcyc : Word
  deriving DecidableEq, Repr

/-- One partition with its virtual function's window. -/
structure Part where
  present : Bool
  sites : List Nat
  pchs : List Nat
  share : Nat
  /-- byte counters of the UCIe share: bytes towards the device and towards the host in the present turn, with
  what earlier turns left over, and the number of the turn (R16; DESIGN CHOICE, log 94) -/
  linkIn : Nat := 0
  linkOut : Nat := 0
  linkTurn : Nat := 0
  gran : Nat
  gran0 : Nat
  /-- physical granules: engine and granule of logical granule g -/
  granAt : List (Nat × Nat)
  /-- walk slots and TLB entries on each die, as the last create or resize gave them (R238) -/
  quota : List (Nat × Nat)
  rst : Bool
  ptroot : Word
  tlbinv : Option (Nat × Nat × Nat)
  rrbase : Word
  rrbad : Bool
  evbase : Word
  evw : Half
  dseq : Half
  evr : Half
  evcoal : Word
  argbase : Word
  imgstat : Word
  imgJob : Option (Nat × Nat × Nat)
  ovbase : Word
  ovgr : Nat
  rrw : Half
  rrr : Half
  rrTag : Nat
  queues : SMap Queue
  images : SMap Image
  retries : List Retry
  /-- records not yet written to the event ring -/
  records : List Rec4
  pendingRec : Nat
  oldestRec : Option Nat
  evcoalNow : Word
  /-- last queue served at each priority (R279) -/
  served : SMap Nat
  qtrace : SMap Rec4
  qtraceAt : Nat
  /-- holds by cohort number, dropped start words by 16 + queue -/
  merged : SMap Merged
  frost : List FrostRec
  /-- reclamation in progress until this wall cycle, and whether a reset, resize or release runs -/
  reclaim : Option Nat
  releasing : Bool
  reclaimPairs : List Nat
  reclaimPchs : List Nat
  reclaimGran : List (Nat × Nat)
  pp : Nat
  overSince : Option Nat
  underSince : Option Nat
  /-- interrupts sent: vectors 0, 1, 2 -/
  irq0 : Nat
  irq1 : Nat
  irq2 : Nat
  deriving DecidableEq, Repr

/-- Hold causes of R76 with what ends them. -/
inductive HoldCause where
  | miss (site : Nat)
  /-- `inH`: a handler's bundle waits -/
  | waits (site : Nat) (mask : Word) (inH : Bool)
  | waitx (site ch : Nat) (id : Half) (inH : Bool)
  | rollback (site : Nat)
  | fallback (site until_ : Nat)
  | retrain (site : Nat)
  | trap (site : Nat)
  | start
  deriving DecidableEq, Repr

/-- How a cohort's node stands. -/
inductive CohState where
  /-- bound, before W0 (R81) -/
  | starting
  | running
  | preempted
  /-- ended as a faulting node, waiting for its work to finish (R258) -/
  | ending
  deriving DecidableEq, Repr

/-- A bound cohort (R72, R277, R278). -/
structure Cohort where
  part : Nat
  num : Nat
  queue : Nat
  node : Nat
  hseq : Nat
  img : Nat
  var : Nat
  shape : Nat
  req : Bool
  eset : Nat
  members : List Nat
  pchs : List Nat
  hops : List Nat
  mhops : List Nat
  lpcs : List Nat
  spansDies : Bool
  bound : Nat
  wstart : Nat
  w0 : Option Nat
  /-- CCYC of the bundles that issue next -/
  ccyc : Nat
  /-- CCYC at the last release of a hold, 0 before the first (R229) -/
  relCcyc : Nat
  /-- the cohort was not held when this wall cycle began: it stands at a boundary (R76, R79) -/
  turn : Bool
  /-- the members issue in this wall cycle, so CCYC advances at its end (DESIGN CHOICE, log 8) -/
  adv : Bool
  st : CohState
  holds : List HoldCause
  holdStart : Option Nat
  /-- trace code of the first cause of the hold (R308) -/
  holdCode : Nat
  /-- the members' buffers have the record of the hold's start -/
  holdSaid : Bool
  /-- `holdStart` is the return from a pre-emption: the wait for the guards is no hold of R76 -/
  resuming : Bool
  /-- wall cycle in which the guards allow release (R229) -/
  releaseAt : Option Nat
  /-- wall cycle in which the guards have closed the banks and lines of a node whose members have all
  halted (R232) -/
  closeAt : Option Nat
  /-- wall cycles held or pre-empted since W0 (R73) -/
  held : Nat
  /-- requeue rule when the ending node is to be requeued (R306) -/
  requeue : Option Requeue
  /-- status with which the node ends the launch, when it ends it -/
  status : Option Nat
  /-- why the cohort is, or is to be, pre-empted, as a sum: 1 a queue of higher priority, 2
  over-temperature, 4 the power cap (R296) -/
  preempt : Nat
  /-- wall cycles counted against WDOG before the last resume, and where the count goes on (R280) -/
  wdogUsed : Nat
  restart : Nat
  deriving DecidableEq, Repr

/-- Reasons of a pre-emption (R296). -/
def queueCause : Nat := 1
def heatCause : Nat := 2
def capCause : Nat := 4

/-- The cohort is, or is to be, pre-empted for a reason among others. -/
def Cohort.asked (c : Cohort) (why : Nat) : Bool := c.preempt / why % 2 == 1

/-! ## The device -/

/-- A translation held by a TLB (R238). -/
structure TlbEntry where
  die : Nat
  part : Nat
  /-- first byte and size of the page -/
  va : Nat
  size : Nat
  pa : Nat
  w : Bool
  x : Bool
  deriving DecidableEq, Repr

/-- Registers and agents of the physical function (R269, R307, R309, R313, R319). -/
structure Pf where
  pmaddr : Word
  pmBusy : Option Nat
  pmStatus : Nat
  stage : Nat
  err : Nat
  /-- virtual functions are enabled (R268) -/
  vfEnable : Bool
  bootaddr : Word
  /-- the firmware image that boot read (R314) -/
  firmware : List Byte
  repaddr : Word
  /-- the repair record has changed since it was last written (R315) -/
  repDirty : Bool
  dumpbase : Word
  qtrcopy : Word
  qtrUntil : Option Nat
  attreq : Word
  attUntil : Option Nat
  trccopy : Word
  trcUntil : Option Nat
  errinj : Word
  pwr : Nat
  tmax : Nat
  pwrcap : Nat
  /-- CAP as of the last sample: the allowances in force -/
  capNow : Nat
  bankTemp : SMap Int
  stackTemp : SMap Int
  /-- bank temperatures at the last training of the vertical buses (R184) -/
  trained : SMap Int
  /-- what the sensors show, and the wall cycle of the next 10 µs sample (R318) -/
  sensed : PowerReading
  sampleAt : Nat
  deriving DecidableEq, Repr

/-- The bundle-level context of the operation slot being executed: what R49 to R56 give the slots
of the bundle, and what `exec` reports back to the issue of the bundle (DESIGN CHOICE, log 6). -/
structure Cur where
  site : Nat
  slot : Nat
  /-- address of the bundle, of the byte after it -/
  pc : BitVec 54
  next : BitVec 54
  /-- header word of the syllable (R286) -/
  raw : Half
  /-- broadcast port (R49) -/
  b : Option Word
  /-- XIMM extension of the slot (R56) -/
  ext : Option Half
  exts : List (Nat × Half)
  rpt : Nat
  rep : Nat
  stk : BitVec 6
  scope : Nat
  blockLen : Nat
  /-- addresses of the latch in a sticky re-issue (R51) -/
  sticky : Option (Int × Int)
  /-- effective addresses formed, for the latch -/
  ea : Option (Int × Int)
  /-- banks of the bundle's timed accesses (R140) -/
  banks : List Nat
  /-- a replay issues the operation again (R301) -/
  again : Bool
  trapped : Bool
  /-- RFT was executed with a true guard -/
  rft : Bool
  /-- taken control transfer or skipped loop body: target address and the cycles to its issue
  (R86, R89) -/
  jump : Option (BitVec 54 × Nat)
  /-- cycles in which nothing issues before the next bundle (R248, R301) -/
  bubble : Nat
  /-- HALT was executed with a true guard -/
  halt : Bool
  /-- code of a TRAP that committed its slot (R294) -/
  soft : Option (BitVec 8)
  deriving DecidableEq, Repr

/-- The whole device. -/
structure State where
  /-- wall cycles since power-on (DESIGN CHOICE, log 4) -/
  now : Nat
  phase : Phase
  cur : Cur
  /-- counter of free values (DESIGN CHOICE, log 5) -/
  fresh : Nat
  inbox : List (Nat × Input)
  /-- WCYC (R71) -/
  wcyc : Word
  pf : Pf
  /-- BAM state code of a site (R182) -/
  bam : SMap Nat
  parts : SMap Part
  /-- key 16·partition + cohort number -/
  cohorts : SMap Cohort
  cores : SMap Core
  banks : SMap Bank
  pchs : SMap Pch
  /-- SRAM of both engines: 2 MiB·die + byte (R259) -/
  sync : List Host.Cell
  /-- 4-byte words of the sync SRAM with an uncorrectable error -/
  syncBad : List Nat
  /-- host physical memory -/
  host : List Host.Cell
  /-- completion data of the host's last window read; none: Unsupported Request (R260, R270) -/
  rdata : Option Word
  tlb : List TlbEntry
  fatal : Option FatalCause
  deriving DecidableEq, Repr

/-! ## Reset values -/

def Matrix.empty : Matrix := { weights := none, loading := [], lastTwl := none, busy := [] }

/-- A register context with every register at its reset value (DESIGN CHOICE, log 1). -/
def Ctx.reset : Ctx :=
  { s := [], v := [], p := [], pending := 0, mb := [], nctl := 0, stride := [], latch := [],
    loops := [], stack := [], tstat := 0, taddr := 0, tval := 0, tshape := [], ovc := [],
    xdone := [], xnext := [], ly := [], lyPend := [], tile := [], poison := [], badLine := [],
    matrix := Matrix.empty, pc := 0, rpos := 0, sres := 0, resumed := false, nextIssue := 0,
    ready := false, flight := [],
    acc := [], bev := [], regions := [], waiting := none,
    halted := false, handler := none, replay := none }

/-- KMASK 0x1FB6, everything else 0 (R309). -/
def Trace.reset : Trace :=
  { recs := [], kmask := 0x1FB6, tkind := 0, post := 0, frozen := false, wptr := 0, wrap := false,
    armed := none }

def Core.reset : Core :=
  { run := .free, ctx := Ctx.reset, cid := 0, spad := [], badWord := [], badReg := [],
    istore := [], locks := [], portBusy := [], uops := [], nextUop := 0, trace := Trace.reset, shadow := [],
    handlerPc := none, entryPc := 0 }

/-- An array at grant: OFFLINE and sealed (R192, R193; DESIGN CHOICE, log 3). -/
def Arr.reset : Arr :=
  { status := .offline, sealed_ := true, offs := [], gain := [], cells := [], spares := [],
    sparesNew := [], gref := none, fresh := none, stale := false, wear := 0 }

/-- A bank with XVTHR = 16 and XDTHR = (TRIP 8, HINT 0x0100) (R195). -/
def Bank.reset : Bank :=
  { xgrp := [], xovc := [], xclip := 0, half := false, therm := 0, narrow := false, retr := 0, xpamp := 0,
    xvthr := 16, xdthr := 0x01000008, xrsel := 0, xcres := 0, arrs := [], occ := [], xmvs := [],
    pend := [], tags := [], home := [], retraining := none, glintAt := [] }

def BankTime.reset : BankTime :=
  { st := .idle, act := none, pre := none, rd := none, wr := none, auto := none, owed := 0,
    units := 0 }

def Pch.reset : Pch :=
  { mem := [], bad := [], banks := [], acts := [], cols := [], lastRd := none, lastWr := none,
    lastRef := none, rowAt := none, colAt := none, path := [], nextCmd := 0, landing := [],
    jobs := [], refUntil := 0, valid := [], lines := [], linePend := [], frame := none, hot := false,
    custody := none, idleNext := 0 }

def Queue.reset : Queue :=
  { prio := 0, en := false, pre := false, err := false, words := [], abort := 0, lastHseq := 0,
    launch := none }

/-- A partition that does not exist; also the window registers after a grant (R270, R271). -/
def Part.reset : Part :=
  { present := false, sites := [], pchs := [], share := 0, gran := 0, gran0 := 0, granAt := [], quota := [],
    rst := false, ptroot := 0, tlbinv := none, rrbase := 0, rrbad := false, evbase := 0, evw := 0,
    dseq := 0, evr := 0, evcoal := 0, argbase := 0, imgstat := 0, imgJob := none, ovbase := 0,
    ovgr := 0, rrw := 0, rrr := 0, rrTag := 0, queues := [], images := [], retries := [],
    records := [], pendingRec := 0, oldestRec := none, evcoalNow := 0, served := [], qtrace := [],
    qtraceAt := 0, merged := [], frost := [], reclaim := none, releasing := false, reclaimPairs := [],
    reclaimPchs := [], reclaimGran := [], pp := 0, overSince := none, underSince := none,
    irq0 := 0, irq1 := 0, irq2 := 0 }

/-- The physical function at power-on: every register 0 but PWRCAP = 1,400 (R313, R319). -/
def Pf.reset : Pf :=
  { pmaddr := 0, pmBusy := none, pmStatus := 0, stage := 0, err := 0, vfEnable := true, bootaddr := 0,
    firmware := [], repaddr := 0, repDirty := false,
    dumpbase := 0, qtrcopy := 0, qtrUntil := none, attreq := 0, attUntil := none, trccopy := 0,
    trcUntil := none, errinj := 0, pwr := 0, tmax := 0, pwrcap := 1400, capNow := 1400,
    bankTemp := [], stackTemp := [], trained := []
    sensed := { pwr := 0, pair := [], pch := [], link := [], bankTemp := [], stackTemp := [] }, sampleAt := 0 }

def Cur.reset : Cur :=
  { site := 0, slot := 0, pc := 0, next := 0, raw := 0, b := none, ext := none, exts := [],
    rpt := 0, rep := 0, stk := 0, scope := 0, blockLen := 0, sticky := none, ea := none,
    banks := [], again := true, trapped := false, rft := false, jump := none, bubble := 0,
    halt := false, soft := none }

/-- The device at power-on, before boot stage 1 (R314). -/
def State.reset : State :=
  { now := 0, phase := .inbox, cur := Cur.reset, fresh := 0, inbox := [(0, .act .boot)], wcyc := 0,
    pf := Pf.reset, bam := [], parts := [], cohorts := [], cores := [], banks := [], pchs := [],
    sync := [], syncBad := [], host := [], rdata := none, tlb := [], fatal := none }

end Sys2Proof.Machine
end

