-- ==== Sys2Proof/Machine/Maps.lean ====
section
/-! DEFINITION. Sparse tables and byte memories in their canonical form: keys strictly rising, no
entry that equals what an unlisted key reads as. -/

namespace Sys2Proof

/-! ## Tables -/

/-- The entry of a key. -/
def SMap.get? (m : SMap α) (k : Nat) : Option α :=
  match m with
  | [] => none
  | (j, v) :: l => if k = j then some v else SMap.get? l k

def SMap.get (m : SMap α) (d : α) (k : Nat) : α := (SMap.get? m k).getD d

/-- Remove every entry of a key. -/
def SMap.del (m : SMap α) (k : Nat) : SMap α :=
  match m with
  | [] => []
  | (j, v) :: l => if k = j then SMap.del l k else (j, v) :: SMap.del l k

/-- Set an entry, listed whatever its value. -/
def SMap.set (m : SMap α) (k : Nat) (v : α) : SMap α :=
  match m with
  | [] => [(k, v)]
  | (j, w) :: l =>
    if k < j then (k, v) :: (j, w) :: l
    else if k = j then (k, v) :: l
    else (j, w) :: SMap.set l k v

/-- Set an entry of a table whose unlisted entries read d. -/
def SMap.put [DecidableEq α] (m : SMap α) (d : α) (k : Nat) (v : α) : SMap α :=
  if v = d then SMap.del m k else SMap.set m k v

end Sys2Proof

namespace Sys2Proof.Machine

/-! ## Memories -/

/-- What an unlisted byte reads as (DESIGN CHOICE, log 2). -/
def blankByte : Byte := 0

/-- The canonical form: addresses strictly rising from `lo`, no blank byte listed. -/
def memFrom (lo : Nat) : List Host.Cell → Bool
  | [] => true
  | (a, b) :: l => decide (lo ≤ a) && b != blankByte && memFrom (a + 1) l

/-- A memory in canonical form. -/
def Memory.wf (m : List Host.Cell) : Bool := memFrom 0 m

/-- The byte at an address. -/
def memGet (m : List Host.Cell) (a : Nat) : Byte :=
  match m with
  | [] => blankByte
  | (j, b) :: l => if a = j then b else memGet l a

/-- Remove the entry of an address. -/
def memDel (m : List Host.Cell) (a : Nat) : List Host.Cell :=
  match m with
  | [] => []
  | (j, b) :: l => if a = j then memDel l a else (j, b) :: memDel l a

/-- Insert or replace the entry of an address. -/
def memIns (m : List Host.Cell) (a : Nat) (v : Byte) : List Host.Cell :=
  match m with
  | [] => [(a, v)]
  | (j, b) :: l =>
    if a < j then (a, v) :: (j, b) :: l
    else if a = j then (a, v) :: l
    else (j, b) :: memIns l a v

/-- Write one byte. -/
def memSet (m : List Host.Cell) (a : Nat) (v : Byte) : List Host.Cell :=
  if v = blankByte then memDel m a else memIns m a v

/-- Write consecutive bytes from an address upward. -/
def memPut (m : List Host.Cell) (a : Nat) : List Byte → List Host.Cell
  | [] => m
  | b :: bs => memPut (memSet m a b) (a + 1) bs

/-- Write (address, byte) pairs in order. -/
def memPuts (m : List Host.Cell) : List (Nat × Byte) → List Host.Cell
  | [] => m
  | (a, b) :: l => memPuts (memSet m a b) l

/-- Skip the entries below an address. -/
def memSkip (a : Nat) : List Host.Cell → List Host.Cell
  | [] => []
  | (j, b) :: l => if j < a then memSkip a l else (j, b) :: l

/-- n bytes from an address upward, of a memory whose entries below it are skipped. -/
def memTake : Nat → Nat → List Host.Cell → List Byte
  | 0, _, _ => []
  | n + 1, a, [] => blankByte :: memTake n (a + 1) []
  | n + 1, a, (j, b) :: l =>
    if j = a then b :: memTake n (a + 1) l else blankByte :: memTake n (a + 1) ((j, b) :: l)

/-- n consecutive bytes. -/
def memBytes (m : List Host.Cell) (a n : Nat) : List Byte := memTake n a (memSkip a m)

/-- Remove every entry of addresses a .. a + n - 1: the bytes become blank. -/
def memClear (m : List Host.Cell) (a n : Nat) : List Host.Cell :=
  match m with
  | [] => []
  | (j, b) :: l => if a ≤ j ∧ j < a + n then memClear l a n else (j, b) :: memClear l a n

end Sys2Proof.Machine
end

