-- ==== Sys2Proof/Machine/Access.lean ====
section
/-! DEFINITION. Reading and writing the parts of the state, the time a core lives in, trace records,
the log of recovery regions, holds. -/

namespace Sys2Proof.Machine

/-- What a meaning answers. -/
abbrev Out := Host.Outcome State Fault Refusal

/-! ## Parts of the state -/

def State.core (s : State) (i : Nat) : Core := SMap.get s.cores Core.reset i

def State.setCore (s : State) (i : Nat) (c : Core) : State :=
  { s with cores := SMap.put s.cores Core.reset i c }

def State.modCore (s : State) (i : Nat) (f : Core → Core) : State := s.setCore i (f (s.core i))

def State.ctx (s : State) (i : Nat) : Ctx := (s.core i).ctx

def State.setCtx (s : State) (i : Nat) (c : Ctx) : State := s.setCore i { s.core i with ctx := c }

def State.modCtx (s : State) (i : Nat) (f : Ctx → Ctx) : State := s.setCtx i (f (s.ctx i))

def State.bank (s : State) (i : Nat) : Bank := SMap.get s.banks Bank.reset i

def State.setBank (s : State) (i : Nat) (b : Bank) : State :=
  { s with banks := SMap.put s.banks Bank.reset i b }

def State.modBank (s : State) (i : Nat) (f : Bank → Bank) : State := s.setBank i (f (s.bank i))

def State.pch (s : State) (i : Nat) : Pch := SMap.get s.pchs Pch.reset i

def State.setPch (s : State) (i : Nat) (p : Pch) : State :=
  { s with pchs := SMap.put s.pchs Pch.reset i p }

def State.modPch (s : State) (i : Nat) (f : Pch → Pch) : State := s.setPch i (f (s.pch i))

def State.part (s : State) (i : Nat) : Part := SMap.get s.parts Part.reset i

def State.setPart (s : State) (i : Nat) (p : Part) : State :=
  { s with parts := SMap.put s.parts Part.reset i p }

def State.modPart (s : State) (i : Nat) (f : Part → Part) : State := s.setPart i (f (s.part i))

def Part.queue (p : Part) (q : Nat) : Queue := SMap.get p.queues Queue.reset q

def Part.setQueue (p : Part) (q : Nat) (x : Queue) : Part :=
  { p with queues := SMap.put p.queues Queue.reset q x }

def State.coh? (s : State) (k : Nat) : Option Cohort := SMap.get? s.cohorts k

def State.setCoh (s : State) (k : Nat) (c : Cohort) : State :=
  { s with cohorts := SMap.set s.cohorts k c }

/-- Change a bound cohort; nothing where none is bound. -/
def State.modCoh (s : State) (k : Nat) (f : Cohort → Cohort) : State :=
  match s.coh? k with
  | some c => s.setCoh k (f c)
  | none => s

/-- Partition of a cohort key. -/
def partOf (k : Nat) : Nat := k / 16

/-- The cohort that a core serves, frozen or not. -/
def State.cohOf (s : State) (i : Nat) : Option Nat :=
  match (s.core i).run with
  | .free => none
  | .bound k => some k
  | .frozen k => some k

def Bank.arr (b : Bank) (a : Nat) : Arr := SMap.get b.arrs Arr.reset a

def Bank.setArr (b : Bank) (a : Nat) (x : Arr) : Bank :=
  { b with arrs := SMap.put b.arrs Arr.reset a x }

def Bank.modArr (b : Bank) (a : Nat) (f : Arr → Arr) : Bank := b.setArr a (f (b.arr a))

def Bank.grp (b : Bank) (g : Nat) : Word := SMap.get b.xgrp 0 g

/-- Fold an update over a list. -/
def forAll (l : List α) (s : State) (f : α → State → State) : State := l.foldl (fun s x => f x s) s

/-- The next draw of a free value. -/
def State.draw (s : State) : Nat × State := (s.fresh, { s with fresh := s.fresh + 1 })

/-- One of several offending items: the spec does not say which a trap reports (DESIGN CHOICE, log 27). -/
def State.pick (s : State) (l : List α) (d : α) : α × State :=
  match l with
  | [x] => (x, s)
  | _ => let n := s.draw
         (l.getD (Config.choice n.1 % max l.length 1) d, n.2)

/-- Bits hi..lo of a word, as a number. -/
def bits (w : BitVec n) (hi lo : Nat) : Nat := w.toNat / 2 ^ lo % 2 ^ (hi + 1 - lo)

def bitAt (w : BitVec n) (k : Nat) : Bool := w.toNat / 2 ^ k % 2 == 1

/-- The word with bits hi..lo replaced. -/
def setBits (w : Word) (hi lo v : Nat) : Word :=
  let m : Word := BitVec.ofNat 64 ((2 ^ (hi + 1 - lo) - 1) * 2 ^ lo)
  (w &&& ~~~m) ||| (BitVec.ofNat 64 (v * 2 ^ lo) &&& m)

/-! ## Registers (R94) -/

/-- S[r]; S0 reads 0. -/
def Ctx.rs (c : Ctx) (r : Nat) : Word := if r = 0 then 0 else SMap.get c.s 0 r

/-- Write S[r]; S0 discards. -/
def Ctx.ws (c : Ctx) (r : Nat) (v : Word) : Ctx :=
  if r = 0 then c else { c with s := SMap.put c.s 0 r v }

def Ctx.rv (c : Ctx) (r : Nat) : VWord := SMap.get c.v 0 r

def Ctx.wv (c : Ctx) (r : Nat) (v : VWord) : Ctx := { c with v := SMap.put c.v 0 r v }

/-- P[r]; P0 reads all ones. -/
def Ctx.rp (c : Ctx) (r : Nat) : Half := if r = 0 then 0xFFFFFFFF else SMap.get c.p 0 r

/-- Write P[r]; P0 discards. -/
def Ctx.wp (c : Ctx) (r : Nat) (v : Half) : Ctx :=
  if r = 0 then c else { c with p := SMap.put c.p 0 r v }

def Ctx.rmb (c : Ctx) (r : Nat) : Word := SMap.get c.mb 0 r

def Ctx.loop (c : Ctx) (n : Nat) : Loop :=
  SMap.get c.loops { count := 0, act := false, start := 0, fin := 0 } n

def Ctx.setLoop (c : Ctx) (n : Nat) (l : Loop) : Ctx :=
  { c with loops := SMap.put c.loops { count := 0, act := false, start := 0, fin := 0 } n l }

/-- The pending bit of a scalar register (R84). -/
def Ctx.pend (c : Ctx) (r : Nat) : Bool := bitAt c.pending r

def Ctx.setPend (c : Ctx) (r : Nat) (b : Bool) : Ctx :=
  { c with pending := setBits c.pending r r (if b then 1 else 0) }

/-- Slot k's stride, as a signed number (R52). -/
def Ctx.step (c : Ctx) (k : Nat) : Int := (SMap.get c.stride 0 k).toInt

/-! ## Time -/

/-- A handler's bundles are issuing (INH = 1, R292). -/
def Ctx.inHandler (c : Ctx) : Bool :=
  match c.handler with
  | some h => h.returned.isNone
  | none => false

/-- CCYC of the bundles that a core's cohort issues next. -/
def State.ccycOf (s : State) (i : Nat) : Nat :=
  match s.cohOf i with
  | some k => match s.coh? k with
    | some c => c.ccyc
    | none => 0
  | none => 0

/-- The cycle in which a core issues: cohort time, wall time in a handler, the replayed cycle in a
replay (R292, R303). -/
def State.timeOf (s : State) (i : Nat) : Nat :=
  match (s.ctx i).replay with
  | some r => r.cyc
  | none =>
    match (s.ctx i).handler with
    | some h => if h.resuming then h.cyc else s.now
    | none => s.ccycOf i

/-- The cohort cycle of a core's present issue: a handler's is its trapped bundle's (R292). -/
def State.cycOf (s : State) (i : Nat) : Nat :=
  match (s.ctx i).replay with
  | some r => r.cyc
  | none =>
    match (s.ctx i).handler with
    | some h => h.cyc
    | none => s.ccycOf i

/-! ## Trace (R308, R309) -/

/-- Write a record into a buffer, with the trigger's countdown. -/
def Trace.write (t : Trace) (kind slot payload ccyc wcyc : Nat) : Trace :=
  if t.frozen || t.armed == some 0 || !(kind != 0 && bitAt t.kmask kind) then t
  else
    let r : TraceRec := { payload := BitVec.ofNat 52 payload, slot := BitVec.ofNat 3 slot,
                          kind := BitVec.ofNat 8 kind, wcyc := BitVec.ofNat 32 wcyc,
                          ccyc := BitVec.ofNat 32 ccyc }
    let left := match t.armed with
      | some n => some (n - 1)
      | none => if t.tkind.toNat == kind then some t.post.toNat else none
    { t with recs := SMap.set t.recs t.wptr.toNat r
             wptr := t.wptr + 1
             wrap := t.wrap || t.wptr == 4095
             armed := left }

/-- A record of an event of core i, in a replay too (R308). -/
def State.traceEvent (s : State) (i kind slot payload d : Nat) : State :=
  s.modCore i fun c =>
    { c with trace := c.trace.write kind slot payload (s.cycOf i + d) (s.wcyc.toNat + d) }

/-- A record of core i's buffer with the cycles that stand d cycles from now; replayed bundles write none. -/
def State.traceAt (s : State) (i kind slot payload d : Nat) : State :=
  if (s.ctx i).replay.isSome then s else s.traceEvent i kind slot payload d

/-- A record of core i's buffer with the cycles of now. -/
def State.traceRec (s : State) (i kind slot payload : Nat) : State := s.traceAt i kind slot payload 0

/-- Append a record to a partition's queue trace (R311). -/
def State.qtr (s : State) (p : Nat) (r : Rec4) : State :=
  s.modPart p fun x =>
    { x with qtrace := SMap.set x.qtrace x.qtraceAt r
             qtraceAt := (x.qtraceAt + 1) % 2097152 }

/-- Header word of a queue-trace record. -/
def qtrHead (type queue cohort hseq node : Nat) : Word :=
  BitVec.ofNat 64 (type + queue % 8 * 2 ^ 8 + cohort % 16 * 2 ^ 11 + hseq % 65536 * 2 ^ 16 +
    node % 2 ^ 32 * 2 ^ 32)

/-- A record about a bound cohort. -/
def State.qtrCoh (s : State) (c : Cohort) (type : Nat) (w2 w3 : Word) : State :=
  s.qtr c.part { w0 := qtrHead type c.queue c.num c.hseq c.node, w1 := s.wcyc, w2 := w2, w3 := w3 }

/-- A further record would be more than 1,000,000 of the partition in one second. -/
def State.qtrCrowded (s : State) (p : Nat) : Bool :=
  let x := s.part p
  match SMap.get? x.qtrace ((x.qtraceAt + 1097152) % 2097152) with
  | some r => s.wcyc.toNat < r.w1.toNat + 2000000000
  | none => false

/-- Hold a record back, to be written with others of its kind. -/
def State.qtrMerge (s : State) (p key : Nat) (head w2 : Word) (len : Nat) : State :=
  s.modPart p fun x =>
    let m := (SMap.get? x.merged key).getD
      { since := s.now, count := 0, total := 0, longest := 0, head := head, w2 := w2 }
    let m := { m with count := m.count + 1, total := m.total + len, longest := max m.longest len
                      head := head, w2 := w2 }
    { x with merged := SMap.set x.merged key m }

/-- A record that is merged while the partition's records are crowded: a hold, of key the cohort
number, or a dropped start word, of key 16 + queue. -/
def State.qtrOften (s : State) (p key : Nat) (r : Rec4) (len : Nat) : State :=
  if s.qtrCrowded p then s.qtrMerge p key r.w0 r.w2 len else s.qtr p r

/-- The record that merged ones leave. -/
def Merged.record (m : Merged) (key : Nat) (wcyc : Word) : Rec4 :=
  if key < 16 then
    { w0 := setBits m.head 7 0 5, w1 := wcyc, w2 := BitVec.ofNat 64 m.count
      w3 := BitVec.ofNat 64 (m.total % 2 ^ 32 + m.longest % 2 ^ 32 * 2 ^ 32) }
  else { w0 := m.head, w1 := wcyc, w2 := m.w2, w3 := BitVec.ofNat 64 m.count }

/-- Write the merged records whose millisecond has passed. -/
def State.qtrFlush (s : State) (p : Nat) : State :=
  let l := (s.part p).merged.filter fun e => e.2.since + 2000000 ≤ s.now
  let s := s.modPart p fun x => { x with merged := x.merged.filter fun e => s.now < e.2.since + 2000000 }
  forAll l s fun e s => s.qtr p (e.2.record e.1 s.wcyc)

/-! ## The penumbra store (R300) -/

/-- Bytes that a result delivers. -/
def Effect.size (e : Effect) : Nat :=
  match e with
  | .none | .iinv .. | .known .. | .trace .. => 0
  | .preg .. => 4
  | .vreg .. | .drift .. => 128
  | .tile at_ _ _ => (at_.map fun x => x.2.length).foldl (· + ·) 0
  | .accumulate _ m n .. => 4 * m * n
  | .softmax _ _ m _ w .. => 4 * m * w.n + 8 * m
  | .sreg .. | .csr .. | .mbox .. | .ovcClear _ | .ovcStore _ | .ovcCount .. | .xcount .. => 8

/-- Bytes that an entry takes. -/
def PEntry.size (e : PEntry) : Nat :=
  match e with
  | .preserve (.s ..) => 16
  | .preserve (.v ..) => 136
  | .preserve (.p ..) => 12
  | .preserve (.t ..) => 4104
  | .preserve (.block ..) => 832
  | .undo .. => 40
  | .arrival _ p => 8 + p.eff.size
  | .delivery _ b .. => 8 + b.length
  | .barrier _ _ => 8

def Ctx.penumbra (c : Ctx) : Nat :=
  (c.regions.map fun r => (r.entries.map PEntry.size).foldl (· + ·) 0).foldl (· + ·) 0

/-- A region is in effect in cohort cycle t: from the bundle after its RBEGIN on (R75, R302). -/
def Region.inForce (r : Region) (t : Nat) : Bool := decide (r.began < t)

/-- The innermost region in effect in cohort cycle t. -/
def Ctx.regionAt (c : Ctx) (t : Nat) : Option Region := c.regions.find? (·.inForce t)

/-- Mark every region in effect committed-through (R298, R301). -/
def Ctx.commitAll (c : Ctx) (t : Nat) : Ctx :=
  { c with regions := c.regions.map fun r => if r.inForce t then { r with committed := true } else r }

/-- An entry of cycle t at the head of the innermost region in effect. -/
def addEntry (t : Nat) (e : PEntry) : List Region → List Region
  | [] => []
  | r :: l => if r.inForce t then { r with entries := e :: r.entries } :: l else r :: addEntry t e l

/-- Add an entry of cohort cycle t to the innermost region in effect; one that does not fit marks every
such region committed-through and overflowed, and logging stops (R300). -/
def Ctx.log (c : Ctx) (t : Nat) (e : PEntry) : Ctx :=
  if (c.regionAt t).isNone || c.regions.any (·.overflowed) then c
  else if c.penumbra + e.size > 32768 then
    { c with regions := c.regions.map fun r =>
        if r.inForce t then { r with committed := true, overflowed := true } else r }
  else { c with regions := addEntry t e c.regions }

/-- A region holds an undo entry of a unit. -/
def Region.hasUndo (r : Region) (u : Nat) : Bool :=
  r.entries.any fun e => match e with
    | .undo v .. => v == u
    | _ => false

/-- The uncorrectable words of a scratchpad unit (R135). -/
def Core.badIn (c : Core) (u : Nat) : List Nat := c.badWord.filter fun w => w / 4 == u

/-- Undo entries of the units that a timed write of cycle t is about to touch (R300). -/
def Core.logUndo (c : Core) (t : Nat) (units : List Nat) : Core :=
  units.foldl (fun c u =>
    if (c.ctx.regionAt t).all (·.hasUndo u) then c
    else { c with ctx := c.ctx.log t (.undo u (memBytes c.spad (32 * u) 32) (c.badIn u)) }) c

/-- A replay from the innermost region in effect in cycle t issues an operation of cycle `issued` again. -/
def Ctx.reissues (c : Ctx) (t issued : Nat) : Bool := (c.regionAt t).all fun r => decide (r.began < issued)

/-! ## Scratchpad geometry (R134) -/

def spadSize : Nat := 786432

def bankOfUnit (u : Nat) : Nat := u % 192

def rowOfUnit (u : Nat) : Nat := u / 192

/-- The 32-byte units of n bytes at addr. -/
def unitsOf (addr n : Nat) : List Nat :=
  if n = 0 then []
  else (List.range ((addr + n - 1) / 32 - addr / 32 + 1)).map (addr / 32 + ·)

/-- The 64-bit words of n bytes at addr (R135). -/
def wordsOf (addr n : Nat) : List Nat :=
  if n = 0 then [] else (List.range ((addr + n - 1) / 8 - addr / 8 + 1)).map (addr / 8 + ·)

/-- Whole 64-bit words that a write covers: their uncorrectable marks go. A write of some of a word's bytes
leaves its error (DESIGN CHOICE, log 96). -/
def wholeWords (b : List (Nat × Byte)) : List Nat :=
  let u := (b.map (·.1)).eraseDups.map (· / 8)
  u.eraseDups.filter fun x => 8 ≤ u.count x

/-- Bytes enter the scratchpad (R135). -/
def Core.put (c : Core) (b : List (Nat × Byte)) : Core :=
  { c with spad := memPuts c.spad b, badWord := c.badWord.filter fun w => !(wholeWords b).contains w }

/-- Scratchpad words are uncorrectable. -/
def Core.markWords (c : Core) (l : List Nat) : Core := { c with badWord := (l ++ c.badWord).eraseDups }

/-- A block of bytes enters the scratchpad. -/
def Core.putBlock (c : Core) (a : Nat) (b : List Byte) : Core :=
  { c with spad := memPut c.spad a b, badWord := c.badWord.filter fun w => !(a ≤ 8 * w && 8 * w + 8 ≤ a + b.length) }

/-! ## Results in flight -/

/-- Add a result to the pipelines of the time in which core i issues. -/
def Ctx.addFlight (c : Ctx) (p : Pend) : Ctx :=
  match c.handler with
  | some h =>
    if h.returned.isNone then { c with handler := some { h with flight := h.flight ++ [p] } }
    else { c with flight := c.flight ++ [p] }
  | none => { c with flight := c.flight ++ [p] }

/-- Add an access of the core's own instructions. -/
def Ctx.addAcc (c : Ctx) (a : Access) : Ctx :=
  match c.handler with
  | some h =>
    if h.returned.isNone then { c with handler := some { h with acc := h.acc ++ [a] } }
    else { c with acc := c.acc ++ [a] }
  | none => { c with acc := c.acc ++ [a] }

/-- Order of issue of the operation being executed (R48). -/
def State.issueKey (s : State) : Nat := 8 * s.timeOf s.cur.site + s.cur.slot

/-- The operation being executed lands `eff` with `flags` at `off` cycles from its issue (R75). -/
def State.landing (s : State) (off : Nat) (flags : NFlags) (shadow : Bool) (eff : Effect) : State :=
  let i := s.cur.site
  let t := s.timeOf i
  s.modCtx i (·.addFlight
    { land := t + off, seq := s.issueKey, slot := s.cur.slot, issued := t, again := s.cur.again,
      flags := flags, shadow := shadow, eff := eff })

/-- The operation being executed reads or writes the scratchpad in port cycle `t + off` (R136). -/
def State.access (s : State) (off cls : Nat) (window : Bool) (units : List Nat) (act : Port) :
    State :=
  let i := s.cur.site
  let t := s.timeOf i
  let s := s.modCtx i (·.addAcc
    { due := t + off, cls := cls, key := s.issueKey, issued := t, again := s.cur.again,
      window := if window then some t else none, units := units, lost := [], act := act })
  { s with cur := { s.cur with banks := s.cur.banks ++ units.map bankOfUnit } }

/-- Add a boundary event in the time in which the core issues; a handler's stay with it until the trapped
bundle is resumed, also where they land after its RFT (R133, R294). -/
def Ctx.addBev (c : Ctx) (e : BEvent) : Ctx :=
  match c.handler with
  | some h =>
    if !h.resuming then { c with handler := some { h with bev := h.bev ++ [e] } }
    else { c with bev := c.bev ++ [e] }
  | none => { c with bev := c.bev ++ [e] }

/-- An event due at a bundle boundary of core i, `off` cycles from now (R287). -/
def State.boundary (s : State) (i off : Nat) (kind : BKind) : State :=
  let t := s.timeOf i
  s.modCtx i (·.addBev { due := t + off, issued := t, kind := kind, again := s.cur.again })

/-! ## Untimed operations -/

/-- Queue an untimed operation of cohort k behind the core's earlier ones. -/
def Core.pushUop (c : Core) (k scope : Nat) (kind : UKind) : Core :=
  { c with nextUop := c.nextUop + 1
           uops := c.uops ++ [{ n := c.nextUop, coh := k, scope := scope, kind := kind, stage := .waiting,
                                ready := 0, todo := [], pages := [], walk := false, units := [], held := [],
                                failed := false, old := 0, bad := false }] }

/-! ## Lines of the instruction store (R246, R248) -/

/-- Slot of the instruction store for a line's address. -/
def slotOfLine (a : Nat) : Nat := a / 64 % 4096

/-- Address of the line under a key of the store. Keys 0 .. 4,095 are its slots; a larger key holds the
request of a line that left its slot while it was being staged: it is discarded on arrival (DEDUCED,
log 29). -/
def lineAddr (slot : Nat) (l : ILine) : Nat := l.tag.toNat * 262144 + slot % 4096 * 64

/-- Make a slot invalid. The request of a line that is still being staged goes on outside the store. -/
def vacate (m : SMap ILine) (slot : Nat) : SMap ILine :=
  match SMap.get? m slot with
  | none => m
  | some l =>
    let rest := SMap.del m slot
    if l.st == .staging then SMap.set rest ((m.foldl (fun k e => max k e.1) 0 / 4096 + 1) * 4096 + slot) l
    else rest

/-- Slots whose line overlaps lo .. hi-1. -/
def slotsIn (m : SMap ILine) (lo hi : Nat) : List Nat :=
  (m.filter fun e => decide (e.1 < 4096 ∧ lineAddr e.1 e.2 < hi ∧ lo < lineAddr e.1 e.2 + 64)).map (·.1)

/-- Make every slot invalid whose line overlaps lo .. hi-1. -/
def Core.dropLines (c : Core) (lo hi : Nat) : Core :=
  { c with istore := (slotsIn c.istore lo hi).foldl vacate c.istore }

/-! ## Holds (R76) -/

/-- Add a hold cause; the first one starts the hold at wall cycle `first`, with its trace code (R308).
A cause that arises during a hold joins it (R79). One that arises while a resumed cohort waits for its
guards starts a hold of its own: the return is then recorded at once (DESIGN CHOICE, log 60). -/
def State.addHold (s : State) (k : Nat) (cause : HoldCause) (code first : Nat) : State :=
  match s.coh? k with
  | none => s
  | some c =>
    if c.st == .ending then s
    else
      let begins := c.holdStart.isNone || c.resuming
      let s := if c.resuming then forAll c.members s fun i s => s.traceRec i 12 0 0 else s
      s.setCoh k
        { c with holds := c.holds ++ [cause]
                 holdStart := if begins then some first else c.holdStart
                 holdCode := if begins then code else c.holdCode
                 holdSaid := c.holdSaid && !begins
                 resuming := false
                 releaseAt := none }

/-- A record in every member's buffer about its cohort, whatever that member does, with the cycles that
stand d cycles from now. -/
def State.traceCoh (s : State) (c : Cohort) (kind payload d : Nat) : State :=
  forAll c.members s fun i s => s.modCore i fun x =>
    { x with trace := x.trace.write kind 0 payload (c.ccyc + d) (s.wcyc.toNat + d) }

/-- Record the start of a hold where that is not done yet (R77, R308). -/
def State.sayHold (s : State) (k : Nat) : State :=
  match s.coh? k with
  | none => s
  | some c =>
    match c.holdStart with
    | none => s
    | some t =>
      if c.holdSaid || c.resuming then s
      else (s.setCoh k { c with holdSaid := true }).traceCoh c 4 c.holdCode (t - s.now)

/-- Record the end of the hold of cohort k, or its return from a pre-emption, in the members' buffers and
the queue trace (R77, R308, R311); nothing where the hold has not begun. -/
def State.sayRelease (s : State) (k : Nat) : State :=
  match s.coh? k with
  | none => s
  | some c =>
    match c.holdStart with
    | none => s
    | some t =>
      if c.resuming then s.traceCoh c 12 0 0
      else if !c.holdSaid && decide (s.now < t) then s
      else
        let len := s.now - t
        ((s.sayHold k).traceCoh c 5 len (t - s.now)).qtrOften c.part c.num
          { w0 := qtrHead 4 c.queue c.num c.hseq c.node, w1 := s.wcyc, w2 := BitVec.ofNat 64 c.ccyc
            w3 := BitVec.ofNat 64 (len % 2 ^ 32 + c.holdCode % 16 * 2 ^ 32) } len

/-- Remove the hold causes that a test selects. -/
def State.dropHold (s : State) (k : Nat) (f : HoldCause → Bool) : State :=
  s.modCoh k fun c => { c with holds := c.holds.filter fun h => !f h }

end Sys2Proof.Machine
end

