-- ==== Sys2Proof/Machine/Flags.lean ====
section
/-! DEFINITION. NCTL: rounding mode, flush to zero and the flags (R23, R24, R28), and the bounds of
integer results (R29). -/

namespace Sys2Proof.Machine

/-- NCTL.RM. -/
def Ctx.rm (c : Ctx) : Nat := bits c.nctl 1 0

/-- NCTL.FTZ. -/
def Ctx.ftz (c : Ctx) : Bool := bitAt c.nctl 2

/-- The mode of a rounding selector (R24). -/
def modeOf (rms : BitVec 3) (c : Ctx) : Nat := if rms.toNat < 4 then c.rm else rms.toNat - 4

/-- OR landing flags into NCTL (R28). -/
def Ctx.orFlags (c : Ctx) (f : NFlags) : Ctx :=
  { c with nctl := c.nctl ||| (f.zeroExtend 64 <<< 8) }

/-- The fields of NCTL that a write reaches: RM, FTZ and the six flags (R23). -/
def nctlMask : Word := 0x3F07

/-- wrap(x, w) as a pattern. -/
def wrapTo (w : Nat) (x : Int) : Nat := (x % 2 ^ w).toNat

/-- sat(x, w), signed bounds. -/
def satS (w : Nat) (x : Int) : Int :=
  if x < -(2 ^ (w - 1)) then -(2 ^ (w - 1)) else if x > 2 ^ (w - 1) - 1 then 2 ^ (w - 1) - 1 else x

/-- usat(x, w). -/
def satU (w : Nat) (x : Int) : Int := if x < 0 then 0 else if x > 2 ^ w - 1 then 2 ^ w - 1 else x

/-- A signed integer result with or without .SAT, and SQ when the bound replaced it (R29). -/
def intResult (w : Nat) (sat : Bool) (x : Int) : Nat × NFlags :=
  if sat then (wrapTo w (satS w x), if satS w x = x then fNone else fSQ) else (wrapTo w x, fNone)

/-- The same for an unsigned destination. -/
def uintResult (w : Nat) (sat : Bool) (x : Int) : Nat × NFlags :=
  if sat then (wrapTo w (satU w x), if satU w x = x then fNone else fSQ) else (wrapTo w x, fNone)

/-- A w-bit pattern read as signed. -/
def sval (w x : Nat) : Int := if x ≥ 2 ^ (w - 1) then (x : Int) - 2 ^ w else x

end Sys2Proof.Machine
end

