-- ==== Sys2Proof/Machine/Region.lean ====
section
/-! DEFINITION. Recovery regions: opening, preserving, closing, rolling back and replaying
(R299 to R304). -/

namespace Sys2Proof.Machine

/-- TSTAT.RDEPTH follows the number of open regions (R97). -/
def Ctx.depth (c : Ctx) : Ctx := { c with tstat := setBits c.tstat 26 24 c.regions.length }

/-- What RBEGIN records outside the penumbra store (R300). -/
def Ctx.snap (c : Ctx) : Snapshot :=
  { latch := c.latch, loops := c.loops, stack := c.stack, matrix := c.matrix }

/-- Open a region at the cycle t of its RBEGIN: it acts from the next bundle on (R75, R300, R302). -/
def Ctx.openRegion (c : Ctx) (t : Nat) : Ctx :=
  let r : Region :=
    { began := t, next := 0, nextAt := 0, committed := false, overflowed := false, rollbacks := 0,
      snap := c.snap, entries := [] }
  { c with regions := r :: c.regions }.depth

/-- The bundle of RBEGIN is complete: the region takes its snapshot, and replay starts at the next bundle
(DEDUCED, log 79). -/
def Ctx.regionNext (c : Ctx) (t : Nat) (pc : BitVec 54) (at_ : Nat) : Ctx :=
  { c with regions := c.regions.map fun r =>
      if r.began == t && r.nextAt == 0 then { r with next := pc, nextAt := at_, snap := c.snap } else r }

/-- File and number of a preserved register, the control block's as (4, 0) (R302). -/
def Preserved.key (x : Preserved) : Nat × Nat :=
  match x with
  | .s r .. => (0, r)
  | .v r .. => (1, r)
  | .p r .. => (2, r)
  | .t r .. => (3, r)
  | .block .. => (4, 0)

/-- The innermost region holds a preserve entry of a register. -/
def Ctx.preserved (c : Ctx) (kind r : Nat) : Bool :=
  match c.regions with
  | [] => false
  | q :: _ => q.entries.any fun e => match e with
    | .preserve y => y.key == (kind, r)
    | _ => false

/-- The registers of which an RPRES makes entries (R302). -/
def Ctx.toPreserve (c : Ctx) (kind first cnt : Nat) : List Nat :=
  ((List.range (cnt + 1)).map (first + ·)).filter fun r => !c.preserved kind r

/-- Lines of a tile register (R148). -/
def tileLines (t : Nat) : List Nat := (List.range 16).map (16 * t + ·)

/-- Register `r` of file `kind` as a preserve entry (R302). -/
def Core.snapshotReg (c : Core) (kind r : Nat) : Preserved :=
  let x := c.ctx
  match kind with
  | 0 => .s r (x.rs r) (c.badReg.contains (0, r))
  | 1 => .v r (x.rv r) (c.badReg.contains (1, r))
  | 2 => .p r (x.rp r) (c.badReg.contains (2, r))
  | 3 => .t r (memBytes x.tile (4096 * r) 4096) (x.poison.filter fun l => l / 16 == r)
  | _ => .block x.nctl x.stride x.tshape x.ovc x.mb x.ly

/-- An uncorrectable mark of register r of a file is set or cleared. -/
def Core.mark (c : Core) (file r : Nat) (bad : Bool) : Core :=
  let rest := c.badReg.filter (· != (file, r))
  { c with badReg := if bad then (file, r) :: rest else rest }

/-- Restore a preserved register. -/
def Core.restore (c : Core) (x : Preserved) : Core :=
  match x with
  | .s r v bad => { c.mark 0 r bad with ctx := c.ctx.ws r v }
  | .v r v bad => { c.mark 1 r bad with ctx := c.ctx.wv r v }
  | .p r v bad => { c.mark 2 r bad with ctx := c.ctx.wp r v }
  | .t r b m => { c with ctx := { c.ctx with
      tile := memPut c.ctx.tile (4096 * r) b
      poison := m ++ c.ctx.poison.filter fun l => l / 16 != r
      badLine := c.ctx.badLine.filter fun l => l / 16 != r } }
  | .block n st ts ov mb ly => { c with ctx := { c.ctx with
      nctl := n, stride := st, tshape := ts, ovc := ov, mb := mb, ly := ly } }

/-- The errors of a read of tile lines as they stood in context c (R152, R286): the read that first meets
an uncorrectable error reports it, with source 4; a read of lines poisoned before names one of them. What
was met is a poisoned line from then on (DEDUCED, log 63). -/
def State.lineErrors (s : State) (i : Nat) (c : Ctx) (lines : List Nat) : List BKind × State :=
  let met := lines.filter c.badLine.contains
  let bad := lines.filter fun l => c.poison.contains l && !c.badLine.contains l
  let p := if bad.isEmpty then (0, s) else s.pick bad 0
  ((if met.isEmpty then [] else [.regionError 0x18 4]) ++
     (if bad.isEmpty then [] else [.regionError 0x1B (BitVec.ofNat 64 p.1)]),
   if met.isEmpty then p.2
   else p.2.modCtx i fun c => { c with badLine := c.badLine.filter (!met.contains ·) })

/-- A region error for a read of poisoned lines, at the operation's landing (R152). -/
def State.readLines (s : State) (off : Nat) (lines : List Nat) : State :=
  let x := s.lineErrors s.cur.site (s.ctx s.cur.site) lines
  forAll x.1 x.2 fun k s => s.boundary s.cur.site off k

/-- REND: close the innermost region; undo entries of units that an enclosing region has logged are
dropped (R300). -/
def Ctx.closeRegion (c : Ctx) : Ctx :=
  match c.regions with
  | r :: o :: rest =>
    let keep := r.entries.filter fun e => match e with
      | .undo u .. => !(o :: rest).any (·.hasUndo u)
      | _ => true
    { c with regions := { o with entries := keep ++ o.entries } :: rest }.depth
  | _ => { c with regions := [] }.depth

/-- The value that REND lands (R302). -/
def Region.report (r : Region) : Word :=
  BitVec.ofNat 64 (r.committed.toNat + 2 * r.overflowed.toNat + 4 * (r.rollbacks % 256))

/-- A result landing in a region that a replay from it does not re-create (R300, R301). -/
def Ctx.logArrival (c : Ctx) (t : Nat) (p : Pend) : Ctx :=
  if p.again && c.reissues t p.issued then c else c.log t (.arrival t p)

/-- Entries that a replay from cycle b applies. -/
def PEntry.replayed (b : Nat) (e : PEntry) : Bool :=
  match e with
  | .arrival t p => t > b && !(p.again && p.issued > b)
  | .delivery t _ _ again => t > b && again.all (· ≤ b)
  | .barrier t _ => t > b
  | _ => false

/-- Position in the list of open regions of the one an error is charged to: the innermost that was
open when the erring operation issued at `issued` (R303). -/
def chargedTo (issued : Nat) (l : List Region) : Option Nat := l.findIdx? fun r => issued > r.began

/-- The charged region can be rolled back (R303 to R305). -/
def Region.canRoll (r : Region) : Bool := !r.committed && r.rollbacks < 2

/-- The undo entries of a list, newest first: unit, old bytes, uncorrectable words. -/
def undosOf (l : List PEntry) : List (Nat × List Byte × List Nat) :=
  l.filterMap fun e => match e with
    | .undo u b bad => some (u, b, bad)
    | _ => none

/-- An undo entry restores its unit. -/
def Core.undo (c : Core) (x : Nat × List Byte × List Nat) : Core :=
  { c with spad := memPut c.spad (32 * x.1) x.2.1
           badWord := x.2.2 ++ c.badWord.filter fun w => w / 4 != x.1 }

/-- Roll core i back to region k of its open regions, at boundary `e` of wall cycle now, and set up
the replay (R303). Results of operations that the replay does not issue stay in flight, with the errors that
are to land with them (DEDUCED, log 61).
The replay applies what any open region has logged since the charged one began: an enclosing region
holds what was logged before an earlier rollback to it closed the charged one (DEDUCED, log 80). -/
def State.rollback (s : State) (i k e : Nat) : State :=
  let core := s.core i
  let c := core.ctx
  match c.regions[k]? with
  | none => s
  | some r =>
    let deep := (c.regions.take k).map (·.entries)
    let inside : Nat → Bool := fun t => t > r.began
    let undo := undosOf (deep.flatten ++ r.entries)
    let saved := r.entries.filterMap fun e => match e with
      | .preserve x => some x
      | _ => none
    let kept := deep.flatten.filter (PEntry.replayed r.began) ++ r.entries
    let outer := ((c.regions.drop (k + 1)).map (·.entries)).flatten
    let log := ((kept ++ outer).filter (PEntry.replayed r.began)).reverse
    let core := saved.foldl Core.restore (undo.foldl Core.undo core)
    let c := core.ctx
    let c := { c with
      flight := c.flight.filter fun p => !(inside p.issued && p.again)
      acc := c.acc.filter fun a => !(inside a.issued && a.again)
      bev := (c.bev.filter fun (b : BEvent) => match b.kind with
        | .regionError .. => !inside b.issued || !b.again && decide (e < b.due)
        | _ => true).map fun (b : BEvent) => { b with due := max b.due e }
      lyPend := c.lyPend.filter fun l => !inside l.issued
      latch := r.snap.latch, loops := r.snap.loops, stack := r.snap.stack, matrix := r.snap.matrix
      regions := { r with rollbacks := r.rollbacks + 1, entries := kept } :: c.regions.drop (k + 1)
      replay := some
        { startWall := s.now + 8 + undo.length + saved.length, heldFrom := s.now, cyc := r.nextAt
          upTo := e, upToPc := c.pc, upToRep := c.rpos
          landed := ((s.cohOf i).bind s.coh?).any Cohort.turn, depth := c.regions.length - k, log := log }
      pc := r.next, rpos := 0, sres := 0, resumed := false, nextIssue := r.nextAt
      ready := false }
    s.setCore i { core with ctx := c.depth }

end Sys2Proof.Machine
end

