-- ==== Sys2Proof/Machine/Ops.lean ====
section
/-! DEFINITION. Taking a trap and returning from one (R286 to R295, R305), ending a node, and the
refusals a meaning uses. -/

namespace Sys2Proof.Machine

/-! ## Ending a node (R233, R258) -/

/-- Change the launch in progress of a queue. -/
def State.modLaunch (s : State) (p q : Nat) (f : Launch → Launch) : State :=
  s.modPart p fun x =>
    let y := x.queue q
    x.setQueue q { y with launch := y.launch.map f }

/-- The core serves cohort k, frozen or not. -/
def Core.serves (c : Core) (k : Nat) : Bool := c.run == .bound k || c.run == .frozen k

/-- An operation of cohort k that has not begun. -/
def UOp.unbegun (u : UOp) (k : Nat) : Bool := u.stage == .waiting && u.coh == k

/-- Discard the untimed operations of cohort k that have not begun, with the lines they were to stage; a
discarded ATOM clears its pending bit (R258). -/
def Core.dropWaiting (c : Core) (k : Nat) : Core :=
  let gone := c.uops.filter (·.unbegun k)
  let ctx := gone.foldl (fun x u => match u.kind with
    | .atom true _ _ _ _ _ _ sd => if sd == 0 then x else x.setPend sd false
    | _ => x) c.ctx
  { c with ctx := if c.serves k then ctx else c.ctx
           uops := c.uops.filter fun u => !u.unbegun k
           istore := c.istore.filter fun l => !(l.2.st == .staging && gone.any (·.n == l.2.op)) }

/-- Discard cohort k's saved context: the next older one keeps the displaced granules, since the bytes
that the discarded node found there are its own (R297). -/
def discardSaved (k : Nat) : List Saved → List Saved
  | [] => []
  | x :: rest =>
    if x.coh = k then
      match rest with
      | [] => []
      | o :: r =>
        let more := x.spad.filter fun g => !o.spad.any (·.1 == g.1)
        { o with spad := o.spad ++ more
                 bad := o.bad ++ x.bad.filter fun w => more.any (·.1 == w / 512 * 4096) } :: r
    else x :: discardSaved k rest

/-- What the end of cohort k's node leaves of a member's timed work: nothing in flight, no handler, no
replay; a pre-empted context is discarded. -/
def Core.stop (c : Core) (k : Nat) : Core :=
  let on := c.serves k
  let c := c.dropWaiting k
  if !on then { c with shadow := discardSaved k c.shadow }
  else
    { c with locks := [], ctx := { c.ctx with
        flight := [], acc := [], bev := [], handler := none, replay := none, waiting := none,
        regions := [], ready := false } }

/-- The guard of a faulting node's pseudo-channel: nothing more is driven, read data is discarded,
every bank is precharged, the lines are invalid, idle mode returns (R233). The interval of idle mode begins
where a running cohort leaves the pseudo-channel, and goes on where it was idle or in custody (R231). -/
def Pch.fence (p : Pch) (now : Nat) (used : Bool) : Pch :=
  { p with path := [], landing := [], banks := [], acts := [], cols := [], lastRd := none,
           lastWr := none, lastRef := none, rowAt := none, colAt := none, valid := [],
           linePend := [], frame := none, custody := none,
           idleNext := match p.custody with
             | some c => c.nextRef
             | none => if used then now + 3900 else p.idleNext }

/-- End cohort k as a faulting node; `requeue` says whether and how it is bound again, `status` what
its launch ends with otherwise. What issues, enters a port or is driven in the wall cycle of a trap's
bundle is part of that cycle (R47, R295), so a node that ends at issue stops once the ports have
worked (`State.stopEnded`). -/
def State.endNode (s : State) (k : Nat) (requeue : Option Requeue) (status : Option Nat) : State :=
  match s.coh? k with
  | none => s
  | some c =>
    if c.st == .ending then s
    else
      let late := s.phase == .issue
      let s := (s.sayRelease k).setCoh k
        { c with st := .ending, holds := [], holdStart := none, holdSaid := false, resuming := false
                 releaseAt := none, requeue := requeue, status := status, adv := late && c.adv }
      let s := if late then s.modCtx s.cur.site fun x => { x with ready := false }
               else forAll c.members s fun i s => s.modCore i (·.stop k)
      forAll c.pchs s fun p s => s.modPch p (Pch.fence · s.now (c.st == .running))

/-- The nodes that ended while their bundles issued stop (DEDUCED, log 47). -/
def State.stopEnded (s : State) : State :=
  forAll s.cohorts s fun e s =>
    if e.2.st == .ending then
      let s := forAll e.2.members s fun i s => s.modCore i (·.stop e.1)
      if e.2.adv then forAll e.2.pchs s fun p s => s.modPch p (Pch.fence · s.now true) else s
    else s

/-- Note the first trap that faulted, escalated or requeued a node of the launch (R281). -/
def State.noteCause (s : State) (k cause : Nat) : State :=
  match s.coh? k with
  | none => s
  | some c => s.modLaunch c.part c.queue fun l =>
      if l.fcause == 0 then { l with fcause := cause, fnode := c.node } else l

/-- The same, with queue-trace records 6 and 7: a trap of disposition F, N, Q or E, or an escalation
(R311). -/
def State.noteFault (s : State) (i k cause : Nat) : State :=
  let s := s.noteCause k cause
  match s.coh? k with
  | none => s
  | some c =>
    let x := s.ctx i
    (s.qtrCoh c 6 x.tstat x.taddr).qtrCoh c 7 x.tval (BitVec.ofNat 64 i)

/-! ## Traps (R286) -/

/-- What a trap does next (R286). -/
inductive Disposition where
  | handled | node | frost | requeue | region
  deriving DecidableEq, Repr

/-- The disposition column of R286. -/
def disposition (cause : Nat) : Disposition :=
  match cause with
  | 0x06 => .node
  | 0x0B => .frost
  | 0x11 => .requeue
  | 0x12 => .requeue
  | 0x13 => .frost
  | 0x14 => .frost
  | 0x1E => .node
  | 0x1F => .node
  | c => if 0x18 ≤ c && c ≤ 0x1D then .region else .handled

/-- The variants open to a node requeued for a cause (R306). -/
def requeueRule (cause : Nat) : Requeue :=
  match cause with
  | 0x11 => .digital
  | 0x12 => .half
  | _ => .any

/-- A trap: cause, SRES, slot of the trace record, TVAL, the bundle and repeat it describes,
whether that bundle had issued, and for a region error the cycle in which the erring operation
issued. -/
structure Trap where
  cause : Nat
  sres : Nat
  slot : Nat
  tval : Word
  pc : BitVec 54
  rep : Nat
  issued : Bool
  erring : Nat
  deriving DecidableEq, Repr

/-- TSTAT, TADDR and TVAL of a trap (R97, R288). -/
def Ctx.trapRegs (c : Ctx) (t : Trap) : Ctx :=
  { c with tstat := setBits (setBits (setBits c.tstat 23 16 t.cause) 15 8 t.rep) 2 0 t.sres
           taddr := t.pc.zeroExtend 64
           tval := t.tval }

/-- A CSRW to TSTAT, TADDR or TVAL whose own bundle traps is discarded, and enters no afterglow buffer
(R96). -/
def Ctx.dropTrapWrites (c : Ctx) (cyc : Nat) : Ctx :=
  { c with flight := c.flight.filter fun p =>
      !(p.issued == cyc && (match p.eff with
        | .csr n _ => n == 1 || n == 2
        | _ => false)) }

/-- Entries of n bytes. -/
def entriesOf (n : Nat) : Nat := max 1 ((n + 127) / 128)

/-- Afterglow entries of a result in flight: one per 128 bytes it carries (R289). Trace records, the
invalidation of lines, flags and shadow checks are no result that carries bytes. -/
def Pend.entries (p : Pend) : Nat :=
  match p.eff with
  | .none | .iinv .. | .trace .. => 0
  | e => if p.shadow then 0 else entriesOf e.size

/-- Afterglow entries of a timed access that is not made yet: what it carries to the core's registers
or scratchpad. Fabric transfers count where they are addressed to. -/
def Port.entries (a : Port) : Nat :=
  match a with
  | .write b _ => entriesOf b.length
  | .toS .. | .toV .. | .table .. | .ovc .. => 1
  | .toTile .. => 32
  | .fallback _ _ _ _ cols _ _ _ => cols / 32 + 2
  | .push .. | .pull .. | .toDram .. => 0

/-- Entries of a fabric transfer that is still to be read, addressed to core i (R147). -/
def Port.sends (a : Port) (i : Nat) : Nat :=
  match a with
  | .push _ n peer _ _ _ => if peer = i then entriesOf n else 0
  | .pull _ n issuer _ _ => if issuer = i then entriesOf n else 0
  | _ => 0

/-- Entries that core i's afterglow buffer takes for everything in flight to it: results, accesses,
fabric transfers addressed to it, layouts not yet in effect (R147, R243, R289). -/
def State.afterglow (s : State) (i : Nat) : Nat :=
  let c := s.ctx i
  (c.flight.map Pend.entries).sum + (c.acc.map fun a => a.act.entries).sum + c.lyPend.length +
    (s.cores.map fun e => (e.2.ctx.acc.map fun a => a.act.sends i).sum).sum

/-- Entry of the handler (R292): the latches and loop state are saved and emptied, the status
written, and the handler's first bundle issues 4 wall cycles later (DEDUCED, log 22). -/
def Ctx.enter (c : Ctx) (t : Trap) (cyc now : Nat) (handler : BitVec 54) (tail : Option Tail) : Ctx :=
  let latch := if t.cause == 2 || t.cause == 3 then [] else c.latch
  let c := c.trapRegs t
  { c with
    tstat := setBits c.tstat 27 27 1
    handler := some { cyc := cyc, issuedAt := t.issued || (match c.handler with
                        | some h => h.issuedAt
                        | none => false),
                      flight := [], acc := [], bev := [], latch := latch,
                      loops := c.loops, stack := c.stack, tail := tail, entered := now,
                      served := ((c.handler.filter (·.resuming)).map (·.served)).getD [],
                      was := ((c.handler.filter (·.resuming)).map (·.was)).getD [], returned := none,
                      resuming := false }
    latch := [], loops := [], stack := []
    pc := handler, rpos := 0, sres := 0, resumed := false, nextIssue := now + 4, ready := false }

/-- What the slots of the present bundle have decided about what follows it. -/
def State.tail (s : State) : Tail :=
  { pc := s.cur.pc, rep := s.cur.rep, jump := s.cur.jump, bubble := s.cur.bubble,
    halt := s.cur.halt }

/-- The frost area keeps four contexts: a fifth replaces the oldest (R311). -/
def keepFrost (l : List FrostRec) (x : FrostRec) : List FrostRec :=
  if l.length < 4 then l ++ [x]
  else
    let old := l.foldl (fun a y => if y.wcyc < a then y.wcyc else a) x.wcyc
    l.set (l.findIdx fun y => y.wcyc = old) x

/-- Frost: the core keeps its context, drops its results, and issues nothing more (R295). -/
def State.freeze (s : State) (i k : Nat) : State :=
  let now := s.timeOf i
  let keep := s.phase == .issue
  let s := s.modCore i fun c => { c with run := .frozen k, ctx := { c.ctx with
    flight := [], acc := if keep then c.ctx.acc.filter (·.due ≤ now) else [] } }
  s.modPart (partOf k) fun p =>
    { p with frost := keepFrost p.frost { ctx := s.ctx i, site := i, wcyc := s.wcyc } }

/-- Escalation of a region error to its node (R305). -/
def State.escalate (s : State) (i k cause : Nat) : State :=
  (s.noteFault i k cause).endNode k (some .any) none

/-- The afterglow buffer overflows: cause 0x1E, and the node faults (R287, R289). -/
def State.overflow (s : State) (i k : Nat) (t : Trap) : State :=
  let t := { t with cause := 0x1E, sres := 0, tval := 0 }
  let s := s.traceEvent i 8 0 0x1E 0
  ((s.modCtx i (·.trapRegs t)).noteFault i k 0x1E).endNode k none (some 1)

/-- A region error: roll the charged region back, or escalate (R303 to R305). Either way it is the
launch's fault to note (R281, R311); what a rollback leaves in flight goes to the afterglow buffer. -/
def State.regionError (s : State) (i k : Nat) (t : Trap) : State :=
  let c := s.ctx i
  let e := s.ccycOf i
  let writeCrc := t.cause == 0x1D && bits t.tval 7 0 == 3
  match chargedTo t.erring c.regions with
  | none => s.escalate i k t.cause
  | some n =>
    match c.regions[n]? with
    | none => s.escalate i k t.cause
    | some r =>
      if r.canRoll && !c.inHandler && c.replay.isNone && !writeCrc then
        let s := ((s.noteFault i k t.cause).addHold k (.rollback i) 4 s.now).rollback i n e
        if s.afterglow i > 96 then s.overflow i k t else s
      else s.escalate i k t.cause

/-- The trace record of a trap: replayed bundles write none, but a boundary in a replay does (R308). -/
def State.sayTrap (s : State) (i : Nat) (t : Trap) : State :=
  if (s.ctx i).replay.isSome && t.issued then s else s.traceEvent i 8 t.slot (t.cause + 256 * t.sres) 0

/-- Take a trap on core i: the one operation by which every trap is taken. A handler's own collision is
a double trap (DEDUCED, log 57). A trap of disposition H on a core without a handler faults its node, and
writes no queue-trace record (R286, R311). -/
def State.takeTrap (s : State) (i : Nat) (t : Trap) : State :=
  match s.cohOf i with
  | none => s
  | some k =>
    let c := s.ctx i
    let again := c.inHandler && disposition t.cause != .region && t.cause != 0x1F
    let t := if again then { t with cause := 0x1F, tval := BitVec.ofNat 64 t.cause } else t
    let cyc := s.cycOf i
    let s := s.sayTrap i t
    let s := if t.issued then s.modCtx i (·.dropTrapWrites cyc) else s
    match disposition t.cause, (s.core i).handlerPc with
    | .handled, some h =>
      if c.replay.isSome then (s.modCtx i (·.trapRegs t)).escalate i k t.cause
      else if s.afterglow i > 96 then s.overflow i k t
      else
        let tail := if t.issued then some s.tail else c.handler.bind (·.tail)
        let s := s.modCtx i (·.enter t cyc s.now h tail)
        s.addHold k (.trap i) 7 (if t.issued then s.now + 1 else s.now)
    | .handled, none => ((s.modCtx i (·.trapRegs t)).noteCause k t.cause).endNode k none (some 1)
    | .region, _ => (s.modCtx i (·.trapRegs t)).regionError i k t
    | .requeue, _ =>
      ((s.modCtx i (·.trapRegs t)).noteFault i k t.cause).endNode k (some (requeueRule t.cause)) none
    | .frost, _ =>
      let s := ((s.modCtx i (·.trapRegs t)).traceEvent i 9 0 t.cause 0).freeze i k
      (s.noteFault i k t.cause).endNode k none (some 1)
    | .node, _ => ((s.modCtx i (·.trapRegs t)).noteFault i k t.cause).endNode k none (some 1)

/-- The trap of the operation slot being executed: lower slots have committed (R47, R288). -/
def State.slotTrap (s : State) (cause : Nat) (tval : Word) : State :=
  let s' := s.takeTrap s.cur.site
    { cause := cause, sres := s.cur.slot, slot := s.cur.slot, tval := tval, pc := s.cur.pc,
      rep := s.cur.rep, issued := true, erring := s.timeOf s.cur.site }
  { s' with cur := { s'.cur with trapped := true } }

/-- The illegal-instruction trap of the slot being executed (R286). -/
def State.illegal (s : State) : State := s.slotTrap 0x02 (s.cur.raw.zeroExtend 64)

/-- An operation that R293 bars from a handler takes the double trap at its slot. -/
def State.barred (s : State) (k : Out) : Out :=
  if (s.ctx s.cur.site).inHandler then
    let d := s.draw
    .next (d.2.slotTrap 0x1F (Config.openTval d.1))
  else k

/-- The same as an outcome. -/
def trapOut (s : State) (cause : Nat) (tval : Word) : Out := .next (s.slotTrap cause tval)

/-- A trap taken before any slot of the bundle issues: SRES = 0 (R46, R287). -/
def State.decodeTrap (s : State) (i cause : Nat) (tval : Word) (pc : BitVec 54) (rep : Nat) :
    State :=
  s.takeTrap i
    { cause := cause, sres := 0, slot := 0, tval := tval, pc := pc, rep := rep, issued := false,
      erring := s.cycOf i }

/-! ## Return (R294) -/

/-- RFT: INH := 0, and the saved latches and loop state come back; the trapped bundle is resumed
once the handler's results have landed. -/
def Ctx.return_ (c : Ctx) (now : Nat) : Ctx :=
  match c.handler with
  | none => c
  | some h =>
    { c with tstat := setBits c.tstat 27 27 0, latch := h.latch, loops := h.loops, stack := h.stack
             handler := some { h with returned := some now }, ready := false }

/-- Resume the trapped bundle from TADDR at SRES and RPOS (R288). -/
def Ctx.resume (c : Ctx) (cyc : Nat) : Ctx :=
  { c with pc := c.taddr.truncate 54, rpos := bits c.tstat 15 8, sres := bits c.tstat 2 0
           resumed := true, nextIssue := cyc, ready := false }

end Sys2Proof.Machine
end

