-- ==== Sys2Proof/Machine/Operands.lean ====
section
/-! DEFINITION. Operands: guards, the broadcast port, register sources, extended immediates,
effective addresses and their stepping in a sticky re-issue. -/

namespace Sys2Proof.Machine

/-- The context of the core whose slot is being executed. -/
def State.cx (s : State) : Ctx := s.ctx s.cur.site

/-! ## Guards (R43, R113) -/

/-- The guard as a lane mask. -/
def Ctx.mask (c : Ctx) (g : Guard) : Half :=
  let p := c.rp (g.toNat % 16)
  if bitAt g 4 then ~~~p else p

/-- The guard of an SC, MT, CA or CB operation: bit 0. -/
def Ctx.guard (c : Ctx) (g : Guard) : Bool := bitAt (c.mask g) 0

def State.guarded (s : State) (g : Guard) : Bool := s.cx.guard g

/-- The 1,024-bit mask of the lanes that a guard selects. -/
def laneMask (m : Half) : VWord :=
  BitVec.ofNat 1024
    ((List.range 32).foldl (fun a i => if bitAt m i then a + (2 ^ 32 - 1) * 2 ^ (32 * i) else a) 0)

/-! ## Sources -/

/-- The first scalar source of an MT, CA or CB operation: B where BS = 1, which must carry a value
(R49). -/
def withScalar (bs : Bool) (r : BitVec 6) (s : State) (k : Word → Out) : Out :=
  if bs then
    match s.cur.b with
    | some b => k b
    | none => .next s.illegal
  else k (s.cx.rs r.toNat)

/-- The uncorrectable-read injection is armed at a core (R307). -/
def State.injectsRead (s : State) (i : Nat) : Bool :=
  bitAt s.pf.errinj 12 && bits s.pf.errinj 11 8 == 2 && bits s.pf.errinj 6 0 == i

/-- A read of a vector register; an injected error adds bits that the spec leaves open (R307). -/
def State.readV (s : State) (r : Nat) : VWord :=
  if s.injectsRead s.cur.site then s.cx.rv r ^^^ Config.errorBits (s.fresh + r) else s.cx.rv r

/-- B's low e bits in every element of width e (R49). -/
def spread (e : Nat) (b : Word) : VWord :=
  BitVec.ofNat 1024 ((List.range (1024 / e)).foldl (fun a i => a + b.toNat % 2 ^ e * 2 ^ (e * i)) 0)

/-- A vector source read at element width e. -/
def State.srcV (s : State) (e : Nat) (r : BitVec 10) : VWord :=
  if r = 0x3FF then spread e (s.cur.b.getD 0) else s.readV r.toNat

/-- A use of B with no value to carry takes the illegal-instruction trap (R49). -/
def withB (l : List (BitVec 10)) (s : State) (k : Out) : Out :=
  if l.contains 0x3FF && s.cur.b.isNone then .next s.illegal else k

/-! ## Immediates (R56) -/

/-- A signed immediate field of width w, extended by the slot's XIMM. -/
def immOf (i : BitVec w) (ext : Option Half) : Int :=
  match ext with
  | none => i.toInt
  | some x => (BitVec.ofNat (32 + w) (x.toNat * 2 ^ w + i.toNat)).toInt

/-! ## Effective addresses (R51) -/

/-- Keep the addresses that the latch of this slot takes. -/
def State.setEa (s : State) (a b : Int) : State := { s with cur := { s.cur with ea := some (a, b) } }

/-- The first address operand: `a` as the entry computes it, or the stepped one in a sticky
re-issue. -/
def State.ea1 (s : State) (a : Int) : Int :=
  match s.cur.sticky with
  | some (x, _) => x
  | none => a

def State.ea2 (s : State) (b : Int) : Int :=
  match s.cur.sticky with
  | some (_, y) => y
  | none => b

/-- Step a field of an address under wrap: bits [lo + w - 1 : lo] of a take + n modulo 2^w. -/
def stepField (lo w : Nat) (a n : Int) : Int :=
  let f := a / 2 ^ lo % 2 ^ w
  a - f * 2 ^ lo + (f + n) % 2 ^ w * 2 ^ lo

/-- uwrap(a + n, w). -/
def stepWrap (w : Nat) (a n : Int) : Int := (a + n) % 2 ^ w

/-- How STRIDE steps an operation's addresses: none, an operation without an address operand. -/
inductive AddrKind where
  | none
  /-- one address of w bits, the stride in units of `unit` -/
  | plain (w unit : Nat)
  /-- two addresses of w and v bits -/
  | pair (w v : Nat)
  /-- DAW column with a scratchpad operand; DAW row, alone or with a second row -/
  | column | row | rows
  deriving DecidableEq, Repr

/-- The address operand that an entry names (R141, R142, R146, R156, R196, R219, R244, R247, R262). -/
def addrKind (i : Instr) : AddrKind :=
  match i with
  | .lds _ _ | .sts _ | .vld _ | .vst _ | .vlds _ | .vgth _ | .vsct _
  | .tld _ | .tst _ | .tstOV _ => .plain 20 1
  | .xprogSet .. | .xprogRst .. | .xerase _ | .xeraseAll _ | .xread .. | .xreadE .. | .xremap ..
  | .xdrift .. | .xcalO .. | .xcalG .. | .xcalGC .. | .xwear .. => .plain 16 1
  | .mact _ | .mrcbLd .. | .mrcbSt .. | .mzro _ => .row
  | .mrcp .. => .rows
  | .mrd .. | .mrda .. | .mwr .. | .mwra .. => .column
  | .push .. | .pull .. => .pair 20 20
  | .xfrG .. | .xfrP .. => .pair 20 54
  | .istage .. => .plain 54 64
  | .atomAdd o _ _ | .atomSwap o _ _ | .atomCas o _ _ _ | .atomAnd o _ _ | .atomOr o _ _
  | .atomXor o _ _ | .atomMin o _ _ | .atomMax o _ _ | .atomMinu o _ _ | .atomMaxu o _ _
  | .atomFadd o _ _ | .atomLd o _ | .redAdd o _ | .redSt o _ | .redAnd o _ | .redOr o _
  | .redXor o _ | .redMin o _ | .redMax o _ | .redMinu o _ | .redMaxu o _ | .redFadd o _ =>
    .plain (if o.sp then 32 else 54) 1
  | _ => .none

/-- The addresses of a sticky re-issue, stepped from the latch's (R51, R219); none for an operation without an
address operand, which reads its register sources again. -/
def stepped (i : Instr) (n a b : Int) : Option (Int × Int) :=
  match addrKind i with
  | .none => none
  | .plain w u => some (stepWrap w a (n * u), b)
  | .pair w v => some (stepWrap w a n, stepWrap v b n)
  | .column => some (stepField 0 21 a n, stepWrap 20 b (32 * n))
  | .row => some (stepField 5 16 a n, b)
  | .rows => some (stepField 5 16 a n, stepField 5 16 b n)

end Sys2Proof.Machine
end

