-- ==== Sys2Proof/Machine/Control.lean ====
section
/-! DEFINITION. Control operations of the scalar slot: NOP, HALT, TRAP, RFT, transfers, loops, ALIGN,
waits, counter reads, region operations, FENCE, IINV, ISYNC (R80 to R93, R248, R255, R294, R302).
What follows the bundle is left in `Cur` for the end of the bundle. -/

namespace Sys2Proof.Machine

/-- Issue an operation whose results a replay takes from the log (R301). -/
def State.once (s : State) (f : State → State) : State :=
  let b := s.cur.again
  let t := f { s with cur := { s.cur with again := false } }
  { t with cur := { t.cur with again := b } }

/-- Land a scalar register at c+1; a replay does not issue it again where `again` is false (R301). -/
def State.landS (s : State) (sd : BitVec 6) (v : Word) (again : Bool) : State :=
  if again then s.landing 1 fNone false (.sreg sd.toNat v)
  else s.once (·.landing 1 fNone false (.sreg sd.toNat v))

/-- The core's context replays a region. -/
def State.replaying (s : State) : Bool := s.cx.replay.isSome

/-- The cohort that the issuing core serves. -/
def State.myCoh (s : State) : Option Cohort := (s.cohOf s.cur.site).bind s.coh?

/-! ## NOP, HALT, TRAP, RFT (R93, R294) -/

def execNop (_g : Guard) (s : State) : Out := .next s

/-- Another member of the cohort meets a test. -/
def State.otherMember (s : State) (f : Ctx → Bool) : Bool :=
  match s.myCoh with
  | none => false
  | some c => c.members.any fun i => i != s.cur.site && f (s.ctx i)

/-- HALT: illegal with a region open; the align-mismatch trap while another member waits (R83). -/
def execHalt (g : Guard) (s : State) : Out :=
  if !s.guarded g then .next s
  else if !s.cx.regions.isEmpty then .next s.illegal
  else if s.otherMember (·.waiting.isSome) then trapOut s 0x06 0
  else
    let s := s.modCtx s.cur.site fun c => { c with loops := [], stack := [] }
    .next { s with cur := { s.cur with halt := true } }

/-- TRAP commits its slot; the trap follows with SRES 2. In a handler it takes the double trap. -/
def execTrap (g : Guard) (code : BitVec 8) (s : State) : Out :=
  if !s.guarded g then .next s
  else if s.cx.inHandler then trapOut s 0x1F 1
  else .next { s with cur := { s.cur with soft := some code } }

def execRft (g : Guard) (s : State) : Out :=
  if !s.guarded g then .next s
  else if !s.cx.inHandler then .next s.illegal
  else .next { s with cur := { s.cur with rft := true } }

/-! ## Transfers (R86, R87, R91) -/

/-- A taken BR or JMP pops the active loops whose body its target leaves. -/
def Ctx.popLoops (c : Ctx) (t : BitVec 54) : List Nat → Ctx
  | [] => { c with stack := [] }
  | n :: l =>
    let x := c.loop n
    if x.start ≤ t ∧ t < x.fin then { c with stack := n :: l }
    else (c.setLoop n { x with count := 0, act := false }).popLoops t l

/-- A taken transfer: the trap of a misaligned target, else the target issues at c+2. -/
def State.transfer (s : State) (t : BitVec 54) (kind : Nat) (pops : Bool) : Out :=
  if t.toNat % 4 ≠ 0 then trapOut s 0x04 (t.zeroExtend 64)
  else
    let s := if pops then s.modCtx s.cur.site fun c => c.popLoops t c.stack else s
    let s := s.traceRec s.cur.site kind 1 (t.toNat / 4)
    .next { s with cur := { s.cur with jump := some (t, 2) } }

/-- A + 4·OFF. -/
def State.target (s : State) (off : Int) : BitVec 54 := BitVec.ofInt 54 (s.cur.pc.toNat + 4 * off)

def execBr (g : Guard) (off : BitVec 20) (s : State) : Out :=
  if !s.guarded g then .next s else s.transfer (s.target (immOf off s.cur.ext)) 1 true

def execBrl (g : Guard) (sd : BitVec 6) (off : BitVec 14) (s : State) : Out :=
  if !s.guarded g then .next s
  else (s.landS sd (s.cur.next.zeroExtend 64) true).transfer (s.target (immOf off s.cur.ext)) 1 false

def execRet (g : Guard) (sa : BitVec 6) (s : State) : Out :=
  if !s.guarded g then .next s
  else s.transfer ((s.cx.rs sa.toNat).truncate 54) 2 false

def execJmp (g : Guard) (sa : BitVec 6) (off : BitVec 14) (s : State) : Out :=
  if !s.guarded g then .next s
  else
    s.transfer (BitVec.ofInt 54 ((s.cx.rs sa.toNat).toNat + 4 * immOf off s.cur.ext)) 1 true

/-! ## Loops (R88 to R90) -/

/-- Open loop n with a body of `blen` words, or skip it. The checks stand before the guard. -/
def State.openLoop (s : State) (n blen trips : Nat) : Out :=
  let c := s.cx
  let fin := s.cur.next + BitVec.ofNat 54 (4 * blen)
  let outer := match c.stack with
    | [] => false
    | m :: _ => (c.loop m).fin < fin
  if blen = 0 || (c.loop n).act || outer then .next s.illegal
  else if trips = 0 then .next { s with cur := { s.cur with jump := some (fin, 1) } }
  else
    .next (s.setCtx s.cur.site
      { (c.setLoop n { count := BitVec.ofNat 32 trips, act := true, start := s.cur.next, fin := fin })
        with stack := n :: c.stack })

def execLoop (g : Guard) (ln : BitVec 2) (blen : BitVec 12) (cnt : BitVec 16) (s : State) : Out :=
  s.openLoop ln.toNat blen.toNat (if s.guarded g then cnt.toNat else 0)

def execLoopm (g : Guard) (ln : BitVec 2) (blen : BitVec 12) (mbi : BitVec 4) (s : State) : Out :=
  s.openLoop ln.toNat blen.toNat
    (if s.guarded g then (s.cx.rmb mbi.toNat).toNat % 2 ^ 32 else 0)

/-- The innermost loop's test when a bundle falls through to `next`: where the next bundle is
(R90). -/
def Ctx.endLoops (c : Ctx) (next : BitVec 54) : List Nat → Ctx × BitVec 54
  | [] => ({ c with stack := [] }, next)
  | n :: l =>
    let x := c.loop n
    if x.fin ≠ next then ({ c with stack := n :: l }, next)
    else if x.count.toNat > 1 then
      ({ c.setLoop n { x with count := x.count - 1 } with stack := n :: l }, x.start)
    else (c.setLoop n { x with count := 0, act := false }).endLoops next l

/-! ## ALIGN (R81 to R83) -/

/-- The resume cycle that a replay's log gives the barrier of cycle t. -/
def barrierAt (t : Nat) : List PEntry → Option Nat
  | [] => none
  | .barrier a r :: l => if a = t then some r else barrierAt t l
  | _ :: l => barrierAt t l

/-- The start form has no effect where the entry bundle issues or is resumed; a tagged one waits. -/
def execAlign (tag : BitVec 8) (s : State) : Out :=
  s.barred <|
    let i := s.cur.site
    let c := s.cx
    if tag = 0 then
      if s.cur.pc = (s.core i).entryPc ∧ (c.resumed ∨ s.timeOf i = 0) then .next s
      else .next s.illegal
    else
      match c.replay with
      | some r =>
        let back := (barrierAt r.cyc r.log).getD (r.cyc + 1)
        .next { s with cur := { s.cur with bubble := back - (r.cyc + 1) } }
      | none =>
        let waits := match s.myCoh with
          | none => []
          | some k => (k.members.filter (· != i)).filterMap fun j => (s.ctx j).waiting
        match waits.find? (fun w => w.1 != tag.toNat) with
        | some w => trapOut s 0x06 (BitVec.ofNat 64 (tag.toNat + 256 * w.1))
        | none =>
          if s.otherMember (·.halted) then trapOut s 0x06 0
          else .next (s.setCtx i { c with waiting := some (tag.toNat, s.timeOf i) })

/-- The barrier of cohort k completes: every member issues at max(a_i) + 2, or + 26 across dies. -/
def State.barrier (s : State) (k : Nat) : State :=
  match s.coh? k with
  | none => s
  | some c =>
    let w := c.members.filterMap fun i => (s.ctx i).waiting
    let r := (w.map (·.2)).foldl max 0 + (if c.spansDies then 26 else 2)
    forAll c.members s fun i s => s.modCtx i fun x =>
      match x.waiting with
      | none => x
      | some (_, a) => { x.log a (.barrier a r) with waiting := none, nextIssue := r }

/-- Every member waits with one tag, and none runs a handler. -/
def State.barrierDue (s : State) (k : Nat) : Bool :=
  match s.coh? k with
  | none => false
  | some c =>
    c.st == .running && !c.members.isEmpty &&
      c.members.all fun i => (s.ctx i).waiting.isSome && (s.ctx i).handler.isNone

/-- ALIGN_BARRIER_COMPLETE. -/
def execAlignBarrierComplete (coh : Nat) (s : State) : Out :=
  .next (if s.barrierDue coh then s.barrier coh else s)

/-! ## Waits (R84, R85) -/

/-- A wait of the issuing core holds its cohort after this cycle. -/
def State.waitHold (s : State) (cause : HoldCause) (code : Nat) : Out :=
  match s.cohOf s.cur.site with
  | none => .next s
  | some k => .next (s.addHold k cause code (s.now + 1))

def execWaits (g : Guard) (sa : BitVec 6) (s : State) : Out :=
  let mask : Word := if sa = 0 then ~~~1 else 1 <<< sa.toNat
  if s.guarded g && !s.replaying && s.cx.pending &&& mask != 0 then
    s.waitHold (.waits s.cur.site mask s.cx.inHandler) 2
  else .next s

/-- Identifier a comes at or after b, under wrap. -/
def idGe (a b : Half) : Bool := (a - b).toInt ≥ 0

/-- Cohort cycle at which core i's cohort stands, for its time-sorted buffer. -/
def UOp.clocked (u : UOp) (ccyc : Nat) : Bool :=
  match u.kind with
  | .xfr _ _ _ t _ _ _ => u.stage == .waiting && t > ccyc
  | _ => false

/-- Stage a piece of work has reached at a scope (R254). A value or a read is complete when every
byte has been read. -/
def UOp.completeAt (u : UOp) (scope : Nat) : Bool :=
  match u.stage with
  | .atSys => true
  | .atPort => scope ≤ 3
  | .atCore => scope = 0
  | .returning => true
  | _ => false

/-- Earlier operation `e` holds back `u` (R255, R256): by a fence between them, by u's own release,
or by e's acquire. -/
def holdsBack (ops : List UOp) (e u : UOp) : Bool :=
  e.n < u.n &&
    (ops.any (fun f => match f.kind with
        | .fence => e.n < f.n && f.n < u.n && !e.completeAt f.scope
        | _ => false) ||
     (match u.kind with
        | .atom .. => u.scope ≥ 1 && !e.completeAt u.scope
        | _ => false) ||
     (match e.kind with
        | .atom true .. => e.scope ≥ 1 && !e.completeAt 4
        | _ => false))

/-- An operation is waiting on the cohort's clock: its T is still to come, or it is held back behind
one that is (R245). -/
def onClock (ops : List UOp) (ccyc : Nat) : Nat → UOp → Bool
  | 0, u => u.clocked ccyc
  | k + 1, u =>
    u.clocked ccyc ||
      (u.stage == .waiting &&
        ops.any fun e => e.stage == .waiting && holdsBack ops e u && onClock ops ccyc k e)

def execWaitx (g : Guard) (ch : BitVec 2) (sa : BitVec 6) (s : State) : Out :=
  if !s.guarded g || s.replaying then .next s
  else
    let i := s.cur.site
    let c := s.cx
    let id : Half := (c.rs sa.toNat).truncate 32
    let next : Half := (SMap.get c.xnext 0 ch.toNat).truncate 32
    let done : Half := (SMap.get c.xdone 0 ch.toNat).truncate 32
    let ops := (s.core i).uops.filter fun u => some u.coh == s.cohOf i
    let blocked := ops.any fun u => match u.kind with
      | .xfr _ h j _ _ _ _ =>
        h == ch.toNat && idGe (BitVec.ofNat 32 j) done && idGe id (BitVec.ofNat 32 j) &&
          onClock ops (s.cycOf i) ops.length u
      | _ => false
    if (next - id).toInt ≤ 0 || blocked then trapOut s 0x07 (id.zeroExtend 64)
    else if (done - id).toInt ≤ 0 then s.waitHold (.waitx i ch.toNat id c.inHandler) 3
    else .next s

/-! ## Counter reads (R87) -/

def execCycW (g : Guard) (sd : BitVec 6) (s : State) : Out :=
  .next (if s.guarded g then s.landS sd s.wcyc false else s)

/-- In a replay the logged WCYC lands instead (R301). -/
def execCycC (g : Guard) (sd se : BitVec 6) (s : State) : Out :=
  if !s.guarded g then .next s
  else
    let t := s.landS sd (BitVec.ofNat 64 (s.cycOf s.cur.site)) true
    .next (if se = 0 || s.replaying then t else t.landS se s.wcyc false)

/-! ## Region operations (R302) -/

def execRbegin (s : State) : Out :=
  s.barred <|
    if s.cx.regions.length ≥ 4 then .next s.illegal
    else .next (s.modCtx s.cur.site (·.openRegion (s.timeOf s.cur.site)))

/-- Preserve entries of registers of a file as they stand (R302). -/
def State.preserve (s : State) (kind : Nat) (regs : List Nat) : State :=
  let i := s.cur.site
  forAll regs s fun r s =>
    s.modCtx i (·.log (s.timeOf i) (.preserve ((s.core i).snapshotReg kind r)))

/-- RPRES reads what it preserves: poisoned tile lines and marked registers raise their errors (R152,
R286). -/
def execRpres (kind : BitVec 3) (first : BitVec 10) (cnt : BitVec 7) (s : State) : Out :=
  s.barred <|
    if s.cx.regions.isEmpty then .next s.illegal
    else
      let regs := s.cx.toPreserve kind.toNat first.toNat cnt.toNat
      let s := if kind = 3 then s.readLines 1 (regs.map tileLines).flatten else s
      .next (s.preserve kind.toNat regs)

def execRend (sd : BitVec 6) (s : State) : Out :=
  s.barred <|
    match s.cx.regions with
    | [] => .next s.illegal
    | r :: _ => .next ((s.landS sd r.report true).modCtx s.cur.site Ctx.closeRegion)

def execRfail (g : Guard) (s : State) : Out :=
  if !s.guarded g then .next s
  else
    s.barred <|
      .next (s.boundary s.cur.site 1 (.regionError 0x1C (s.cur.pc.zeroExtend 64)))

/-! ## FENCE, IINV, ISYNC (R248, R255) -/

/-- Queue an untimed operation of the issuing core behind its earlier ones. -/
def State.addUop (s : State) (scope : Nat) (kind : UKind) : State :=
  s.modCore s.cur.site (·.pushUop ((s.cohOf s.cur.site).getD 0) scope kind)

def execFence (g : Guard) (scp : BitVec 3) (s : State) : Out :=
  .next (if s.guarded g then s.addUop scp.toNat .fence else s)

def execIinv (g : Guard) (sa sb : BitVec 6) (s : State) : Out :=
  .next (if s.guarded g then
      s.landing 1 fNone false (.iinv (s.cx.rs sa.toNat).toNat (s.cx.rs sb.toNat).toNat)
    else s)

def execIsync (g : Guard) (s : State) : Out :=
  .next (if s.guarded g then { s with cur := { s.cur with bubble := 1 } } else s)

end Sys2Proof.Machine
end

