-- ==== Sys2Proof/Machine/Csr.lean ====
section
/-! DEFINITION. Control-register and mailbox moves (R95 to R99, R110) and the registers of the
crossbar bank (R166, R179 to R181, R195). -/

namespace Sys2Proof.Machine

/-- XBANK.ESL: the legal evaluation slots of a thermal class (R186). -/
def esl (therm : BitVec 2) : Nat :=
  match therm.toNat with
  | 0 => 15
  | 1 => 7
  | 2 => 5
  | _ => 0

/-- XRMAP m of an array: spares 6m .. 6m + 5 (R195). -/
def Arr.rmap (x : Arr) (m : Nat) : Word :=
  BitVec.ofNat 64
    ((List.range 6).foldl (fun a k => match SMap.get? x.spares (6 * m + k) with
      | some col => a + (512 + col % 512) * 2 ^ (10 * k)
      | none => a) 0)

/-- Registers 0x100 to 0x1FF. -/
def Bank.csr (b : Bank) (n : Nat) : Word :=
  if n < 0x140 then b.grp (n - 0x100)
  else if n < 0x180 then SMap.get b.xovc 0 (n - 0x140)
  else if n < 0x184 then (b.xclip >>> (64 * (n - 0x180))).truncate 64
  else
    match n with
    | 0x184 =>
      BitVec.ofNat 64 (b.half.toNat + 2 * b.therm.toNat + 16 * esl b.therm + 256 * b.retr)
    | 0x190 => b.xpamp
    | 0x191 => b.xvthr
    | 0x192 => b.xdthr
    | 0x193 => b.xrsel
    | 0x194 => (b.arr (bits b.xrsel 6 0)).rmap 0
    | 0x195 => (b.arr (bits b.xrsel 6 0)).rmap 1
    | 0x197 => b.xcres
    | _ => 0

/-- The wear budget of a bank: at least 1 (R195). -/
def budget (site : Nat) : Nat := max 1 (bits (Config.xwbud site) 39 0)

/-- A loop counter register (R88). -/
def Loop.word (l : Loop) : Word :=
  BitVec.ofNat 64 (l.count.toNat + 2 ^ 32 * l.act.toNat)

/-- The value of a control register (R95); the decoder admits assigned numbers only. -/
def State.csr (s : State) (i n : Nat) : Word :=
  let c := s.ctx i
  if n < 0x020 then
    match n with
    | 0x001 => c.tstat
    | 0x002 => c.taddr
    | 0x003 => c.tval
    | 0x004 => (s.core i).cid
    | 0x010 => c.nctl
    | _ => 0
  else if n < 0x030 then (SMap.get c.stride 0 (n - 0x020)).zeroExtend 64
  else if n < 0x040 then (c.loop (n - 0x030)).word
  else if n < 0x060 then SMap.get c.tshape 0 (n - 0x040)
  else if n < 0x080 then SMap.get c.ovc 0 (n - 0x060)
  else if n < 0x084 then SMap.get c.xdone 0 (n - 0x080)
  else if n < 0x088 then SMap.get c.xnext 0 (n - 0x084)
  else if n < 0x100 then SMap.get c.ly 0 (n - 0x090)
  else if n = 0x196 then BitVec.ofNat 64 (budget i)
  else (s.bank i).csr n

/-- A landing CSRW to a register of the bank. -/
def Bank.setCsr (b : Bank) (n : Nat) (v : Word) : Bank :=
  if n < 0x180 then { b with xovc := SMap.put b.xovc 0 (n - 0x140) (v &&& 0xFFFFFFFFFFFF) }
  else if n < 0x184 then
    let k := 64 * (n - 0x180)
    let m : BitVec 256 := (0xFFFFFFFFFFFFFFFF : BitVec 256) <<< k
    { b with xclip := (b.xclip &&& ~~~m) ||| ((v.zeroExtend 256) <<< k) }
  else
    match n with
    | 0x190 =>
      let v := if bits v 35 28 = 0 then setBits v 35 28 (bits b.xpamp 35 28) else v
      { b with xpamp := v &&& 0xFFFFFFFFF }
    | 0x191 => { b with xvthr := v &&& 0x3F }
    | 0x192 => { b with xdthr := v &&& 0xFFFF03FF }
    | 0x193 => { b with xrsel := v &&& 0x7F }
    | _ => b

/-- The fields of TSHAPE: ROWS, COLS and EW (R149). -/
def tshapeMask : Word := 0x37F7F

/-- A landing CSRW: written fields only (R96). -/
def State.setCsr (s : State) (i n : Nat) (v : Word) : State :=
  if n < 0x100 then
    s.modCtx i fun c =>
      match n with
      | 0x001 => { c with tstat := setBits (setBits c.tstat 15 8 (bits v 15 8)) 2 0 (bits v 2 0) }
      | 0x002 => { c with taddr := v &&& 0x3FFFFFFFFFFFFF }
      | 0x010 => { c with nctl := v &&& nctlMask }
      | _ =>
        if n < 0x030 then { c with stride := SMap.put c.stride 0 (n - 0x020) (v.truncate 32) }
        else { c with tshape := SMap.put c.tshape 0 (n - 0x040) (v &&& tshapeMask) }
  else s.modBank i (·.setCsr n v)

/-! ## The moves (R110) -/

/-- A replay lands the logged values of 0x080..0x087 and 0x100..0x1FF (R301). -/
def csrLogged (n : Nat) : Bool := (0x080 ≤ n && n ≤ 0x087) || 0x100 ≤ n

def execCsrr (g : Guard) (sd : BitVec 6) (csr : BitVec 12) (s : State) : Out :=
  .next (if s.guarded g then
      s.landS sd (s.csr s.cur.site csr.toNat) (!csrLogged csr.toNat)
    else s)

/-- A value that TSTAT or TADDR refuses takes the illegal-instruction trap (R97). -/
def csrRefuses (n : Nat) (v : Word) : Bool :=
  (n == 0x001 && bits v 2 0 == 7) || (n == 0x002 && bits v 1 0 != 0)

def execCsrw (g : Guard) (sa : BitVec 6) (csr : BitVec 12) (s : State) : Out :=
  let v := s.cx.rs sa.toNat
  if !s.guarded g then .next s
  else if csrRefuses csr.toNat v then .next s.illegal
  else .next (s.landing 1 fNone false (.csr csr.toNat v))

def execMbr (g : Guard) (sd : BitVec 6) (mbi : BitVec 4) (s : State) : Out :=
  .next (if s.guarded g then s.landS sd (s.cx.rmb mbi.toNat) true else s)

def execMbw (g : Guard) (sa : BitVec 6) (mbi : BitVec 4) (s : State) : Out :=
  .next (if s.guarded g then
      s.landing 1 fNone false (.mbox mbi.toNat (s.cx.rs sa.toNat))
    else s)

end Sys2Proof.Machine
end

