-- ==== Sys2Proof/Machine/Vector.lean ====
section
/-! DEFINITION. Vector arithmetic, logic, shifts, comparisons, selection, reduction and permutation
(R111 to R120, R123, R124). -/

namespace Sys2Proof.Machine

/-! ## Elements (R20) -/

/-- Element i of width w. -/
def elem (w : Nat) (v : VWord) (i : Nat) : Nat := v.toNat / 2 ^ (w * i) % 2 ^ w

/-- A register of elements of width w. -/
def packElems (w : Nat) (l : List Nat) : VWord :=
  BitVec.ofNat 1024 (l.foldr (fun x a => a * 2 ^ w + x % 2 ^ w) 0)

/-- Element i's lane is selected. -/
def active (m : Half) (w i : Nat) : Bool := bitAt m (i * w / 32)

/-- The format of a floating-point type code. -/
def fmtOf (ty : BitVec 3) : Fmt := if ty == 0 then fmtF32 else if ty == 1 then fmtBF16 else fmtF16

def isFloat (ty : BitVec 3) : Bool := ty.toNat ≤ 2

def orAll (l : List NFlags) : NFlags := l.foldl (· ||| ·) fNone

/-- Land the bits `mask` of register r: the primary writes them with its flags, the shadow only
checks them (R133). -/
def State.landV (s : State) (o : VOp) (off r : Nat) (mask v : VWord) (flags : NFlags) : State :=
  s.landing off (if o.sh then fNone else flags) o.sh (.vreg r mask v)

/-- An operation on elements of width w: those of active lanes are formed and written, and give the
flags (R113). -/
def vecOut (o : VOp) (off w : Nat) (f : Nat → Nat × NFlags) (s : State) : Out :=
  let m := s.cx.mask o.g
  if m = 0 then .next s
  else
    let r := (List.range (1024 / w)).map fun i => if active m w i then f i else (0, fNone)
    .next (s.landV o off o.vd.toNat (laneMask m) (packElems w (r.map (·.1))) (orAll (r.map (·.2))))

/-- A bit-pattern operation on whole registers (R114). -/
def vecBits (o : VOp) (off : Nat) (v : VWord) (s : State) : Out :=
  let m := s.cx.mask o.g
  if m = 0 then .next s else .next (s.landV o off o.vd.toNat (laneMask m) v fNone)

/-- Mode and flush of an operation. -/
def vmode (o : VOp) (s : State) : Nat := modeOf o.rms s.cx

/-- A two-source operation: on floating values for a floating type, else on patterns. -/
def vecBin (o : VOp) (offF offI : Nat) (ff : Fmt → FV → FV → Nat × NFlags)
    (fi : Nat → Nat → Nat → Nat × NFlags) (s : State) : Out :=
  withB [o.va, o.vb] s <|
    let w := tyWidth o.ty
    let a := s.srcV w o.va
    let b := s.srcV w o.vb
    if isFloat o.ty then
      let f := fmtOf o.ty
      let d := fun v i => fdec f s.cx.ftz (elem w v i)
      vecOut o offF w (fun i => ff f (d a i) (d b i)) s
    else vecOut o offI w (fun i => fi w (elem w a i) (elem w b i)) s

/-- A one-source operation on patterns. -/
def vecUn (o : VOp) (off : Nat) (f : Nat → Nat → Nat × NFlags) (s : State) : Out :=
  withB [o.va] s <|
    let w := tyWidth o.ty
    let a := s.srcV w o.va
    vecOut o off w (fun i => f w (elem w a i)) s

/-- An integer result of a vector operation (R115). -/
def vint (o : VOp) (w : Nat) (x : Int) : Nat × NFlags := intResult w o.sat x

/-! ## Arithmetic (R115) -/

def execVadd (o : VOp) (s : State) : Out :=
  vecBin o 4 2 (fun f a b => faddR f (vmode o s) s.cx.ftz a b)
    (fun w a b => vint o w (sval w a + sval w b)) s

def execVsub (o : VOp) (s : State) : Out :=
  vecBin o 4 2 (fun f a b => faddR f (vmode o s) s.cx.ftz a (fneg b))
    (fun w a b => vint o w (sval w a - sval w b)) s

def execVmul (o : VOp) (s : State) : Out :=
  vecBin o 4 3 (fun f a b => fmulR f (vmode o s) s.cx.ftz a b)
    (fun w a b => vint o w (sval w a * sval w b)) s

/-- The high half of the product, unsigned with U. -/
def execVmulh (o : VOp) (u : Bool) (s : State) : Out :=
  vecBin o 3 3 (fun _ _ _ => (0, fNone))
    (fun w a b =>
      if u then (a * b / 2 ^ w, fNone) else (wrapTo w (sval w a * sval w b / 2 ^ w), fNone)) s

/-- A fused form: `f` maps the operands a, b and the destination's value d to the three terms. -/
def vecFused (o : VOp) (f : FV → FV → FV → FV × FV × FV) (s : State) : Out :=
  withB [o.va, o.vb] s <|
    let w := tyWidth o.ty
    let m := fmtOf o.ty
    let a := s.srcV w o.va
    let b := s.srcV w o.vb
    let d := s.readV o.vd.toNat
    let e := fun v i => fdec m s.cx.ftz (elem w v i)
    vecOut o 4 w (fun i =>
      let t := f (e a i) (e b i) (e d i)
      ffmaR m (vmode o s) s.cx.ftz t.1 t.2.1 t.2.2) s

def execVfma (o : VOp) (s : State) : Out := vecFused o (fun a b d => (a, b, d)) s

def execVfms (o : VOp) (s : State) : Out := vecFused o (fun a b d => (a, b, fneg d)) s

def execVfnma (o : VOp) (s : State) : Out := vecFused o (fun a b d => (fneg a, b, d)) s

/-- The products of lane i: `k` packed elements of width w. -/
def laneProducts (k i : Nat) : List Nat := (List.range k).map (k * i + ·)

/-- Widening dot-product accumulate (R116). -/
def execVmac (o : VOp) (s : State) : Out :=
  withB [o.va, o.vb] s <|
    let w := tyWidth o.ty
    let a := s.srcV w o.va
    let b := s.srcV w o.vb
    let d := s.readV o.vd.toNat
    let k := 32 / w
    if isFloat o.ty then
      let f := fmtOf o.ty
      let e := fun v i => fdec f s.cx.ftz (elem w v i)
      vecOut o 4 32 (fun i =>
        let dv := fdec fmtF32 s.cx.ftz (elem 32 d i)
        let ps := (laneProducts k i).map fun j => (fmulx (e a j) (e b j), e a j, e b j)
        let t := fsumx (vmode o s) (dv :: ps.map (·.1.1))
        let r := fround fmtF32 (vmode o s) s.cx.ftz t.1
        (r.1, r.2 ||| t.2 ||| fsig dv ||| orAll (ps.map fun p => p.1.2 ||| fsig p.2.1 ||| fsig p.2.2)))
        s
    else
      vecOut o 3 32 (fun i =>
        let x := (laneProducts k i).foldl
          (fun x j => x + sval w (elem w a j) * sval w (elem w b j)) (sval 32 (elem 32 d i))
        intResult 32 o.sat x) s

/-- The lesser (or greater) of two floating values (R117). -/
def fpick (greater : Bool) (f : Fmt) (a b : FV) : Nat × NFlags :=
  if fisNan a || fisNan b then (fnan f, fsigs [a, b])
  else
    let v := if greater then (if flt a b then b else a) else (if flt b a then b else a)
    ((fround f 0 false v).1, fNone)

def execVmin (o : VOp) (s : State) : Out :=
  vecBin o 2 2 (fpick false) (fun w a b => (if sval w b < sval w a then b else a, fNone)) s

def execVmax (o : VOp) (s : State) : Out :=
  vecBin o 2 2 (fpick true) (fun w a b => (if sval w a < sval w b then b else a, fNone)) s

def execVminu (o : VOp) (s : State) : Out :=
  vecBin o 2 2 (fun _ _ _ => (0, fNone)) (fun _ a b => (if b < a then b else a, fNone)) s

def execVmaxu (o : VOp) (s : State) : Out :=
  vecBin o 2 2 (fun _ _ _ => (0, fNone)) (fun _ a b => (if a < b then b else a, fNone)) s

/-- Clear the sign bit, or the integer magnitude (R114, R115). -/
def execVabs (o : VOp) (s : State) : Out :=
  vecUn o 2 (fun w a =>
    if isFloat o.ty then (a % 2 ^ (w - 1), fNone) else vint o w (sval w a).natAbs) s

/-- Invert the sign bit, or negate the integer. -/
def execVneg (o : VOp) (s : State) : Out :=
  vecUn o 2 (fun w a =>
    if isFloat o.ty then
      (if a < 2 ^ (w - 1) then a + 2 ^ (w - 1) else a - 2 ^ (w - 1), fNone)
    else vint o w (-sval w a)) s

/-! ## Logic and shifts (R118) -/

def vecLogic (o : VOp) (f : VWord → VWord → VWord) (s : State) : Out :=
  withB [o.va, o.vb] s <| vecBits o 2 (f (s.srcV 32 o.va) (s.srcV 32 o.vb)) s

def execVand (o : VOp) (s : State) : Out := vecLogic o (fun a b => a &&& b) s

def execVor (o : VOp) (s : State) : Out := vecLogic o (fun a b => a ||| b) s

def execVxor (o : VOp) (s : State) : Out := vecLogic o (fun a b => a ^^^ b) s

def execVandn (o : VOp) (s : State) : Out := vecLogic o (fun a b => a &&& ~~~b) s

def shl (w a k : Nat) : Nat := a * 2 ^ k % 2 ^ w

def shr (_w a k : Nat) : Nat := a / 2 ^ k

def sra (w a k : Nat) : Nat := wrapTo w (sval w a / 2 ^ k)

/-- A shift by the second source's elements, modulo the width. -/
def vecShift (o : VOp) (f : Nat → Nat → Nat → Nat) (s : State) : Out :=
  vecBin o 2 2 (fun _ _ _ => (0, fNone)) (fun w a b => (f w a (b % w), fNone)) s

/-- A shift by an immediate. -/
def vecShiftImm (o : VOp) (k : BitVec 5) (f : Nat → Nat → Nat → Nat) (s : State) : Out :=
  vecUn o 2 (fun w a => (f w a k.toNat, fNone)) s

def execVshl (o : VOp) (s : State) : Out := vecShift o shl s

def execVshlImm (o : VOp) (k : BitVec 5) (s : State) : Out := vecShiftImm o k shl s

def execVshr (o : VOp) (s : State) : Out := vecShift o shr s

def execVshrImm (o : VOp) (k : BitVec 5) (s : State) : Out := vecShiftImm o k shr s

def execVsra (o : VOp) (s : State) : Out := vecShift o sra s

def execVsraImm (o : VOp) (k : BitVec 5) (s : State) : Out := vecShiftImm o k sra s

/-! ## Comparison (R119) -/

/-- A floating condition, with IV. -/
def fcond (cc : BitVec 4) (a b : FV) : Bool × NFlags :=
  let c := cc.toNat
  let nan := fisNan a || fisNan b
  let quiet := nan && (c == 2 || c == 3 || c == 6 || c == 7)
  let hold :=
    if nan then c == 1 || c == 10
    else
      match c with
      | 0 => fcmp a b == 0
      | 1 => fcmp a b != 0
      | 2 => decide (fcmp a b < 0)
      | 3 => decide (fcmp a b ≥ 0)
      | 6 => decide (fcmp a b > 0)
      | 7 => decide (fcmp a b ≤ 0)
      | 11 => true
      | _ => false
  (hold, fsigs [a, b] ||| (if quiet then fIV else fNone))

/-- An integer condition on w-bit patterns. -/
def icond (cc : BitVec 4) (w a b : Nat) : Bool :=
  match cc.toNat with
  | 0 => a == b
  | 1 => a != b
  | 2 => sval w a < sval w b
  | 3 => sval w a ≥ sval w b
  | 4 => a < b
  | 5 => a ≥ b
  | 6 => sval w a > sval w b
  | 7 => sval w a ≤ sval w b
  | 8 => a > b
  | _ => a ≤ b

/-- Element i's condition and flags. -/
def vcond (o : VOp) (cc : BitVec 4) (s : State) (i : Nat) : Bool × NFlags :=
  let w := tyWidth o.ty
  let a := elem w (s.srcV w o.va) i
  let b := elem w (s.srcV w o.vb) i
  if isFloat o.ty then
    fcond cc (fdec (fmtOf o.ty) s.cx.ftz a) (fdec (fmtOf o.ty) s.cx.ftz b)
  else (icond cc w a b, fNone)

def execVcmp (o : VOp) (cc : BitVec 4) (s : State) : Out :=
  withB [o.va, o.vb] s <|
    let w := tyWidth o.ty
    vecOut o 2 w (fun i =>
      let r := vcond o cc s i
      (if r.1 then 2 ^ w - 1 else 0, r.2)) s

/-- The predicate form: bit i is 1 when every element of lane i meets the condition. -/
def execVcmpP (o : VOp) (cc : BitVec 4) (s : State) : Out :=
  withB [o.va, o.vb] s <|
    let m := s.cx.mask o.g
    let k := 32 / tyWidth o.ty
    let lane := fun i => (laneProducts k i).map (vcond o cc s)
    let rs := ((List.range 32).filter (bitAt m ·)).map fun i => (i, lane i)
    let v := rs.foldl (fun a r => if r.2.all (·.1) then a + 2 ^ r.1 else a) 0
    let f := orAll (rs.map fun r => orAll (r.2.map (·.2)))
    if m = 0 then .next s
    else .next (s.landing 2 (if o.sh then fNone else f) o.sh
      (.preg o.vd.toNat m (BitVec.ofNat 32 v)))

/-! ## Select, move, broadcast (R120) -/

def execVsel (o : VOp) (ps : BitVec 4) (s : State) : Out :=
  withB [o.va, o.vb] s <|
    let p := laneMask (s.cx.rp ps.toNat)
    vecBits o 2 ((s.srcV 32 o.va &&& p) ||| (s.srcV 32 o.vb &&& ~~~p)) s

/-- TY gives the element width of a B source. -/
def execVmov (o : VOp) (s : State) : Out :=
  withB [o.va] s <| vecBits o 2 (s.srcV (tyWidth o.ty) o.va) s

/-- x in every element of width w. -/
def splat (w x : Nat) : VWord := packElems w (List.replicate (1024 / w) x)

def execVbc (o : VOp) (idx : BitVec 7) (s : State) : Out :=
  withB [o.va] s <|
    let w := tyWidth o.ty
    vecBits o 2 (splat w (elem w (s.srcV w o.va) idx.toNat)) s

def execVbcImm (o : VOp) (imm : BitVec 8) (s : State) : Out :=
  let w := tyWidth o.ty
  vecBits o 2 (splat w (wrapTo w (immOf imm s.cur.ext))) s

/-! ## Reduction (R37, R123) -/

/-- One level of the pairwise tree; a node with one absent child takes the other unchanged: its very bits, with no
flag, also of a signalling NaN or a subnormal (R37; DEDUCED, log 102). -/
def treeLevel (f : Nat → Nat → Nat × NFlags) : List (Option Nat) → List (Option Nat × NFlags)
  | some a :: some b :: l => (some (f a b).1, (f a b).2) :: treeLevel f l
  | some a :: none :: l => (some a, fNone) :: treeLevel f l
  | none :: x :: l => (x, fNone) :: treeLevel f l
  | [x] => [(x, fNone)]
  | [] => []

/-- The tree over k levels: the root, if present, and the flags of every node. -/
def treeReduce (f : Nat → Nat → Nat × NFlags) : Nat → List (Option Nat) → Option Nat × NFlags
  | 0, l => (l.headD none, fNone)
  | k + 1, l =>
    let n := treeLevel f l
    let r := treeReduce f k (n.map (·.1))
    (r.1, r.2 ||| orAll (n.map (·.2)))

/-- The identity of an absent root (R37, R123). -/
def redIdentity (op : Nat) (o : VOp) (w : Nat) : Nat :=
  if isFloat o.ty then
    match op with
    | 0 => 0
    | 1 => finf (fmtOf o.ty) true
    | _ => finf (fmtOf o.ty) false
  else
    match op with
    | 1 => 2 ^ (w - 1)
    | 2 => 2 ^ (w - 1) - 1
    | 4 => 2 ^ w - 1
    | _ => 0

/-- A node of the tree. -/
def redNode (op : Nat) (o : VOp) (s : State) (w a b : Nat) : Nat × NFlags :=
  if isFloat o.ty then
    let f := fmtOf o.ty
    let x := fdec f s.cx.ftz a
    let y := fdec f s.cx.ftz b
    match op with
    | 0 => faddR f (vmode o s) s.cx.ftz x y
    | 1 => fpick true f x y
    | _ => fpick false f x y
  else
    match op with
    | 0 => vint o w (sval w a + sval w b)
    | 1 => (if sval w a < sval w b then b else a, fNone)
    | 2 => (if sval w b < sval w a then b else a, fNone)
    | 3 => (if a < b then b else a, fNone)
    | _ => (if b < a then b else a, fNone)

/-- Element 0 takes the result and every other element 0, whatever the mask; G = 0b10000 writes
nothing. -/
def execVred (o : VOp) (op : BitVec 3) (s : State) : Out :=
  withB [o.va] s <|
    if o.g = 0b10000 then .next s
    else
      let w := tyWidth o.ty
      let m := s.cx.mask o.g
      let a := s.srcV w o.va
      let xs := (List.range (1024 / w)).map fun i => if active m w i then some (elem w a i) else none
      let r := treeReduce (redNode op.toNat o s w) 7 xs
      let v := r.1.getD (redIdentity op.toNat o w)
      .next (s.landV o 6 o.vd.toNat (BitVec.allOnes 1024) (BitVec.ofNat 1024 v) r.2)

/-! ## Permutation (R124) -/

def execVperm (o : VOp) (s : State) : Out :=
  withB [o.va, o.vb] s <|
    let w := tyWidth o.ty
    let a := s.srcV w o.va
    let b := s.srcV w o.vb
    vecOut o 3 w (fun i =>
      let k := elem w b i
      (if k < 1024 / w then elem w a k else 0, fNone)) s

def execVrot (o : VOp) (k : BitVec 7) (s : State) : Out :=
  withB [o.va] s <|
    let w := tyWidth o.ty
    let a := s.srcV w o.va
    vecOut o 3 w (fun i => (elem w a ((i + k.toNat) % (1024 / w)), fNone)) s

def execVslideDn (o : VOp) (k : BitVec 7) (s : State) : Out :=
  withB [o.va, o.vb] s <|
    let w := tyWidth o.ty
    let E := 1024 / w
    let a := s.srcV w o.va
    let b := s.srcV w o.vb
    vecOut o 3 w (fun i =>
      (if i + k.toNat < E then elem w a (i + k.toNat) else elem w b (i + k.toNat - E), fNone)) s

def execVslideUp (o : VOp) (k : BitVec 7) (s : State) : Out :=
  withB [o.va, o.vb] s <|
    let w := tyWidth o.ty
    let E := 1024 / w
    let a := s.srcV w o.va
    let b := s.srcV w o.vb
    vecOut o 3 w (fun i =>
      (if k.toNat ≤ i then elem w a (i - k.toNat) else elem w b (E - k.toNat + i), fNone)) s

end Sys2Proof.Machine
end

