-- ==== Sys2Proof/Machine/Scratch.lean ====
section
/-! DEFINITION. Scalar and vector loads and stores of the scratchpad (R134, R141 to R144). -/

namespace Sys2Proof.Machine

/-- n bytes at an address are aligned to `al` and inside the scratchpad (R134). -/
def inSpad (addr : Int) (n al : Nat) : Bool :=
  decide (0 ≤ addr) && addr % al == 0 && decide (addr + n ≤ spadSize)

/-- Little-endian bytes of a number. -/
def bytesOf (n x : Nat) : List Byte := (List.range n).map fun k => BitVec.ofNat 8 (x / 2 ^ (8 * k))

/-- The number that little-endian bytes form. -/
def ofBytes (l : List Byte) : Nat := l.foldr (fun b a => a * 256 + b.toNat) 0

/-- Consecutive addresses for bytes from `addr` upward. -/
def placed (addr : Nat) (l : List Byte) : List (Nat × Byte) :=
  (List.range l.length).zip l |>.map fun (k, b) => (addr + k, b)

/-- The scratchpad-address trap with an offending address. -/
def addrTrap (s : State) (addr : Int) : Out := trapOut s 0x09 (BitVec.ofInt 64 addr)

/-! ## Scalar (R141) -/

/-- A scalar access: effective address, guard, address check, access. -/
def scalarMem (o : ScMem) (s : State) (k : Nat → Nat → State → State) : Out :=
  let n : Nat := 2 ^ o.sz.toNat
  let ea := s.ea1 ((s.cx.rs o.sa.toNat).toInt + immOf o.off s.cur.ext * (n : Int))
  let s := s.setEa ea 0
  if !s.guarded o.g then .next s
  else if !inSpad ea n n then addrTrap s ea
  else .next (k n ea.toNat s)

def execLds (o : ScMem) (u : Bool) (s : State) : Out :=
  scalarMem o s fun n a s =>
    s.access 0 3 false (unitsOf a n) (.toS o.sr.toNat a n u (s.timeOf s.cur.site + 4))

def execSts (o : ScMem) (s : State) : Out :=
  scalarMem o s fun n a s =>
    s.access 0 3 false (unitsOf a n)
      (.write (placed a (bytesOf n (s.cx.rs o.sr.toNat).toNat)) none)

/-! ## Vector (R142, R143) -/

/-- The active lanes. -/
def lanesOf (m : Half) : List Nat := (List.range 32).filter (bitAt m ·)

/-- Distinct rows that units touch in each bank: the banks with more than `k` (R143). -/
def crowded (k : Nat) (units : List Nat) : List Nat :=
  let us := units.eraseDups
  ((us.map bankOfUnit).eraseDups).filter fun b => (us.filter (bankOfUnit · == b)).length > k

/-- A vector access: effective address and latch, then nothing without an active lane. -/
def vecMem (o : VMem) (s : State) (k : Int → Half → State → Out) : Out :=
  let ea := s.ea1 ((s.cx.rs o.sa.toNat).toInt + immOf o.off s.cur.ext)
  let s := s.setEa ea 0
  let m := s.cx.mask o.g
  if m = 0 then .next s else k ea m s

/-- The shadow of a load forms check bits of the delivered data (R142). -/
def shadowLoad (o : VMem) (off : Nat) (m : Half) (s : State) : Out :=
  .next (s.landing off fNone true (.vreg o.vd.toNat (laneMask m) 0))

/-- The stored bytes of the lanes at their addresses, in lane order. -/
def laneBytes (v : VWord) (l : List (Nat × Nat)) : List (Nat × Byte) :=
  (l.map fun (i, a) => placed a (bytesOf 4 (elem 32 v i))).flatten

/-- The shadow of a store is compared in the store's port cycle; of its lanes' bytes it keeps those of
lane 0 (R142, R307). -/
def shadowStore (o : VMem) (off : Nat) (l : List (Nat × Int)) (s : State) : Out :=
  let lane0 := (l.filter fun e => e.1 = 0 && inSpad e.2 4 4).map fun e => (e.1, e.2.toNat)
  .next (s.access off 3 false [] (.write (laneBytes (s.srcV 32 o.vd) lane0) (some o.vd.toNat)))

/-- VLD: all 128 bytes are accessed, whatever the mask (R143; DEDUCED, log 42). -/
def execVld (o : VMem) (s : State) : Out :=
  vecMem o s fun ea m s =>
    if o.sh then shadowLoad o 5 m s
    else if !inSpad ea 128 32 then addrTrap s ea
    else
      .next (s.access 0 3 false (unitsOf ea.toNat 128)
        (.toV o.vd.toNat ((lanesOf m).map fun i => (i, ea.toNat + 4 * i)) (wordsOf ea.toNat 128)
          (s.timeOf s.cur.site + 5) false))

def execVst (o : VMem) (s : State) : Out :=
  withB [o.vd] s <|
    vecMem o s fun ea m s =>
      if o.sh then shadowStore o 0 ((lanesOf m).map fun (i : Nat) => (i, ea + 4 * i)) s
      else if !inSpad ea 128 32 then addrTrap s ea
      else
        .next (s.access 0 3 false (unitsOf ea.toNat 128)
          (.write (laneBytes (s.srcV 32 o.vd)
            ((lanesOf m).map fun i => (i, ea.toNat + 4 * i))) none))

/-- Word addresses of lanes: the scratchpad-address trap, then the bank-overflow trap where a bank
needs more than `rows` rows. -/
def checked (rows : Nat) (l : List (Nat × Int)) (s : State) (k : List (Nat × Nat) → State → Out) :
    Out :=
  let bad := (l.map (·.2)).filter fun a => !inSpad a 4 4
  let good := l.map fun (i, a) => (i, a.toNat)
  let full := crowded rows (good.map fun (_, a) => a / 32)
  if !bad.isEmpty then
    let p := s.pick bad 0
    addrTrap p.2 p.1
  else if !full.isEmpty then
    let p := s.pick full 0
    trapOut p.2 0x0A (BitVec.ofNat 64 p.1)
  else k good s

/-- All 32 words are accessed; the active lanes are written. -/
def execVlds (o : VMem) (s : State) : Out :=
  vecMem o s fun ea m s =>
    if o.sh then shadowLoad o 5 m s
    else
      checked 1 ((List.range 32).map fun i => (i, ea + 4 * o.vx.toNat * i)) s fun l s =>
        .next (s.access 0 3 false (l.map fun (_, a) => a / 32).eraseDups
          (.toV o.vd.toNat (l.filter fun (i, _) => bitAt m i) (l.map fun (_, a) => a / 8).eraseDups
            (s.timeOf s.cur.site + 5) false))

/-- The addresses of a gather's active lanes. -/
def gatherAddrs (o : VMem) (ea : Int) (m : Half) (s : State) : List (Nat × Int) :=
  let x := s.srcV 32 o.vx
  (lanesOf m).map fun i => (i, ea + elem 32 x i)

/-- The rows are read in the last cycle of the window (DESIGN CHOICE, log 58). -/
def execVgth (o : VMem) (s : State) : Out :=
  withB [o.vx] s <|
    vecMem o s fun ea m s =>
      if o.sh then shadowLoad o 8 m s
      else
        checked 4 (gatherAddrs o ea m s) s fun l s =>
          .next (s.access 3 3 true (l.map fun (_, a) => a / 32).eraseDups
            (.toV o.vd.toNat l (l.map fun (_, a) => a / 8).eraseDups (s.timeOf s.cur.site + 8) false))

/-- The rows are written in the last cycle of the window (DESIGN CHOICE, log 58). -/
def execVsct (o : VMem) (s : State) : Out :=
  withB [o.vd, o.vx] s <|
    vecMem o s fun ea m s =>
      if o.sh then shadowStore o 3 (gatherAddrs o ea m s) s
      else
        checked 4 (gatherAddrs o ea m s) s fun l s =>
          .next (s.access 3 3 true (l.map fun (_, a) => a / 32).eraseDups
            (.write (laneBytes (s.srcV 32 o.vd) l) none))

end Sys2Proof.Machine
end

