-- ==== Sys2Proof/Machine/Fabric.lean ====
section
/-! DEFINITION. The timed fabric: PUSH and PULL (R145 to R147). -/

namespace Sys2Proof.Machine

/-- An irrevocable operation marks every region in effect committed-through (R301). -/
def State.irrevocable (s : State) : State := s.modCtx s.cur.site (·.commitAll (s.cycOf s.cur.site))

/-- Hop count and bridge flag of an ordered pair of members (R145, R329). -/
def Cohort.hop (c : Cohort) (i j : Nat) : Nat × Bool :=
  let e := c.hops.getD (i * c.members.length + j) 0
  (e % 128, e / 128 % 2 == 1)

/-- Member number of a site in its cohort. -/
def Cohort.memberOf (c : Cohort) (site : Nat) : Nat := c.members.idxOf site

/-- Place an access with its port cycle in a core's list, outside the present operation's own
pipelines. -/
def State.place (s : State) (site : Nat) (a : Access) : State :=
  s.modCtx site fun c => { c with acc := c.acc ++ [a] }

/-- Banks that the bundle touches in the issuing core's scratchpad (R140). -/
def State.touch (s : State) (units : List Nat) : State :=
  { s with cur := { s.cur with banks := s.cur.banks ++ units.map bankOfUnit } }

/-- Operands and checks of a fabric transfer: n, local and remote address, the peer's site, h. The entry of
HOPS for the pair (issuer, peer) gives h and the bridge of a PULL's way back too (DESIGN CHOICE, log 81). -/
def fabric (o : DOp) (sr : BitVec 6) (peer : BitVec 7) (sz : BitVec 2) (s : State)
    (k : Nat → Nat → Nat → Nat → Nat × Bool → Cohort → State → State) : Out :=
  withScalar o.bs o.sa s fun v =>
    let n := 128 / 2 ^ sz.toNat
    let la := s.ea1 v.toInt
    let ra := s.ea2 (s.cx.rs sr.toNat).toInt
    let s := s.setEa la ra
    if !s.guarded o.g then .next s
    else
      s.barred <|
        match s.myCoh with
        | none => .next s
        | some c =>
          if peer.toNat ≥ c.members.length then trapOut s 0x0C (peer.zeroExtend 64)
          else
            let bad := [la, ra].filter fun a => !inSpad a n 32
            if !bad.isEmpty then
              let p := s.pick bad 0
              addrTrap p.2 p.1
            else
              let me := c.memberOf s.cur.site
              .next (k n la.toNat ra.toNat (c.members.getD peer.toNat 0)
                (c.hop me peer.toNat) c s)

/-- PUSH reads at c and writes at c+5+2h, or c+29+2h across the bridge (R136). -/
def execPush (o : DOp) (sr : BitVec 6) (peer : BitVec 7) (sz : BitVec 2) (s : State) : Out :=
  fabric o sr peer sz s fun n la ra site h c s =>
    let t := s.timeOf s.cur.site
    let due := t + (if h.2 then 29 else 5) + 2 * h.1
    let s := if site = s.cur.site then s.touch (unitsOf ra n) else s
    (s.access 0 3 false (unitsOf la n)
      (.push la n site ra due (c.memberOf s.cur.site))).irrevocable

/-- PULL reads the remote core at c+6+2h and writes at c+11+4h; c+30+2h and c+59+4h across the
bridge. -/
def execPull (o : DOp) (sr : BitVec 6) (peer : BitVec 7) (sz : BitVec 2) (s : State) : Out :=
  fabric o sr peer sz s fun n la ra site h _ s =>
    let i := s.cur.site
    let t := s.timeOf i
    let rd := t + (if h.2 then 30 else 6) + 2 * h.1
    let wr := t + (if h.2 then 59 else 11) + 4 * h.1
    let s := s.touch (unitsOf la n)
    let s := if site = i then s.touch (unitsOf ra n) else s
    s.place site
      { due := rd, cls := 3, key := s.issueKey, issued := t, again := false, window := none,
        units := unitsOf ra n, lost := [], act := .pull ra n i la wr }

end Sys2Proof.Machine
end

