-- ==== Sys2Proof/Machine/VectorConv.lean ====
section
/-! DEFINITION. Conversions, table interpolation, reciprocal and transcendental functions, scaling
and block quantisation (R121, R122, R125 to R131). -/

namespace Sys2Proof.Machine

/-! ## VCVT (R30, R121, R122) -/

def cvtFmt (c : BitVec 4) : Fmt := if c == 0 then fmtF32 else if c == 1 then fmtBF16 else fmtF16

/-- Codes 6, 7, 8 are unsigned. -/
def cvtUnsigned (c : BitVec 4) : Bool := c == 6 || c == 7 || c == 8

/-- Most negative and most positive value of an integer code. -/
def cvtLow (c : BitVec 4) : Int := if cvtUnsigned c then 0 else -(2 ^ (cvtWidth c - 1))

def cvtHigh (c : BitVec 4) : Int :=
  if cvtUnsigned c then 2 ^ cvtWidth c - 1 else 2 ^ (cvtWidth c - 1) - 1

/-- float → integer (R30). -/
def cvtFI (dst : BitVec 4) (mode : Nat) (sat : Bool) (v : FV) : Nat × NFlags :=
  let w := cvtWidth dst
  match v with
  | .nan _ => (0, fIV)
  | .inf n => (wrapTo w (if n then cvtLow dst else cvtHigh dst), fIV)
  | .fin n m e =>
    let big := (bitLen m : Int) + e > 200
    let r := if big then ((if n then -(2 ^ 200 : Int) else 2 ^ 200), false) else roundInt mode n m e
    if cvtLow dst ≤ r.1 ∧ r.1 ≤ cvtHigh dst then (wrapTo w r.1, if r.2 then fIX else fNone)
    else if sat then (wrapTo w (if r.1 < 0 then cvtLow dst else cvtHigh dst), fIV)
    else (wrapTo w r.1, fIV)

/-- The exact value of an integer code. -/
def cvtInt? (c : BitVec 4) (x : Nat) : Int := if cvtUnsigned c then x else sval (cvtWidth c) x

/-- The value of a W4 pair code (R34). -/
def w4val (x : Nat) : Int := ((x % 16 : Nat) : Int) - (x / 16 % 16 : Nat)

/-- The canonical W8 code of a signed byte (R35). -/
def w8code (v : Int) : Nat :=
  let hi := v / 16
  let lo := (v - 16 * hi).toNat
  (max (-hi) 0).toNat * 2 ^ 12 + (max hi 0).toNat * 2 ^ 8 + lo

/-- One element of a conversion. -/
def cvtElem (dst src : BitVec 4) (mode : Nat) (ftz sat : Bool) (x : Nat) : Nat × NFlags :=
  if src == 3 && dst == 9 then
    let v := sval 8 x
    let k := if v < -15 then -15 else if v > 15 then 15 else v
    ((max k 0).toNat + (max (-k) 0).toNat * 16, if k = v then fNone else fSQ)
  else if src == 9 then (wrapTo 8 (w4val x), fNone)
  else if src == 3 && dst == 10 then (w8code (sval 8 x), fNone)
  else if src == 10 then (wrapTo 16 (16 * w4val (x / 256) + w4val (x % 256)), fNone)
  else if cvtFloat src then
    let v := fdec (cvtFmt src) ftz x
    if cvtFloat dst then
      let r := fround (cvtFmt dst) mode ftz v
      (r.1, r.2 ||| fsig v)
    else cvtFI dst mode sat v
  else
    let v := cvtInt? src x
    if cvtFloat dst then fround (cvtFmt dst) mode ftz (.fin (v < 0) v.natAbs 0)
    else if cvtUnsigned dst then uintResult (cvtWidth dst) sat v
    else intResult (cvtWidth dst) sat v

/-- A narrowing conversion fills part Q of the destination; a widening one reads part Q of the
source (R122). -/
def execVcvt (o : VOp) (dst src : BitVec 4) (s : State) : Out :=
  withB [o.va] s <|
    let ws := cvtWidth src
    let wd := cvtWidth dst
    let a := s.srcV ws o.va
    let q := o.ty.toNat
    let es := 1024 / ws
    let ed := 1024 / wd
    let m := s.cx.mask o.g
    let conv := fun x => cvtElem dst src (vmode o s) s.cx.ftz o.sat x
    let at_ : Nat → Option Nat := fun i =>
      if wd < ws then (if es * q ≤ i ∧ i < es * q + es then some (i - es * q) else none)
      else some (ed * q * (if wd = ws then 0 else 1) + i)
    let r := (List.range ed).map fun i =>
      if active m wd i then (at_ i).map fun j => conv (elem ws a j) else none
    let val := packElems wd (r.map fun x => (x.getD (0, fNone)).1)
    let msk := packElems wd (r.map fun x => if x.isSome then 2 ^ wd - 1 else 0)
    if m = 0 then .next s
    else .next (s.landV o 3 o.vd.toNat msk val (orAll (r.map fun x => (x.getD (0, fNone)).2)))

/-! ## Table interpolation (R125, R126) -/

/-- One element of VTINT; `tab` reads the FP32 word at a byte offset of the table. FTZ flushes the subnormal
intermediate u as it does every FP32 result (R126; DEDUCED, log 90). -/
def tintElem (f : Fmt) (mode : Nat) (ftz : Bool) (tab : Nat → Nat) (x : Nat) : Nat × NFlags :=
  let v := fdec f ftz x
  let t32 := fun o => fdec fmtF32 ftz (tab o)
  if fisNan v then (fnan f, fsig v)
  else
    let d := fsumx 0 [v, fneg (t32 0)]
    let p := fmulx d.1 (t32 4)
    let u := fdec fmtF32 false (fround fmtF32 0 ftz p.1).1
    match u with
    | .nan _ => (fnan f, fIV)
    | _ =>
      let k : Nat := match u with
        | .inf n => if n then 0 else 255
        | .fin n m e =>
          if (bitLen m : Int) + e > 20 then (if n then 0 else 255)
          else (min (max (roundInt 2 n m e).1 0) 255).toNat
        | .nan _ => 0
      let t := fsumx 0 [u, fneg (.fin false k 0)]
      ffmaR f mode ftz (t32 (20 + 8 * k)) t.1 (t32 (16 + 8 * k))

/-- The whole result, of the active lanes. -/
def tintValue (w mode : Nat) (ftz : Bool) (tab : Nat → Nat) (m : Half) (a : VWord) :
    VWord × NFlags :=
  let f := if w = 32 then fmtF32 else fmtBF16
  let r := (List.range (1024 / w)).map fun i =>
    if active m w i then tintElem f mode ftz tab (elem w a i) else (0, fNone)
  (packElems w (r.map (·.1)), orAll (r.map (·.2)))

/-- VTINT (R126); the sign of a zero t is R25's (DEDUCED, log 45). -/
def execVtint (o : VOp) (s : State) : Out :=
  withB [o.va, o.vb] s <|
    let m := s.cx.mask o.g
    let addr := bits (s.cur.b.getD 0) 19 0
    let w := tyWidth o.ty
    if m = 0 then .next s
    else if addr % 16 ≠ 0 ∨ addr + 2064 > spadSize then trapOut s 0x09 (BitVec.ofNat 64 addr)
    else if o.sh then .next (s.landing 6 fNone true (.vreg o.vd.toNat (laneMask m) 0))
    else .next (s.access 0 2 false (unitsOf addr 2064)
      (.table o.vd.toNat addr (s.srcV w o.va) (laneMask m) w (vmode o s) s.cx.ftz
        (s.timeOf s.cur.site + 6) false))

/-! ## Functions (R127) -/

def vecFun (o : VOp) (f : Fmt → Nat → Bool → FV → Nat × NFlags) (s : State) : Out :=
  withB [o.va] s <|
    let w := tyWidth o.ty
    let a := s.srcV w o.va
    let m := fmtOf o.ty
    vecOut o 6 w (fun i => f m (vmode o s) s.cx.ftz (fdec m s.cx.ftz (elem w a i))) s

def execVrcp (o : VOp) (s : State) : Out := vecFun o frcp s

def execVrsq (o : VOp) (s : State) : Out := vecFun o frsq s

def execVexp2 (o : VOp) (s : State) : Out := vecFun o fexp2 s

def execVlog2 (o : VOp) (s : State) : Out := vecFun o flog2 s

/-! ## Scaling (R128) -/

/-- Multiply a value by 2^k; k is bounded where the result no longer depends on it. -/
def fscale (k : Int) (v : FV) : FV :=
  match v with
  | .fin n m e => .fin n m (e + (if k > 2000 then 2000 else if k < -2000 then -2000 else k))
  | x => x

def execVscl (o : VOp) (s : State) : Out :=
  withB [o.va, o.vb] s <|
    let w := tyWidth o.ty
    let a := s.srcV w o.va
    let b := s.srcV w o.vb
    vecOut o 3 w (fun i =>
      let k := sval w (elem w b i)
      if isFloat o.ty then
        let f := fmtOf o.ty
        let v := fdec f s.cx.ftz (elem w a i)
        let r := fround f (vmode o s) s.cx.ftz (fscale k v)
        (r.1, r.2 ||| fsig v)
      else
        let x := sval w (elem w a i)
        let k' := if k > 64 then 64 else if k < -64 then -64 else k
        vint o w (roundInt (vmode o s) (x < 0) x.natAbs k').1) s

/-! ## Block quantisation (R129, R130) -/

/-- floor(log2 |v|) of a non-zero finite value. -/
def flog2floor (v : FV) : Int :=
  match v with
  | .fin _ m e => (bitLen m : Int) - 1 + e
  | _ => 0

/-- What a block gives: its exponent byte, its elements (none: not written), and the flags. `bias`
and `steps`: an element is a · 2^(steps + bias - exponent), bounded by lo and hi. -/
def quantBlock (bias steps lo hi : Int) (mode : Nat) (l : List (Bool × FV)) :
    Nat × List (Option Int) × NFlags :=
  let act := (l.filter (·.1)).map (·.2)
  if act.any fun v => fisNan v || fisInf v then
    (0xFF, l.map (fun x => if x.1 then some 0 else none), fsigs act)
  else
    let nz := act.filter fun v => !fisZero v
    let top : Option Int := nz.foldl (fun a v =>
      match a with
      | none => some (flog2floor v)
      | some t => some (if flog2floor v > t then flog2floor v else t)) none
    let X : Int := match top with
      | none => 0
      | some t => if t + bias < 0 then 0 else if t + bias > 254 then 254 else t + bias
    let one := fun (v : FV) =>
      match v with
      | .fin n m e =>
        let r := roundInt mode n m (e + steps - X)
        if r.1 < lo then (lo, true) else if r.1 > hi then (hi, true) else r
      | _ => (0, false)
    let rs := l.map fun x => if x.1 then some (one x.2) else none
    (X.toNat, rs.map (fun x => x.map (·.1)),
     if rs.any fun x => match x with
       | some (_, true) => true
       | _ => false
     then fIX else fNone)

/-- The source blocks of VMXQ and VBFPQ: one of 32 FP32 elements, or two of 32 BF16 elements. -/
def quantSource (o : VOp) (s : State) : List (List (Bool × FV)) :=
  let w := tyWidth o.ty
  let a := s.srcV w o.va
  let m := s.cx.mask o.g
  let el := fun i => (active m w i, fdec (fmtOf o.ty) s.cx.ftz (elem w a i))
  (List.range (if w = 32 then 1 else 2)).map fun k => (List.range 32).map fun j => el (32 * k + j)

/-- Value and mask with `v` put at bit `pos` over `len` bits. -/
def putBits (x : Nat × Nat) (pos len v : Nat) : Nat × Nat :=
  (x.1 + v % 2 ^ len * 2 ^ pos, x.2 + (2 ^ len - 1) * 2 ^ pos)

/-- Lay the elements of a block of n bits each from bit `base`; the slot's unused bits up to
`width` are written as zero where any lane is active. -/
def layBlock (base n width : Nat) (l : List (Option Int)) : Nat × Nat :=
  let r := (l.zipIdx).foldl (fun x (e : Option Int × Nat) =>
    match e.1 with
    | some v => putBits x (base + n * e.2) n (wrapTo n v)
    | none => x) (0, 0)
  if l.any (·.isSome) && 32 * n < width then putBits r (base + 32 * n) (width - 32 * n) 0 else r

/-- Quantise the blocks from slot q: elements of n bits to VD, exponent bytes to VB's register, the later of
the two results where the registers are one (DEDUCED, log 56). -/
def quantise (o : VOp) (q n width : Nat) (bias steps lo hi : Int) (s : State) : Out :=
  withB [o.va] s <|
    let bs := (quantSource o s).map (quantBlock bias steps lo hi (vmode o s))
    let es := (bs.zipIdx).map fun (b, k) => layBlock (width * (q + k)) n width b.2.1
    let xs := (bs.zipIdx).map fun (b, k) =>
      if b.2.1.any (·.isSome) then putBits (0, 0) (8 * (q + k)) 8 b.1 else (0, 0)
    let sum := fun (l : List (Nat × Nat)) =>
      (BitVec.ofNat 1024 (l.map (·.1)).sum, BitVec.ofNat 1024 (l.map (·.2)).sum)
    let e := sum es
    let x := sum xs
    if s.cx.mask o.g = 0 then .next s
    else
      let s := s.landV o 5 o.vd.toNat e.2 e.1 (orAll (bs.map fun b => b.2.2))
      .next (s.landV o 5 o.vb.toNat x.2 x.1 fNone)

/-- MXINT8: an element counts 2^-6 of the scale 2^(X-127). -/
def execVmxq (o : VOp) (q : BitVec 2) (s : State) : Out :=
  quantise o q.toNat 8 256 127 133 (-127) 127 s

/-- BFP-n: a mantissa counts 2^-(n-1) of the factor 2^(E-127). -/
def execVbfpq (o : VOp) (n q : BitVec 4) (s : State) : Out :=
  let n := n.toNat
  quantise o q.toNat n (1024 / bfpSlots n) 128 (126 + n) (-(2 ^ (n - 1))) (2 ^ (n - 1) - 1) s

/-! ## Dequantisation (R131) -/

/-- VDQG. The integer is taken as an exact number whose zero has the sign +, so that 0 times a negative scale is
−0 (DEDUCED, log 100). -/
def execVdqg (o : VOp) (gs : BitVec 3) (eb : Bool) (nm : BitVec 3) (h : Bool) (s : State) : Out :=
  withB ((if eb then [0x3FF] else []) ++ [o.va, o.vb]) s <|
    let a := s.srcV 32 o.va
    let b := s.srcV 32 o.vb
    let f := fmtOf o.ty
    let wd := tyWidth o.ty
    let X := if eb then bits (s.cur.b.getD 0) 7 0 else 0
    let kx : Int := if eb then (X : Int) - 127 - nm.toNat else 0
    let m := s.cx.mask o.g
    let one := fun i =>
      let sc := fdec fmtF32 s.cx.ftz (elem 32 b (i / 2 ^ gs.toNat))
      if eb && X == 0xFF || fisNan sc then (fnan f, fsig sc)
      else
        let v := sval 32 (elem 32 a i)
        let p := fmulx (.fin (v < 0) v.natAbs 0) (fscale kx sc)
        let r := fround f (vmode o s) s.cx.ftz p.1
        (r.1, r.2 ||| p.2)
    let base := if wd = 16 && h then 32 else 0
    let rs := (List.range 32).map fun i =>
      if active m wd (base + i) then some (one i) else none
    let lay := rs.zipIdx.foldl (fun x (e : Option (Nat × NFlags) × Nat) =>
      match e.1 with
      | some v => putBits x (wd * (base + e.2)) wd v.1
      | none => x) (0, 0)
    if m = 0 then .next s
    else .next (s.landV o 4 o.vd.toNat (BitVec.ofNat 1024 lay.2) (BitVec.ofNat 1024 lay.1)
      (orAll (rs.map fun x => (x.getD (0, fNone)).2)))

end Sys2Proof.Machine
end

