-- ==== Sys2Proof/Machine/Crossbar.lean ====
section
/-! DEFINITION. The crossbar bank: groups, evaluation, XMV with its fallback, XSWAP and XSTAT
(R165 to R178, R186). -/

namespace Sys2Proof.Machine

/-- The crossbar bank above the issuing core. -/
def State.myBank (s : State) : Bank := s.bank s.cur.site

def State.modMyBank (s : State) (f : Bank → Bank) : State := s.modBank s.cur.site f

/-! ## Groups (R166, R167) -/

def grpValid (w : Word) : Bool := bitAt w 24
def grpDb (w : Word) : Bool := bitAt w 7
def grpAct (w : Word) : Bool := bitAt w 15
def grpKa (w : Word) : Nat := bits w 18 16 + 1
def grpNa (w : Word) : Nat := bits w 19 19 + 1
def grpWf (w : Word) : Bool := bitAt w 20
def grpRs (w : Word) : Nat := bits w 23 21
def grpShb (w : Word) : Bool := bitAt w 25
def grpOwn (w : Word) : Bool := bitAt w 26
def grpRows (w : Word) : Nat := 512 * grpKa w
def grpCols (w : Word) : Nat := if grpWf w then 128 * grpNa w else 256

/-- First array of set B (true) or A. -/
def grpBase (w : Word) (set : Bool) : Nat := if set then bits w 14 8 else bits w 6 0

/-- Array number at (ka, na) of a set. -/
def grpArray (w : Word) (set : Bool) (ka na : Nat) : Nat := (grpBase w set + grpNa w * ka + na) % 128

/-- The arrays of a set. -/
def grpArrays (w : Word) (set : Bool) : List Nat :=
  (List.range (grpKa w * grpNa w)).map fun k => (grpBase w set + k) % 128

/-- The valid groups, with the set, that hold an array. -/
def Bank.members (b : Bank) (a : Nat) : List (Nat × Bool) :=
  ((List.range 64).map fun g =>
    let w := b.grp g
    let has := fun (set : Bool) => grpValid w && (!set || grpDb w) && (grpArrays w set).contains a
    ([false, true].filter has).map fun set => (g, set)).flatten

/-- Every valid group that holds an array has this range shift (R205). -/
def Bank.shiftIs (b : Bank) (a rs : Nat) : Bool := (b.members a).all fun e => grpRs (b.grp e.1) == rs

/-- The valid group, and the set, that holds an array; of several valid ones, laid out for different
images, the lowest-numbered (DESIGN CHOICE, log 91). -/
def Bank.groupOf (b : Bank) (a : Nat) : Option (Nat × Bool) :=
  (List.range 64).findSome? fun g =>
    let w := b.grp g
    if !grpValid w then none
    else if (grpArrays w false).contains a then some (g, false)
    else if grpDb w && (grpArrays w true).contains a then some (g, true)
    else none

/-! ## Status (R178, R186) -/

def ArrStatus.code (x : ArrStatus) : Nat :=
  match x with
  | .calibrated => 0
  | .drift => 1
  | .programming => 2
  | .offline => 3
  | .retired => 4

/-- The evaluation slot of an array is parked by the bank's thermal class. -/
def Bank.parked (b : Bank) (a : Nat) : Bool := esl b.therm / 2 ^ (a % 4) % 2 == 0

def Bank.worst (b : Bank) (l : List Nat) : Nat :=
  (l.map fun a => (b.arr a).status.code).foldl max 0

/-- Every array of a set is CALIBRATED. -/
def Bank.fit (b : Bank) (w : Word) (set : Bool) : Bool := b.worst (grpArrays w set) == 0

/-! ## Occupancy (R154, R174, R198) -/

/-- Windows of an operation issued at cycle t meet occupied ones: the earliest cycle that clears
every one met. -/
def clearOf (occ : List Occ) (w : List (Nat × Nat × Nat)) (t : Nat) : Nat :=
  (w.map fun (r, a, b) =>
    (occ.map fun o => if o.res = r ∧ t + a ≤ o.to_ ∧ o.from_ ≤ t + b then o.to_ + 1 - a else t).foldl
      max t).foldl max t

/-- The first free cycle from t. -/
def firstFree (occ : List Occ) (w : List (Nat × Nat × Nat)) : Nat → Nat → Nat
  | 0, t => t
  | k + 1, t => if clearOf occ w t = t then t else firstFree occ w k (clearOf occ w t)

/-- Occupied windows that count the issuing core's cohort cycles. -/
def State.myOcc (s : State) : List Occ :=
  s.myBank.occ.filter fun o => some o.coh == s.cohOf s.cur.site

def State.freeAt (s : State) (w : List (Nat × Nat × Nat)) : Nat :=
  firstFree s.myOcc w (s.myOcc.length + 1) (s.timeOf s.cur.site)

/-- Occupy windows from cycle t; those that ended are forgotten. -/
def State.occupy (s : State) (w : List (Nat × Nat × Nat)) : State :=
  let t := s.timeOf s.cur.site
  let k := (s.cohOf s.cur.site).getD 0
  s.modMyBank fun b =>
    { b with occ := (b.occ.filter fun o => o.coh != k || o.to_ ≥ t) ++
        w.map fun (r, x, y) => { coh := k, res := r, from_ := t + x, to_ := t + y } }

def downBus : Nat := 128
def upBus : Nat := 129

/-! ## Cells (R165, R201, R202) -/

/-- Physical column that stands for a column: the spare last assigned to it. -/
def Arr.phys (x : Arr) (pc : Nat) : Nat :=
  match x.sparesNew.find? fun k => SMap.get? x.spares k == some pc with
  | some k => 512 + k
  | none => pc

/-- Measured conductance of the cell at a row and a column. -/
def Arr.cell (x : Arr) (row pc : Nat) : Nat := SMap.get x.cells 0 (528 * row + x.phys pc)

/-- The nearest code level, the lower one on a tie. -/
def codeOf (g : Nat) : Nat := min 15 ((g + 2047) / 4096)

/-- Outside the verify margin of its level (R201). -/
def marginFails (vt g : Nat) : Bool :=
  let l := 4096 * codeOf g
  (max g l - min g l) > 64 * vt

/-- G+ − G− of a cell pair. -/
def Arr.weight (x : Arr) (row l : Nat) : Int :=
  (codeOf (x.cell row (2 * l)) : Int) - codeOf (x.cell row (2 * l + 1))

def Arr.off (x : Arr) (l : Nat) : Int := (SMap.get x.offs 0 l).toInt

def Arr.gainOf (x : Arr) (l : Nat) : Nat := (SMap.get x.gain 0 l + 4096).toNat

def clampTo (lo hi x : Int) : Int := max lo (min hi x)

/-- Column sum of the rows that `on` selects. -/
def Arr.sum (x : Arr) (l : Nat) (on : Nat → Bool) : Int :=
  ((List.range 512).map fun q => if on q then x.weight q l else 0).foldl (· + ·) 0

/-- The ideal code of a column sum (R169). -/
def idealCode (rs : Nat) (sum : Int) : Int := clampTo (-512) 511 (roundHalfEven sum rs)

/-! ## Activations (R168) -/

/-- Slot width of BFP-n blocks. -/
def bfpWidth (n : Nat) : Nat := if n ≥ 5 then 256 else if n ≥ 3 then 128 else 64

/-- Mantissa r of the activations from register VA. -/
def State.mantissa (s : State) (va n r : Nat) : Int :=
  let w := bfpWidth n
  let bpr := 1024 / w
  let b := r / 32
  sval n ((s.readV (va + b / bpr)).toNat / 2 ^ (w * (b % bpr) + n * (r % 32)) % 2 ^ n)

/-- Exponents of the blocks of K activations. -/
def State.exponents (s : State) (va n k : Nat) : List Nat :=
  let nr := k / (32 * (1024 / bfpWidth n))
  (List.range (k / 32)).map fun b => elem 8 (s.readV (va + nr)) b

/-- Largest exponent and aligned mantissas. -/
def State.aligned (s : State) (va n k : Nat) : Nat × List Int :=
  let e := s.exponents va n k
  let top := e.foldl max 0
  (top, (List.range k).map fun r => roundHalfEven (s.mantissa va n r) (top - e.getD (r / 32) 0))

/-! ## Evaluation (R169, R170) -/

/-- Delivered code and raw output of one plane of a column; `d` numbers the conversion. -/
def Arr.convert (x : Arr) (l rs d : Nat) (on : Nat → Bool) : Int × Int :=
  let cm := idealCode rs (x.sum l on) + clampTo (-1) 1 (Config.deviation d)
  (cm, clampTo (-512) 511 (cm + x.off l))

/-- Shift-add of the planes of a logical column, and whether a raw output hit a rail. -/
def Arr.column (x : Arr) (l rs n base : Nat) (act : Nat → Int) : Int × Bool :=
  (List.range n).foldl (fun (acc : Int × Bool) p =>
    let c := x.convert l rs (base + p) fun q => wrapTo n (act q) / 2 ^ p % 2 == 1
    let v := if p + 1 < n then c.1 * 2 ^ p else -(c.1 * 2 ^ p)
    (acc.1 + v, acc.2 || c.2 == -512 || c.2 == 511)) (0, false)

/-- T of a logical column of a strip, over the arrays along the row dimension. -/
def Bank.strip (b : Bank) (w : Word) (na l n base : Nat) (x : List Int) : Int × Bool :=
  (List.range (grpKa w)).foldl (fun (acc : Int × Bool) ka =>
    let a := grpArray w (grpAct w) ka na
    let r := (b.arr a).column l (grpRs w) n (base + 8 * (256 * (2 * ka + na) + l))
      fun q => x.getD (512 * ka + q) 0
    (acc.1 + r.1, acc.2 || r.2)) (0, false)

/-- An output column: its 32-bit result, saturation, clip. -/
def Bank.output (b : Bank) (w : Word) (n base : Nat) (x : List Int) (j : Nat) : Int × Bool × Bool :=
  let na := if grpWf w then j / 128 else 0
  let l0 := if grpWf w then 2 * (j % 128) else j
  let lo := b.strip w na l0 n base x
  let hi := if grpWf w then b.strip w na (l0 + 1) n base x else (0, false)
  let y := 16 * hi.1 + lo.1
  let g := (b.arr (grpArray w (grpAct w) 0 na)).gainOf l0
  let r := roundHalfEven (y * 2 ^ grpRs w * g) 12
  (satS 32 r, satS 32 r != r, lo.2 || hi.2)

/-- Conversions that one XMV numbers. -/
def conversions : Nat := 8 * 256 * 16

/-! ## XMV (R171 to R175) -/

/-- Land an XMV's columns, exponent and counters at cycle offset `off`. -/
def State.landXmv (s : State) (off vd sx grp top : Nat) (out : List Int) (sat fb : Nat)
    (clip : BitVec 256) : State :=
  s.once fun s =>
    let s := forAll (List.range (out.length / 32)) s fun r s =>
      s.landing off fNone false (.vreg (vd + r) (BitVec.allOnes 1024)
        (packElems 32 (((out.drop (32 * r)).take 32).map (wrapTo 32))))
    let s := s.landing off fNone false (.sreg sx (BitVec.ofNat 64 top))
    s.landing off fNone false (.xcount grp sat fb clip)

/-- The resource windows of an XMV (R174). -/
def xmvWindows (w : Word) (half : Bool) (n : Nat) : List (Nat × Nat × Nat) :=
  let l := 16 * n + (if half then 152 else 24)
  let k := if half then 2 else 1
  let dn := k * ((grpKa w * n + 7) / 8)
  let u := k * (grpCols w / 128)
  (grpArrays w (grpAct w)).map (fun a => (a, 0, 16 * n - 1)) ++
    [(downBus, 0, dn - 1), (upBus, l - u, l - 1)]

/-- Values the group's outputs take on the crossbar path. -/
def Bank.outputs (b : Bank) (w : Word) (n base : Nat) (x : List Int) : List (Int × Bool × Bool) :=
  (List.range (grpCols w)).map (b.output w n base x)

/-- The bits of the output columns that clipped. -/
def clipBits (l : List (Int × Bool × Bool)) : BitVec 256 :=
  BitVec.ofNat 256 ((l.zipIdx.filter fun e => e.1.2.2).foldl (fun a e => a + 2 ^ e.2) 0)

/-- An XMV that passed the checks of R172. A fallback reads the copy in the XMV's port cycle, so a BLOCK
locks the copy's banks too (R140, R175). -/
def State.startXmv (s : State) (o : XmvOp) (w : Word) (n : Nat) (copy : Int) (fit nan : Bool) : State :=
  let i := s.cur.site
  let t := s.timeOf i
  let b := s.myBank
  let g := o.grp.toNat
  let off := 16 * n + (if b.half then 152 else 24)
  let k := (s.cohOf i).getD 0
  let s := s.occupy (xmvWindows w b.half n)
  let s := s.modMyBank fun b =>
    { b with xmvs := (b.xmvs.filter fun x => x.coh != k || x.to_ ≥ t) ++
        [{ coh := k, grp := g, set := grpAct w, from_ := t, to_ := t + off }] }
  if nan then
    s.landXmv off o.vd.toNat o.sx.toNat g 0xFF (List.replicate (grpCols w) 0) 0 0 0
  else
    let x := s.aligned o.va.toNat n (grpRows w)
    if fit then
      let r := b.outputs w n s.fresh x.2
      let s := { s with fresh := s.fresh + conversions }
      s.landXmv off o.vd.toNat o.sx.toNat g x.1 (r.map (·.1))
        ((r.filter (·.2.1)).length) 0 (clipBits r)
    else
      let s := s.addHold k (.fallback i (s.now + 1 + 96 + 8 * grpKa w * grpCols w)) 5 (s.now + 1)
      let copyBanks := (unitsOf copy.toNat (grpRows w * grpCols w)).map bankOfUnit
      let s := { s with cur := { s.cur with banks := s.cur.banks ++ copyBanks.eraseDups } }
      s.place i
        { due := t, cls := 4, key := s.issueKey, issued := t, again := false, window := none, units := []
          lost := [], act := .fallback copy.toNat g o.vd.toNat o.sx.toNat (grpCols w) x.2 x.1 (t + off) }

def execXmv (o : XmvOp) (s : State) : Out :=
  withScalar o.bs o.sf s fun f =>
    if !s.guarded o.g then .next s
    else
      s.barred <|
        let n := o.nm.toNat + 1
        let g := o.grp.toNat
        let b := s.myBank
        let w := b.grp g
        let nr := grpRows w / (32 * (1024 / bfpWidth n))
        let arrays := grpArrays w (grpAct w)
        let nan := (s.exponents o.va.toNat n (grpRows w)).contains 0xFF
        let fit := b.fit w (grpAct w)
        let free := s.freeAt (xmvWindows w b.half n)
        if o.va.toNat + nr > 639 || o.vd.toNat + grpCols w / 32 - 1 > 639 then .next s.illegal
        else if !grpValid w then trapOut s 0x0F (BitVec.ofNat 64 g)
        else if arrays.any b.parked then trapOut s 0x10 (BitVec.ofNat 64 g)
        else if free != s.timeOf s.cur.site then trapOut s 0x0E (BitVec.ofNat 64 free)
        else if !nan && !fit && f = 0 then trapOut s 0x11 (BitVec.ofNat 64 g)
        else if !nan && !fit && !inSpad f.toInt (grpRows w * grpCols w) 32 then addrTrap s f.toInt
        else .next (s.startXmv o w n f.toInt fit nan)

/-- The fallback product over the copy's bytes, in row order (R175): outputs and saturations. -/
def fallbackOut (cols : Nat) (x : List Int) (copy : List Byte) : List Int × Nat :=
  let y := (List.range cols).map fun j =>
    (x.zipIdx.map fun (v, r) => v * (copy.getD (r * cols + j) 0).toInt).foldl (· + ·) 0
  (y.map (satS 32), (y.filter fun v => satS 32 v != v).length)

/-- XMV_FALLBACK_END: the fallback time of cohort k is over (R175). -/
def State.fallbackDue (s : State) (k : Nat) : Bool :=
  match s.coh? k with
  | none => false
  | some c => c.holds.any fun h => match h with
    | .fallback _ u => u ≤ s.now
    | _ => false

def execXmvFallbackEnd (coh : Nat) (s : State) : Out :=
  .next (s.dropHold coh fun h => match h with
    | .fallback _ u => u ≤ s.now
    | _ => false)

/-! ## XSWAP and XSTAT (R177, R178) -/

def execXswap (g : Guard) (grp : BitVec 6) (s : State) : Out :=
  if !s.guarded g then .next s
  else
    s.barred <|
      let w := s.myBank.grp grp.toNat
      if !grpValid w || !grpDb w || (grpShb w && !grpOwn w) then
        trapOut s 0x0F (grp.zeroExtend 64)
      else
        .next (s.modMyBank fun b =>
          { b with xgrp := SMap.put b.xgrp 0 grp.toNat (w ^^^ 0x8000) }).irrevocable

/-- The word XSTAT lands for a group. -/
def Bank.groupWord (b : Bank) (w : Word) : Word :=
  let act := grpArrays w (grpAct w)
  let inact := if grpDb w then b.worst (grpArrays w !grpAct w) else 7
  BitVec.ofNat 64
    (b.worst act + 8 * inact + 64 * (grpAct w).toNat + 128 * (!b.fit w (grpAct w)).toNat +
      256 * (act.any b.parked).toNat)

/-- The word XSTAT.A lands for an array. -/
def Bank.arrayWord (b : Bank) (a : Nat) : Word :=
  let g := b.groupOf a
  BitVec.ofNat 64
    ((b.arr a).status.code + 8 * (a % 4) + 32 * (b.parked a).toNat + 64 * g.isSome.toNat +
      (match g with
       | some (k, x) => 128 * x.toNat + 256 * k
       | none => 0))

def execXstat (g : Guard) (sd : BitVec 6) (idx : BitVec 7) (s : State) : Out :=
  if !s.guarded g then .next s
  else
    s.barred <|
      let w := s.myBank.grp idx.toNat
      if idx.toNat ≥ 64 || !grpValid w then trapOut s 0x0F (idx.zeroExtend 64)
      else
        .next (s.once (·.landing 2 fNone false (.sreg sd.toNat (s.myBank.groupWord w))))

def execXstatA (g : Guard) (sd : BitVec 6) (idx : BitVec 7) (s : State) : Out :=
  if !s.guarded g then .next s
  else
    s.barred <|
      .next (s.once (·.landing 2 fNone false (.sreg sd.toNat (s.myBank.arrayWord idx.toNat))))

end Sys2Proof.Machine
end

