-- ==== Sys2Proof/Machine/Calib.lean ====
section
/-! DEFINITION. Calibration operations of the crossbar bank and the landing of their effects
(R192 to R207). -/

namespace Sys2Proof.Machine

/-! ## Operands and checks (R196, R197) -/

/-- A calibration operation's array and upper cell-address field, under its guard. -/
def calib (o : XOp) (s : State) (k : Nat → Nat → State → Out) : Out :=
  withScalar o.bs o.sa s fun v =>
    let ca := s.ea1 (v.toNat % 65536)
    let s := s.setEa ca 0
    if !s.guarded o.g then .next s
    else s.barred (k (ca.toNat % 128) (ca.toNat / 128) s)

/-- The crossbar-config trap with array and reason. -/
def configTrap (s : State) (a reason : Nat) : Out :=
  trapOut s 0x0F (BitVec.ofNat 64 (a + 256 * reason))

/-- The XMV in flight uses the active set of a group (R197). -/
def State.groupBusy (s : State) (g : Nat) (act : Bool) : Bool :=
  let t := s.timeOf s.cur.site
  s.myBank.xmvs.any fun x =>
    some x.coh == s.cohOf s.cur.site && x.grp == g && x.set == act && x.from_ ≤ t && t ≤ x.to_

/-- Reason that bars a write of an array, 0 for none: every valid group that holds the array counts (R197). -/
def State.writeBar (s : State) (a : Nat) : Nat :=
  let b := s.myBank
  let l := (b.members a).map fun e => (e.1, e.2, b.grp e.1)
  if l.any fun e => (grpDb e.2.2 && e.2.1 == grpAct e.2.2) || s.groupBusy e.1 (grpAct e.2.2) then 1
  else if l.any fun e => grpShb e.2.2 && !grpOwn e.2.2 then 2
  else if (b.arr a).status == .retired then 3
  else 0

/-- The checks of R197 in order: write bars, seal, thermal class, occupancy. -/
def State.calibCheck (s : State) (a : Nat) (writes reads thermal : Bool)
    (w : List (Nat × Nat × Nat)) (k : State → Out) : Out :=
  let b := s.myBank
  let bar := if writes then s.writeBar a else 0
  let free := s.freeAt ((a, 0, 0) :: w)
  if bar ≠ 0 then configTrap s a bar
  else if reads && (b.arr a).sealed_ then configTrap s a 4
  else if thermal && b.parked a then trapOut s 0x10 (BitVec.ofNat 64 a)
  else if free ≠ s.timeOf s.cur.site then trapOut s 0x0E (BitVec.ofNat 64 free)
  else k (s.occupy w)

/-- The down-bus window of an operation. -/
def State.downWin (s : State) : Nat × Nat × Nat := (downBus, 0, if s.myBank.half then 1 else 0)

/-- The up-bus window of a reading operation. -/
def State.upWin (s : State) : Nat × Nat × Nat := (upBus, if s.myBank.half then 46 else 47, 47)

/-- Leave an effect pending in the bank, `off` cohort cycles from issue (R198). -/
def State.bankLater (s : State) (off : Nat) (e : BankEffect) : State :=
  let i := s.cur.site
  let t := s.timeOf i
  let k := (s.cohOf i).getD 0
  let seq := s.issueKey
  s.modMyBank fun b =>
    { b with pend := b.pend ++ [{ coh := k, due := t + off, seq := seq, eff := e }] }

/-- A write operation of array a: the fresh reading becomes stale unless the operation is a commit;
PROGRAMMING, and no reference, from c+1; irrevocable (R192, R203, R301). -/
def State.writeOp (s : State) (a : Nat) (commit : Bool) : State :=
  let s := s.modMyBank fun b => b.modArr a fun x => { x with stale := x.stale || !commit }
  (s.bankLater 1 (.programming a)).irrevocable

/-! ## Pulses and erasure (R199, R200) -/

/-- Physical column that bit i of a window selects. -/
def Arr.window (x : Arr) (win i : Nat) : Nat :=
  if win < 4 then x.phys (128 * win + i) else if i < 12 then 512 + i else 512 + i

/-- Bits of a window. -/
def windowSize (win : Nat) : Nat := if win < 4 then 128 else 16

/-- Amplitude of a pulse in mV (R195). -/
def amplitude (xpamp : Word) (reset : Bool) (amp : Nat) : Nat :=
  let b := if reset then bits xpamp 21 14 else bits xpamp 7 0
  let st := if reset then bits xpamp 27 22 else bits xpamp 13 8
  min (10 * b + 5 * amp * st) 1800

/-- One pulse on each selected cell of a row: a set pulse raises the conductance, a reset pulse lowers
it; how far is a free value (R195, R199). -/
def xprog (reset : Bool) (o : XOp) (vm : BitVec 10) (win : BitVec 3) (amp : BitVec 4) (s : State) :
    Out :=
  calib o s fun a row s =>
    s.calibCheck a true false true [(a, 0, 255), s.downWin] fun s =>
      let b := s.myBank
      let x := b.arr a
      let v := s.readV vm.toNat
      let sel := (List.range (windowSize win.toNat)).filter fun i => bitAt v i
      let cells := sel.map fun i =>
        let key := 528 * row + x.window win.toNat i
        let old := SMap.get x.cells 0 key
        let g := Config.pulsed (s.fresh + i) old (amplitude b.xpamp reset amp.toNat) (bits b.xpamp 35 28) reset
        (key, if reset then min old g else max old g)
      let s := { s with fresh := s.fresh + 128 }
      .next ((s.writeOp a false).bankLater 256 (.settle a cells sel.length))

def execXprogSet (o : XOp) (vm : BitVec 10) (win : BitVec 3) (amp : BitVec 4) (s : State) : Out :=
  xprog false o vm win amp s

def execXprogRst (o : XOp) (vm : BitVec 10) (win : BitVec 3) (amp : BitVec 4) (s : State) : Out :=
  xprog true o vm win amp s

/-- Erase one row, or every row and the seal. -/
def xerase (all : Bool) (o : XOp) (s : State) : Out :=
  calib o s fun a row s =>
    s.calibCheck a true false true [(a, 0, 255), s.downWin] fun s =>
      let s := s.writeOp a false
      let s := if all then s.modMyBank fun b => b.modArr a fun x => { x with sealed_ := false } else s
      .next (s.bankLater 256
        (.erase a (if all then none else some row) (if all then 528 * 512 else 528)))

def execXerase (o : XOp) (s : State) : Out := xerase false o s

def execXeraseAll (o : XOp) (s : State) : Out := xerase true o s

/-! ## Reading back (R201) -/

def execXread (o : XOp) (vd : BitVec 10) (win : BitVec 3) (s : State) : Out :=
  calib o s fun a row s =>
    s.calibCheck a false true true [(a, 0, 15), s.upWin] fun s =>
      let b := s.myBank
      let x := b.arr a
      let l := (List.range (windowSize win.toNat)).map fun i =>
        let g := SMap.get x.cells 0 (528 * row + x.window win.toNat i)
        codeOf g + 16 * (marginFails (bits b.xvthr 5 0) g).toNat
      .next (s.once (·.landing 48 fNone false
        (.vreg vd.toNat (BitVec.allOnes 1024) (packElems 8 l))))

/-- One bit-plane of every row that Ve selects: raw outputs, physical outcomes of the array. -/
def execXreadE (o : XOp) (vd ve : BitVec 10) (rs win : BitVec 3) (s : State) : Out :=
  calib o s fun a _ s =>
    s.calibCheck a false true true [(a, 0, 15), s.downWin, s.upWin] fun s =>
      let x := s.myBank.arr a
      let v := s.readV ve.toNat
      let l := (List.range 64).map fun i =>
        let ideal := idealCode rs.toNat (x.sum (64 * win.toNat + i) fun q => bitAt v q)
        wrapTo 16 (clampTo (-512) 511 (ideal + Config.rawOffset (s.fresh + i)))
      let s := { s with fresh := s.fresh + 64 }
      .next (s.once (·.landing 48 fNone false
        (.vreg vd.toNat (BitVec.allOnes 1024) (packElems 16 l))))

/-! ## Spares, drift, offsets, gains, wear (R202 to R206) -/

def execXremap (o : XOp) (spr : BitVec 4) (s : State) : Out :=
  calib o s fun a pc s =>
    s.calibCheck a true false false [] fun t =>
      let x := s.myBank.arr a
      if x.status != .programming then configTrap s a 7
      else if spr.toNat ≥ 12 || (SMap.get? x.spares spr.toNat).isSome then configTrap s a 5
      else .next ((t.writeOp a false).bankLater 1 (.remap a spr.toNat pc))

/-- The raw codes of the four glint columns: physical outcomes. -/
def State.glint (s : State) : List Int × State :=
  ((List.range 4).map fun g => clampTo (-512) 511 (Config.rawOffset (s.fresh + g)),
   { s with fresh := s.fresh + 4 })

def execXdrift (o : XOp) (vd : BitVec 10) (s : State) : Out :=
  calib o s fun a _ s =>
    s.calibCheck a false true true [(a, 0, 15), s.upWin] fun s =>
      let r := s.glint
      let s := r.2.modMyBank fun b => b.modArr a fun x => { x with fresh := none, stale := false }
      let s := s.bankLater 48 (.drift a r.1)
      .next (s.once (·.landing 48 fNone false (.drift vd.toNat a r.1)))

/-- First logical column of XCAL, which must be a multiple of 32 up to 224 (reason 8). -/
def columnsOk (l0 : Nat) : Bool := l0 % 32 == 0 && l0 ≤ 224

/-- The 32 lanes of a vector register. -/
def lanes32 (v : VWord) : List Nat := (List.range 32).map (elem 32 v)

def execXcalO (o : XOp) (vs : BitVec 10) (s : State) : Out :=
  calib o s fun a l0 s =>
    s.calibCheck a true false false [s.downWin] fun t =>
      if !columnsOk l0 then configTrap s a 8
      else
        .next ((t.writeOp a false).bankLater 2
          (.offsets a l0 ((lanes32 (s.readV vs.toNat)).map (BitVec.ofNat 12))))

/-- Gains as they are kept: minus the nominal 4,096. -/
def gainLanes (v : VWord) : List (BitVec 16) :=
  (lanes32 v).map fun x => BitVec.ofNat 16 x - 4096

def execXcalG (o : XOp) (vs : BitVec 10) (s : State) : Out :=
  calib o s fun a l0 s =>
    s.calibCheck a true false false [s.downWin] fun t =>
      if !columnsOk l0 then configTrap s a 8
      else
        .next ((t.writeOp a false).bankLater 2 (.gains a l0 (gainLanes (s.readV vs.toNat))))

/-- XCAL.G.C: the gain write, then the commit sweep over c .. c+1023. -/
def execXcalGC (o : XOp) (vs : BitVec 10) (rs : BitVec 3) (s : State) : Out :=
  calib o s fun a l0 s =>
    s.calibCheck a true false true [(a, 0, 1023), s.downWin] fun t =>
      let x := s.myBank.arr a
      if !columnsOk l0 then configTrap s a 8
      else if x.status != .programming && x.status != .drift then configTrap s a 7
      else if x.fresh.isNone || x.stale then configTrap s a 6
      else if !s.myBank.shiftIs a rs.toNat then configTrap s a 9
      else
        let t := (t.writeOp a true).bankLater 2 (.gains a l0 (gainLanes (t.readV vs.toNat)))
        .next (t.bankLater 1024 (.sweep a rs.toNat))

def execXwear (o : XOp) (sd : BitVec 6) (s : State) : Out :=
  calib o s fun a _ s =>
    .next (s.once (·.landing 2 fNone false
      (.sreg sd.toNat (BitVec.ofNat 64 (s.myBank.arr a).wear))))

/-! ## Landing of the effects (R192, R194, R198) -/

/-- A status change; RETIRED stays. -/
def Arr.setStatus (x : Arr) (st : ArrStatus) : Arr :=
  if x.status == .retired then x else { x with status := st }

/-- Wear rises, a count of 40 bits; at the budget the array is RETIRED (R206, R207). -/
def Arr.addWear (x : Arr) (budget n : Nat) : Arr :=
  let w := min (2 ^ 40 - 1) (x.wear + n)
  { x with wear := w, status := if w ≥ budget then .retired else x.status }

/-- Conductance after an erasure: at level 0, or outside the margin of another level (R200). -/
def erasedTo (vt n old : Nat) : Nat :=
  let g := Config.erased n old
  if vt ≥ 32 || codeOf g = 0 then g % 2049
  else 4096 * codeOf g - (64 * vt + 1 + Config.erased (n + 1) old % (2047 - 64 * vt))

/-- Erase one row. -/
def Arr.eraseRow (x : Arr) (vt n row : Nat) : Arr :=
  (List.range 528).foldl (fun x c =>
    let k := 528 * row + c
    { x with cells := SMap.put x.cells 0 k (erasedTo vt (n + 2 * k) (SMap.get x.cells 0 k)) }) x

/-- Erase rows. -/
def Arr.eraseRows (x : Arr) (vt n : Nat) (rows : List Nat) : Arr :=
  rows.foldl (fun x r => x.eraseRow vt n r) x

/-- Physical columns in use, ascending: data columns not remapped, spares in use, glint columns. -/
def Arr.inUse (x : Arr) : List Nat :=
  (List.range 512).filter (fun c => x.phys c == c) ++
    ((List.range 12).filter fun k => match SMap.get? x.spares k with
      | some c => x.phys c == 512 + k
      | none => false).map (512 + ·) ++ (List.range 4).map (524 + ·)

/-- First failure of the margin test: row and physical column. -/
def Arr.marginTest (x : Arr) (vt : Nat) : Option (Nat × Nat) :=
  let cols := x.inUse
  (List.range 512).findSome? fun r =>
    (cols.find? fun c => marginFails vt (SMap.get x.cells 0 (528 * r + c))).map fun c => (r, c)

/-- First failure of the evaluation test; the converter outputs are numbered from n. -/
def Arr.evalTest (x : Arr) (rs n : Nat) : Option Nat :=
  (List.range 2).findSome? fun p =>
    (List.range 256).find? fun l =>
      let ideal := idealCode rs (x.sum l fun q => p == 0 || q % 2 == 0)
      let d := ideal + Config.rawOffset (n + 256 * p + l)
      (d - x.off l - ideal).natAbs > 1

/-- First failure of the glint test. -/
def glintTest (rg : List Int) : Option Nat := rg.findIdx? fun v => v < -448 || v > 448

/-- XCRES of a sweep (R195). -/
def sweepWord (a : Nat) (retired : Bool) (fail : Option (Nat × Nat × Nat)) : Word :=
  match fail with
  | none => BitVec.ofNat 64 (a + (if retired then 0 else 128) + 256)
  | some (kind, idx, pcol) =>
    BitVec.ofNat 64 (a + 256 + kind * 2 ^ 9 + idx * 2 ^ 11 + pcol * 2 ^ 20)

/-- The commit sweep of array a at its end, with the verify margin that XVTHR holds then (DESIGN CHOICE, log
106). -/
def Bank.sweep (b : Bank) (a rs n : Nat) : Bank :=
  let x := b.arr a
  let rg := x.fresh.getD []
  let fail := match x.marginTest (bits b.xvthr 5 0) with
    | some (r, c) => some (1, r, c)
    | none => match x.evalTest rs n with
      | some l => some (2, l, 0)
      | none => (glintTest rg).map fun g => (3, g, 524 + g)
  let y := match fail with
    | none => { x.setStatus .calibrated with gref := some rg }
    | some _ => x.setStatus .programming
  { b.setArr a y with xcres := sweepWord a (x.status == .retired) fail }

/-- The glint columns that trip (R203), by the threshold that XDTHR holds when the reading lands (DESIGN CHOICE,
log 106). -/
def Bank.trips (b : Bank) (a : Nat) (rg : List Int) : List Nat :=
  match (b.arr a).gref with
  | none => []
  | some r => (List.range 4).filter fun g =>
      (rg.getD g 0 - r.getD g 0).natAbs > bits b.xdthr 9 0

/-- A tripping evaluation moves a CALIBRATED array to DRIFT. -/
def Bank.trip (b : Bank) (a : Nat) (rg : List Int) : Bank :=
  if !(b.trips a rg).isEmpty && (b.arr a).status == .calibrated then
    b.modArr a (·.setStatus .drift)
  else b

/-- The vector that XDRIFT lands. -/
def Bank.driftWord (b : Bank) (a : Nat) (rg : List Int) : VWord :=
  let ref := match (b.arr a).gref with
    | some r => r
    | none => List.replicate 4 (-2 ^ 31)
  let tr := (b.trips a rg).foldl (fun x g => x + 2 ^ g) 0
  packElems 32 ((rg ++ ref).map (wrapTo 32) ++ [tr, (b.arr a).status.code])

/-- Apply a pending effect to a bank; `n` numbers the physical outcomes. -/
def Bank.apply (b : Bank) (site n : Nat) (e : BankEffect) : Bank :=
  match e with
  | .programming a => b.modArr a fun x => { x.setStatus .programming with gref := none }
  | .settle a cells w => b.modArr a fun x =>
      { x with cells := cells.foldl (fun m (c : Nat × Nat) => SMap.put m 0 c.1 c.2) x.cells }.addWear (budget site) w
  | .erase a row w => b.modArr a fun x =>
      let rows := match row with
        | some r => [r]
        | none => List.range 512
      (x.eraseRows (bits b.xvthr 5 0) n rows).addWear (budget site) w
  | .offsets a l0 v => b.modArr a fun x =>
      { x with offs := v.zipIdx.foldl (fun m e => SMap.put m 0 (l0 + e.2) e.1) x.offs }
  | .gains a l0 v => b.modArr a fun x =>
      { x with gain := v.zipIdx.foldl (fun m e => SMap.put m 0 (l0 + e.2) e.1) x.gain }
  | .remap a spr col => b.modArr a fun x =>
      { x with spares := SMap.set x.spares spr col, sparesNew := spr :: x.sparesNew }
  | .sweep a rs => b.sweep a rs n
  | .drift a rg =>
    let later := b.pend.any fun p => match p.eff with
      | .drift c _ => c == a
      | _ => false
    (b.trip a rg).modArr a fun x => { x with fresh := if later then none else some rg }

/-- Numbers one effect may draw. -/
def effectDraws (e : BankEffect) : Nat :=
  match e with
  | .erase .. => 2 * 528 * 512
  | .sweep .. => 512
  | _ => 0

/-- The effect changes what the repair record holds (R315). -/
def BankEffect.repairs (e : BankEffect) : Bool :=
  match e with
  | .settle .. | .erase .. | .remap .. => true
  | _ => false

/-- The pending effects of site i that have landed, in order of issue: a cohort cycle is reached when the
cohort stands in it; an ended cohort's count goes on while its node is ending (R198). -/
def State.bankDue (s : State) (i : Nat) : List BankPend :=
  (s.bank i).pend.filter fun p => match s.coh? p.coh with
    | some c => if c.turn || c.st == .ending then decide (p.due ≤ c.ccyc) else decide (p.due < c.ccyc)
    | none => true

/-- Land one effect of site i. -/
def State.bankLand (s : State) (i : Nat) (p : BankPend) : State :=
  let n := s.fresh
  let s := { s with fresh := n + effectDraws p.eff, pf := { s.pf with repDirty := s.pf.repDirty || p.eff.repairs } }
  s.modBank i fun b => { b with pend := b.pend.erase p }.apply i n p.eff

/-- COMMIT_SWEEP_COMPLETE and PULSE_SETTLE land what is due of one array. -/
def BankEffect.array (e : BankEffect) : Nat :=
  match e with
  | .programming a => a
  | .settle a _ _ => a
  | .erase a _ _ => a
  | .offsets a _ _ => a
  | .gains a _ _ => a
  | .remap a _ _ => a
  | .sweep a _ => a
  | .drift a _ => a

def BankEffect.isSweep (e : BankEffect) : Bool :=
  match e with
  | .sweep _ _ => true
  | _ => false

def State.landBank (s : State) (i : Nat) (f : BankEffect → Bool) : State :=
  forAll ((s.bankDue i).filter fun p => f p.eff) s fun p s => s.bankLand i p

def execCommitSweepComplete (site arr : Nat) (s : State) : Out :=
  .next (s.landBank site fun e => e.isSweep && e.array == arr)

def execPulseSettle (site arr : Nat) (s : State) : Out :=
  .next (s.landBank site fun e => !e.isSweep && e.array == arr)

/-- Wall cycles between hardware evaluations of an array; 0 disables them (R195). -/
def Bank.interval (b : Bank) : Nat := 65536 * bits b.xdthr 31 16

/-- A hardware glint evaluation may run on an array (R204). -/
def State.glintReady (s : State) (i a : Nat) : Bool :=
  let b := s.bank i
  let x := b.arr a
  let last := SMap.get? b.glintAt a
  b.interval != 0 && !x.sealed_ && x.status != .retired && !b.parked a &&
    (match last with
     | none => true
     | some t => t + b.interval ≤ s.now) &&
    !b.occ.any fun o => o.res == a && (match s.coh? o.coh with
      | some c => o.from_ ≤ c.ccyc && c.ccyc ≤ o.to_
      | none => false)

/-- GLINT_EVALUATION: the measurement of R203 with its status change only. -/
def execGlintEvaluation (site arr : Nat) (s : State) : Out :=
  if s.glintReady site arr then
    let r := s.glint
    .next (r.2.modBank site fun b =>
      { b.trip arr r.1 with glintAt := SMap.set b.glintAt arr s.now })
  else .next s

end Sys2Proof.Machine
end

