-- ==== Sys2Proof/Machine/Dram.lean ====
section
/-! DEFINITION. The DRAM commands as the copy slots issue them: address words, ownership, the path
to the guard (R211 to R219). -/

namespace Sys2Proof.Machine

/-! ## DRAM address words (R212) -/

def dawPch (a : Int) : Nat := (a / 2 ^ 25 % 512).toNat
def dawBank (a : Int) : Nat := (a / 2 ^ 21 % 16).toNat
def dawRow (a : Int) : Nat := (a / 2 ^ 5 % 65536).toNat
def dawCol (a : Int) : Nat := (a % 32).toNat

/-- Management pseudo-channels (R211). -/
def mgmtPch (p : Nat) : Bool := p % 64 == 63

/-- MHOPS of a member and a physical pseudo-channel (R216). -/
def State.mhop (s : State) (c : Cohort) (member pch : Nat) : Nat :=
  let lpc := (s.part c.part).pchs.idxOf pch
  c.mhops.getD (member * (c.mhops.length / max 1 c.members.length) + lpc) 0

/-- TVAL of placement and timing faults (R225). -/
def timingWord (rsn det pch d : Nat) : Word :=
  BitVec.ofNat 64 (rsn + det % 256 * 2 ^ 8 + pch % 512 * 2 ^ 16 + d % 2 ^ 32 * 2 ^ 32)

/-! ## Issue (R215, R217) -/

/-- The ownership and address checks of R215, in order: the reason and the pseudo-channel. Of two address
words that fail a check the trap names the first, and of two that do not agree too (DESIGN CHOICE, log 92). -/
def State.placement (s : State) (c : Cohort) (addrs : List Int) (rows : Bool) : Option (Nat × Int) :=
  let granted := (s.part c.part).pchs
  match addrs.find? fun a => !granted.contains (dawPch a) || mgmtPch (dawPch a) with
  | some a => some (1, a)
  | none =>
    match addrs.find? fun a => !c.pchs.contains (dawPch a) with
    | some a => some (2, a)
    | none =>
      match addrs.find? fun a => rows && dawRow a ≥ 49152 with
      | some a => some (3, a)
      | none =>
        match addrs with
        | [a, b] =>
          if dawPch a != dawPch b || dawBank a != dawBank b || dawRow a / 1024 != dawRow b / 1024 ||
              dawRow a == dawRow b then some (4, a)
          else none
        | _ => none

/-- A DRAM command with address word `a`, and `b` as scratchpad operand or second row. -/
structure DramOp where
  cmd : DCmd
  op : Nat
  /-- the command names a row -/
  rows : Bool
  /-- MRCP: `b` is an address word -/
  two : Bool
  /-- the command has a scratchpad operand -/
  spad : Bool
  /-- the command writes the scratchpad operand's bytes to DRAM -/
  store : Bool
  arg : Nat
  irrevocable : Bool

/-- Put a command on the path to its guard; a write reads its source at c+1. -/
def State.sendCmd (s : State) (c : Cohort) (x : DramOp) (a b : Int) : State :=
  let i := s.cur.site
  let t := s.timeOf i
  let p := dawPch a
  let me := c.memberOf i
  let q := s.pch p
  let k : Cmd :=
    { id := q.nextCmd, cmd := x.cmd, site := i, coh := (s.cohOf i).getD 0, member := me,
      slot := s.cur.slot, issued := t, hops := s.mhop c me p, bank := dawBank a, row := dawRow a
      col := dawCol a, arg := if x.spad then b.toNat else if x.two then dawRow b else x.arg
      data := [] }
  let s := s.setPch p { q with path := q.path ++ [k], nextCmd := q.nextCmd + 1 }
  let s := s.traceRec i 6 s.cur.slot
    (x.op + p * 2 ^ 7 + (a % 2 ^ 21).toNat * 2 ^ 16)
  let s := if x.irrevocable then s.irrevocable else s
  if x.store then s.once (·.access 1 3 false (unitsOf b.toNat 32) (.toDram b.toNat p k.id))
  else if x.spad then s.touch (unitsOf b.toNat 32)
  else s

/-- A DRAM command: operands, guard, checks, path (DEDUCED, log 43). -/
def dram (x : DramOp) (o : DOp) (sb : BitVec 6) (s : State) : Out :=
  withScalar o.bs o.sa s fun v =>
    let a := s.ea1 (v.toNat % 2 ^ 34)
    let w := s.cx.rs sb.toNat
    let b := s.ea2 (if x.spad then w.toInt else (w.toNat % 2 ^ 34 : Nat))
    let s := s.setEa a b
    if !s.guarded o.g then .next s
    else
      s.barred <|
        match s.myCoh with
        | none => .next s
        | some c =>
          match s.placement c (if x.two then [a, b] else [a]) x.rows with
          | some (rsn, w) =>
            trapOut s 0x13 (timingWord rsn 0 (dawPch w) (s.timeOf s.cur.site))
          | none =>
            if x.spad && !inSpad b 32 32 then addrTrap s b else .next (s.sendCmd c x a b)

/-- A command without scratchpad operand or second row. -/
def plainOp (cmd : DCmd) (op : Nat) (rows : Bool) : DramOp :=
  { cmd := cmd, op := op, rows := rows, two := false, spad := false, store := false, arg := 0,
    irrevocable := false }

def execMact (o : DOp) (s : State) : Out := dram (plainOp .act 0 true) o 0 s

def execMpre (o : DOp) (s : State) : Out := dram (plainOp .pre 1 false) o 0 s

def execMprea (o : DOp) (s : State) : Out := dram (plainOp .prea 2 false) o 0 s

def execMrd (o : DOp) (sb : BitVec 6) (s : State) : Out :=
  dram { plainOp .rd 3 true with spad := true } o sb s

def execMrda (o : DOp) (sb : BitVec 6) (s : State) : Out :=
  dram { plainOp .rda 5 true with spad := true } o sb s

def execMwr (o : DOp) (sb : BitVec 6) (s : State) : Out :=
  dram { plainOp .wr 4 true with spad := true, store := true, irrevocable := true } o sb s

def execMwra (o : DOp) (sb : BitVec 6) (s : State) : Out :=
  dram { plainOp .wra 6 true with spad := true, store := true, irrevocable := true } o sb s

def execMref (o : DOp) (s : State) : Out := dram (plainOp .ref 7 false) o 0 s

def execMrefp (o : DOp) (s : State) : Out := dram (plainOp .refp 8 false) o 0 s

def execMrcp (o : DOp) (sb : BitVec 6) (s : State) : Out :=
  dram { plainOp .rcp 9 true with two := true, irrevocable := true } o sb s

def execMrcbLd (o : DOp) (line : BitVec 5) (s : State) : Out :=
  dram { plainOp .rcbLd 10 true with arg := line.toNat } o 0 s

def execMrcbSt (o : DOp) (line : BitVec 5) (s : State) : Out :=
  dram { plainOp .rcbSt 10 true with arg := line.toNat, irrevocable := true } o 0 s

def execMrcbInv (o : DOp) (line : BitVec 5) (s : State) : Out :=
  dram { plainOp .rcbInv 10 false with arg := line.toNat } o 0 s

def execMzro (o : DOp) (s : State) : Out :=
  dram { plainOp .zro 11 true with irrevocable := true } o 0 s

end Sys2Proof.Machine
end

