-- ==== Sys2Proof/Machine/Copy.lean ====
section
/-! DEFINITION. LAYOUT, XFR.G, XFR.P, ISTAGE, TRC: the untimed copies, staging and trace operations
at issue (R242 to R247, R310). -/

namespace Sys2Proof.Machine

/-! ## Shapes (R243) -/

def lyRlen (w : Word) : Nat := bits w 12 0
/-- Number of rows. -/
def lyRows (w : Word) : Nat := bits w 24 13 + 1
def lyHstr (w : Word) : Int := sval 24 (bits w 48 25)
def lySstr (w : Word) : Nat := bits w 63 49

/-- RLEN meets its limits. -/
def lyValid (w : Word) : Bool := lyRlen w != 0 && lyRlen w ≤ 4096 && lyRlen w % 4 == 0

/-- A copy-slot operation of R218 with its first scalar source, under its guard. -/
def copyOp (o : DOp) (s : State) (k : Word → Out) : Out :=
  withScalar o.bs o.sa s fun v => if !s.guarded o.g then .next s else k v

def execLayout (o : DOp) (lyn : BitVec 4) (s : State) : Out :=
  copyOp o s fun v =>
    s.barred <|
      if !lyValid v then trapOut s 0x15 1
      else
        .next (s.modCtx s.cur.site fun c =>
          { c with lyPend := c.lyPend ++
              [{ issued := s.timeOf s.cur.site, slot := s.cur.slot, left := 3, n := lyn.toNat, v := v }] })

/-! ## XFR (R244) -/

/-- Rows of a transfer: host address, scratchpad address. -/
def xfrRows (sa va : Int) (ly : Word) : List (Int × Int) :=
  (List.range (lyRows ly)).map fun (i : Nat) => (va + (i : Int) * lyHstr ly, sa + 32 * (lySstr ly : Int) * (i : Int))

/-- A transfer's checks in the order of R244, then its place in the time-sorted buffer. -/
def xfr (get : Bool) (o : DOp) (sv : BitVec 6) (lyn : BitVec 4) (ch : BitVec 2) (st : BitVec 6)
    (s : State) : Out :=
  withScalar o.bs o.sa s fun v =>
    let sa := s.ea1 v.toInt
    let va := s.ea2 (s.cx.rs sv.toNat).toNat
    let s := s.setEa sa va
    if !s.guarded o.g then .next s
    else
      s.barred <|
        let c := s.cx
        let ly := SMap.get c.ly 0 lyn.toNat
        let t := s.timeOf s.cur.site
        let at_ := if st = 0 then t else (c.rs st.toNat).toNat
        let rows := xfrRows sa va ly
        let n : Nat := lyRlen ly
        let host := rows.any fun (r : Int × Int) => decide (r.1 < 0) || decide (r.1 + n > 2 ^ 54)
        let bad := (rows.map (·.2)).filter fun (a : Int) => decide (a < 0) || decide (a + n > spadSize)
        let next := SMap.get c.xnext 0 ch.toNat
        let done := SMap.get c.xdone 0 ch.toNat
        let id : Half := next.truncate 32
        if !lyValid ly then trapOut s 0x15 1
        else if sa % 4 != 0 || va % 4 != 0 then trapOut s 0x15 3
        else if host then trapOut s 0x15 2
        else if at_ > t + 2 ^ 24 then trapOut s 0x15 4
        else if !bad.isEmpty then
          let p := s.pick bad 0
          addrTrap p.2 p.1
        else if at_ < t then trapOut s 0x14 (timingWord 7 0 0 at_)
        else if (id - done.truncate 32).toInt ≥ 64 then trapOut s 0x16 (ch.zeroExtend 64)
        else
          let after := setBits next 31 0 (id + 1).toNat
          let s := s.modCtx s.cur.site fun c =>
            { c with xnext := SMap.put c.xnext 0 ch.toNat after }
          .next (s.addUop s.cur.scope
            (.xfr get ch.toNat id.toNat at_ sa.toNat va.toNat ly)).irrevocable

def execXfrG (o : DOp) (sv : BitVec 6) (lyn : BitVec 4) (ch : BitVec 2) (st : BitVec 6) (s : State) :
    Out := xfr true o sv lyn ch st s

def execXfrP (o : DOp) (sv : BitVec 6) (lyn : BitVec 4) (ch : BitVec 2) (st : BitVec 6) (s : State) :
    Out := xfr false o sv lyn ch st s

/-! ## ISTAGE (R246, R247) -/

def tagOfLine (a : Nat) : BitVec 36 := BitVec.ofNat 36 (a / 262144)

/-- A slot whose line at `a` is being staged by an operation. -/
def stagingLine (a op : Nat) : ILine :=
  { st := .staging, tag := tagOfLine a, data := 0, bad := false, ready := 0, op := op }

/-- Stage the line at `a` in its slot; what stood there leaves it. -/
def putStaging (m : SMap ILine) (a : Nat) (l : ILine) : SMap ILine :=
  SMap.set (vacate m (slotOfLine a)) (slotOfLine a) l

/-- The lines of an ISTAGE that lie in the address space. -/
def stageLines (a n : Nat) : List Nat :=
  ((List.range n).map fun k => a + 64 * k).filter (· < 2 ^ 54)

def execIstage (o : DOp) (nl : BitVec 6) (s : State) : Out :=
  withScalar o.bs o.sa s fun v =>
    let a := s.ea1 v.toNat
    let s := s.setEa a 0
    if !s.guarded o.g then .next s
    else if a % 64 != 0 then trapOut s 0x04 (BitVec.ofInt 64 a)
    else
      let n := nl.toNat + 1
      let s := s.modCore s.cur.site fun c =>
        let put := fun (m : SMap ILine) x => putStaging m x (stagingLine x c.nextUop)
        { c with istore := (stageLines a.toNat n).foldl put c.istore }
      .next (s.addUop s.cur.scope (.stage a.toNat n))

/-! ## TRC (R310) -/

def trc (freeze : Bool) (o : DOp) (tag : BitVec 8) (s : State) : Out :=
  copyOp o s fun v =>
    .next (s.once (·.landing 1 fNone false
      (.trace (BitVec.ofNat 52 (v.toNat % 2 ^ 44 + tag.toNat * 2 ^ 44)) s.cur.slot freeze)))

def execTrc (o : DOp) (tag : BitVec 8) (s : State) : Out := trc false o tag s

def execTrcFrz (o : DOp) (tag : BitVec 8) (s : State) : Out := trc true o tag s

end Sys2Proof.Machine
end

