-- ==== Sys2Proof/Machine/Guard.lean ====
section
/-! DEFINITION. The timing guard of a pseudo-channel: acceptance, drive, refresh, custody
(R220 to R234). -/

namespace Sys2Proof.Machine

/-! ## Bank states (R221, R223) -/

/-- What a bank is doing at drive cycle d. -/
def BankTime.at (b : BankTime) (d : Nat) : BankState :=
  match b.st with
  | .busy det u => if d ≤ u then .busy det u else .idle
  | .opened r =>
    match b.auto with
    | some p => if p ≤ d then .idle else .opened r
    | none => .opened r
  | .idle => .idle

/-- Cycle of the bank's last precharge before d. -/
def BankTime.preAt (b : BankTime) (d : Nat) : Option Nat :=
  match b.auto with
  | some p => if p ≤ d then some p else b.pre
  | none => b.pre

def Pch.bankTime (p : Pch) (b : Nat) : BankTime := SMap.get p.banks BankTime.reset b

def Pch.setBankTime (p : Pch) (b : Nat) (x : BankTime) : Pch :=
  { p with banks := SMap.put p.banks BankTime.reset b x }

def allBanks : List Nat := List.range 16

/-- The command is a column command. -/
def DCmd.isColumn (c : DCmd) : Bool :=
  match c with
  | .rd | .rda | .wr | .wra => true
  | _ => false

def DCmd.isRead (c : DCmd) : Bool :=
  match c with
  | .rd | .rda => true
  | _ => false

/-- Activate-class commands (R220). -/
def DCmd.isAct (c : DCmd) : Bool :=
  match c with
  | .act | .refp | .rcp | .rcbLd | .rcbSt | .zro => true
  | _ => false

/-- Banks that a command needs. -/
def Cmd.needs (k : Cmd) : List Nat :=
  match k.cmd with
  | .prea | .ref => allBanks
  | .rcbInv => []
  | _ => [k.bank]

/-! ## Acceptance (R222) -/

/-- Least of a list of DETs. -/
def leastDet (l : List Nat) : Option Nat :=
  match l with
  | [] => none
  | x :: r => some (r.foldl min x)

/-- DET of the operation that keeps a needed bank busy. -/
def Pch.busyDet (p : Pch) (k : Cmd) (d : Nat) : Option Nat :=
  leastDet (k.needs.filterMap fun b => match (p.bankTime b).at d with
    | .busy det _ => some det
    | _ => none)

/-- The bank-state condition of R222. -/
def Pch.stateOk (p : Pch) (k : Cmd) (d : Nat) : Bool :=
  let idle := fun b => (p.bankTime b).at d == .idle
  match k.cmd with
  | .pre | .prea | .rcbInv => true
  | .ref => allBanks.all idle
  | .rd | .rda | .wr | .wra =>
    (p.bankTime k.bank).at d == .opened k.row && (p.bankTime k.bank).auto.isNone
  | _ => idle k.bank

/-- The staging-line condition of R224. -/
def Pch.lineOk (p : Pch) (k : Cmd) (d : Nat) : Bool :=
  let pending := fun load => p.linePend.any fun x => x.1 == k.arg && d ≤ x.2.2 && (!load || x.2.1)
  match k.cmd with
  | .rcbLd | .rcbInv => !pending false
  | .rcbSt => p.valid.contains k.arg && !pending true
  | _ => true

/-- The first bank over the refresh-ahead limit (R226). -/
def Pch.aheadBank (p : Pch) (k : Cmd) : Option Nat :=
  match k.cmd with
  | .ref | .refp => k.needs.find? fun b => (p.bankTime b).owed - 1 < -4
  | _ => none

/-- A past cycle leaves less than n cycles to d. -/
def near (x : Option Nat) (n d : Nat) : Bool :=
  match x with
  | some y => d < y + n
  | none => false

/-- DETs of the precharge spacings of an open bank. -/
def BankTime.preDets (b : BankTime) (d : Nat) : List Nat :=
  match b.at d with
  | .opened _ =>
    if b.auto.isSome then []
    else (if near b.act 66 d then [3] else []) ++ (if near b.wr 46 d then [10] else []) ++
      (if near b.rd 10 d then [11] else [])
  | _ => []

/-- Activate-class units that a command adds. -/
def DCmd.units (c : DCmd) : Nat := if c == .rcp then 2 else if c.isAct then 1 else 0

/-- The spacings that a command at drive cycle d breaks (R220). -/
def Pch.spacings (p : Pch) (k : Cmd) (d : Nat) : List Nat :=
  let b := p.bankTime k.bank
  let bg := k.bank / 4
  let act :=
    if k.cmd.isAct then
      (if near (b.preAt d) 28 d then [2] else []) ++ (if near b.act 94 d then [4] else []) ++
      (if p.acts.any fun a => a.2 != bg && d < a.1 + 4 then [5] else []) ++
      (if p.acts.any fun a => a.2 == bg && d < a.1 + 6 then [6] else []) ++
      (if (p.acts.filter fun a => d < a.1 + 32).length + k.cmd.units > 4 then [7] else [])
    else []
  let col :=
    if k.cmd.isColumn then
      (if near b.act 28 d then [1] else []) ++
      (if p.cols.any fun a => a.2 != bg && d < a.1 + 2 then [8] else []) ++
      (if p.cols.any fun a => a.2 == bg && d < a.1 + 4 then [9] else []) ++
      (if k.cmd.isRead && near p.lastWr 30 d then [12] else []) ++
      (if !k.cmd.isRead && near p.lastRd 28 d then [13] else [])
    else []
  let pre := match k.cmd with
    | .pre => b.preDets d
    | .prea => (allBanks.map fun x => (p.bankTime x).preDets d).flatten
    | .ref => if allBanks.any fun x => near ((p.bankTime x).preAt d) 28 d then [2] else []
    | _ => []
  act ++ col ++ pre ++ (if near p.lastRef 700 d then [14] else [])

/-- The reason and DET with which the guard refuses a command at drive cycle d; none: accepted. -/
def Pch.refuses (p : Pch) (k : Cmd) (d : Nat) : Option (Nat × Nat) :=
  let bus := if k.cmd.isColumn then p.colAt == some d else p.rowAt == some d
  if bus then some (3, 0)
  else
    match p.busyDet k d with
    | some det => some (2, det)
    | none =>
      if !p.stateOk k d then some (1, 0)
      else if !p.lineOk k d then some (6, k.arg)
      else
        match p.aheadBank k with
        | some b => some (4, b)
        | none => (leastDet (p.spacings k d)).map fun det => (2, det)

/-! ## Drive (R222 to R224) -/

/-- First byte of a row. -/
def rowBase (bank row : Nat) : Nat := (bank * 49152 + row) * 1024

/-- A bank's automatic precharge, once past, becomes its history. -/
def BankTime.fold (b : BankTime) (d : Nat) : BankTime :=
  { b with st := b.at d, pre := b.preAt d,
           auto := match b.auto with
             | some p => if p ≤ d then none else some p
             | none => none }

/-- A precharge at d of a bank that is open without a pending automatic one. -/
def BankTime.precharge (b : BankTime) (d : Nat) : BankTime :=
  match b.st with
  | .opened _ => if b.auto.isSome then b else { b with st := .idle, pre := some d }
  | _ => b

/-- One refresh unit of a bank (R226, R227). -/
def BankTime.unit (b : BankTime) : BankTime := { b with owed := b.owed - 1, units := b.units + 1 }

/-- Note an accepted command in the history. -/
def Pch.note (p : Pch) (k : Cmd) (d : Nat) : Pch :=
  let bg := k.bank / 4
  { p with
    rowAt := if k.cmd.isColumn then p.rowAt else some d
    colAt := if k.cmd.isColumn then some d else p.colAt
    acts := (p.acts.filter fun a => d < a.1 + 32) ++ List.replicate k.cmd.units (d, bg)
    cols := if k.cmd.isColumn then (p.cols.filter fun a => a.2 != bg) ++ [(d, bg)] else p.cols
    lastRd := if k.cmd.isRead then some d else p.lastRd
    lastWr := if k.cmd.isColumn && !k.cmd.isRead then some d else p.lastWr
    lastRef := if k.cmd == .ref then some d else p.lastRef }

/-- An operation of a bank that ends later in wall time: 1 KiB for a row or a line. -/
def Pch.later (p : Pch) (bank : Nat) (row : Option Nat) (line done : Nat) (data : List Byte) : Pch :=
  { p with jobs := p.jobs ++ [{ bank := bank, done := done, row := row, line := line, data := data }] }

/-- A refresh in progress until wall cycle t. -/
def Pch.refreshing (p : Pch) (t : Nat) : Pch := { p with refUntil := max p.refUntil t }

/-- A 32-byte block of the pseudo-channel is in error. -/
def Pch.blockBad (p : Pch) (a : Nat) : Bool := p.bad.contains (a / 32)

/-- What an accepted command does at drive cycle d, wall cycle now. -/
def Pch.drive (p : Pch) (k : Cmd) (d now : Nat) : Pch :=
  let p := (p.note k d)
  let b := (p.bankTime k.bank).fold d
  let busy := fun det n (b : BankTime) => { b with st := BankState.busy det (d + n) }
  let col := rowBase k.bank k.row + 32 * k.col
  let read := fun (p : Pch) =>
    { p with landing := p.landing ++
        [{ site := k.site, coh := k.coh, port := d + 42 + k.hops, addr := k.arg,
           data := memBytes p.mem col 32, issued := k.issued, hops := k.hops, bad := p.blockBad col,
           seq := 8 * k.issued + k.slot }] }
  let write := fun (p : Pch) =>
    { p with mem := memPut p.mem col k.data, bad := p.bad.filter (· != col / 32) }
  let a := b.act.getD d
  let row := memBytes p.mem (rowBase k.bank k.row) 1024
  match k.cmd with
  | .act => p.setBankTime k.bank { b with st := .opened k.row, act := some d, auto := none,
                                          rd := none, wr := none }
  | .pre => p.setBankTime k.bank (b.precharge d)
  | .prea => allBanks.foldl (fun p x => p.setBankTime x (((p.bankTime x).fold d).precharge d)) p
  | .rd => read (p.setBankTime k.bank { b with rd := some d })
  | .rda => read (p.setBankTime k.bank
      { b with rd := some d, auto := some (max (d + 10) (a + 66)) })
  | .wr => write (p.setBankTime k.bank { b with wr := some d })
  | .wra => write (p.setBankTime k.bank
      { b with wr := some d, auto := some (max (d + 46) (a + 66)) })
  | .ref => (allBanks.foldl (fun p x =>
      p.setBankTime x (busy 14 699 ((p.bankTime x).fold d).unit)) p).refreshing (now + 700)
  | .refp => (p.setBankTime k.bank (busy 15 349 b.unit)).refreshing (now + 350)
  | .rcp => (p.setBankTime k.bank (busy 16 187 b)).later k.bank (some k.arg) 0 (now + 188) row
  | .rcbLd =>
    { (p.setBankTime k.bank (busy 17 159 b)).later k.bank none k.arg (now + 160) row with
      linePend := (p.linePend.filter fun x => d ≤ x.2.2) ++ [(k.arg, true, d + 159)] }
  | .rcbSt =>
    { (p.setBankTime k.bank (busy 18 191 b)).later k.bank (some k.row) 0 (now + 192)
        (memBytes p.lines (1024 * k.arg) 1024) with
      linePend := (p.linePend.filter fun x => d ≤ x.2.2) ++ [(k.arg, false, d + 191)] }
  | .rcbInv => { p with valid := p.valid.filter (· != k.arg) }
  | .zro => (p.setBankTime k.bank (busy 19 93 b)).later k.bank (some k.row) 0 (now + 94)
      (List.replicate 1024 0)

/-- A finished operation writes its row or line. -/
def Pch.finish (p : Pch) (j : DramJob) : Pch :=
  let p := { p with jobs := p.jobs.erase j }
  match j.row with
  | some r =>
    let base := rowBase j.bank r
    { p with mem := memPut p.mem base j.data,
             bad := p.bad.filter fun u => u < base / 32 || base / 32 + 32 ≤ u }
  | none =>
    { p with lines := memPut p.lines (1024 * j.line) j.data
             valid := j.line :: p.valid.filter (· != j.line) }

/-! ## Notices and patrol scrub (R227, R234, R281) -/

/-- A notice for a partition's event ring: its code and detail. -/
def State.notice (s : State) (p code detail : Nat) : State :=
  s.modPart p fun x => { x with records := x.records ++
    [{ w0 := BitVec.ofNat 64 (3 + 256 * code), w1 := 0, w2 := 0,
       w3 := BitVec.ofNat 64 (detail * 2 ^ 32) }] }

/-- The partition that holds a pseudo-channel. -/
def State.pchOwner (s : State) (p : Nat) : Option Nat :=
  (List.range 16).find? fun k => (s.part k).present && (s.part k).pchs.contains p

/-- A patrol-scrub step of a bank: which row it reads is open; an uncorrectable error in it is
reported. -/
def State.scrub (s : State) (p bank : Nat) : State :=
  let n := s.draw
  let base := rowBase bank (Config.choice n.1 % 49152) / 32
  if (n.2.pch p).bad.any fun u => base ≤ u && u < base + 32 then
    match n.2.pchOwner p with
    | some k => n.2.notice k 2 p
    | none => n.2
  else n.2

/-- A patrol-scrub step of the guard's own, in any bank. -/
def State.scrubAny (s : State) (p : Nat) : State :=
  let n := s.draw
  n.2.scrub p (Config.choice n.1 % 16)

/-- Banks of a refresh command whose unit is a patrol-scrub step: even ones of a normal frame. -/
def Pch.scrubs (p : Pch) (k : Cmd) : List Nat :=
  if p.hot then []
  else
    match k.cmd with
    | .ref | .refp => k.needs.filter fun b => (p.bankTime b).units % 2 == 1
    | _ => []

/-! ## Events of the guard -/

/-- The cohort that uses a pseudo-channel. -/
def State.userOf (s : State) (p : Nat) : Option Nat :=
  (s.cohorts.find? fun e => e.2.pchs.contains p && e.2.st != .ending).map (·.1)

/-- Commands with drive cycle d, in the order of R221. -/
def Pch.arriving (p : Pch) (d : Nat) : List Cmd :=
  let l := p.path.filter fun k => k.issued + 1 + k.hops == d
  l.mergeSort fun a b =>
    a.issued < b.issued || (a.issued == b.issued &&
      (a.member < b.member || (a.member == b.member && a.slot ≤ b.slot)))

/-- The timing fault of a refused command, at the boundary at or after c+2+2h (R225). -/
def State.refuse (s : State) (p : Nat) (k : Cmd) (rsn det d : Nat) : State :=
  s.modCtx k.site fun c =>
    { c with bev := c.bev ++
        [{ due := k.issued + 2 + 2 * k.hops, issued := k.issued,
           kind := .timing (timingWord rsn det p d) }] }

/-- GUARD_COMMAND_DRIVE: the next command of the present drive cycle is driven or refused. -/
def State.driveNext (s : State) (p : Nat) : State :=
  match s.userOf p with
  | none => s
  | some u =>
    let d := match s.coh? u with
      | some c => c.ccyc
      | none => 0
    let q := s.pch p
    match q.arriving d with
    | [] => s
    | k :: _ =>
      let q := { q with path := q.path.erase k }
      match q.refuses k d with
      | some (rsn, det) => (s.setPch p q).refuse p k rsn det d
      | none =>
        let l := q.scrubs k
        forAll l (s.setPch p (q.drive k d s.now)) fun b s => s.scrub p b

def execGuardCommandDrive (pch : Nat) (s : State) : Out := .next (s.driveNext pch)

/-- DRAM_OPERATION_COMPLETE: operations of a bank whose wall time has passed leave their content. -/
def execDramOperationComplete (pch : Nat) (bank : Nat) (s : State) : Out :=
  .next (s.modPch pch fun p =>
    (p.jobs.filter fun j => j.bank == bank && j.done ≤ s.now).foldl Pch.finish p)

/-- AUTO_PRECHARGE: an automatic precharge whose cycle has come (R223). -/
def execAutoPrecharge (pch : Nat) (bank : Nat) (s : State) : Out :=
  match (s.userOf pch).bind s.coh? with
  | none => .next s
  | some c => .next (s.modPch pch fun p => p.setBankTime bank ((p.bankTime bank).fold c.ccyc))

/-- DRAM_READ_LANDING: read data due in this cohort cycle enters the port of its scratchpad. -/
def State.landReads (s : State) (pch : Nat) : State :=
  let due := fun (l : Landing) => match s.coh? l.coh with
    | some c => l.port ≤ c.ccyc
    | none => false
  let l := (s.pch pch).landing.filter due
  let s := s.modPch pch fun p => { p with landing := p.landing.filter fun x => !due x }
  forAll l s fun x s =>
    let s := s.place x.site
      { due := x.port, cls := 2, key := x.seq, issued := x.issued, again := false, window := none,
        units := unitsOf x.addr 32, lost := [], act := .write (placed x.addr x.data) none }
    if x.bad then
      s.modCtx x.site fun c =>
        { c with bev := c.bev ++
            [{ due := x.port + 1, issued := x.issued,
               kind := .regionError 0x1D (BitVec.ofNat 64 (pch * 2 ^ 16 + 1)), again := false }] }
    else s

def execDramReadLanding (pch : Nat) (s : State) : Out := .next (s.landReads pch)

/-- A stack's temperature at this moment; the last sample where its sensor gave none (R227). -/
def State.stackTempNow (s : State) (stack : Nat) : Int :=
  (SMap.get? s.pf.sensed.stackTemp stack).getD (SMap.get s.pf.stackTemp 0 stack)

/-- REFRESH_FRAME_BOUNDARY: two more units owed by every bank, the frame's rate by the stack's
temperature, and the refresh-lag fault of member 0 (R226, R227). -/
def State.frameBoundary (s : State) (pch : Nat) : State :=
  match s.userOf pch with
  | none => s
  | some u =>
    match s.coh? u with
    | none => s
    | some c =>
      let hot : Bool := s.stackTempNow (pch / 64) ≥ 85
      let s := s.modPch pch fun p =>
        { allBanks.foldl (fun p b =>
            let x := p.bankTime b
            p.setBankTime b { x with owed := x.owed + 2, units := 0 }) p with
          frame := some (c.ccyc / 7800), hot := hot }
      let lag := allBanks.filter fun b => ((s.pch pch).bankTime b).owed > 8
      if lag.isEmpty then s
      else
        let b := s.pick lag 0
        b.2.modCtx (c.members.getD 0 0) fun x =>
          { x with bev := x.bev ++
              [{ due := c.ccyc, issued := c.ccyc,
                 kind := .timing (timingWord 5 b.1 pch c.ccyc) }] }

/-- A used pseudo-channel stands at a frame boundary not yet taken. -/
def State.frameDue (s : State) (pch : Nat) : Bool :=
  match (s.userOf pch).bind s.coh? with
  | none => false
  | some c =>
    c.st == .running && c.turn && c.ccyc % 7800 == 0 && (s.pch pch).frame != some (c.ccyc / 7800)

def execRefreshFrameBoundary (pch : Nat) (s : State) : Out :=
  .next (if s.frameDue pch then s.frameBoundary pch else s)

/-! ## Custody (R228, R229, R231) -/

/-- Begin custody at wall cycle `start`: open banks are recorded, a bank that is busy or has an
automatic precharge pending as idle. -/
def Pch.take (p : Pch) (ccyc start : Nat) : Pch :=
  let rows := allBanks.filterMap fun b =>
    let x := p.bankTime b
    match x.at ccyc with
    | .opened r => if x.auto.isSome then none else some (b, r)
    | _ => none
  { p with custody := some { start := start, recorded := rows, nextRef := start + 3900,
                             busyUntil := start } }

/-- CUSTODIAL_REFRESH of a held or pre-empted cohort's pseudo-channel. -/
def State.custodial (s : State) (pch : Nat) : State :=
  match (s.pch pch).custody with
  | none => s
  | some c =>
    let s := s.modPch pch fun p =>
      { p with custody := some { c with nextRef := c.nextRef + 3900, busyUntil := s.now + 700 } }
    s.scrubAny pch

/-- A drive cycle as a wall cycle at a hold that begins at `start` in cohort cycle ccyc; none where
it lies before the last release. -/
def wallOf (start ccyc rel : Nat) (x : Option Nat) : Option Nat :=
  match x with
  | some y => if y < rel then none else some (start + y - ccyc)
  | none => none

/-- Wall cycle n cycles after an event, if any. -/
def after (x : Option Nat) (n : Nat) : Nat :=
  match x with
  | some y => y + n
  | none => 0

/-- Earliest reopening MACTs in ascending bank index from wall cycle t: the last one's cycle. `done`
holds the activates already placed: cycle and bank group. -/
def Pch.reopen (p : Pch) (start ccyc rel t : Nat) : List (Nat × Nat) → List (Nat × Nat) → Option Nat
  | [], done => (done.getLast?).map (·.1)
  | (b, _) :: l, done =>
    let x := p.bankTime b
    let w := wallOf start ccyc rel
    let pre := max (max start (after (w x.act) 66)) (max (after (w x.rd) 10) (after (w x.wr) 46))
    let bg := b / 4
    let rrd := (done.map fun a => a.1 + (if a.2 = bg then 6 else 4)).foldl max 0
    let faw := match done.reverse[3]? with
      | some a => a.1 + 32
      | none => 0
    let at_ := max (max t (pre + 28)) (max (max (after (w x.act) 94) rrd) faw)
    p.reopen start ccyc rel t l (done ++ [(at_, bg)])

/-- Wall cycle by which every bank that is recorded as idle is idle: row operations have completed and
automatic precharges have come (R78, R228). -/
def Pch.idleBy (p : Pch) (start ccyc rel : Nat) : Nat :=
  max ((p.jobs.map (·.done)).foldl max 0)
    ((allBanks.map fun b => after (wallOf start ccyc rel (p.bankTime b).auto) 0).foldl max 0)

/-- Wall cycle from which a pseudo-channel allows release, its hold's last cause having ended at
wall cycle e: refreshes in progress complete, the program's too, then the rows are reopened, each as early
as R220 permits; hold-mode work that remains ends (R78, R229). -/
def Pch.releaseAt (p : Pch) (ccyc rel e : Nat) : Nat :=
  match p.custody with
  | none => e
  | some c =>
    let t := max e (max c.busyUntil p.refUntil)
    let old := (p.acts.filterMap fun a =>
      (wallOf c.start ccyc rel (some a.1)).map fun w => (w, a.2))
    let open_ := match p.reopen c.start ccyc rel t c.recorded old with
      | some last => if c.recorded.isEmpty then t else last + 94
      | none => t
    max open_ (p.idleBy c.start ccyc rel)

/-- IDLE_REFRESH: an idle pseudo-channel is refreshed at the hot rate, but not within 1,000 wall
cycles before the start cycle of a bind that names it (R231). -/
def State.idleDue (s : State) (pch : Nat) : Bool :=
  (s.pch pch).idleNext ≤ s.now &&
    !s.cohorts.any fun e => e.2.pchs.contains pch && e.2.st != .ending &&
      (e.2.st != .starting || e.2.wstart ≤ s.now + 1000)

def execIdleRefresh (pch : Nat) (s : State) : Out :=
  if s.idleDue pch then
    let s := s.modPch pch fun p => { p with idleNext := s.now + 3900 }
    .next (s.scrubAny pch)
  else .next s

end Sys2Proof.Machine
end

