-- ==== Sys2Proof/Machine/Sync.lean ====
section
/-! DEFINITION. ATOM and RED at issue, and what they make of a location (R262 to R265). -/

namespace Sys2Proof.Machine

/-- Address and issue-time checks of an atomic, then its place among the untimed operations
(R264, R265). -/
def atomic (ret : Bool) (op : AtomOp) (o : AOp) (sb sc sd : BitVec 6) (s : State) : Out :=
  withScalar o.bs o.sa s fun v =>
    let w := if o.sp then 32 else 54
    let a := s.ea1 (v.toNat % 2 ^ w)
    let s := s.setEa a 0
    if !s.guarded o.g then .next s
    else
      let n : Nat := if o.sz then 8 else 4
      let p := s.part ((s.cohOf s.cur.site).map partOf |>.getD 0)
      let word := fun (r : Nat) => BitVec.ofNat 64 (r + a.toNat * 2 ^ 8)
      if a % (n : Int) != 0 then trapOut s 0x17 (word 2)
      else if o.sp && a.toNat / 4096 ≥ p.gran + p.ovgr then trapOut s 0x17 (word 1)
      else
        let c := s.cx
        let s := if ret && sd != 0 then s.modCtx s.cur.site (·.setPend sd.toNat true) else s
        .next (s.addUop s.cur.scope
          (.atom ret op n o.sp a.toNat (c.rs sb.toNat) (c.rs sc.toNat) sd.toNat)).irrevocable

def execAtomAdd (o : AOp) (sb sd : BitVec 6) (s : State) : Out := atomic true .add o sb 0 sd s
def execAtomSwap (o : AOp) (sb sd : BitVec 6) (s : State) : Out := atomic true .swap o sb 0 sd s
def execAtomCas (o : AOp) (sb sc sd : BitVec 6) (s : State) : Out := atomic true .cas o sb sc sd s
def execAtomAnd (o : AOp) (sb sd : BitVec 6) (s : State) : Out := atomic true .and o sb 0 sd s
def execAtomOr (o : AOp) (sb sd : BitVec 6) (s : State) : Out := atomic true .or o sb 0 sd s
def execAtomXor (o : AOp) (sb sd : BitVec 6) (s : State) : Out := atomic true .xor o sb 0 sd s
def execAtomMin (o : AOp) (sb sd : BitVec 6) (s : State) : Out := atomic true .min o sb 0 sd s
def execAtomMax (o : AOp) (sb sd : BitVec 6) (s : State) : Out := atomic true .max o sb 0 sd s
def execAtomMinu (o : AOp) (sb sd : BitVec 6) (s : State) : Out := atomic true .minu o sb 0 sd s
def execAtomMaxu (o : AOp) (sb sd : BitVec 6) (s : State) : Out := atomic true .maxu o sb 0 sd s
def execAtomFadd (o : AOp) (sb sd : BitVec 6) (s : State) : Out := atomic true .fadd o sb 0 sd s
def execAtomLd (o : AOp) (sd : BitVec 6) (s : State) : Out := atomic true .ld o 0 0 sd s
def execRedAdd (o : AOp) (sb : BitVec 6) (s : State) : Out := atomic false .add o sb 0 0 s
def execRedSt (o : AOp) (sb : BitVec 6) (s : State) : Out := atomic false .swap o sb 0 0 s
def execRedAnd (o : AOp) (sb : BitVec 6) (s : State) : Out := atomic false .and o sb 0 0 s
def execRedOr (o : AOp) (sb : BitVec 6) (s : State) : Out := atomic false .or o sb 0 0 s
def execRedXor (o : AOp) (sb : BitVec 6) (s : State) : Out := atomic false .xor o sb 0 0 s
def execRedMin (o : AOp) (sb : BitVec 6) (s : State) : Out := atomic false .min o sb 0 0 s
def execRedMax (o : AOp) (sb : BitVec 6) (s : State) : Out := atomic false .max o sb 0 0 s
def execRedMinu (o : AOp) (sb : BitVec 6) (s : State) : Out := atomic false .minu o sb 0 0 s
def execRedMaxu (o : AOp) (sb : BitVec 6) (s : State) : Out := atomic false .maxu o sb 0 0 s
def execRedFadd (o : AOp) (sb : BitVec 6) (s : State) : Out := atomic false .fadd o sb 0 0 s

/-- The F32 sum of R263: one rounding under RNE, subnormals kept, 0x7FC00000 for a NaN. -/
def atomFadd (a b : Nat) : Nat :=
  (faddR fmtF32 0 false (fdec fmtF32 false a) (fdec fmtF32 false b)).1

/-- The new value of a location of w bits (R263). -/
def AtomOp.new (op : AtomOp) (w old v c : Nat) : Nat :=
  match op with
  | .add => (old + v) % 2 ^ w
  | .swap => v
  | .cas => if old = c then v else old
  | .and => old &&& v
  | .or => old ||| v
  | .xor => old ^^^ v
  | .min => if sval w v < sval w old then v else old
  | .max => if sval w old < sval w v then v else old
  | .minu => if v < old then v else old
  | .maxu => if old < v then v else old
  | .fadd => atomFadd old v
  | .ld => old

end Sys2Proof.Machine
end

