-- ==== Sys2Proof/Machine/Tile.lean ====
section
/-! DEFINITION. Tile registers and the digital matrix unit (R148 to R164). -/

namespace Sys2Proof.Machine

/-! ## Shapes and elements (R148, R149) -/

def tileRows (w : Word) : Nat := bits w 6 0
def tileCols (w : Word) : Nat := bits w 14 8
def tileEw (w : Word) : Nat := bits w 17 16
/-- Element width in bytes. -/
def tileEb (w : Word) : Nat := 2 ^ tileEw w
def tileSize (w : Word) : Nat := tileRows w * tileCols w * tileEb w

def tileValid (w : Word) : Bool :=
  1 ≤ tileRows w && tileRows w ≤ 64 && 1 ≤ tileCols w && tileCols w ≤ 64 && tileEw w != 3

def Ctx.shape (c : Ctx) (t : Nat) : Word := SMap.get c.tshape 0 t

/-- File byte of element (r, c) of tile t. -/
def tileAddr (w : Word) (t r c : Nat) : Nat := 4096 * t + (r * tileCols w + c) * tileEb w

/-- Element (r, c) of tile t as a pattern. -/
def Ctx.telem (c : Ctx) (t r k : Nat) : Nat :=
  let w := c.shape t
  ofBytes (memBytes c.tile (tileAddr w t r k) (tileEb w))

/-- The same, read as signed. -/
def Ctx.tint (c : Ctx) (t r k : Nat) : Int := sval (8 * tileEb (c.shape t)) (c.telem t r k)

/-- Lines of n file bytes from a byte. -/
def linesOf (a n : Nat) : List Nat :=
  if n = 0 then [] else (List.range ((a + n - 1) / 256 - a / 256 + 1)).map (a / 256 + ·)

/-- Lines wholly inside n file bytes from a byte. -/
def wholeLines (a n : Nat) : List Nat :=
  (linesOf a n).filter fun l => a ≤ 256 * l && 256 * l + 256 ≤ a + n

/-- Lines of a tile's footprint. -/
def Ctx.footLines (c : Ctx) (t : Nat) : List Nat := linesOf (4096 * t) (tileSize (c.shape t))

/-! ## Checks (R151) -/

/-- Reason 1, 2 or 3 of an operand that must have EW `ew`; none for any width. -/
def Ctx.tileFault (c : Ctx) (t : Nat) (ew : Option Nat) : List (Nat × Nat) :=
  let w := c.shape t
  if !tileValid w then [(1, t)]
  else if 4096 * t + tileSize w > 131072 then [(2, t)]
  else
    match ew with
    | some e => if tileEw w != e then [(3, t)] else []
    | none => []

/-- The tile-shape trap with one of the failing checks, else the operation. -/
def tileCheck (l : List (Nat × Nat)) (s : State) (k : Out) : Out :=
  match l with
  | [] => k
  | _ =>
    let p := s.pick l (0, 0)
    trapOut p.2 0x0D (BitVec.ofNat 64 (p.1.1 + 256 * p.1.2))

/-- An MT operation without a scalar source. -/
def tileOp (g : Guard) (s : State) (k : Out) : Out :=
  if !s.guarded g then .next s else s.barred k

/-! ## Moves (R157, R158) -/

/-- A tile's image. -/
def Ctx.image (c : Ctx) (t : Nat) : List Byte := memBytes c.tile (4096 * t) 4096

/-- TLD and TST: effective address, guard and address check. -/
def tileMem (o : TMem) (n : Nat) (s : State) (k : Nat → State → State) : Out :=
  withScalar o.bs o.sa s fun v =>
    let ea := s.ea1 (v.toInt + immOf o.off s.cur.ext)
    let s := s.setEa ea 0
    if !s.guarded o.g then .next s
    else s.barred (if !inSpad ea n 32 then addrTrap s ea else .next (k ea.toNat s))

def execTld (o : TMem) (s : State) : Out :=
  tileMem o 4096 s fun a s =>
    s.access 0 3 false (unitsOf a 4096) (.toTile o.t.toNat a (s.timeOf s.cur.site + 16))

/-- The image as it stands at issue, written in port cycle c+16. -/
def State.storeTile (s : State) (t a : Nat) : State :=
  (s.readLines 16 (tileLines t)).access 16 2 false (unitsOf a 4096)
    (.write (placed a (s.cx.image t)) none)

def execTst (o : TMem) (s : State) : Out :=
  tileMem o 4096 s fun a s => s.storeTile o.t.toNat a

def execTstOV (o : TMem) (s : State) : Out :=
  tileMem o 4128 s fun a s =>
    ((s.storeTile o.t.toNat a).access 16 2 false (unitsOf (a + 4096) 32)
      (.ovc o.t.toNat (a + 4096) 0)).landing 16 fNone false (.ovcStore o.t.toNat)

def execTzero (g : Guard) (td : BitVec 5) (s : State) : Out :=
  tileOp g s <|
    let c := s.cx
    let t := td.toNat
    tileCheck (c.tileFault t none) s <|
      let n := tileSize (c.shape t)
      .next ((s.landing 1 fNone false
        (.tile [(4096 * t, List.replicate n 0)] (wholeLines (4096 * t) n) [])).landing 1 fNone false
        (.ovcClear t))

def execTmov (g : Guard) (td ts : BitVec 5) (s : State) : Out :=
  tileOp g s <|
    let c := s.cx
    let marks := (List.range 16).map fun k => (16 * td.toNat + k, c.poison.contains (16 * ts.toNat + k))
    .next ((s.readLines 4 (tileLines ts.toNat)).landing 4 fNone false
      (.tile [(4096 * td.toNat, c.image ts.toNat)] ((marks.filter (!·.2)).map (·.1))
        ((marks.filter (·.2)).map (·.1))))

/-- The bytes of a tile written element by element, row order. -/
def elemBytes (eb : Nat) (l : List Nat) : List Byte := (l.map (bytesOf eb)).flatten

/-- Marks of whole lines of a footprint whose elements come from lines that are or are not
poisoned: lines to clear and lines to set. `src` gives the lines that feed a file byte. -/
def Ctx.marksFrom (c : Ctx) (a n : Nat) (src : Nat → List Nat) : List Nat × List Nat :=
  let whole := wholeLines a n
  let bad := whole.filter fun l =>
    (List.range 256).any fun k => (src (256 * l + k)).any c.poison.contains
  (whole.filter (!bad.contains ·), bad)

def execTtrn (g : Guard) (td ts : BitVec 5) (s : State) : Out :=
  tileOp g s <|
    let c := s.cx
    let d := td.toNat
    let t := ts.toNat
    let wd := c.shape d
    let ws := c.shape t
    let f := c.tileFault d none ++ c.tileFault t none
    let e := if tileEw wd != tileEw ws then [(3, d), (3, t)] else []
    let m := if tileRows wd != tileCols ws || tileCols wd != tileRows ws then [(4, d), (4, t)] else []
    tileCheck (if !f.isEmpty then f else if !e.isEmpty then e else m) s <|
      let eb := tileEb wd
      let l := (List.range (tileRows wd)).map fun r =>
        (List.range (tileCols wd)).map fun k => c.telem t k r
      let marks := c.marksFrom (4096 * d) (tileSize wd) fun b =>
        let e := (b - 4096 * d) / eb
        [tileAddr ws t (e % tileCols wd) (e / tileCols wd) / 256]
      .next ((s.readLines 8 (c.footLines t)).landing 8 fNone false
        (.tile [(4096 * d, elemBytes eb l.flatten)] marks.1 marks.2))

/-! ## The weight latch (R153, R159) -/

/-- The weights that an operation issued at x uses: the latest TWL at or before x - 64. -/
def Matrix.at (m : Matrix) (x : Nat) : Option Weights :=
  match (m.loading.filter fun l => l.1 ≤ x).getLast? with
  | some l => some l.2
  | none => m.weights

/-- Loads that have taken effect move into the latch. -/
def Matrix.settle (m : Matrix) (x : Nat) : Matrix :=
  { m with weights := m.at x, loading := m.loading.filter fun l => l.1 > x }

def twl (mx : Bool) (g : Guard) (tw tsc : BitVec 5) (s : State) : Out :=
  tileOp g s <|
    let c := s.cx
    let t := tw.toNat
    let x := s.timeOf s.cur.site
    tileCheck (c.tileFault t (some 0)) s <|
      let early := match c.matrix.lastTwl with
        | some y => decide (x < y + 64)
        | none => false
      if early then trapOut s 0x0E (BitVec.ofNat 64 (c.matrix.lastTwl.getD 0 + 64))
      else
        let w := c.shape t
        let n := tileSize w
        let scale := if mx then memBytes c.tile (4096 * tsc.toNat) 128 else []
        let ws : Weights := { k := tileRows w, n := tileCols w, mx := mx,
                              w := memBytes c.tile (4096 * t) n, scale := scale }
        let used := if mx then
            linesOf (4096 * tsc.toNat) (2 * (tileCols w - 1) + (tileRows w + 31) / 32)
          else []
        let s := s.readLines 64 (c.footLines t ++ used)
        .next (s.modCtx s.cur.site fun c =>
          let m := c.matrix.settle x
          { c with matrix := { m with loading := m.loading ++ [(x + 64, ws)], lastTwl := some x } })

def execTwl (g : Guard) (tw : BitVec 5) (s : State) : Out := twl false g tw 0 s

def execTwlMx (g : Guard) (tw tsc : BitVec 5) (s : State) : Out := twl true g tw tsc s

/-! ## Multiplication (R160) -/

/-- num · 2^e as an exact numerator over 2^(-lo), for e ≥ lo. -/
def scaled (lo e num : Int) : Int := num * 2 ^ (e - lo).toNat

/-- Round an exact sum of terms num · 2^e to an integer. -/
def roundSum (l : List (Int × Int)) : Int :=
  let lo := (l.map (·.2)).foldl min 0
  roundHalfEven ((l.map fun t => scaled lo t.2 t.1).foldl (· + ·) 0) (-lo).toNat

/-- w[k][n] of the latch. -/
def Weights.at (w : Weights) (k n : Nat) : Int := (w.w.getD (k * w.n + n) 0).toInt

/-- XW[n][b]. -/
def Weights.sc (w : Weights) (n b : Nat) : Nat := (w.scale.getD (2 * n + b) 0).toNat

def Weights.blocks (w : Weights) : Nat := (w.k + 31) / 32

/-- The k of block b. -/
def blockKs (k b : Nat) : List Nat := (List.range (min 32 (k - 32 * b))).map (32 * b + ·)

/-- Scale exponent of an MXINT8 scale byte. -/
def mxExp (mx : Bool) (x : Nat) : Int := if mx then (x : Int) - 133 else 0

/-- v[r][n] with its NaN mark: `a` gives the A row, `xa` its scale bytes. -/
def Weights.product (w : Weights) (fmt : Bool) (asc : Int) (a : Nat → Int) (xa : Nat → Nat)
    (n : Nat) : Bool × Int :=
  let bs := List.range w.blocks
  let nan := bs.any fun b => (fmt && xa b == 255) || (w.mx && w.sc n b == 255)
  let terms := bs.map fun b =>
    (((blockKs w.k b).map fun k => a k * w.at k n).foldl (· + ·) 0,
     mxExp fmt (xa b) + mxExp w.mx (w.sc n b) + asc)
  (nan, if nan then 0 else roundSum terms)

/-- The first free cycle of the array for M rows from t. -/
def Matrix.freeAt (m : Matrix) (rows t : Nat) : Nat :=
  firstFree (m.busy.map fun b => { coh := 0, res := 0, from_ := b.1, to_ := b.2 }) [(0, 0, rows - 1)]
    (m.busy.length + 1) t

/-- Checks shared by TMMA, TMMA.SMX and KATT, then the weights; `ta` has EW `ew`. Of several reasons
those of 1 to 3 are reported before 4, and 5 alone with an empty latch; the trap of an occupied array follows
the tile-shape trap, as that of an early TWL does (DESIGN CHOICE, log 59). Reason 5 names the accumulator or the
A tile, and reason 4 the tile whose dimension is not the one that the weights or the A tile ask for (DESIGN CHOICE,
log 104). -/
def multiply (g : Guard) (tc ta ew : Nat) (side : Option Nat) (s : State)
    (k : Weights → Nat → State → Out) : Out :=
  tileOp g s <|
    let c := s.cx
    let x := s.timeOf s.cur.site
    let wa := c.shape ta
    let wc := c.shape tc
    let rows := tileRows wa
    let l := c.tileFault tc (some 2) ++ c.tileFault ta (some ew) ++
      (match side with
       | some tx => c.tileFault tx (some 2)
       | none => [])
    let sideBad := match side with
      | some tx => if tileRows (c.shape tx) != rows || tileCols (c.shape tx) != 2 then [(4, tx)] else []
      | none => []
    match c.matrix.at x with
    | none =>
      tileCheck (if l.isEmpty then [(5, tc), (5, ta)] else l) s (.next s)
    | some w =>
      let dims := (if tileCols wa != w.k then [(4, ta)] else []) ++
        (if tileRows wc != rows || tileCols wc != w.n then [(4, tc)] else []) ++ sideBad
      tileCheck (if l.isEmpty then dims else l) s <|
        let free := c.matrix.freeAt rows x
        if free != x then trapOut s 0x0E (BitVec.ofNat 64 free)
        else
          k w rows (s.modCtx s.cur.site fun c =>
            let m := c.matrix.settle x
            { c with matrix := { m with
                busy := (m.busy.filter fun b => b.2 ≥ x) ++ [(x, x + rows - 1)] } })

/-- Rows of a tile that hold a byte of a poisoned line. -/
def Ctx.badRows (c : Ctx) (t : Nat) : List Nat :=
  let w := c.shape t
  (List.range (tileRows w)).filter fun r =>
    (linesOf (tileAddr w t r 0) (tileCols w * tileEb w)).any c.poison.contains

/-- The products of a TMMA or KATT, in row order. -/
def Ctx.products (c : Ctx) (w : Weights) (fmt : Bool) (ta tsc rows : Nat) (asc : Int) :
    List (Bool × Int) :=
  ((List.range rows).map fun r =>
    (List.range w.n).map fun n =>
      w.product fmt asc (fun k => c.tint ta r k)
        (fun b => (memGet c.tile (4096 * tsc + 2 * r + b)).toNat) n).flatten

/-- Scale lines that M rows of an MXINT8 A tile read. -/
def scaleLines (fmt : Bool) (tsc rows blocks : Nat) : List Nat :=
  if fmt then linesOf (4096 * tsc) (2 * (rows - 1) + blocks) else []

def tmma (fmt : Bool) (g : Guard) (tc ta tsc : BitVec 5) (asc : BitVec 6) (s : State) : Out :=
  multiply g tc.toNat ta.toNat 0 none s fun w rows s =>
    let c := s.cx
    let scl := scaleLines fmt tsc.toNat rows w.blocks
    let all := scl.any c.poison.contains
    let v := c.products w fmt ta.toNat tsc.toNat rows asc.toInt
    let bad := if all then List.range rows else c.badRows ta.toNat
    .next ((s.readLines (66 + rows) (c.footLines ta.toNat ++ scl)).landing (66 + rows) fNone false
      (.accumulate tc.toNat rows w.n v bad []))

def execTmma (g : Guard) (tc ta : BitVec 5) (asc : BitVec 6) (s : State) : Out :=
  tmma false g tc ta 0 asc s

def execTmmaMx (g : Guard) (tc ta tsc : BitVec 5) (asc : BitVec 6) (s : State) : Out :=
  tmma true g tc ta tsc asc s

/-! ## Known-answer tiles (R162) -/

def katt (fmt : Bool) (g : Guard) (tr ta tsc : BitVec 5) (asc : BitVec 6) (s : State) : Out :=
  multiply g tr.toNat ta.toNat 0 none s fun w rows s =>
    let c := s.cx
    let scl := scaleLines fmt tsc.toNat rows w.blocks
    let v := c.products w fmt ta.toNat tsc.toNat rows asc.toInt
    let want := v.map fun x => if x.1 then -2 ^ 31 else satS 32 x.2
    let have_ := ((List.range rows).map fun r =>
      (List.range w.n).map fun n => c.tint tr.toNat r n).flatten
    .next ((s.readLines (66 + rows) (c.footLines ta.toNat ++ c.footLines tr.toNat ++ scl)).landing
      (66 + rows) fNone false (.known tr.toNat (want != have_)))

def execKatt (g : Guard) (tc ta : BitVec 5) (asc : BitVec 6) (s : State) : Out :=
  katt false g tc ta 0 asc s

def execKattMx (g : Guard) (tc ta tsc : BitVec 5) (asc : BitVec 6) (s : State) : Out :=
  katt true g tc ta tsc asc s

/-! ## Online softmax (R163, R164) -/

def execTmmaSmx (g : Guard) (tc ta tx qs : BitVec 5) (asc : BitVec 6) (s : State) : Out :=
  multiply g tc.toNat ta.toNat 2 (some tx.toNat) s fun w rows s =>
    let c := s.cx
    let v := ((List.range rows).map fun r =>
      (List.range w.k).map fun k => c.tint ta.toNat r k).flatten
    .next ((s.readLines (70 + rows) (c.footLines ta.toNat)).landing (70 + rows) fNone false
      (.softmax tc.toNat tx.toNat rows v w qs.toNat asc.toInt (c.badRows ta.toNat) []))

/-- round_half_even(a / d), d > 0. -/
def roundDiv (a : Int) (d : Nat) : Int :=
  let q := a / d
  let r := 2 * (a % d)
  if r > d || (r = d && q % 2 = 1) then q + 1 else q

/-- round_half_even(a · 2^(-d / 2^qs)), d ≥ 0. -/
def mulPow (a : Int) (d qs : Nat) : Int :=
  let q := d / 2 ^ qs
  let r := d % 2 ^ qs
  if q ≥ 64 then 0
  else if r = 0 then roundHalfEven a q
  else roundHalfEven (a * expFrac (2 ^ qs - r) qs) (expBits + q + 1)

/-- A 32-bit tile's bytes. -/
def words32 (l : List Int) : List Byte := elemBytes 4 (l.map (wrapTo 32))

def execTsmxInit (g : Guard) (tx : BitVec 5) (s : State) : Out :=
  tileOp g s <|
    let c := s.cx
    let t := tx.toNat
    let w := c.shape t
    let f := c.tileFault t (some 2)
    tileCheck (if !f.isEmpty then f else if tileCols w != 2 then [(4, t)] else []) s <|
      let l := ((List.range (tileRows w)).map fun _ => [(-2 ^ 31 : Int), 0]).flatten
      .next (s.landing 8 fNone false
        (.tile [(4096 * t, words32 l)] (wholeLines (4096 * t) (tileSize w)) []))

def execTsmxNorm (g : Guard) (tc tx ns : BitVec 5) (s : State) : Out :=
  tileOp g s <|
    let c := s.cx
    let t := tc.toNat
    let x := tx.toNat
    let wc := c.shape t
    let wx := c.shape x
    let f := c.tileFault t (some 2) ++ c.tileFault x (some 2)
    let m := (if tileCols wx != 2 then [(4, x)] else []) ++
      (if tileRows wx != tileRows wc then [(4, t), (4, x)] else [])
    tileCheck (if !f.isEmpty then f else m) s <|
      let l := ((List.range (tileRows wc)).map fun r =>
        (List.range (tileCols wc)).map fun n =>
          let d := c.tint x r 1
          if d > 0 then roundDiv (c.tint t r n * 2 ^ ns.toNat) d.toNat else 0).flatten
      let sat := (l.filter fun v => satS 32 v != v).length
      let marks := c.marksFrom (4096 * t) (tileSize wc) fun b =>
        [b / 256, tileAddr wx x ((b - 4096 * t) / 4 / tileCols wc) 1 / 256]
      .next (((s.readLines 8 (c.footLines t ++ c.footLines x)).landing 8 fNone false
        (.tile [(4096 * t, words32 (l.map (satS 32)))] marks.1 marks.2)).landing 8 fNone false
        (.ovcCount t sat))

/-! ## Landing (R150, R160, R163) -/

/-- OVC with more saturations and NaN writes, each field sticking. -/
def ovcAdd (w : Word) (sat nan : Nat) : Word :=
  BitVec.ofNat 64
    (min 0xFFFFFFFF (bits w 31 0 + sat) + 2 ^ 32 * min 0xFFFF (bits w 47 32 + nan))

def Ctx.countOvc (c : Ctx) (t sat nan : Nat) : Ctx :=
  { c with ovc := SMap.put c.ovc 0 t (ovcAdd (SMap.get c.ovc 0 t) sat nan) }

/-- The int32 element at a file byte. -/
def tileWord (m : List Host.Cell) (a : Nat) : Int := sval 32 (ofBytes (memBytes m a 4))

/-- The int32 element at a file byte, as it stands. -/
def Ctx.word32 (c : Ctx) (a : Nat) : Int := tileWord c.tile a

/-- Write tile bytes and marks. -/
def Ctx.putTile (c : Ctx) (at_ : List (Nat × List Byte)) (clear set : List Nat) : Ctx :=
  { c with
    tile := at_.foldl (fun m (x : Nat × List Byte) => memPut m x.1 x.2) c.tile
    poison := set ++ c.poison.filter fun l => !clear.contains l && !set.contains l
    badLine := c.badLine.filter fun l => !clear.contains l && !set.contains l }

/-- The lines that a write of an m × n accumulator at tile t fills, from rows of which `bad` are poisoned:
those whose mark it clears, and those whose mark it sets. The accumulator is a source too, as it stood in
`was`: its poisoned lines stay so (R152, R161). -/
def Ctx.accMarks (was : Ctx) (t m n : Nat) (bad : List Nat) : List Nat × List Nat :=
  let whole := (wholeLines (4096 * t) (4 * m * n)).filter (!was.poison.contains ·)
  let set := whole.filter fun l => bad.any fun r =>
    4096 * t + 4 * n * r < 256 * l + 256 && 256 * l < 4096 * t + 4 * n * (r + 1)
  (whole.filter (!set.contains ·), set)

/-- One element of a TMMA: new value, saturated, NaN. -/
def accStep (acc : Int) (v : Bool × Int) : Int × Bool × Bool :=
  if v.1 then (-2 ^ 31, false, true) else (satS 32 (acc + v.2), satS 32 (acc + v.2) != acc + v.2, false)

/-- Add products to the accumulator at tile t; `was` is the context after every landing of earlier
cycles (R161). -/
def Ctx.accumulate (c was : Ctx) (t m n : Nat) (v : List (Bool × Int)) (bad : List Nat) : Ctx :=
  let r := v.zipIdx.map fun e => accStep (was.word32 (4096 * t + 4 * e.2)) e.1
  let marks := was.accMarks t m n bad
  (c.putTile [(4096 * t, words32 (r.map (·.1)))] marks.1 marks.2).countOvc t
    (r.filter (·.2.1)).length (r.filter (·.2.2)).length

/-- One row of TMMA.SMX: new maximum, new sum, row, saturations, NaN writes. -/
def softRow (w : Weights) (qs : Nat) (asc mo sum : Int) (s acc : List Int) :
    Int × Int × List Int × Nat × Nat :=
  let mn := s.foldl max mo
  let f := fun (x : Int) => if mo = -2 ^ 31 then 0 else mulPow x (mn - mo).toNat qs
  let q := s.map fun x => mulPow 127 (mn - x).toNat qs
  let total := f sum + q.foldl (· + ·) 0
  let cells := (List.range w.n).map fun n =>
    let v := w.product false asc (fun k => q.getD k 0) (fun _ => 0) n
    if v.1 then ((-2 ^ 31 : Int), false, true)
    else
      let x := f (acc.getD n 0) + v.2
      (satS 32 x, satS 32 x != x, false)
  (mn, satS 32 total, cells.map (·.1),
   (cells.filter (·.2.1)).length + (satS 32 total != total).toNat, (cells.filter (·.2.2)).length)

/-- Rows of an M × 2 side tile at tx that lie in poisoned lines. -/
def Ctx.sideBad (c : Ctx) (tx m : Nat) : List Nat :=
  (List.range m).filter fun r => c.poison.contains ((4096 * tx + 8 * r) / 256)

/-- One step of the online softmax on the accumulator and side tile as they stood in `was`: a row's
sources are its scores and its side registers. Where the two footprints overlap, the side tile's values are
kept (DESIGN CHOICE, log 83). -/
def Ctx.softmax (c was : Ctx) (t tx m : Nat) (scores : List Int) (w : Weights)
    (qs : Nat) (asc : Int) (bad : List Nat) : Ctx :=
  let rows := (List.range m).map fun r =>
    softRow w qs asc (was.word32 (4096 * tx + 8 * r)) (was.word32 (4096 * tx + 8 * r + 4))
      ((scores.drop (w.k * r)).take w.k)
      ((List.range w.n).map fun n => was.word32 (4096 * t + 4 * (w.n * r + n)))
  let side := (rows.map fun r => [r.1, r.2.1]).flatten
  let acc := was.accMarks t m w.n (bad ++ was.sideBad tx m)
  let reg := was.accMarks tx m 2 bad
  ((c.putTile [(4096 * t, words32 (rows.map (·.2.2.1)).flatten)] acc.1 acc.2).putTile
    [(4096 * tx, words32 side)] reg.1 reg.2).countOvc t (rows.map (·.2.2.2.1)).sum (rows.map (·.2.2.2.2)).sum

/-- A parity error of draw d in the m × n accumulator at tile t: the value written to one element is
faulty, and every line of its row is poisoned (R152). -/
def Ctx.parity (c : Ctx) (t m n d : Nat) : Ctx :=
  let e := Config.choice d % max 1 (m * n)
  let a := 4096 * t + 4 * e
  let v := (Config.errorBits d).truncate 32 ^^^ BitVec.ofNat 32 (ofBytes (memBytes c.tile a 4))
  let lines := linesOf (4096 * t + 4 * n * (e / max 1 n)) (4 * n)
  { c with tile := memPut c.tile a (bytesOf 4 v.toNat)
           poison := lines ++ c.poison.filter (!lines.contains ·)
           badLine := c.badLine.filter (!lines.contains ·) }

end Sys2Proof.Machine
end

