-- ==== Sys2Proof/Machine/Land.lean ====
section
/-! DEFINITION. Landing of results (R48, R75, R94 to R101), the logs of recovery regions, and the
arming of injected errors (R307). -/

namespace Sys2Proof.Machine

/-! ## Injected errors (R307) -/

/-- An injection of a kind is armed at core i. -/
def State.injects (s : State) (i kind : Nat) : Bool :=
  bitAt s.pf.errinj 12 && bits s.pf.errinj 11 8 == kind && bits s.pf.errinj 6 0 == i

/-- The injection has acted. -/
def State.disarm (s : State) : State :=
  { s with pf := { s.pf with errinj := setBits s.pf.errinj 12 12 0 } }

/-! ## Effects -/

/-- Order of landings of one cycle: clears and NCTL writes, results, writes of bank registers, shadow
checks; within each in order of issue. -/
def Pend.rank (p : Pend) : Nat :=
  if p.shadow then 3
  else
    match p.eff with
    | .ovcClear _ | .ovcStore _ => 0
    | .csr n _ => if n = 0x010 then 0 else if n ≥ 0x100 then 2 else 1
    | _ => 1

def Pend.before (p q : Pend) : Bool := p.rank < q.rank || (p.rank == q.rank && p.seq ≤ q.seq)

/-- A region error found at the landing of p, in the time of core i's landings. -/
def State.landError (s : State) (i : Nat) (p : Pend) (cause : Nat) (tval : Word) : State :=
  s.modCtx i (·.addBev { due := p.land, issued := p.issued, kind := .regionError cause tval
                         again := p.again })

/-- A whole new value clears a register's uncorrectable mark. -/
def Core.heal (c : Core) (file r : Nat) : Core :=
  { c with badReg := c.badReg.filter (· != (file, r)) }

/-- The effect writes elements that a shadow checks. -/
def Effect.elements (e : Effect) : Bool :=
  match e with
  | .vreg .. | .preg .. => true
  | _ => false

/-- q is a result of the operation whose shadow left p: the two vector slots of one bundle (R132). -/
def Pend.pairs (q p : Pend) : Bool :=
  p.shadow && !q.shadow && q.issued == p.issued && q.slot + p.slot == 5 && q.land == p.land && q.eff.elements

/-- The pairs that land in a cycle: a pair with two destinations checks the n-th result of its shadow
against the n-th of its primary (R133). -/
def shadowPairs (l : List Pend) : List (Pend × Pend) :=
  let sh := l.filter (·.shadow)
  sh.zipIdx.filterMap fun (e : Pend × Nat) =>
    let p := e.1
    let n := ((sh.take e.2).filter fun x => x.issued == p.issued && x.slot == p.slot && x.land == p.land).length
    ((l.filter (·.pairs p))[n]?).map fun q => (q, p)

/-- The register that a shadow checks. -/
def Effect.checked (e : Effect) : Word :=
  match e with
  | .vreg r _ _ => BitVec.ofNat 64 r
  | .preg r _ _ => BitVec.ofNat 64 r
  | _ => 0

/-- The values of two results with one destination differ in a written bit. -/
def Effect.differs (a b : Effect) : Bool :=
  match a, b with
  | .vreg _ m v, .vreg _ _ w => (v ^^^ w) &&& m != 0
  | .preg _ m v, .preg _ _ w => (v ^^^ w) &&& m != 0
  | _, _ => false

/-- The value with the bits `bad` of what it writes changed. -/
def Pend.flip (p : Pend) (bad : VWord) : Pend :=
  match p.eff with
  | .vreg r m v => { p with eff := .vreg r m (v ^^^ (bad &&& m)) }
  | .preg r m v => { p with eff := .preg r m (v ^^^ (bad.truncate 32 &&& m)) }
  | _ => p

/-- The bits of lane 0 of what an effect writes: an element, or the lane's bit of a predicate (R119, R328). -/
def Effect.lane0 (e : Effect) : VWord :=
  match e with
  | .preg .. => 1
  | _ => 0xFFFFFFFF

/-- An injected mismatch (R307): lane 0 of the primary's result of the first shadow check of this cycle
is faulty in open bits where it is written, and the check differs (R328; DEDUCED, log 62). The results that
land, and the pairs still to be checked. -/
def State.injectLanding (s : State) (i : Nat) (l : List Pend) : State × List Pend × List (Pend × Pend) :=
  let ps := shadowPairs l
  match (l.mergeSort Pend.before).find? (·.shadow) with
  | some p =>
    if s.injects i 1 then
      let n := s.disarm.draw
      let hit := ps.filter (·.2 == p)
      (n.2.landError i p 0x19 p.eff.checked,
       l.map fun x => if hit.any (·.1 == x) then x.flip (Config.errorBits n.1 &&& x.eff.lane0) else x,
       ps.filter (·.2 != p))
    else (s, l, ps)
  | none => (s, l, ps)

/-- The shadow check of a landing: the primary's value is compared with the shadow's in every element
written, and the destination keeps the primary's (R133). -/
def State.shadowCheck (s : State) (i : Nat) (e : Pend × Pend) : State :=
  if e.1.eff.differs e.2.eff then s.landError i e.2 0x19 e.2.eff.checked else s

/-- XOVC and XCLIP updates (R169, R173): counters stick. -/
def Bank.count (b : Bank) (g sat fb : Nat) (clip : BitVec 256) : Bank :=
  let w := SMap.get b.xovc 0 g
  let v := BitVec.ofNat 64
    (min 0xFFFFFFFF (bits w 31 0 + sat) + 2 ^ 32 * min 0xFFFF (bits w 47 32 + fb))
  { b with xovc := SMap.put b.xovc 0 g v, xclip := b.xclip ||| clip }

/-- Poisoned tile lines that a landing reads, as they stood in context `was`, raise the errors of R152. -/
def State.landLines (s : State) (i : Nat) (was : Ctx) (p : Pend) (lines : List Nat) : State :=
  let x := s.lineErrors i was lines
  forAll x.1 x.2 fun k s => s.modCtx i (·.addBev { due := p.land, issued := p.issued, kind := k, again := p.again })

/-- The parity errors of an accumulator write: those that hit it, and an armed one (R152, R307). -/
def State.parities (s : State) (i t m n : Nat) (par : List Nat) : State :=
  let x := if s.injects i 3 then let d := s.disarm.draw; (d.1 :: par, d.2) else (par, s)
  forAll x.1 x.2 fun d s => s.modCtx i (·.parity t m n d)

/-- The effect of a landing on core i; `was` is its context after the landings of earlier cycles. The OVC that a
TST.OV stores is the one before a TZERO that lands in its cycle (DESIGN CHOICE, log 105). -/
def State.applyEffect (s : State) (i : Nat) (was : Ctx) (p : Pend) : State :=
  match p.eff with
  | .none => s
  | .sreg r v => s.modCore i fun c => { c.heal 0 r with ctx := c.ctx.ws r v }
  | .vreg r mask v => s.modCore i fun c =>
      { (if mask = BitVec.allOnes 1024 then c.heal 1 r else c) with
        ctx := c.ctx.wv r ((c.ctx.rv r &&& ~~~mask) ||| (v &&& mask)) }
  | .preg r mask v =>
    let s := s.modCore i fun c =>
      { (if mask = 0xFFFFFFFF then c.heal 2 r else c) with
        ctx := c.ctx.wp r ((c.ctx.rp r &&& ~~~mask) ||| (v &&& mask)) }
    if r = 0 then s else s.traceRec i 3 p.slot (r + 16 * ((s.ctx i).rp r).toNat)
  | .csr n v => s.setCsr i n v
  | .mbox n v => s.modCtx i fun c => { c with mb := SMap.put c.mb 0 n v }
  | .tile at_ clear set => s.modCtx i (·.putTile at_ clear set)
  | .ovcClear t => s.modCtx i fun c => { c with ovc := SMap.put c.ovc 0 t 0 }
  | .ovcStore t => s.modCtx i fun c =>
      let old := SMap.get c.ovc 0 t
      let mark := fun (a : Access) => match a.act with
        | .ovc u addr _ =>
          if u = t ∧ a.due = p.land then { a with act := .ovc t addr old } else a
        | _ => a
      { c with acc := c.acc.map mark, ovc := SMap.put c.ovc 0 t 0 }
  | .ovcCount t sat => s.modCtx i (·.countOvc t sat 0)
  | .accumulate tc m n v bad par =>
    let s := s.landLines i was p (linesOf (4096 * tc) (4 * m * n))
    (s.modCtx i (·.accumulate was tc m n v bad)).parities i tc m n par
  | .softmax tc tx m scores w qs asc bad par =>
    let s := s.landLines i was p (linesOf (4096 * tc) (4 * m * w.n) ++ linesOf (4096 * tx) (8 * m))
    (s.modCtx i (·.softmax was tc tx m scores w qs asc bad)).parities i tc m w.n par
  | .drift vd a rg => s.modCore i fun c =>
      { c.heal 1 vd with ctx := c.ctx.wv vd ((s.bank i).driftWord a rg) }
  | .iinv va len => if len = 0 then s else s.modCore i (·.dropLines va (va + len))
  | .known tr differs => if differs then s.landError i p 0x1A (BitVec.ofNat 64 tr) else s
  | .xcount g sat fb clip => s.modBank i (·.count g sat fb clip)
  | .trace payload slot freeze =>
    let s := s.traceRec i 7 slot payload.toNat
    if freeze && (s.ctx i).replay.isNone then
      s.modCore i fun c => { c with trace := { c.trace with frozen := true } }
    else s

/-- What a replay logs of an effect: its value as it lands. -/
def State.logged (s : State) (i : Nat) (p : Pend) : Pend :=
  match p.eff with
  | .drift vd a rg => { p with eff := .vreg vd (BitVec.allOnes 1024) ((s.bank i).driftWord a rg) }
  | _ => p

/-- Land one result of those of a cycle on core i in cohort cycle t: log, effect, flags (R28). -/
def State.land1 (s : State) (i t : Nat) (log : Bool) (was : Ctx) (p : Pend) : State :=
  let s := if log then s.modCtx i (·.logArrival t (s.logged i p)) else s
  (s.applyEffect i was p).modCtx i (·.orFlags p.flags)

/-- Land the results of one cycle in their order, then check the shadows: accumulators and their marks are
read as they were before it (R161; the counts of one that is overwritten: DEDUCED, log 49). `log` says which
results the core's regions are to log. -/
def State.landAll (s : State) (i t : Nat) (log : Pend → Bool) (l : List Pend) : State :=
  let x := s.injectLanding i l
  let u := forAll ((x.2.1.filter (!·.shadow)).mergeSort Pend.before) x.1 fun p u =>
    u.land1 i t (log p) (s.ctx i) p
  forAll x.2.2 u fun (e : Pend × Pend) u => u.shadowCheck i e

/-! ## What is due (R74, R292, R303) -/

/-- The cohort of core i stands in a cohort cycle: running, and not held when the cycle began. -/
def State.runs (s : State) (i : Nat) : Bool :=
  match (s.cohOf i).bind s.coh? with
  | some c => c.st == .running && c.turn
  | none => false

/-- A handler's bundles issue or their results are still to land. -/
def Ctx.handling (c : Ctx) : Option Handler :=
  match c.handler with
  | some h => if h.resuming then none else some h
  | none => none

/-- Results of core i that land now. A wall cycle's landings precede its fetch: where a miss before cohort cycle c
begins a hold, the results due at c land in the first held wall cycle (DESIGN CHOICE, log 101). -/
def State.dueResults (s : State) (i : Nat) : List Pend :=
  let c := s.ctx i
  match c.replay, c.handling with
  | some r, _ => if r.startWall ≤ s.now then c.flight.filter (·.land ≤ r.cyc) else []
  | none, some h => h.flight.filter (·.land ≤ s.now)
  | none, none => if s.runs i then c.flight.filter (·.land ≤ s.ccycOf i) else []

/-- Take core i's due results out of its pipelines. -/
def Ctx.takeDue (c : Ctx) (l : List Pend) : Ctx :=
  let keep := fun (f : List Pend) => f.filter (!l.contains ·)
  match c.replay, c.handling with
  | none, some h => { c with handler := some { h with flight := keep h.flight } }
  | _, _ => { c with flight := keep c.flight }

/-- Logged arrivals and deliveries that a replay applies in cycle t. -/
def replayPart (t : Nat) (l : List PEntry) : List PEntry × List PEntry :=
  l.partition fun e => match e with
    | .arrival a _ => a ≤ t
    | .delivery a .. => a ≤ t
    | .barrier a _ => a < t
    | _ => true

/-- Logged bytes enter the scratchpad in a replay: a timed write's units get undo entries of a region that
the replay has opened again (R300). -/
def State.deliver (s : State) (i : Nat) (b : List (Nat × Byte)) (port : Option Nat) : State :=
  s.modCore i fun c =>
    (match port with
     | some t => c.logUndo t (b.map fun (e : Nat × Byte) => e.1 / 32).eraseDups
     | none => c).put b

/-- RESULT_LANDING: everything of core i that is due. In a replay the logged arrivals land with the
results that were issued again, which a region that the replay has opened again logs where they were issued
before it (R301). -/
def State.landSite (s : State) (i : Nat) : State :=
  let l := s.dueResults i
  let s := s.modCtx i (·.takeDue l)
  match (s.ctx i).replay with
  | some r =>
    let p := replayPart r.cyc r.log
    let s := s.modCtx i fun c => { c with replay := some { r with log := p.2 } }
    let arr := p.1.filterMap fun e => match e with
      | .arrival _ x => some x
      | _ => none
    let s := s.landAll i r.cyc (!arr.contains ·) (l ++ arr)
    forAll p.1 s fun e s => match e with
      | .delivery _ b port _ => s.deliver i b port
      | _ => s
  | none =>
    match (s.ctx i).handling with
    | some h =>
      let s := forAll l s fun x s => s.modCtx i fun c => c.log h.cyc (.arrival h.cyc { x with again := false })
      s.landAll i h.cyc (fun _ => false) l
    | none => s.landAll i (s.ccycOf i) (fun _ => true) l

/-- Something of core i is to be landed now. -/
def State.landsNow (s : State) (i : Nat) : Bool :=
  !(s.dueResults i).isEmpty ||
    (match (s.ctx i).replay with
     | some r => r.startWall ≤ s.now && !(replayPart r.cyc r.log).1.isEmpty
     | none => false)

def execResultLanding (site : Nat) (s : State) : Out :=
  .next (if s.landsNow site then s.landSite site else s)

end Sys2Proof.Machine
end

