-- ==== Sys2Proof/Machine/Ports.lean ====
section
/-! DEFINITION. The scratchpad ports of a wall cycle: which timed accesses are served, merging,
collisions, gather windows, BLOCK locks (R135 to R140, R143). -/

namespace Sys2Proof.Machine

/-! ## Which accesses are served -/

/-- The cohort of core i issues in this wall cycle. -/
def State.advancing (s : State) (i : Nat) : Bool :=
  match (s.cohOf i).bind s.coh? with
  | some c => c.adv
  | none => false

/-- The time in which core i's ports work now; true: a handler's, in wall cycles (R136, R293). In the wall
cycle in which a slot traps they still work for the slots that have committed. -/
def State.portClock (s : State) (i : Nat) : Option (Bool × Nat) :=
  let c := s.ctx i
  match c.replay with
  | some r => if r.startWall ≤ s.now then some (false, r.cyc) else none
  | none =>
    if s.advancing i then some (false, s.ccycOf i)
    else
      match c.handler with
      | some h =>
        if h.resuming || h.issuedAt && h.entered == s.now then some (false, h.cyc) else some (true, s.now)
      | none => none

/-- The access list of the context's own time, or of its handler's. -/
def Ctx.accOf (c : Ctx) (inH : Bool) : List Access :=
  if inH then
    match c.handler with
    | some h => h.acc
    | none => []
  else c.acc

def Ctx.setAcc (c : Ctx) (inH : Bool) (l : List Access) : Ctx :=
  if inH then { c with handler := c.handler.map fun h => { h with acc := l } }
  else { c with acc := l }

def Ctx.putFlight (c : Ctx) (inH : Bool) (l : List Pend) : Ctx :=
  if inH then { c with handler := c.handler.map fun h => { h with flight := h.flight ++ l } }
  else { c with flight := c.flight ++ l }

def Ctx.putBev (c : Ctx) (inH : Bool) (e : BEvent) : Ctx :=
  if inH then { c with handler := c.handler.map fun h => { h with bev := h.bev ++ [e] } }
  else { c with bev := c.bev ++ [e] }

/-- The access uses its banks in cycle t: its port cycle, or a cycle of its gather window. -/
def Access.activeAt (a : Access) (t : Nat) : Bool :=
  a.due ≤ t || (match a.window with
    | some w => w ≤ t
    | none => false)

/-- Banks that collide among the active accesses of one cycle (R138, R143); `served`: units that accesses
of the same port cycle have used before. -/
def colliding (served : List Nat) (l : List Access) : List Nat :=
  let l := l.filter fun a => !a.units.isEmpty
  if l.all (·.window.isNone) then
    if l.isEmpty then [] else crowded 1 (served ++ (l.map (·.units)).flatten)
  else
    let two := decide (1 < (l.filter (·.window.isSome)).length)
    let hit := l.filter fun a => a.window.isNone || two
    ((served ++ (hit.map (·.units)).flatten).map bankOfUnit).eraseDups

/-! ## Serving (R137) -/

/-- n bytes at addr as a port delivers them: zero from a colliding bank. -/
def portRead (spad : List Host.Cell) (coll : List Nat) (addr n : Nat) : List Byte :=
  (memBytes spad addr n).zipIdx.map fun e =>
    if coll.contains (bankOfUnit ((addr + e.2) / 32)) then 0 else e.1

/-- The bytes of a write whose banks do not collide. -/
def portWrite (coll : List Nat) (b : List (Nat × Byte)) : List (Nat × Byte) :=
  b.filter fun e => !coll.contains (bankOfUnit (e.1 / 32))

/-- A result that an access leaves to land. -/
def Access.result (a : Access) (land : Nat) (flags : NFlags) (shadow : Bool) (eff : Effect) : Pend :=
  { land := land, seq := a.key, slot := a.key % 8, issued := a.issued, again := a.again,
    flags := flags, shadow := shadow, eff := eff }

/-- The lanes, as predicate bits, of a lane mask. -/
def laneBits (m : VWord) : Half :=
  BitVec.ofNat 32 ((List.range 32).foldl (fun a i => if bitAt m (32 * i) then a + 2 ^ i else a) 0)

/-- The results of a read served with the start-of-cycle contents. -/
def Access.reads (a : Access) (spad : List Host.Cell) (coll : List Nat) : List Pend :=
  let coll := coll ++ a.lost
  let rd := fun x n => ofBytes (portRead spad coll x n)
  match a.act with
  | .toS r x n u land =>
    let v := rd x n
    [a.result land fNone false
      (.sreg r (if u then BitVec.ofNat 64 v else BitVec.ofInt 64 (sval (8 * n) v)))]
  | .toV r lanes _ land shadow =>
    let v := lanes.foldl (fun y (e : Nat × Nat) => y + rd e.2 4 * 2 ^ (32 * e.1)) 0
    let m := BitVec.ofNat 32 (lanes.foldl (fun y (e : Nat × Nat) => y + 2 ^ e.1) 0)
    [a.result land fNone shadow (.vreg r (laneMask m) (BitVec.ofNat 1024 v))]
  | .toTile t x land =>
    [a.result land fNone false (.tile [(4096 * t, portRead spad coll x 4096)] (tileLines t) [])]
  | .table r x src mask ty mode ftz land shadow =>
    let tab := portRead spad coll x 2064
    let v := tintValue ty mode ftz (fun o => ofBytes ((tab.drop o).take 4)) (laneBits mask) src
    [a.result land v.2 shadow (.vreg r mask v.1)]
  | _ => []

/-- Cycle from which an erring read is taken: its landing (R135), which for a fabric transfer is the
cycle after its data is written (R75); an MWR, which lands nothing, the cycle after its port cycle
(DEDUCED, log 64). -/
def Access.errAt (a : Access) : Nat :=
  match a.act with
  | .toS _ _ _ _ land => land
  | .toV _ _ _ land _ => land
  | .toTile _ _ land => land
  | .table _ _ _ _ _ _ _ land _ => land
  | .fallback _ _ _ _ _ _ _ land => land
  | .push _ _ _ _ due _ => due + 1
  | .pull _ _ _ _ due => due + 1
  | _ => a.due + 1

/-- The 64-bit words that an access reads in its port cycle; a fallback's error is of another source. -/
def Access.words (a : Access) : List Nat :=
  match a.act with
  | .toS _ x n _ _ => wordsOf x n
  | .toV _ _ w _ _ => w
  | .toTile _ x _ => wordsOf x 4096
  | .table _ x .. => wordsOf x 2064
  | .push x n .. | .pull x n .. => wordsOf x n
  | .toDram x .. => wordsOf x 32
  | .write .. | .ovc .. | .fallback .. => []

/-- Place of a write in the order of R137; of two PUSHes of one sender the one from the higher slot is kept
(DEDUCED, log 103). -/
def Access.before (a b : Access) : Bool :=
  a.cls < b.cls || (a.cls == b.cls && a.key ≤ b.key)

/-- Bytes that a write stores; a shadow stores none (R142). -/
def Access.stores (a : Access) (c : Ctx) : List (Nat × Byte) :=
  match a.act with
  | .write b none => b
  | .ovc t x old =>
    let w := SMap.get c.ovc 0 t
    placed x (bytesOf 8 (ovcAdd old (bits w 31 0) (bits w 47 32)).toNat ++ List.replicate 24 0)
  | _ => []

/-- Bytes enter the scratchpad beside the port cycle that a trapped bundle shares with its rest: that
port cycle's rest finds them (R136). -/
def Ctx.overwrite (c : Ctx) (b : List (Nat × Byte)) : Ctx :=
  { c with handler := c.handler.map fun h => { h with was := h.was.filter fun e => !b.any (·.1 == e.1) } }

/-- A store that replaces bytes of a logged write of its port cycle t: a replay applies the logged write
after the store, with the bytes that the store left (R137, R301). -/
def PEntry.replaced (t : Nat) (b : List (Nat × Byte)) (e : PEntry) : PEntry :=
  match e with
  | .delivery a l (some u) g =>
    if u = t then .delivery a (l.map fun x => (x.1, ((b.find? (·.1 == x.1)).map (·.2)).getD x.2)) (some u) g else e
  | _ => e

/-- Store bytes of access a in port cycle t: undo entries first; what a replay from the innermost region does
not store again is logged (R300, R301). -/
def State.portStore (s : State) (i t : Nat) (inH : Bool) (a : Access) (b : List (Nat × Byte)) : State :=
  let at_ := if inH then s.cycOf i else t
  s.modCore i fun c =>
    let c := (c.logUndo at_ (b.map fun e => e.1 / 32).eraseDups).put b
    let x := if inH then c.ctx.overwrite b else c.ctx
    { c with ctx :=
        if b.isEmpty then x
        else if !inH && a.again && x.reissues t a.issued then
          { x with regions := x.regions.map fun r => { r with entries := r.entries.map (·.replaced t b) } }
        else x.log at_ (.delivery (if inH then at_ else t + 1) b (some at_)
          (if !inH && a.again then some a.issued else none)) }

/-- A shadowed store's compare: an injected mismatch makes lane 0 of the stored data faulty in open bits
(R133, R142, R307; DEDUCED, log 62). -/
def State.shadowStoreCheck (s : State) (i t : Nat) (inH : Bool) (a : Access) : State :=
  match a.act with
  | .write b (some r) =>
    if s.injects i 1 then
      let n := s.disarm.draw
      let bad := bytesOf 4 (Config.errorBits n.1).toNat
      let s := n.2.modCore i fun c =>
        { c with spad := memPuts c.spad (b.zipIdx.map fun e =>
            (e.1.1, memGet c.spad e.1.1 ^^^ bad.getD e.2 0)) }
      s.modCtx i (·.putBev inH
        { due := t + 1, issued := a.issued, kind := .regionError 0x19 (BitVec.ofNat 64 r), again := a.again })
    else s
  | _ => s

/-- What a served read sends to another core, or to a pseudo-channel. The data of every PULL is written in the
second class of R137, by its order of issue (DEDUCED, log 82). -/
def State.portSend (s : State) (i : Nat) (spad : List Host.Cell) (coll : List Nat) (a : Access) : State :=
  let coll := coll ++ a.lost
  match a.act with
  | .push x n peer dst due member =>
    s.place peer
      { due := due, cls := if peer = i then 2 else 1, key := if peer = i then a.key else member,
        issued := a.issued, again := false, window := none, units := unitsOf dst n, lost := [],
        act := .write (placed dst (portRead spad coll x n)) none }
  | .pull x n issuer dst due =>
    s.place issuer
      { due := due, cls := 2, key := a.key, issued := a.issued, again := false, window := none,
        units := unitsOf dst n, lost := [], act := .write (placed dst (portRead spad coll x n)) none }
  | .toDram x pch cmd =>
    s.modPch pch fun p =>
      { p with path := p.path.map fun k =>
          if k.id = cmd then { k with data := portRead spad coll x 32 } else k }
  | _ => s

/-- An erring read is charged to the core that issued it. -/
def State.portError (s : State) (i : Nat) (inH : Bool) (a : Access) : State :=
  if a.words.any (s.core i).badWord.contains then
    let who := match a.act with
      | .pull _ _ issuer _ _ => issuer
      | _ => i
    s.modCtx who (·.putBev inH { due := a.errAt, issued := a.issued, kind := .regionError 0x18 5, again := a.again })
  else s

/-- The digital fallback of an XMV: it reads the copy and lands at the XMV's cycle (R175). -/
def State.portFallback (s : State) (i : Nat) (a : Access) : State :=
  match a.act with
  | .fallback x grp vd sx cols v top land =>
    let n := v.length * cols
    let r := fallbackOut cols v (memBytes (s.core i).spad x n)
    let vec := (List.range (cols / 32)).map fun k =>
      a.result land fNone false (.vreg (vd + k) (BitVec.allOnes 1024)
        (packElems 32 (((r.1.drop (32 * k)).take 32).map (wrapTo 32))))
    let l := vec ++ [a.result land fNone false (.sreg sx (BitVec.ofNat 64 top)),
      a.result land fNone false (.xcount grp r.2 1 0)]
    let s := s.modCtx i (·.putFlight false l)
    if (wordsOf x n).any (s.core i).badWord.contains then
      s.modCtx i (·.putBev false
        { due := a.due + 1, issued := a.issued, kind := .regionError 0x18 8, again := false })
    else s
  | _ => s

/-- Shadows of the loads just served check the delivered data (R142). -/
def Ctx.fillShadows (c : Ctx) (l : List Pend) : Ctx :=
  let fill := fun (p : Pend) => match l.find? (·.pairs p) with
    | some q => { p with eff := q.eff }
    | none => p
  { c with flight := c.flight.map fill
           handler := c.handler.map fun h => { h with flight := h.flight.map fill } }

/-- The trapped bundle's handler that shares the port cycle of its committed slots with its rest. -/
def Ctx.sharing (c : Ctx) (inH : Bool) : Option Handler := if inH then none else c.handler

/-- Keep, for the rest of a trapped bundle, what its committed slots did in their port cycle: the units
they used and the bytes that writes replaced (R136, R138, R288). -/
def Ctx.keepCycle (c : Ctx) (inH : Bool) (old : List Host.Cell) (now : List Access) (b : List (Nat × Byte)) : Ctx :=
  if inH then c
  else
    { c with handler := c.handler.map fun h =>
        { h with served := h.served ++ (now.map (·.units)).flatten
                 was := h.was ++ ((b.map (·.1)).eraseDups.filter fun a => !h.was.any (·.1 == a)).map
                   fun a => (a, memGet old a) } }

/-- An access takes note of the banks that a collision took from its window. -/
def Access.lose (a : Access) (t : Nat) (coll : List Nat) : Access :=
  if a.activeAt t then { a with lost := a.lost ++ coll } else a

/-- Serve core i's timed accesses of this wall cycle: reads, then writes in order, then shadow checks
and fallbacks. A collision in any cycle of a gather window takes the banks from its access (R138, R143).
The rest of a trapped bundle shares the port cycle of the slots that had committed, whose own accesses, once
served, stand (DEDUCED, log 65). -/
def State.servePorts (s : State) (i : Nat) : State :=
  match s.portClock i with
  | none => s
  | some (inH, t) =>
    let c := s.ctx i
    let all := c.accOf inH
    let now := all.filter fun a => a.due ≤ t
    let coll := colliding (((c.sharing inH).map (·.served)).getD []) (all.filter fun a => a.activeAt t)
    if now.isEmpty && coll.isEmpty then s
    else
      let spad := memPuts (s.core i).spad (((c.sharing inH).map (·.was)).getD [])
      let s := s.modCtx i (·.setAcc inH ((all.filter fun a => !(a.due ≤ t)).map (·.lose t coll)))
      let s := forAll now s fun a s => (s.portError i inH a).portSend i spad coll a
      let r := (now.map fun a => a.reads spad coll).flatten
      let s := s.modCtx i fun c => (c.putFlight inH r).fillShadows r
      let stores := fun (s : State) (a : Access) => portWrite (coll ++ a.lost) (a.stores (s.ctx i))
      let kept := (now.map (stores s)).flatten
      let s := forAll (now.mergeSort Access.before) s fun a s => s.portStore i t inH a (stores s a)
      let s := forAll now s fun a s => (s.shadowStoreCheck i t inH a).portFallback i a
      let s := s.modCtx i (·.keepCycle inH spad now kept)
      if coll.isEmpty then s
      else
        let b := s.pick coll 0
        b.2.modCtx i (·.putBev inH
          { due := t + 1, issued := t, kind := .collision (BitVec.ofNat 64 (b.1 + 256 * t)) })

/-! ## The untimed port (R139, R140) -/

/-- A BLOCK lock is in force: it counts cohort cycles, and is lifted in a hold (R140). -/
def State.locked (s : State) (i b : Nat) : Bool :=
  s.advancing i && (s.core i).locks.any fun l =>
    l.banks.contains b && l.from_ ≤ s.ccycOf i && s.ccycOf i ≤ l.to_

/-- The bank serves the untimed port in this wall cycle. -/
def State.bankFree (s : State) (i b : Nat) : Bool :=
  let timed := match s.portClock i with
    | none => false
    | some (inH, t) => ((s.ctx i).accOf inH).any fun a =>
        a.activeAt t && (a.window.isSome || (a.units.map bankOfUnit).contains b)
  !timed && !s.locked i b && !(s.core i).portBusy.contains b

/-- Locks of core i that have run out. -/
def State.lockDue (s : State) (i : Nat) : Bool := (s.core i).locks.any fun l => l.to_ < s.ccycOf i

/-- BLOCK_LOCK_EXPIRE. -/
def execBlockLockExpire (site : Nat) (s : State) : Out :=
  .next (s.modCore site fun c => { c with locks := c.locks.filter fun l => s.ccycOf site ≤ l.to_ })

end Sys2Proof.Machine
end

