-- ==== Sys2Proof/Machine/Sources.lean ====
section
/-! DEFINITION. What each operation reads: its guard, the scalar source that the broadcast port
carries, and the registers whose uncorrectable errors it meets (R43, R49, R286, R307). -/

namespace Sys2Proof.Machine

/-- A first scalar source that BS replaces by the broadcast port (R49), with the other ones. -/
def unlessB (bs : Bool) (r : BitVec 6) (l : List (BitVec 6)) : List (BitVec 6) :=
  if bs then l else r :: l

/-- The guard of an operation (R43). -/
def guardOf (i : Instr) : Option Guard :=
  match i with
  | .nop g | .halt g | .trap g _ | .rft g | .li g _ _ | .pmovPP g _ _ | .pmovPS g _ _
  | .pmovSP g _ _ | .br g _ | .brl g _ _ | .ret g _ | .jmp g _ _ | .loop g _ _ _ | .loopm g _ _ _
  | .waits g _ | .waitx g _ _ | .cycW g _ | .cycC g _ _ | .csrr g _ _ | .csrw g _ _ | .mbr g _ _
  | .mbw g _ _ | .rfail g | .fence g _ | .iinv g _ _ | .isync g | .twl g _ | .twlMx g _ _
  | .tmma g _ _ _ | .tmmaMx g _ _ _ _ | .katt g _ _ _ | .kattMx g _ _ _ _ | .tmmaSmx g _ _ _ _ _
  | .tsmxInit g _ | .tsmxNorm g _ _ _ | .tzero g _ | .tmov g _ _ | .ttrn g _ _ | .xswap g _
  | .xstat g _ _ | .xstatA g _ _ => some g
  | .add _ o | .sub _ o | .addi _ o | .mul _ o | .mulh o | .mulhu o | .div o | .divu o | .rem o
  | .remu o | .and o | .or o | .xor o | .andi o | .ori o | .xori o | .shl o | .shr o | .sra o
  | .shli o | .shri o | .srai o | .min o | .max o | .minu o | .maxu o | .clz o | .popc o | .mov o
  | .sel _ o | .cmp o | .cmpi o | .pand o | .por o | .pxor o | .pandn o | .lds o _ | .sts o
  | .vadd o | .vsub o | .vmul o | .vmulh o _ | .vfma o | .vfms o | .vfnma o | .vmac o | .vmin o
  | .vmax o | .vminu o | .vmaxu o | .vabs o | .vneg o | .vand o | .vor o | .vxor o | .vandn o
  | .vshl o | .vshlImm o _ | .vshr o | .vshrImm o _ | .vsra o | .vsraImm o _ | .vcmp o _
  | .vcmpP o _ | .vsel o _ | .vmov o | .vbc o _ | .vbcImm o _ | .vcvt o _ _ | .vred o _
  | .vperm o | .vrot o _ | .vslideDn o _ | .vslideUp o _ | .vtint o | .vrcp o | .vrsq o
  | .vexp2 o | .vlog2 o | .vscl o | .vmxq o _ | .vbfpq o _ _ | .vdqg o _ _ _ _ | .vld o | .vst o
  | .vlds o | .vgth o | .vsct o | .tld o | .tst o | .tstOV o | .xmv o | .xprogSet o _ _ _
  | .xprogRst o _ _ _ | .xerase o | .xeraseAll o | .xread o _ _ | .xreadE o _ _ _ _ | .xremap o _
  | .xdrift o _ | .xcalO o _ | .xcalG o _ | .xcalGC o _ _ | .xwear o _ | .mact o | .mpre o
  | .mprea o | .mrd o _ | .mrda o _ | .mwr o _ | .mwra o _ | .mref o | .mrefp o | .mrcp o _
  | .mrcbLd o _ | .mrcbSt o _ | .mrcbInv o _ | .mzro o | .push o _ _ _ | .pull o _ _ _
  | .layout o _ | .xfrG o _ _ _ _ | .xfrP o _ _ _ _ | .istage o _ | .atomAdd o _ _
  | .atomSwap o _ _ | .atomCas o _ _ _ | .atomAnd o _ _ | .atomOr o _ _ | .atomXor o _ _
  | .atomMin o _ _ | .atomMax o _ _ | .atomMinu o _ _ | .atomMaxu o _ _ | .atomFadd o _ _
  | .atomLd o _ | .redAdd o _ | .redSt o _ | .redAnd o _ | .redOr o _ | .redXor o _ | .redMin o _
  | .redMax o _ | .redMinu o _ | .redMaxu o _ | .redFadd o _ | .trc o _ | .trcFrz o _ => some o.g
  | _ => none

/-- The first scalar source of an SC operation, which the broadcast port carries (R49, R84 to R87,
R102, R141, R248). -/
def bSource (i : Instr) : Option (BitVec 6) :=
  match i with
  | .add _ o | .sub _ o | .addi _ o | .mul _ o | .mulh o | .mulhu o | .div o | .divu o | .rem o
  | .remu o | .and o | .or o | .xor o | .andi o | .ori o | .xori o | .shl o | .shr o | .sra o
  | .shli o | .shri o | .srai o | .min o | .max o | .minu o | .maxu o | .clz o | .popc o | .mov o
  | .sel _ o | .cmp o | .cmpi o | .lds o _ | .sts o => some o.sa
  | .ret _ sa | .jmp _ sa _ | .waits _ sa | .waitx _ _ sa | .csrw _ sa _ | .mbw _ sa _
  | .iinv _ sa _ => some sa
  | .pmovPS _ _ src => some src
  | _ => none

/-- Vector register fields that an operation reads; XMV reads a run of registers. -/
def vFields (i : Instr) : List (BitVec 10) :=
  match i with
  | .vadd o | .vsub o | .vmul o | .vmulh o _ | .vmin o | .vmax o | .vminu o | .vmaxu o | .vand o
  | .vor o | .vxor o | .vandn o | .vshl o | .vshr o | .vsra o | .vcmp o _ | .vcmpP o _
  | .vsel o _ | .vperm o | .vslideDn o _ | .vslideUp o _ | .vscl o | .vdqg o _ _ _ _ =>
    [o.va, o.vb]
  | .vabs o | .vneg o | .vshlImm o _ | .vshrImm o _ | .vsraImm o _ | .vmov o | .vbc o _
  | .vcvt o _ _ | .vred o _ | .vrot o _ | .vtint o | .vrcp o | .vrsq o | .vexp2 o | .vlog2 o
  | .vmxq o _ | .vbfpq o _ _ => [o.va]
  | .vfma o | .vfms o | .vfnma o | .vmac o => [o.va, o.vb, o.vd]
  | .vst o => [o.vd]
  | .vsct o => [o.vd, o.vx]
  | .vgth o => [o.vx]
  | .xprogSet _ vm _ _ | .xprogRst _ vm _ _ => [vm]
  | .xreadE _ _ ve _ _ => [ve]
  | .xcalO _ vs | .xcalG _ vs | .xcalGC _ vs _ => [vs]
  | _ => []

/-- Scalar register fields that an operation reads. -/
def sFields (i : Instr) : List (BitVec 6) :=
  match i with
  | .add _ o | .sub _ o | .mul _ o | .mulh o | .mulhu o | .div o | .divu o | .rem o | .remu o
  | .and o | .or o | .xor o | .shl o | .shr o | .sra o | .min o | .max o | .minu o | .maxu o
  | .sel _ o | .cmp o => [o.sa, o.sb]
  | .addi _ o | .andi o | .ori o | .xori o | .shli o | .shri o | .srai o | .clz o | .popc o
  | .mov o | .cmpi o | .lds o _ | .vld o | .vst o | .vlds o | .vgth o | .vsct o => [o.sa]
  | .sts o => [o.sa, o.sr]
  | .tld o | .tst o | .tstOV o | .xprogSet o _ _ _ | .xprogRst o _ _ _ | .xerase o | .xeraseAll o
  | .xread o _ _ | .xreadE o _ _ _ _ | .xremap o _ | .xdrift o _ | .xcalO o _ | .xcalG o _
  | .xcalGC o _ _ | .xwear o _ | .mact o | .mpre o | .mprea o | .mref o | .mrefp o | .mrcbLd o _
  | .mrcbSt o _ | .mrcbInv o _ | .mzro o | .layout o _ | .istage o _ | .atomLd o _ | .trc o _
  | .trcFrz o _ => unlessB o.bs o.sa []
  | .xmv o => unlessB o.bs o.sf []
  | .mrd o sb | .mrda o sb | .mwr o sb | .mwra o sb | .mrcp o sb | .atomAdd o sb _
  | .atomSwap o sb _ | .atomAnd o sb _ | .atomOr o sb _ | .atomXor o sb _ | .atomMin o sb _
  | .atomMax o sb _ | .atomMinu o sb _ | .atomMaxu o sb _ | .atomFadd o sb _ | .redAdd o sb
  | .redSt o sb | .redAnd o sb | .redOr o sb | .redXor o sb | .redMin o sb | .redMax o sb
  | .redMinu o sb | .redMaxu o sb | .redFadd o sb => unlessB o.bs o.sa [sb]
  | .push o sr _ _ | .pull o sr _ _ => unlessB o.bs o.sa [sr]
  | .xfrG o sv _ _ st | .xfrP o sv _ _ st => unlessB o.bs o.sa [sv, st]
  | .atomCas o sb sc _ => unlessB o.bs o.sa [sb, sc]
  | .ret _ sa | .jmp _ sa _ | .waits _ sa | .waitx _ _ sa | .csrw _ sa _ | .mbw _ sa _ => [sa]
  | .iinv _ sa sb => [sa, sb]
  | .pmovPS _ _ src => [src]
  | _ => []

/-- Predicate registers that an operation reads beside its guard. -/
def pFields (i : Instr) : List Nat :=
  match i with
  | .pand o | .por o | .pxor o | .pandn o => [o.pa.toNat, o.pb.toNat]
  | .pmovPP _ _ src | .pmovSP _ _ src => [src.toNat]
  | .sel pc _ => [pc.toNat]
  | .vsel _ ps => [ps.toNat]
  | _ => []

/-- The registers of a file that an RPRES copies, and so reads (R286, R302; DEDUCED, log 93). -/
def State.copied (s : State) (file : Nat) (i : Instr) : List Nat :=
  match i with
  | .rpres k first cnt => if k.toNat = file then s.cx.toPreserve file first.toNat cnt.toNat else []
  | _ => []

/-- Vector registers that an operation reads: the activations of an XMV, those that an RPRES copies, and the
fields that do not select B (R49, R168). -/
def State.vReads (s : State) (i : Instr) : List Nat :=
  match i with
  | .rpres .. => s.copied 1 i
  | .xmv o =>
    let n := o.nm.toNat + 1
    let nr := grpRows (s.myBank.grp o.grp.toNat) / (32 * (1024 / bfpWidth n))
    (List.range (nr + 1)).map (o.va.toNat + ·)
  | i => ((vFields i).filter fun r => r.toNat < 640).map (·.toNat)

/-- The guard lets an operation act: bit 0, or any lane of a vector operation; a VRED acts with no active
lane too (R43, R113, R123). -/
def State.acts (s : State) (vector : Bool) (i : Instr) : Bool :=
  match i, guardOf i with
  | _, none => true
  | .vred .., some g => g != 0b10000
  | _, some g => if vector then s.cx.mask g != 0 else s.guarded g

/-- The first marked register of a list of one file. -/
def Core.marked (c : Core) (file : Nat) (l : List Nat) : Bool :=
  l.any fun r => c.badReg.contains (file, r)

/-- Source code of the uncorrectable error that an operation meets, 0 for none: 1 S, 2 V, 3 P
(R286). What B carries is read even when the guard of the SC operation is false (R49). -/
def State.readError (s : State) (vector : Bool) (i : Instr) : Nat :=
  let c := s.core s.cur.site
  let g := match guardOf i with
    | some g => [g.toNat % 16]
    | none => []
  if c.marked 2 g then 3
  else if c.marked 0 ((bSource i).toList.map (·.toNat)) then 1
  else if !s.acts vector i then 0
  else if c.marked 0 ((sFields i).map (·.toNat) ++ s.copied 0 i) then 1
  else if c.marked 1 (s.vReads i) || (s.injectsRead s.cur.site && !(s.vReads i).isEmpty) then 2
  else if c.marked 2 (pFields i ++ s.copied 2 i) then 3
  else 0

end Sys2Proof.Machine
end

