-- ==== Sys2Proof/Machine/Fetch.lean ====
section
/-! DEFINITION. Fetch and decode of a bundle from the instruction store (R44 to R46, R50 to R57,
R246, R332). -/

namespace Sys2Proof.Machine

/-! ## Fetch (R57, R246) -/

/-- What fetching a bundle finds first: a line that is not there, is being staged, failed or is in
error; else its syllables and the address after it; `endless`: no stop bit within 12. -/
inductive Fetched where
  | missing (line : Nat)
  | staging (line : Nat)
  | failed (line : Nat)
  | bad (line : Nat)
  | endless
  | bundle (l : List Syl) (next : BitVec 54)
  deriving DecidableEq, Repr

/-- The header or high word at an address. -/
def fetchWord (m : SMap ILine) (a : BitVec 54) : Except Fetched Nat :=
  let line := a.toNat / 64 * 64
  match SMap.get? m (slotOfLine line) with
  | none => .error (.missing line)
  | some l =>
    if l.tag ≠ tagOfLine line then .error (.missing line)
    else
      match l.st with
      | .staging => .error (.staging line)
      | .failed => .error (.failed line)
      | .valid =>
        if l.bad then .error (.bad line)
        else .ok (l.data.toNat / 2 ^ (8 * (a.toNat % 64)) % 2 ^ 32)

/-- Up to n syllables from an address; addresses count modulo 2^54 (DESIGN CHOICE, log 52). -/
def fetchFrom (m : SMap ILine) : Nat → BitVec 54 → List Syl → Fetched
  | 0, _, _ => .endless
  | n + 1, a, l =>
    match fetchWord m a with
    | .error e => e
    | .ok h =>
      if wideOf h then
        match fetchWord m (a + 4) with
        | .error e => e
        | .ok g =>
          let x : Syl := { wide := true, w := h + g * 2 ^ 32 }
          if stopOf h then .bundle (l ++ [x]) (a + 8) else fetchFrom m n (a + 8) (l ++ [x])
      else
        let x : Syl := { wide := false, w := h }
        if stopOf h then .bundle (l ++ [x]) (a + 4) else fetchFrom m n (a + 4) (l ++ [x])

/-- The bundle that core i is about to issue. A repeat is an issued bundle too: it needs its lines, as the miss
between the repeats of R323 does (R51, R57; DEDUCED, log 51). -/
def Core.fetch (c : Core) : Fetched := fetchFrom c.istore 12 c.ctx.pc []

/-! ## The template (R50, R51) -/

/-- Header word of a syllable. -/
def sylHeader (x : Syl) : Half := BitVec.ofNat 32 x.w

/-- What a slot position performs in repeat j: its syllable, or its latch. -/
inductive SlotOp where
  | syllable (x : Syl)
  | latched (x : Latch)
  deriving DecidableEq, Repr

def Ctx.slotOp (c : Ctx) (l : List Syl) (k : Nat) : Option SlotOp :=
  let stk := (tmplOf l).2 k
  match slotSyl l k with
  | some x => if c.rpos = 0 || !stk then some (.syllable x)
              else (SMap.get? c.latch k).map .latched
  | none => if stk then (SMap.get? c.latch k).map .latched else none

/-- A slot position is re-issued and its latch is empty. -/
def Ctx.emptyLatch (c : Ctx) (l : List Syl) (k : Nat) : Bool :=
  (tmplOf l).2 k && !((slotSyl l k).isSome && c.rpos == 0) && (SMap.get? c.latch k).isNone

/-- The bits of a vector slot as it executes, with its extension (R132). -/
def SlotOp.key (x : SlotOp) (e : Option Half) : Nat × Option Half :=
  match x with
  | .syllable y => (y.w, e)
  | .latched y => (((encode false false y.op).map (·.w)).getD 0, y.ext)

/-- Header word of the pair that fails in a sticky re-issue: VA's, else VB's. -/
def Ctx.badPair (c : Ctx) (l : List Syl) : Option Half :=
  let f := fun k => (c.slotOp l k).map fun x => x.key (extOf (ximms l) k)
  let sticky := fun k => match c.slotOp l k with
    | some (.latched _) => true
    | _ => false
  if (sticky 2 || sticky 3) && !shadowOk (f 2) (f 3) then
    let head := fun k => (c.slotOp l k).map fun x => match x with
      | .syllable y => sylHeader y
      | .latched y => y.raw
    some ((head 2).getD ((head 3).getD 0))
  else none

/-! ## Decode faults (R332) -/

/-- First TM or PF syllable that is not an instruction. -/
def badPrefix (l : List Syl) : Option Half :=
  ((l.filter fun x => x.cls ≤ 1).find? fun x => match decodeSyl x.wide x.w with
    | .ok _ => false
    | .error _ => true).map sylHeader

/-- SC syllable that a repeat count bars. -/
def badRepeat (l : List Syl) : Option Half :=
  match slotSyl l 1 with
  | some x => if (tmplOf l).1 ≠ 0 && controlOp x.op then some (sylHeader x) else none
  | none => none

/-- Header word of the bundle's TM syllable. -/
def tmHeader (l : List Syl) : Half :=
  match l.find? (fun x => x.cls == 0) with
  | some x => sylHeader x
  | none => 0

/-- The loop-bound case: END of the innermost loop (R90). -/
def Ctx.loopBound (c : Ctx) (next : BitVec 54) : Option (BitVec 54) :=
  match c.stack with
  | [] => none
  | n :: _ =>
    let e := (c.loop n).fin
    if c.pc < e && e < next then some e else none

/-- Items 2 to 6: cause and TVAL of the first that applies. The loop of R51 tests every sticky slot whatever
SRES is, also where a handler wrote SRES above an empty one (R53; DEDUCED, log 89). -/
def Ctx.decodeFault (c : Ctx) (l : List Syl) (next : BitVec 54) : Option (Nat × Word) :=
  let illegal := fun (h : Option Half) => h.map fun w => (2, (w.zeroExtend 64 : Word))
  if !bundleLegal l then some (3, 0)
  else
    match c.loopBound next with
    | some e => some (5, e.zeroExtend 64)
    | none =>
      match badPrefix l, badRepeat l with
      | some w, _ => illegal (some w)
      | none, some w => illegal (some w)
      | none, none =>
        if [1, 2, 3, 4, 5, 6].any (c.emptyLatch l) then illegal (some (tmHeader l))
        else illegal (c.badPair l)

/-- The trap that core i's next bundle takes before any slot issues: cause and TVAL. A failed line,
and an uncorrectable one, become invalid (R246). -/
def Core.fetchFault (c : Core) : Option (Nat × Word × Option Nat) :=
  match c.fetch with
  | .failed a => some (0x08, BitVec.ofNat 64 a, some (slotOfLine a))
  | .bad a => some (0x18, 6, some (slotOfLine a))
  | .endless => some (3, 0, none)
  | .bundle l next => (c.ctx.decodeFault l next).map fun e => (e.1, e.2, none)
  | _ => none

/-- The trap of the bundle that core i is about to issue. -/
def State.takeFetchFault (s : State) (i : Nat) : State :=
  match (s.core i).fetchFault with
  | none => s
  | some (cause, tval, slot) =>
    let s := match slot with
      | some n => s.modCore i fun c => { c with istore := SMap.del c.istore n }
      | none => s
    let c := s.ctx i
    s.decodeTrap i cause tval c.pc c.rpos

/-- TRAP_HANDLER_ENTRY. -/
def execTrapHandlerEntry (site : Nat) (s : State) : Out := .next (s.takeFetchFault site)

end Sys2Proof.Machine
end

