-- ==== Sys2Proof/Machine/Svm.lean ====
section
/-! DEFINITION. Shared virtual memory: table walks, the TLBs, translation faults and the retry ring,
PTROOT, TLBINV, RRRESP, RRCNT, RRBASE (R235 to R241, R271). -/

namespace Sys2Proof.Machine

/-! ## Untimed time -/

/-- A wall cycle after now: untimed work has no bound (R238, R245). -/
def State.later (s : State) : Nat × State :=
  let n := s.draw
  (s.now + 1 + Config.latency n.1, n.2)

/-- The context that a cohort's untimed operations belong to: live, or saved (R267). -/
def State.liveCoh (s : State) (i k : Nat) : Bool := s.cohOf i == some k

/-- Change the context of cohort k on core i, live or in a shadow slot. -/
def Core.modOf (c : Core) (k : Nat) (f : Ctx → Ctx) : Core :=
  if c.serves k then { c with ctx := f c.ctx }
  else { c with shadow := c.shadow.map fun x => if x.coh = k then { x with ctx := f x.ctx } else x }

/-- The context of cohort k on core i. -/
def Core.ctxOf (c : Core) (k : Nat) : Ctx :=
  if c.serves k then c.ctx
  else
    match c.shadow.find? (·.coh == k) with
    | some x => x.ctx
    | none => c.ctx

/-! ## The window of a virtual function (R268, R285) -/

/-- A virtual function answers accesses: its partition exists and virtual functions are enabled. -/
def State.vfPresent (s : State) (p : Nat) : Bool := (s.part p).present && s.pf.vfEnable

/-- A host write to a register of partition p's window acts: the function is there and is not being reset. -/
def State.vfWrite (s : State) (p : Nat) (f : State → Out) : Out :=
  if s.vfPresent p && !(s.part p).rst then f s else .next s

/-! ## Walks (R235, R236) -/

/-- A page that a walk found. -/
structure Leaf where
  va : Nat
  size : Nat
  pa : Nat
  w : Bool
  x : Bool
  deriving DecidableEq, Repr

/-- The little-endian word of n bytes of host memory. -/
def hostWord (host : List Host.Cell) (a n : Nat) : Nat := ofBytes (memBytes host a n)

/-- A table entry of a level is malformed (R236, second row). -/
def pteBad (e level : Nat) : Bool :=
  let lf := e / 16 % 2 == 1
  let c := e / 8 % 2 == 1
  let pa := e / 4096 % 2 ^ 40
  e / 32 % 128 != 0 || e / 2 ^ 52 != 0 || (lf && level ≥ 3) || (c && level > 0) ||
    (lf && level == 1 && pa % 512 != 0) || (lf && level == 2 && pa % 2 ^ 18 != 0)

/-- The page of a leaf entry of a level. -/
def leafOf (e level va : Nat) : Leaf :=
  let big := level = 0 ∧ e / 8 % 2 = 1
  let size := if big then 65536 else 2 ^ (12 + 9 * level)
  { va := va / size * size, size := size, pa := e / 4096 % 2 ^ 40 * 4096, w := e / 2 % 2 == 1,
    x := e / 4 % 2 == 1 }

/-- Walk from the table of a level down: a page, or the KIND of the fault. -/
def walkFrom (host : List Host.Cell) (va : Nat) : Nat → Nat → Except Nat Leaf
  | 0, table =>
    let e := hostWord host (table + 8 * (va / 2 ^ 12 % 512)) 8
    if e % 2 = 0 then .error 1
    else if pteBad e 0 then .error 4
    else if e / 8 % 2 = 1 && e / 4096 % 16 != 0 then .error 5
    else .ok (leafOf e 0 va)
  | n + 1, table =>
    let e := hostWord host (table + 8 * (va / 2 ^ (21 + 9 * n) % 512)) 8
    if e % 2 = 0 then .error 1
    else if pteBad e (n + 1) then .error 4
    else if e / 16 % 2 = 1 then .ok (leafOf e (n + 1) va)
    else walkFrom host va n (e / 4096 % 2 ^ 40 * 4096)

/-- A whole walk under PTROOT, with its permission check. -/
def walk (host : List Host.Cell) (root : Word) (va : Nat) (w x : Bool) : Except Nat Leaf :=
  if !bitAt root 0 then .error 1
  else
    match walkFrom host va 4 (bits root 51 12 * 4096) with
    | .error k => .error k
    | .ok l => if w && !l.w then .error 2 else if x && !l.x then .error 3 else .ok l

/-! ## Walk slots and TLBs (R238) -/

/-- Walk slots and TLB entries that a grant of sites receives on each die: one slot and 64 entries, and
its share, by live pairs, of those that no partition is assured of (DESIGN CHOICE, log 30). -/
def State.quotaOf (s : State) (sites : List Nat) : List (Nat × Nat) :=
  [0, 1].map fun (die : Nat) =>
    let live := fun (l : List Nat) => (l.filter fun i => i / 64 == die && SMap.get s.bam 0 i == 0).length
    let mine := live sites
    let all := max 1 (live (List.range 128))
    (1 + (32 - 16) * mine / all, 64 + (4096 - 16 * 64) * mine / all)

/-- A partition's walk slots and TLB entries on a die. -/
def Part.quotaAt (p : Part) (die : Nat) : Nat × Nat := p.quota.getD die (1, 64)

/-- Walk slots of a die that a partition's operations hold. -/
def State.walking (s : State) (p die : Nat) : Nat :=
  (s.cores.map fun e =>
    if e.1 / 64 = die then (e.2.uops.filter fun u => u.walk && partOf u.coh == p).length else 0).sum

/-- Evict entries of a partition that the spec does not name until n remain on a die. -/
def State.evictTlb (s : State) (die p n : Nat) : State :=
  let mine := fun (e : TlbEntry) => e.die == die && e.part == p
  forAll (List.range ((s.tlb.filter mine).length - n)) s fun _ s =>
    match s.tlb.filter mine with
    | [] => s
    | e :: l =>
      let v := s.pick (e :: l) e
      { v.2 with tlb := v.2.tlb.erase v.1 }

/-- Enter a page, dropping what overlaps it; a full quota evicts. -/
def State.fill (s : State) (die p : Nat) (l : Leaf) : State :=
  let rest := s.tlb.filter fun e =>
    !(e.die == die && e.part == p && e.va < l.va + l.size && l.va < e.va + e.size)
  let s := { s with tlb := rest }.evictTlb die p (((s.part p).quotaAt die).2 - 1)
  { s with tlb := { die := die, part := p, va := l.va, size := l.size, pa := l.pa, w := l.w, x := l.x } :: s.tlb }

/-- The TLB entry that grants an access to an address. -/
def State.tlbHit (s : State) (die p va : Nat) (w x : Bool) : Option TlbEntry :=
  s.tlb.find? fun e =>
    e.die == die && e.part == p && e.va ≤ va && va < e.va + e.size && (!w || e.w) && (!x || e.x)

/-- Change one untimed operation. -/
def Core.modUop (c : Core) (n : Nat) (f : UOp → UOp) : Core :=
  { c with uops := c.uops.map fun u => if u.n = n then f u else u }

/-- An operation that is due can take a step of its translation: its page is in the TLB, its walk has
ended, or a slot of its partition is free. -/
def State.mayTranslate (s : State) (i : Nat) (u : UOp) (va : Nat) (w x : Bool) : Bool :=
  let p := partOf u.coh
  (s.tlbHit (i / 64) p va w x).isSome || u.walk ||
    decide (s.walking p (i / 64) < ((s.part p).quotaAt (i / 64)).1)

/-- Translate the page of an address for an operation of core i: by a TLB entry that grants the access, or by
a walk (DESIGN CHOICE, log 30) that holds a slot in between; none while the walk lasts. -/
def State.translate (s : State) (i : Nat) (u : UOp) (va : Nat) (w x : Bool) :
    Option (Except Nat Page) × State :=
  let p := partOf u.coh
  match s.tlbHit (i / 64) p va w x with
  | some e => (some (.ok { va := e.va, size := e.size, pa := e.pa }), s.modCore i (·.modUop u.n fun v => { v with walk := false }))
  | none =>
    if u.walk then
      let s := s.modCore i (·.modUop u.n fun v => { v with walk := false })
      match walk s.host (s.part p).ptroot va w x with
      | .error k => (some (.error k), s)
      | .ok l => (some (.ok { va := l.va, size := l.size, pa := l.pa }), s.fill (i / 64) p l)
    else
      let n := s.later
      (none, n.2.modCore i (·.modUop u.n fun v => { v with walk := true, ready := n.1 }))

/-! ## Faults (R239) -/

/-- The HSEQ of a cohort's launch. -/
def State.hseqOf (s : State) (k : Nat) : Nat :=
  match s.coh? k with
  | some c => c.hseq
  | none => 0

/-- A reset or a release has ended the partition's work (R285). -/
def Part.dying (p : Part) : Bool := p.rst || p.releasing

/-- A translation fault of core i's operation: it stops, and waits to be placed on the ring. Where its
partition's work has been ended, it is discarded with its entry (R240). -/
def State.transFault (s : State) (i : Nat) (u : UOp) (va kind src ch id : Nat) : State :=
  let p := partOf u.coh
  if (s.part p).dying then s.modCore i fun c => { c with uops := c.uops.filter (·.n != u.n) }
  else
    (s.modCore i (·.modUop u.n fun x => { x with stage := .faulted })).modPart p fun x =>
      { x with retries := x.retries ++
        [{ tag := none, va := va, kind := kind, src := src, who := { site := i, op := u.n }, coh := u.coh,
           ch := ch, id := id, after := false, hseq := s.hseqOf u.coh }] }

def rrSize (p : Part) : Nat := 2 ^ (bits p.rrbase 3 0 + 6)

/-- Entries on the ring that the host has not consumed. -/
def Part.rrUsed (p : Part) : Nat := (p.rrw - p.rrr).toNat

/-- PH of the n-th entry of a ring of `size`. -/
def ringPhase (n size : Nat) : Nat := 1 - n / size % 2

/-- The four words of an entry (R239). -/
def Retry.words (r : Retry) (lcore tag ph : Nat) : List Nat :=
  let xfr := decide (r.src ≤ 2)
  [r.va,
   r.kind + r.src * 2 ^ 8 + lcore * 2 ^ 16 + r.after.toNat * 2 ^ 23 +
     (if xfr then r.ch * 2 ^ 24 + r.id * 2 ^ 32 else 0),
   r.hseq + tag * 2 ^ 32, ph]

/-- Bytes of words, little-endian. -/
def wordBytes (l : List Nat) : List Byte := (l.map (bytesOf 8)).flatten

/-- The requesting core, or its node, has halted. -/
def State.afterHalt (s : State) (i k : Nat) : Bool :=
  ((s.core i).ctxOf k).halted ||
    (match s.coh? k with
     | some c => c.st == .ending
     | none => true)

/-- A fault waits and the ring has room. -/
def Part.retryDue (p : Part) : Bool := p.retries.any (·.tag.isNone) && p.rrUsed < rrSize p

/-- Place the first waiting fault on the ring, and interrupt (R239, R241; DESIGN CHOICE, log 10). -/
def State.writeRetry (s : State) (p : Nat) : State :=
  let x := s.part p
  match x.retries.findIdx? (·.tag.isNone) with
  | none => s
  | some n =>
    match x.retries[n]? with
    | none => s
    | some r =>
      let i := r.who.site
      let r := { r with tag := some x.rrTag, after := s.afterHalt i r.coh }
      let at_ := x.rrw.toNat % rrSize x
      let b := wordBytes (r.words (x.sites.idxOf i) x.rrTag (ringPhase x.rrw.toNat (rrSize x)))
      let s := { s with host := memPut s.host (bits x.rrbase 51 12 * 4096 + 32 * at_) b }
      s.setPart p { x with retries := x.retries.set n r, rrTag := (x.rrTag + 1) % 65536,
                           rrw := x.rrw + 1, irq1 := x.irq1 + 1 }

/-- RETRY_ENTRY_WRITE. -/
def execRetryEntryWrite (part : Nat) (s : State) : Out :=
  .next (if (s.part part).retryDue then s.writeRetry part else s)

/-! ## Answers (R240, R266) -/

/-- Clear the pending bit of an ATOM's register without writing it. -/
def UOp.clearPend (u : UOp) (c : Ctx) : Ctx :=
  match u.kind with
  | .atom true _ _ _ _ _ _ sd => if sd = 0 then c else c.setPend sd false
  | _ => c

/-- Count in the fault summary of a cohort's launch; counters stick at 0xFF when they are
written. -/
def State.modLaunchOf (s : State) (k : Nat) (f : Launch → Launch) : State :=
  match s.coh? k with
  | some c => s.modLaunch c.part c.queue f
  | none => s

/-- An answered requester walks again. -/
def State.retryWalk (s : State) (r : Retry) : State :=
  let n := s.later
  n.2.modCore r.who.site (·.modUop r.who.op fun x => { x with stage := .running, ready := n.1 })

/-- The lines that an operation still stages become failed; those outside the store go (R240, R246; DEDUCED,
log 72). -/
def Core.failLines (c : Core) (n : Nat) : Core :=
  let mine := fun (e : Nat × ILine) => e.2.st == .staging && e.2.op == n
  { c with istore := (c.istore.filter fun e => !(mine e && e.1 ≥ 4096)).map fun e =>
      if mine e then (e.1, { e.2 with st := .failed }) else e }

/-- An aborted requester ends. -/
def State.abortWalk (s : State) (r : Retry) : State :=
  let s := s.modLaunchOf r.coh fun l => { l with fabt := l.fabt + 1 }
  let i := r.who.site
  match (s.core i).uops.find? (·.n == r.who.op) with
  | none => s
  | some u =>
    match u.kind with
    | .xfr .. =>
      s.modCore i (·.modUop u.n fun x => { x with stage := .running, failed := true, todo := [], ready := s.now })
    | .stage _ _ => s.modCore i fun c => (c.modUop u.n fun x => { x with stage := .running }).failLines u.n
    | _ => s.modCore i fun c => (c.modUop u.n fun x => { x with stage := .atSys }).modOf u.coh u.clearPend

/-- Answer the open entry with a tag; a tag that names none sets the mark of RRRESP. -/
def State.answer (s : State) (p tag : Nat) (f : State → Retry → State) : State :=
  match (s.part p).retries.find? (·.tag == some tag) with
  | none => s.modPart p fun x => { x with rrbad := true }
  | some r =>
    f (s.modPart p fun x => { x with rrbad := false, retries := x.retries.filter (·.tag != some tag) }) r

def execRrrespRetry (part : Nat) (tag : Nat) (s : State) : Out :=
  s.vfWrite part fun s => .next (s.answer part tag State.retryWalk)

def execRrrespAbort (part : Nat) (tag : Nat) (s : State) : Out :=
  s.vfWrite part fun s => .next (s.answer part tag State.abortWalk)

/-- A start word is queued or a launch is bound: the base registers keep their values (R271). -/
def Part.active (p : Part) : Bool := p.queues.any fun q => !q.2.words.isEmpty || q.2.launch.isSome

/-- A base register's new value: LOGN only up to its limit. -/
def baseValue (old v : Word) (limit : Nat) : Word :=
  let logn := if bits v 3 0 ≤ limit then bits v 3 0 else bits old 3 0
  BitVec.ofNat 64 (logn + bits v 51 12 * 4096)

def execRrbaseWrite (part : Nat) (v : Word) (s : State) : Out :=
  s.vfWrite part fun s => .next (s.modPart part fun p =>
    if p.active then p else { p with rrbase := baseValue p.rrbase v 6, rrw := 0, rrr := 0 })

/-- RRCNT: RCNT moves unless the difference leaves 0 .. ring size (R241). -/
def execRrcntWrite (part : Nat) (v : Word) (s : State) : Out :=
  s.vfWrite part fun s => .next (s.modPart part fun p =>
    let r : Half := BitVec.ofNat 32 (bits v 63 32)
    if (p.rrw - r).toInt < 0 || (p.rrw - r).toNat > rrSize p then p else { p with rrr := r })

/-! ## Invalidation (R237) -/

/-- A byte address lies in a page. -/
def Page.has (g : Page) (va : Nat) : Bool := decide (g.va ≤ va ∧ va < g.va + g.size)

/-- An atomic has been performed, or has come to its end otherwise. -/
def UOp.unperformed (e : UOp) : Bool :=
  match e.stage with
  | .returning | .atSys | .atPort => false
  | _ => true

/-- The lines that an operation still stages. -/
def Core.linesOf (c : Core) (n : Nat) : List (Nat × ILine) :=
  c.istore.filter fun e => e.2.st == .staging && e.2.op == n

/-- An operation of core c accesses host memory under its translation of a page: it has still to move, deliver,
perform or read something there. Each page is translated once, so it goes on under a translation that an
invalidation has removed, and the invalidation waits for it (R237, R238; DEDUCED, log 85). -/
def Core.uses (c : Core) (u : UOp) (g : Page) : Bool :=
  match u.kind with
  | .xfr .. => u.todo.any (fun p => g.has p.1) || u.held.any fun b => decide (g.pa ≤ b.1 ∧ b.1 < g.pa + g.size)
  | .atom .. => u.unperformed
  | .stage .. => (c.linesOf u.n).any fun e => g.has (lineAddr e.1 e.2)
  | .fence => false

/-- Some operation of core c of partition p uses a translation that overlaps lo .. hi-1. -/
def Core.usesRange (c : Core) (p lo hi : Nat) : Bool :=
  c.uops.any fun u => partOf u.coh == p && u.pages.any fun g =>
    decide (g.va < hi ∧ lo < g.va + g.size) && c.uses u g

/-- Remove the translations of lo .. hi-1 and the lines that overlap them. -/
def State.invalidate (s : State) (p lo hi : Nat) : State :=
  let s := { s with tlb := s.tlb.filter fun e => !(e.part == p && e.va < hi && lo < e.va + e.size) }
  let n := s.later
  let s := forAll (s.part p).sites n.2 fun i s => s.modCore i (·.dropLines lo hi)
  s.modPart p fun x => { x with tlbinv := some (lo, hi, n.1) }

def execPtrootWrite (part : Nat) (v : Word) (s : State) : Out :=
  s.vfWrite part fun s => .next ((s.modPart part fun p =>
    { p with ptroot := BitVec.ofNat 64 (bits v 0 0 + bits v 51 12 * 4096) }).invalidate part 0 (2 ^ 54))

def execTlbinvWrite (part : Nat) (v : Word) (s : State) : Out :=
  s.vfWrite part fun s =>
  let lg := bits v 5 0
  let bad := bits v 11 6 != 0 || bits v 62 54 != 0 || !((12 ≤ lg && lg ≤ 54) || lg == 63)
  if bad || (s.part part).tlbinv.isSome then .next s
  else if lg = 63 then .next (s.invalidate part 0 (2 ^ 54))
  else
    let lo := bits v 53 12 * 4096 / 2 ^ lg * 2 ^ lg
    .next (s.invalidate part lo (lo + 2 ^ lg))

/-- PEND may fall: no access under a removed translation is still in progress (R237). -/
def State.invDone (s : State) (p : Nat) : Bool :=
  match (s.part p).tlbinv with
  | none => false
  | some (lo, hi, t) => decide (t ≤ s.now) && !(s.part p).sites.any fun i => (s.core i).usesRange p lo hi

def execTlbinvComplete (part : Nat) (s : State) : Out :=
  .next (if s.invDone part then s.modPart part fun p => { p with tlbinv := none } else s)

end Sys2Proof.Machine
end

