-- ==== Sys2Proof/Machine/Untimed.lean ====
section
/-! DEFINITION. Untimed work in wall time: transfers of the copy channels, staging of instruction
lines, atomics and reductions (R139, R213, R245, R246, R252 to R267). -/

namespace Sys2Proof.Machine

/-- A core's untimed operations of one cohort, in issue order. -/
def Core.opsOf (c : Core) (k : Nat) : List UOp := c.uops.filter (·.coh == k)

/-- No fence, release or acquire holds an operation back (R255, R256). -/
def Core.mayBegin (c : Core) (u : UOp) : Bool :=
  let l := c.opsOf u.coh
  u.stage == .waiting && !l.any fun e => holdsBack l e u

/-! ## Transfers (R244, R245) -/

/-- The cohort's clock has reached T: the cycle T issues in this wall cycle, or has issued, or a handler
stands in it (R245, R292). -/
def State.clockAt (s : State) (i k t : Nat) : Bool :=
  match s.coh? k with
  | some c => s.liveCoh i k && c.st == .running && ((if c.adv then t ≤ c.ccyc else t < c.ccyc) ||
      (match (s.ctx i).handler with
       | some h => decide (t ≤ h.cyc)
       | none => false))
  | none => false

/-- The first transfer of a core with a channel and identifier that passes a test: its contexts may use
the same ones. -/
def State.xfrWith (s : State) (i ch id : Nat) (f : UOp → Bool) : Option UOp :=
  (s.core i).uops.find? fun u => match u.kind with
    | .xfr _ h j _ _ _ _ => h == ch && j == id && f u
    | _ => false

/-- A transfer of core i may begin now. -/
def State.canBegin (s : State) (i : Nat) (u : UOp) : Bool :=
  match u.kind with
  | .xfr _ _ _ t _ _ _ => s.clockAt i u.coh t && (s.core i).mayBegin u
  | _ => false

/-- The first transfer of core i that may begin now. -/
def State.xfrReady (s : State) (i : Nat) : Option (Nat × Nat) :=
  (s.core i).uops.findSome? fun u => match u.kind with
    | .xfr _ ch id _ _ _ _ => if s.canBegin i u then some (ch, id) else none
    | _ => none

/-- Pieces of n bytes that lie in one 32-byte unit and one 4 KiB page each. -/
def splitRow : Nat → Nat → Nat → Nat → List (Nat × Nat × Nat)
  | 0, _, _, _ => []
  | f + 1, va, sa, n =>
    if n = 0 then []
    else
      let m := min n (min (32 - sa % 32) (4096 - va % 4096))
      (va, sa, m) :: splitRow f (va + m) (sa + m) (n - m)

/-- Pieces of a transfer. -/
def xfrPieces (sa va : Nat) (ly : Word) : List (Nat × Nat × Nat) :=
  ((xfrRows sa va ly).map fun r => splitRow (lyRlen ly) r.1.toNat r.2.toNat (lyRlen ly)).flatten

/-- XFR_BEGIN: the transfer leaves the time-sorted buffer. -/
def State.beginXfr (s : State) (i ch id : Nat) : State :=
  match s.xfrWith i ch id (s.canBegin i) with
  | none => s
  | some u =>
    match u.kind with
    | .xfr _ _ _ _ sa va ly =>
      let n := s.later
      n.2.modCore i (·.modUop u.n fun x =>
        { x with stage := .running, todo := xfrPieces sa va ly, ready := n.1 })
    | _ => s

def execXfrBegin (site : Nat) (ch id : Nat) (s : State) : Out := .next (s.beginXfr site ch id)

/-- Physical address of a byte whose page an operation has translated. -/
def UOp.phys (u : UOp) (va : Nat) : Option Nat :=
  (u.pages.find? (·.has va)).map fun g => g.pa + (va - g.va)

/-- A translated page. -/
def UOp.addPage (u : UOp) (g : Page) (ready : Nat) : UOp := { u with pages := u.pages ++ [g], ready := ready }

/-- n bytes of host memory from pa meet a write that the core's copy engine has accepted and has still to
deliver: a transfer's, or a RED's. The core's reads see such a write, and a later write of the core is accepted
after it has gone out, so that of two overlapping ones the later is the last at the host too (R254). -/
def Core.owes (c : Core) (u : UOp) (pa n : Nat) : Bool :=
  c.uops.any fun e => e.n != u.n && e.stage == .atCore && (match e.kind with
    | .xfr .. => e.held.any fun b => decide (pa ≤ b.1 ∧ b.1 < pa + n)
    | .atom _ _ m _ a _ _ _ => (e.phys a).any fun p => decide (p < pa + n ∧ pa < p + m)
    | _ => false)

/-! ## The UCIe share (R16)

A partition's traffic goes in its turn of a round of 64 wall cycles, which carries 1,024 bytes each way for each
64th of its share: 8/64 is 256 GB/s. Bytes beyond a turn's count against the next ones, so what exceeds the
share waits (DESIGN CHOICE, log 94). -/

/-- Bytes of a turn, each way. -/
def Part.turnBytes (p : Part) : Nat := 1024 * p.share

/-- The wall cycle's round. -/
def turnAt (now : Nat) : Nat := now / 64

/-- Bytes that count against the present turn, towards the host (true) or the device. -/
def Part.linkUsed (p : Part) (now : Nat) (out : Bool) : Nat :=
  (if out then p.linkOut else p.linkIn) - p.turnBytes * (turnAt now - p.linkTurn)

/-- The present turn has bytes left. -/
def Part.linkOpen (p : Part) (now : Nat) (out : Bool) : Bool :=
  p.share == 0 || decide (p.linkUsed now out < p.turnBytes)

/-- Bytes pass the port, towards the device and towards the host. -/
def Part.linkCount (p : Part) (now inb outb : Nat) : Part :=
  { p with linkIn := p.linkUsed now false + inb, linkOut := p.linkUsed now true + outb, linkTurn := turnAt now }

/-- The partition of cohort k has bytes left in its turn. -/
def State.linkOpen (s : State) (k : Nat) (out : Bool) : Bool := (s.part (partOf k)).linkOpen s.now out

/-- Count the traffic of cohort k's partition. -/
def State.link (s : State) (k inb outb : Nat) : State := s.modPart (partOf k) (·.linkCount s.now inb outb)

/-! Scratchpad bytes of a cohort whose granule was evicted are those of the evicted image (R297). -/

/-- The saved contexts that may hold displaced bytes of cohort k: its own, then the newer ones. -/
def holders (k : Nat) : List Saved → List Saved
  | [] => []
  | x :: rest => if x.coh = k then [x] else holders k rest ++ [x]

/-- The saved context and its granule that hold a scratchpad address of cohort k. -/
def Core.evictedAt (c : Core) (k a : Nat) : Option (Nat × Nat × List Byte) :=
  if c.serves k || !c.shadow.any (·.coh == k) then none
  else (holders k c.shadow).findSome? fun x =>
    (x.spad.find? fun g => g.1 ≤ a && a < g.1 + g.2.length).map fun g => (x.coh, g)

/-- The uncorrectable scratchpad words as cohort k's transfers meet them at an address: a displaced granule's
are those of its image. -/
def Core.badAt (c : Core) (k a : Nat) : List Nat :=
  match c.evictedAt k a with
  | some (j, _) => ((c.shadow.find? (·.coh == j)).map (·.bad)).getD []
  | none => c.badWord

/-- n bytes of one unit as a transfer of cohort k reads them. -/
def Core.untimedRead (c : Core) (k a n : Nat) : List Byte :=
  match c.evictedAt k a with
  | some (_, g) => (g.2.drop (a - g.1)).take n
  | none => memBytes c.spad a n

/-- Write bytes of one unit for cohort k. -/
def Core.untimedStore (c : Core) (k a : Nat) (b : List Byte) : Core :=
  match c.evictedAt k a with
  | some (j, g) =>
    let new := g.2.take (a - g.1) ++ b ++ g.2.drop (a - g.1 + b.length)
    { c with shadow := c.shadow.map fun x =>
        if x.coh = j then { x with spad := x.spad.map (fun h => if h.1 = g.1 then (g.1, new) else h)
                                   bad := x.bad.filter (!(wholeWords (placed a b)).contains ·) }
        else x }
  | none =>
    c.put (placed a b)

/-- Cohort cycle from which a delivery of this wall cycle is seen (R252). -/
def State.seenFrom (s : State) (i : Nat) : Nat :=
  if s.advancing i then s.ccycOf i + 1 else s.ccycOf i

/-- An untimed delivery of cohort k into core i's scratchpad, logged for open regions (R300, R301).
During a replay it takes its place after the replayed cycles. -/
def State.untimedWrite (s : State) (i k a : Nat) (b : List Byte) : State :=
  if !s.liveCoh i k then s.modCore i (·.untimedStore k a b)
  else
    let e := fun t => PEntry.delivery t (placed a b) none none
    match (s.ctx i).replay with
    | some r => s.modCtx i fun c =>
        { c.log r.upTo (e r.upTo) with replay := some { r with log := r.log ++ [e r.upTo] } }
    | none =>
      (s.modCore i (·.untimedStore k a b)).modCtx i fun c =>
        (c.log (s.seenFrom i) (e (s.seenFrom i))).overwrite (placed a b)

/-- The first page of a transfer that is not translated, in ascending order of address. -/
def lowest (l : List (Nat × Nat × Nat)) : Nat :=
  match l with
  | [] => 0
  | p :: r => r.foldl (fun a q => min a q.1) p.1

/-- The aligned 4-byte words that n bytes from pa touch: first byte and length. -/
def wordSpan (pa n : Nat) : Nat × Nat := (4 * (pa / 4), 4 * ((pa + n + 3) / 4) - 4 * (pa / 4))

/-- The pieces of a transfer that can move in this wall cycle: their pages are translated, and their bank
is free where their unit has still to be accessed. -/
def State.movable (s : State) (i : Nat) (u : UOp) (get : Bool) : List (Nat × Nat × Nat) :=
  u.todo.filter fun p => match u.phys p.1 with
    | none => false
    | some pa =>
      if get then s.bankFree i (bankOfUnit (p.2.1 / 32)) && s.linkOpen u.coh false &&
        !(s.core i).owes u (wordSpan pa p.2.2).1 (wordSpan pa p.2.2).2
      else (SMap.get? u.units (p.2.1 / 32)).isSome || s.bankFree i (bankOfUnit (p.2.1 / 32))

/-- A transfer takes its next page once what lies on the pages before has moved. -/
def UOp.wantsPage (u : UOp) : Bool := u.todo.all fun p => (u.phys p.1).isNone

/-- A transfer can translate or move a unit in this wall cycle. -/
def State.canMove (s : State) (i : Nat) (u : UOp) : Bool :=
  match u.kind with
  | .xfr get .. =>
    u.stage == .running && decide (u.ready ≤ s.now) && !u.todo.isEmpty &&
      (if u.wantsPage then s.mayTranslate i u (lowest u.todo) (!get) false else !(s.movable i u get).isEmpty)
  | _ => false

/-- Translate the next page of a transfer. -/
def State.nextPage (s : State) (i : Nat) (u : UOp) (get : Bool) (ch id : Nat) : State :=
  let va := lowest u.todo
  let t := s.translate i u va (!get) false
  match t.1 with
  | none => t.2
  | some (.error k) => t.2.transFault i u va k (if get then 1 else 2) ch id
  | some (.ok g) =>
    let n := t.2.later
    n.2.modCore i (·.modUop u.n (·.addPage g n.1))

/-- A piece has moved. -/
def UOp.moved (u : UOp) (p : Nat × Nat × Nat) (now : Nat) : UOp :=
  { u with todo := u.todo.erase p, ready := now + 1 }

/-- Take a piece's bytes out of its unit as the transfer read it; the unit is kept while other pieces lie
in it, so that all of them were read in one wall cycle (R245). -/
def UOp.takeFrom (u : UOp) (p : Nat × Nat × Nat) (pa : Nat) (unit : List Byte) : UOp :=
  let n := p.2.1 / 32
  let more := u.todo.any fun q => q.2.1 / 32 == n
  { u with held := u.held ++ placed pa ((unit.drop (p.2.1 % 32)).take p.2.2)
           units := if more then SMap.set u.units n unit else SMap.del u.units n }

/-- A get's bytes of a piece as host memory holds them: what the transfer read with the words of another piece
is not read a second time. -/
def UOp.sees (u : UOp) (host : List Host.Cell) (p : Nat × Nat × Nat) (pa : Nat) : List Byte :=
  (memBytes host pa p.2.2).zipIdx.map fun e =>
    ((u.ahead.find? fun x => x.1 == p.1 + e.2 && x.2.1 == p.2.1 + e.2).map (·.2.2)).getD e.1

/-- A piece that begins or ends inside an aligned 4-byte word of host memory is read with the bytes of that word
that lie in other pieces of its row, since a read returns the whole of one write (R253). -/
def UOp.readAhead (u : UOp) (host : List Host.Cell) (p : Nat × Nat × Nat) (pa : Nat) : UOp :=
  if p.1 % 4 = 0 && p.2.2 % 4 = 0 then u
  else
    let row := u.todo.filter fun q => q != p && q.1 + p.2.1 == p.1 + q.2.1
    let more := (row.map fun q => (List.range q.2.2).filterMap fun k =>
      let va := q.1 + k
      if va / 4 == p.1 / 4 || va / 4 == (p.1 + p.2.2 - 1) / 4 then
        some (va, q.2.1 + k, memGet host (pa + va - p.1))
      else none).flatten
    { u with ahead := u.ahead ++ more }

/-- Move a piece of a transfer through the untimed port. -/
def State.movePiece (s : State) (i : Nat) (u : UOp) (get : Bool) (p : Nat × Nat × Nat) (pa : Nat) :
    State :=
  let unit := p.2.1 / 32
  let port := fun (s : State) => s.modCore i fun c =>
    { c.modUop u.n (·.moved p s.now) with portBusy := bankOfUnit unit :: c.portBusy }
  if get then
    (((port s).modCore i (·.modUop u.n fun x => { x with ahead := (u.readAhead s.host p pa).ahead })).link u.coh
      p.2.2 0).untimedWrite i u.coh p.2.1 (u.sees s.host p pa)
  else
    match SMap.get? u.units unit with
    | some b => s.modCore i (·.modUop u.n fun x => (x.moved p s.now).takeFrom p pa b)
    | none =>
      if (u.todo.filter fun q => q.2.1 / 32 == unit).any fun q =>
          (wordsOf q.2.1 q.2.2).any ((s.core i).badAt u.coh q.2.1).contains then
        (port s).modCore i (·.modUop u.n fun x => { x with failed := true, todo := [] })
      else
        let b := (s.core i).untimedRead u.coh (32 * unit) 32
        (port s).modCore i (·.modUop u.n (·.takeFrom p pa b))

/-- UNTIMED_PORT_ACCESS: a transfer takes its next page, or moves one unit that a bank serves now. -/
def State.moveUnit (s : State) (i ch id : Nat) : State :=
  match s.xfrWith i ch id (s.canMove i) with
  | none => s
  | some u =>
    match u.kind with
    | .xfr get .. =>
      if u.wantsPage then s.nextPage i u get ch id
      else
        let x := s.pick (s.movable i u get) (0, 0, 0)
        x.2.movePiece i u get x.1 ((u.phys x.1.1).getD 0)
    | _ => s

def execUntimedPortAccess (site : Nat) (ch id : Nat) (s : State) : Out :=
  .next (s.moveUnit site ch id)

/-! ## Completion (R242, R245, R254) -/

/-- DONE of a channel: the lowest identifier that is incomplete, else NEXT. -/
def doneOf (ops : List UOp) (ch : Nat) (done next : Half) : Half :=
  let l := ops.filterMap fun u => match u.kind with
    | .xfr _ h id _ _ _ _ =>
      if h == ch && !u.completeAt u.scope then some (BitVec.ofNat 32 id - done).toNat else none
    | _ => none
  match l with
  | [] => next
  | x :: r => done + BitVec.ofNat 32 (r.foldl min x)

/-- Bring XDONE of a channel up to date; a failed transfer that completes is counted. -/
def Ctx.passDone (c : Ctx) (ops : List UOp) (ch : Nat) (failed : Option Nat) : Ctx :=
  let d := SMap.get c.xdone 0 ch
  let n := SMap.get c.xnext 0 ch
  let done := doneOf ops ch (d.truncate 32) (n.truncate 32)
  let d := setBits d 31 0 done.toNat
  match failed with
  | none => { c with xdone := SMap.put c.xdone 0 ch d }
  | some id =>
    { c with xdone := SMap.put c.xdone 0 ch (setBits d 47 32 (min 65535 (bits d 47 32 + 1)))
             xnext := SMap.put c.xnext 0 ch (setBits n 63 32 id) }

/-- A transfer can take its next step towards completion: the engine accepts a put once no other accepted write
of the core overlaps it (R254), and its writes go out in the partition's turn (R16). -/
def State.canComplete (s : State) (i : Nat) (u : UOp) : Bool :=
  match u.kind with
  | .xfr get .. => u.ready ≤ s.now &&
      ((u.stage == .running && u.todo.isEmpty &&
          (get || !u.held.any fun b => (s.core i).owes u b.1 1)) ||
        (u.stage == .atCore && s.linkOpen u.coh true) || u.stage == .atPort)
  | _ => false

/-- The next stage of a transfer. -/
def UOp.advance (u : UOp) (get : Bool) : UStage :=
  match u.stage with
  | .running => if get then .atSys else .atCore
  | .atCore => .atPort
  | _ => .atSys

/-- XFR_COMPLETE: a get whose bytes are all in; a put that its engine holds, then its host writes, all at
once, then its completion at the host. -/
def State.completeXfr (s : State) (i ch id : Nat) : State :=
  match s.xfrWith i ch id (s.canComplete i) with
  | none => s
  | some u =>
    match u.kind with
    | .xfr get .. =>
      let n := s.later
      let out := u.stage == .atCore
      let s := if out then { n.2 with host := memPuts n.2.host u.held }.link u.coh 0 u.held.length else n.2
      let v := { u with stage := u.advance get, ready := n.1, held := if out then [] else u.held }
      let now := v.completeAt v.scope && !u.completeAt u.scope
      let failed := if now && u.failed then some id else none
      let s := s.modCore i fun c =>
        let c := c.modUop u.n fun _ => v
        c.modOf u.coh fun x => x.passDone (c.opsOf u.coh) ch failed
      if failed.isSome then s.modLaunchOf u.coh fun l => { l with fxfr := l.fxfr + 1 } else s
    | _ => s

def execXfrComplete (site : Nat) (ch id : Nat) (s : State) : Out := .next (s.completeXfr site ch id)

/-! ## Staging (R213, R246, R247) -/

/-- Write the physical number over a field that holds a logical pseudo-channel. -/
def relocWord (pchs : List Nat) (w bit : Nat) : Nat :=
  let l := w / 2 ^ bit % 512
  w - l * 2 ^ bit + (pchs.getD l l) * 2 ^ bit

/-- Relocate the fields of n bytes at an address of the partition's images. -/
def relocAt (pchs : List Nat) (base : Nat) (l : List (Nat × Nat)) (addr : Nat) (b : List Byte) :
    List Byte :=
  l.foldl (fun b (r : Nat × Nat) =>
    let a := base + r.1
    if addr ≤ a && a + 4 ≤ addr + b.length then
      let o := a - addr
      let w := relocWord pchs (ofBytes ((b.drop o).take 4)) r.2
      b.take o ++ bytesOf 4 w ++ b.drop (o + 4)
    else b) b

/-- A line's bytes under the map of its partition (R213). -/
def State.lineBytes (s : State) (p addr pa : Nat) : List Byte :=
  let x := s.part p
  x.images.foldl (fun b m => relocAt x.pchs m.2.base m.2.relocs addr b) (memBytes s.host pa 64)

/-- Demand staging of a line for cohort k replaces its slot. It is an untimed operation of the core like an
ISTAGE: what orders those orders the start of its read (R253, R255, R256). -/
def State.stageLine (s : State) (i k a : Nat) : State :=
  s.modCore i fun c =>
    { c.pushUop k 0 (.stage a 1) with istore := putStaging c.istore a (stagingLine a c.nextUop) }

/-- The first line of its next bundle that core i lacks. -/
def State.lacks (s : State) (i : Nat) : Option Nat :=
  match (s.core i).fetch with
  | .missing a => some a
  | .staging a => some a
  | _ => none

/-- A miss of the core is a hold cause of its own: not in a handler, a replay or before W0. -/
def State.missHolds (s : State) (i : Nat) : Option Nat :=
  match s.cohOf i with
  | none => none
  | some k =>
    match s.coh? k with
    | some c => if c.st == .running && (s.ctx i).handler.isNone && (s.ctx i).replay.isNone then some k
                else none
    | none => none

/-- DEMAND_STAGING: the line is staged unless it is already being staged, and the cohort holds. -/
def State.demand (s : State) (i a : Nat) : State :=
  let s := match (s.core i).fetch, s.cohOf i with
    | .missing _, some k => s.stageLine i k a
    | _, _ => s
  match s.missHolds i with
  | none => s
  | some k =>
    let on := match s.coh? k with
      | some c => c.holds.contains (.miss i)
      | none => true
    if on then s else s.addHold k (.miss i) 1 s.now

def execDemandStaging (site : Nat) (line : Nat) (s : State) : Out :=
  .next (if s.lacks site = some line then s.demand site line else s)

/-- The lowest line of an operation, once every line on the pages before has arrived. -/
def Core.nextLine (c : Core) (u : UOp) : Option Nat :=
  match c.linesOf u.n with
  | [] => none
  | e :: l =>
    if (e :: l).any fun x => (u.phys (lineAddr x.1 x.2)).isSome then none
    else some (l.foldl (fun b x => if lineAddr x.1 x.2 < lineAddr b.1 b.2 then x else b) e).1

/-- The staging of a line can go on: its page is to be translated, or its read ends. -/
def State.lineDue (s : State) (i key : Nat) (l : ILine) : Bool :=
  l.st == .staging && ((s.core i).uops.find? (·.n == l.op)).any fun u =>
    let a := lineAddr key l
    u.stage == .running && (match u.phys a with
      | some pa => decide (l.ready ≤ s.now) && s.linkOpen u.coh false && !(s.core i).owes u pa 64
      | none => decide (u.ready ≤ s.now) && (s.core i).nextLine u == some key && s.mayTranslate i u a false true)

/-- The reads of an operation's lines on a page begin. -/
def State.beginReads (s : State) (i n : Nat) (g : Page) : State :=
  forAll ((s.core i).linesOf n) s fun e s =>
    if g.has (lineAddr e.1 e.2) then
      let t := s.later
      t.2.modCore i fun c => { c with istore := SMap.set c.istore e.1 { e.2 with ready := t.1 } }
    else s

/-- LINE_STAGING_COMPLETE: translate the page with X, in ascending order each page once; then read the 64
bytes at once and relocate them. A request outside the store is discarded on arrival. -/
def State.lineIn (s : State) (i key : Nat) : State :=
  match SMap.get? (s.core i).istore key with
  | none => s
  | some l =>
    if !s.lineDue i key l then s
    else
      match (s.core i).uops.find? (·.n == l.op) with
      | none => s
      | some u =>
        let a := lineAddr key l
        match u.phys a with
        | some pa =>
          let d := BitVec.ofNat 512 (ofBytes (s.lineBytes (partOf u.coh) a pa))
          (s.link u.coh 64 0).modCore i fun c =>
            { c with istore := if key ≥ 4096 then SMap.del c.istore key
                               else SMap.set c.istore key { l with st := .valid, bad := false, data := d } }
        | none =>
          let t := s.translate i u a false true
          match t.1 with
          | none => t.2
          | some (.error k) => t.2.transFault i u a k 3 0 0
          | some (.ok g) => (t.2.modCore i (·.modUop u.n (·.addPage g s.now))).beginReads i u.n g

def execLineStagingComplete (site : Nat) (slot : Nat) (s : State) : Out := .next (s.lineIn site slot)

/-! ## Atomics (R259 to R266) -/

/-- Where an atomic's variable lies: a byte of the sync SRAM, or a virtual address. -/
inductive Target where
  | sram (a : Nat)
  | host (va : Nat)
  deriving DecidableEq, Repr

/-- The target of a sync-variable or virtual address of a partition (R259, R261). -/
def Part.target (p : Part) (sp : Bool) (a : Nat) : Target :=
  if !sp then .host a
  else if a / 4096 < p.gran then
    let g := p.granAt.getD (a / 4096) (0, 0)
    .sram (2097152 * g.1 + 4096 * g.2 + a % 4096)
  else .host ((bits p.ovbase 53 12 * 4096 + a - 4096 * p.gran) % 2 ^ 54)

/-- Two atomics of a core name one location, or may: host variables are compared by virtual address, and by
physical address where both pages are translated; before that they may be one wherever they meet in their 4 KiB
pages (DEDUCED, log 71). -/
def State.sameLocation (s : State) (e u : UOp) : Bool :=
  match e.kind, u.kind with
  | .atom _ _ m sq b _ _ _, .atom _ _ n sp a _ _ _ =>
    let meets := fun (x y : Nat) => decide (x < y + n ∧ y < x + m)
    match (s.part (partOf e.coh)).target sq b, (s.part (partOf u.coh)).target sp a with
    | .sram x, .sram y => meets x y
    | .host x, .host y =>
      meets x y || (match e.phys x, u.phys y with
        | some x, some y => meets x y
        | _, _ => meets (x % 4096) (y % 4096))
    | _, _ => false
  | _, _ => false

/-- An earlier atomic of the core, of whatever context, to the same location is still to be performed
(R253). -/
def State.behind (s : State) (i : Nat) (u : UOp) : Bool :=
  (s.core i).uops.any fun e => decide (e.n < u.n) && e.unperformed && s.sameLocation e u

/-- An engine has read a word of host memory and has still to write it (R261). -/
def State.rewritten (s : State) (pa n : Nat) : Bool :=
  s.cores.any fun e => e.2.uops.any fun u =>
    u.stage == .rewriting && u.held.any fun b => decide (pa ≤ b.1 ∧ b.1 < pa + n)

/-- An atomic can take its next step in this wall cycle. -/
def State.canPerform (s : State) (i : Nat) (u : UOp) : Bool :=
  match u.kind with
  | .atom _ op n sp a _ _ _ =>
    (u.stage == .running || u.stage == .atCore || u.stage == .rewriting) && decide (u.ready ≤ s.now) &&
      !s.behind i u && (if u.stage == .rewriting then s.linkOpen u.coh true
        else match (s.part (partOf u.coh)).target sp a with
        | .sram _ => true
        | .host va => match u.phys va with
          | none => s.mayTranslate i u va (op != .ld) false
          | some pa => !(s.core i).owes u pa n && !s.rewritten pa n && s.linkOpen u.coh true &&
            s.linkOpen u.coh false)
  | _ => false

/-- An operation has been performed with this old value: an ATOM's travels back. -/
def State.performed (s : State) (i : Nat) (u : UOp) (ret : Bool) (old : Nat) (bad : Bool) : State :=
  let n := s.later
  n.2.modCore i (·.modUop u.n fun x =>
    { x with stage := if ret then .returning else .atSys, old := BitVec.ofNat 64 old, bad := bad,
             held := [], ready := n.1 })

/-- Perform an operation on n bytes of a memory. -/
def AtomOp.on (op : AtomOp) (m : List Host.Cell) (a n v c : Nat) : Nat × List Host.Cell :=
  let old := ofBytes (memBytes m a n)
  let w := 8 * n
  let new := op.new w old (v % 2 ^ w) (c % 2 ^ w)
  (old, if op = .ld then m else memPut m a (bytesOf n new))

/-- Words of the sync SRAM that n bytes from x touch. -/
def syncWords (x n : Nat) : List Nat := (List.range (n / 4)).map (x / 4 + ·)

/-- Error marks left when words are rewritten whole. -/
def State.mendSync (s : State) (l : List Nat) : State := { s with syncBad := s.syncBad.filter (!l.contains ·) }

/-- An operation on a variable of the sync SRAM: one indivisible step, or the error of R259, which a
rewriting of the whole variable does not meet (DEDUCED, log 9). -/
def State.performSram (s : State) (i : Nat) (u : UOp) (ret : Bool) (op : AtomOp) (x a n : Nat) (v c : Word) :
    State :=
  let l := syncWords x n
  if s.syncBad.any l.contains && op != .swap then
    if ret then s.performed i u true 0 true
    else
      ((s.performed i u false 0 true).notice (partOf u.coh) 3 (a / 4096)).modLaunchOf u.coh
        fun l => { l with fabt := l.fabt + 1 }
  else
    let r := op.on s.sync x n v.toNat c.toNat
    ({ s with sync := r.2 }.mendSync l).performed i u ret r.1 false

/-- The operations that are PCIe AtomicOps wherever their variable lies (R261). -/
def AtomOp.pcie (op : AtomOp) : Bool := op == .add || op == .swap || op == .cas || op == .ld

/-- An operation on a word of host memory at pa: one indivisible step. A RED is first accepted by the copy
engine; what an engine does itself in the overflow area is a read, and later a write, of the word. -/
def State.performHost (s : State) (i : Nat) (u : UOp) (ret : Bool) (op : AtomOp) (sp : Bool) (pa n : Nat)
    (v c : Word) : State :=
  let r := op.on s.host pa n v.toNat c.toNat
  let t := s.later
  if !ret && !sp && u.stage == .running then
    t.2.modCore i (·.modUop u.n fun x => { x with stage := .atCore, ready := t.1 })
  else if sp && !op.pcie then
    (t.2.modCore i (·.modUop u.n fun x =>
      { x with stage := .rewriting, held := placed pa (memBytes r.2 pa n), old := BitVec.ofNat 64 r.1
               ready := t.1 })).link u.coh n 0
  else ({ s with host := r.2 }.link u.coh (if ret then n else 0) n).performed i u ret r.1 false

/-- ATOMIC_PERFORM: an atomic's next step: its translation, or its operation at the target. -/
def State.perform (s : State) (i n : Nat) : State :=
  match (s.core i).uops.find? (·.n == n) with
  | none => s
  | some u =>
    if !s.canPerform i u then s
    else
      match u.kind with
      | .atom ret op len sp a v c _ =>
        if u.stage == .rewriting then
          ({ s with host := memPuts s.host u.held }.link u.coh 0 len).performed i u ret u.old.toNat false
        else
          match (s.part (partOf u.coh)).target sp a with
          | .sram x => s.performSram i u ret op x a len v c
          | .host va =>
            match u.phys va with
            | some pa => s.performHost i u ret op sp pa len v c
            | none =>
              let t := s.translate i u va (op != .ld) false
              match t.1 with
              | none => t.2
              | some (.error k) => t.2.transFault i u va k (if ret then 4 else 5) 0 0
              | some (.ok g) => t.2.modCore i (·.modUop n (·.addPage g s.now))
      | _ => s

def execAtomicPerform (site : Nat) (n : Nat) (s : State) : Out := .next (s.perform site n)

/-- The node of an operation has ended. -/
def State.endedOp (s : State) (u : UOp) : Bool :=
  match s.coh? u.coh with
  | some c => c.st == .ending
  | none => true

/-- A performed ATOM's value can land: its context is live and not in a replay, or its node has
ended. -/
def State.canReturn (s : State) (i : Nat) (u : UOp) : Bool :=
  u.stage == .returning && u.ready ≤ s.now &&
    ((s.liveCoh i u.coh && (s.ctx i).replay.isNone) || s.endedOp u)

/-- ATOM_RETURN: the old value lands and the pending bit clears; after an error only the bit clears,
and the core's region error follows (R84, R101, R259). -/
def State.atomReturns (s : State) (i n : Nat) : State :=
  match (s.core i).uops.find? (·.n == n) with
  | none => s
  | some u =>
    if !s.canReturn i u then s
    else
      match u.kind with
      | .atom _ _ _ _ _ _ _ sd =>
        let s := s.modCore i (·.modUop n fun x => { x with stage := .atSys })
        let t := s.seenFrom i
        if !s.liveCoh i u.coh then s
        else if s.endedOp u then s.modCtx i fun c => if u.bad || sd = 0 then u.clearPend c
          else (c.ws sd u.old).setPend sd false
        else if u.bad then
          s.modCtx i fun c => (u.clearPend c).addBev
            { due := s.timeOf i, issued := 0, kind := .regionError 0x18 7 }
        else if sd = 0 then s
        else
          let p : Pend := { land := t, seq := 0, slot := 5, issued := t, again := false, flags := fNone,
                            shadow := false, eff := .sreg sd u.old }
          s.modCtx i fun c => ((c.log t (.arrival t p)).ws sd u.old).setPend sd false
      | _ => s

def execAtomReturn (site : Nat) (n : Nat) (s : State) : Out := .next (s.atomReturns site n)

/-! ## What begins and ends by itself -/

/-- Send what may be sent: atomics to their targets, the reads of ISTAGE. -/
def State.beginOp (s : State) (i : Nat) (u : UOp) : State :=
  if !(s.core i).mayBegin u then s
  else
    match u.kind with
    | .xfr .. => s
    | .fence => s
    | _ =>
      let n := s.later
      n.2.modCore i (·.modUop u.n fun x => { x with stage := .running, ready := n.1 })

/-- A piece of work has nothing left to do. -/
def Core.finished (c : Core) (u : UOp) : Bool :=
  match u.kind with
  | .fence => (c.opsOf u.coh).all fun e => e.n ≥ u.n || e.completeAt u.scope
  | .stage _ _ => u.stage == .running && (c.linesOf u.n).isEmpty
  | _ => u.stage == .atSys

/-- Core i's untimed operations at the end of a wall cycle. -/
def State.settleOps (s : State) (i : Nat) : State :=
  if (s.core i).uops.isEmpty then s
  else
    let s := s.modCore i fun c => { c with uops := c.uops.filter fun u => !c.finished u }
    forAll (s.core i).uops s fun u s => s.beginOp i u

end Sys2Proof.Machine
end

