-- ==== Sys2Proof/Machine/Records.lean ====
section
/-! DEFINITION. The event ring: records, their writing, interrupts (R271, R281, R282), and the
ring registers. -/

namespace Sys2Proof.Machine

/-! ## Status codes (R280) -/

def stOk : Nat := 0
def stFault : Nat := 1
def stShard : Nat := 2
def stNovar : Nat := 3
def stNoplace : Nat := 4
def stBadimg : Nat := 5
def stBadstart : Nat := 6
def stQoff : Nat := 7
def stQfull : Nat := 8
def stAborted : Nat := 9
def stTimeout : Nat := 10
def stNores : Nat := 11
def stBusy : Nat := 12
def stBadreq : Nat := 13

/-! ## Records (R281) -/

/-- Word 0 of a record. -/
def recHead (kind status queue hseq : Nat) : Word :=
  BitVec.ofNat 64 (kind + status * 2 ^ 8 + queue * 2 ^ 16 + hseq % 65536 * 2 ^ 32)

/-- Queue a record behind those not yet written. -/
def State.addRecord (s : State) (p : Nat) (r : Rec4) : State :=
  s.modPart p fun x => { x with records := x.records ++ [r] }

/-- A dropped start word: its record, ERR, and queue-trace record 2 (R275, R276, R311). -/
def State.dropWord (s : State) (p q status hseq : Nat) (v : Word) : State :=
  let s := s.addRecord p { w0 := recHead 2 status q hseq, w1 := 0, w2 := 0, w3 := 0 }
  let s := s.modPart p fun x => x.setQueue q { x.queue q with err := true }
  s.qtrOften p (16 + q) { w0 := qtrHead 2 q 0 hseq 0, w1 := s.wcyc, w2 := v, w3 := BitVec.ofNat 64 status } 0

/-- The completion record of a launch (R281). -/
def Launch.record (l : Launch) (q status : Nat) : Rec4 :=
  { w0 := recHead 1 status q l.hseq, w1 := 0
    w2 := BitVec.ofNat 64 (min 255 l.fabt * 2 ^ 32 + min 255 l.fxfr * 2 ^ 40 + min 255 l.freq * 2 ^ 48 +
      l.fcause * 2 ^ 56)
    w3 := BitVec.ofNat 64 (l.fnode * 2 ^ 16) }

def evSize (p : Part) : Nat := 2 ^ (bits p.evbase 3 0 + 6)

/-- Records on the ring that the host has not consumed. -/
def Part.evUsed (p : Part) : Nat := (p.evw - p.evr).toNat

def Part.recordDue (p : Part) : Bool := !p.records.isEmpty && p.evUsed < evSize p

/-- Interrupt vector 0 is sent. -/
def Part.eventIrq (p : Part) : Part := { p with irq0 := p.irq0 + 1, pendingRec := 0, oldestRec := none }

/-- Place the oldest waiting record on the ring (R281, R282). A completion record ends its launch. -/
def State.writeRecord (s : State) (p : Nat) : State :=
  let x := s.part p
  match x.records with
  | [] => s
  | r :: rest =>
    let d := x.dseq + 1
    let n := x.evw.toNat
    let r : Rec4 := { r with w1 := s.wcyc, w2 := r.w2 + d.zeroExtend 64,
                             w3 := r.w3 + BitVec.ofNat 64 (ringPhase n (evSize x)) }
    let b := wordBytes [r.w0.toNat, r.w1.toNat, r.w2.toNat, r.w3.toNat]
    let kind := bits r.w0 7 0
    let q := bits r.w0 18 16
    let x := { x with records := rest, dseq := d, evw := x.evw + 1, pendingRec := x.pendingRec + 1
                      oldestRec := some (x.oldestRec.getD s.now), evcoalNow := x.evcoal }
    let x := if kind = 1 then x.setQueue q { x.queue q with launch := none } else x
    let x := if max 1 (bits x.evcoal 7 0) ≤ x.pendingRec then x.eventIrq else x
    let s := { s with host := memPut s.host (bits x.evbase 51 12 * 4096 + 32 * (n % evSize x)) b }
    let s := s.setPart p x
    if kind = 3 then s
    else s.qtr p { w0 := qtrHead 8 q 0 (bits r.w0 47 32) 0, w1 := s.wcyc, w2 := r.w1, w3 := r.w2 }

/-- EVENT_RECORD_WRITE. -/
def execEventRecordWrite (part : Nat) (s : State) : Out :=
  .next (if (s.part part).recordDue then s.writeRecord part else s)

/-- The oldest pending record has waited TIME µs (R282). -/
def State.coalDue (s : State) (p : Nat) : Bool :=
  let x := s.part p
  match x.oldestRec with
  | none => false
  | some t => bits x.evcoalNow 31 8 != 0 && t + 2000 * bits x.evcoalNow 31 8 ≤ s.now

def execEvcoalTimeout (part : Nat) (s : State) : Out :=
  .next (if s.coalDue part then s.modPart part Part.eventIrq else s)

/-! ## Ring registers (R271) -/

def execEvbaseWrite (part : Nat) (v : Word) (s : State) : Out :=
  s.vfWrite part fun s => .next (s.modPart part fun p =>
    if p.active then p else { p with evbase := baseValue p.evbase v 10, evw := 0, evr := 0 })

def execEvtailWrite (part : Nat) (v : Word) (s : State) : Out :=
  s.vfWrite part fun s => .next (s.modPart part fun p => { p with evr := v.truncate 32 })

end Sys2Proof.Machine
end

