-- ==== Sys2Proof/Machine/Image.lean ====
section
/-! DEFINITION. Linked images: the container (R329), loading and unloading (R272, R273, R330), and
the programming of weight shards (R167, R208, R209, R317). -/

namespace Sys2Proof.Machine

/-! ## Reading -/

/-- n bytes of a partition's shared virtual memory, page by page; none at a translation fault. -/
def readVa (host : List Host.Cell) (root : Word) : Nat → Nat → Nat → Option (List Byte)
  | 0, _, _ => some []
  | f + 1, va, n =>
    if n = 0 then some []
    else
      match walk host root va false false with
      | .error _ => none
      | .ok l =>
        let m := min n (4096 - va % 4096)
        (readVa host root f (va + m) (n - m)).map (memBytes host (l.pa + (va - l.va)) m ++ ·)

/-- n bytes at an address of a partition. -/
def State.readPart (s : State) (p va n : Nat) : Option (List Byte) :=
  if va + n ≤ 2 ^ 54 then readVa s.host (s.part p).ptroot (n / 4096 + 2) va n else none

/-- The n-byte little-endian field at an offset. -/
def le (b : List Byte) (off n : Nat) : Nat := ofBytes ((b.drop off).take n)

/-- k fields of n bytes each. -/
def fields (b : List Byte) (n k : Nat) : List Nat := (List.range k).map fun i => le b (n * i) n

/-- Take n bytes, and the zero bytes that pad them to a multiple of 8. -/
def padded (b : List Byte) (n : Nat) : Option (List Byte × List Byte) :=
  let m := (n + 7) / 8 * 8
  if b.length < m || ((b.take m).drop n).any (· != 0) then none else some (b.take n, b.drop m)

/-- A section-table entry. -/
structure Sect where
  ty : Nat
  off : Nat
  size : Nat
  deriving DecidableEq, Repr

/-- n section-table entries; none where one breaks the format. -/
def parseTable (b : List Byte) (len : Nat) : Nat → Option (List Sect)
  | 0 => some []
  | n + 1 => do
    let rest ← parseTable (b.drop 32) len n
    let x : Sect := { ty := le b 0 4, off := le b 8 8, size := le b 16 8 }
    guard (le b 4 4 = 0 && le b 24 8 = 0 && x.off % 8 = 0 && x.off + x.size ≤ len)
    guard ((1 ≤ x.ty && x.ty ≤ 7) || (0x100 ≤ x.ty && x.ty ≤ 0xFFFF))
    return x :: rest

/-! ## Sections (R329) -/

/-- A SHAPE section. -/
def parseShape (npch : Nat) (b : List Byte) : Option Shape := do
  let nm := le b 0 2
  let keys := le b 2 1
  let nuse := le b 4 2
  let nlpc := le b 6 2
  guard (16 ≤ b.length && 1 ≤ nm && nm ≤ 120 && keys < 64 && le b 3 1 ≤ 96 && nlpc = npch && le b 8 8 = 0)
  let (entry, b1) ← padded (b.drop 16) (128 * nm)
  let (handler, b2) ← padded b1 (8 * nm)
  let (scratch, b3) ← padded b2 (4 * nm)
  let (hops, b4) ← padded b3 (nm * nm)
  let (mhops, b5) ← padded b4 (nm * nlpc)
  let (use, b6) ← padded b5 (2 * nuse)
  let uses := fields use 2 nuse
  let scr := fields scratch 4 nm
  guard (b6.isEmpty && (uses.zip (uses.drop 1)).all (fun e => e.1 < e.2) && uses.all (· < npch))
  guard (scr.all (· ≤ spadSize))
  return { nm := nm, digital := keys % 2 == 1
           lat := if keys / 2 % 2 = 1 then some (keys / 4 % 2 == 1) else none
           therm := if keys / 8 % 2 = 1 then some (keys / 16 % 4) else none
           agmax := le b 3 1, nlpc := nlpc, entry := fields entry 8 (16 * nm)
           handler := fields handler 8 nm, scratch := scr, hops := fields hops 1 (nm * nm)
           mhops := fields mhops 1 (nm * nlpc), uses := uses }

/-- n node records. -/
def parseNodes (nshape nnode : Nat) : Nat → List Byte → Option (List NodeRec)
  | 0, b => if b.isEmpty then some [] else none
  | n + 1, b => do
    let nvar := le b 0 2
    let npred := le b 2 2
    let (x, rest) ← padded b (16 + 2 * nvar + 2 * npred)
    let vars := fields (x.drop 16) 2 nvar
    let preds := fields (x.drop (16 + 2 * nvar)) 2 npred
    guard (1 ≤ nvar && nvar ≤ 255 && le x 8 1 < 2 && le x 9 7 = 0)
    guard (vars.all (· < nshape) && preds.all (· < nnode))
    let l ← parseNodes nshape nnode n rest
    return { vars := vars, preds := preds, wdog := le x 4 4, ovl := le x 8 1 == 1 } :: l

/-- Nodes that retire within n rounds when each waits for its predecessors. -/
def settled (l : List NodeRec) : Nat → List Nat
  | 0 => []
  | n + 1 =>
    let d := settled l n
    (List.range l.length).filter fun i => match l[i]? with
      | some x => x.preds.all d.contains
      | none => false

/-- Records of n bytes each, one after another. -/
def records (n : Nat) : Nat → List Byte → Option (List (List Byte))
  | 0, b => if b.isEmpty then some [] else none
  | f + 1, b =>
    if b.isEmpty then some []
    else if b.length < n then none
    else (records n f (b.drop n)).map (b.take n :: ·)

def parsePlace (b : List Byte) : Option Place := do
  guard (le b 2 1 < 4 && le b 3 1 < 4 && le b 12 4 = 0)
  return { lpc := le b 0 2, bank := 4 * le b 2 1 + le b 3 1, row := le b 4 4, rows := le b 8 4 }

/-- A 32-bit word at an offset lies in one of these sections. -/
def inSects (l : List Sect) (off n : Nat) : Bool := l.any fun x => x.off ≤ off && off + n ≤ x.off + x.size

def parseReloc (l : List Sect) (b : List Byte) : Option (Nat × Nat) := do
  guard (le b 8 1 ≤ 23 && le b 9 7 = 0 && inSects l (le b 0 8) 4)
  return (le b 0 8, le b 8 1)

/-- DATA records from an offset of the image. -/
def parseData (shapes : List Shape) (places : List Place) : Nat → Nat → List Byte → Option (List DataRec)
  | 0, _, b => if b.isEmpty then some [] else none
  | f + 1, off, b =>
    if b.isEmpty then some []
    else do
      let n := le b 12 4
      let (x, rest) ← padded b (16 + n)
      let kind := le x 0 1
      let sel := le x 2 2
      let sub := le x 4 2
      let addr := le x 8 4
      guard (kind < 2 && le x 1 1 = 0 && le x 6 2 = 0)
      if kind = 0 then
        guard (shapes.zipIdx.any fun e => e.2 == sel && sub < e.1.nm && addr + n ≤ spadSize)
      else
        guard (sub < 16 && places.any fun p =>
          p.lpc = sel && p.bank = sub % 4 * 4 + sub / 4 && p.row ≤ addr && 1024 * addr + n ≤ 1024 * (p.row + p.rows))
      let l ← parseData shapes places f (off + (b.length - rest.length)) rest
      return { placed := kind == 1, sel := sel, sub := sub, addr := addr, off := off + 16, bytes := x.drop 16 } :: l

/-- Whether valid groups are laid out as R167 requires. -/
def groupsOk (l : List GroupRec) : Bool :=
  let words := (l.map fun g => (BitVec.ofNat 64 g.xgv : Word)).filter grpValid
  let arrays := fun (w : Word) => grpArrays w false ++ (if grpDb w then grpArrays w true else [])
  let span := fun (w : Word) (set : Bool) => grpBase w set + grpKa w * grpNa w ≤ 128
  decide ((l.map (·.grp)).Nodup) && decide (((words.map arrays).flatten).Nodup) &&
    words.all fun w => grpRs w ≤ 4 && (grpWf w || grpNa w = 1) && span w false && (!grpDb w || span w true)

def parseGroup (b : List Byte) : Option GroupRec := do
  guard (le b 0 1 < 64 && le b 1 1 < 2 && le b 2 2 = 0 && le b 12 4 = 0 && le b 4 4 < 2 ^ 26)
  return { grp := le b 0 1, owns := le b 1 1 == 1, xgv := le b 4 4 - le b 4 4 / 2 ^ 15 % 2 * 2 ^ 15, tag := le b 8 4 }

def parseShard (gs : List GroupRec) (b : List Byte) : Option ShardRec := do
  let g ← gs.find? (·.grp == le b 0 1)
  let w : Word := BitVec.ofNat 64 g.xgv
  guard (le b 1 1 < 2 && le b 2 2 = 0 && le b 72 8 = 0 && g.owns && grpValid w)
  guard ((le b 1 1 = 0 || grpDb w) && le b 8 8 = 131072 * grpKa w * grpNa w)
  return { grp := g.grp, setB := le b 1 1 == 1, tag := le b 4 4, len := le b 8 8, va := le b 16 8
           digest := (b.drop 24).take 48 }

/-- A MANIFEST section: groups, shards, key slot, digest of its body; it must verify (R208, R317). -/
def parseManifest (b : List Byte) : Option (List GroupRec × List ShardRec × Nat × Option (List Byte)) := do
  let ng := le b 0 2
  let ns := le b 2 2
  let slot := le b 4 1
  let body := 8 + 16 * ng + 80 * ns
  guard (b.length = body + 192 && ng ≤ 64 && slot < 8 && le b 5 3 = 0)
  let gs ← ((List.range ng).mapM fun i => parseGroup ((b.drop (8 + 16 * i)).take 16))
  let ss ← ((List.range ns).mapM fun i => parseShard gs ((b.drop (8 + 16 * ng + 80 * i)).take 80))
  guard (groupsOk gs)
  let key := (b.drop body).take 96
  guard (Config.keySlot slot == some (Config.sha384 key))
  guard (Config.ecdsaP384 key (Config.sha384 (b.take body)) (b.drop (body + 96)))
  return (gs, ss, slot, some (Config.sha384 (b.take body)))

/-- The syllables of the bundle at the head of a run of bytes. -/
def leadBundle : Nat → List Byte → Option (List Syl)
  | 0, _ => none
  | f + 1, b =>
    let n := if wideOf (le b 0 4) then 8 else 4
    if b.length < n then none
    else
      let x : Syl := { wide := wideOf (le b 0 4), w := le b 0 n }
      if stopOf (le b 0 4) then some [x] else (leadBundle f (b.drop n)).map (x :: ·)

/-- An entry bundle holds ALIGN with TAG 0 (R81; DEDUCED, log 46). -/
def alignsFirst (b : List Byte) : Bool :=
  match (leadBundle 12 b).bind fun l => slotSyl l 1 with
  | some x => (match decodeSyl x.wide x.w with
    | .ok i => i == .align 0
    | .error _ => false)
  | none => false

/-- Parse the image at `base`; `rd off n` reads n of its bytes. None: it is refused with BADIMG
(R273). -/
def parseImage (base : Nat) (rd : Nat → Nat → Option (List Byte)) : Option Image := do
  let h ← rd 0 64
  let nsec := le h 6 2
  let len := le h 8 8
  let npch := le h 0x16 2
  let nshape := le h 0x18 2
  let nnode := le h 0x1A 2
  guard (le h 0 4 = 0x4D49584B && le h 4 2 = 1 && 1 ≤ nsec && nsec ≤ 1024 && 64 + 32 * nsec ≤ len)
  guard (1 ≤ nshape && nshape ≤ 1024 && 1 ≤ nnode && le h 0x30 16 = 0 && base + len ≤ 2 ^ 54)
  let tb ← rd 64 (32 * nsec)
  let table ← parseTable tb len nsec
  let only := fun (t : Nat) => table.filter (·.ty == t)
  let code := only 1
  guard ((only 2).length = nshape && (only 3).length = 1)
  guard ([4, 5, 6, 7].all fun t => (only t).length ≤ 1)
  let bytes := fun (t : Nat) => match only t with
    | [] => some []
    | x :: _ => rd x.off x.size
  let shapes ← (only 2).mapM fun x => (rd x.off x.size).bind (parseShape npch)
  let nodes ← (bytes 3).bind (parseNodes nshape nnode nnode)
  guard ((settled nodes nnode).length = nnode)
  let pl ← bytes 4
  let places ← (records 16 (pl.length / 16 + 1) pl).bind fun l => l.mapM parsePlace
  let rl ← bytes 5
  let relocs ← (records 16 (rl.length / 16 + 1) rl).bind fun l => l.mapM (parseReloc (code ++ only 7))
  let mf ← bytes 6
  let man ← if (only 6).isEmpty then some ([], [], 0, none) else parseManifest mf
  let dt ← bytes 7
  let data ← parseData shapes places (dt.length / 16 + 1) (((only 7).map (·.off)).headD 0) dt
  let starts := ((shapes.map (·.entry)).flatten).filter (· != 0)
  let heads := ((shapes.map (·.handler)).flatten).filter (· != 0)
  guard ((starts ++ heads).all fun a => base ≤ a && a % 4 = 0 && inSects code (a - base) 4)
  let ends := fun (o : Nat) => match code.find? fun x => x.off ≤ o && o < x.off + x.size with
    | some x => min 96 (x.off + x.size - o)
    | none => 0
  let firsts ← starts.mapM fun a => rd (a - base) (ends (a - base))
  guard (firsts.all alignsFirst)
  return { base := base, len := len, mbname := le h 0x1C 2, mbrel := le h 0x1E 2, shapes := shapes
           nodes := nodes, places := places, relocs := relocs, groups := man.1, shards := man.2.1
           keySlot := man.2.2.1, manifest := man.2.2.2, data := data, unprogrammed := List.range man.2.1.length, rejected := [], refetch := [] }

/-! ## Initial data (R330) -/

/-- Bytes of a data record under a partition's map. -/
def DataRec.under (d : DataRec) (m : Image) (pchs : List Nat) : List Byte :=
  relocAt pchs m.base m.relocs (m.base + d.off) d.bytes

/-- Write an image's placed data into its rows; rows beyond the bank's last do not exist (DEDUCED, log 68). -/
def State.placeRows (s : State) (p : Nat) (m : Image) : State :=
  let pchs := (s.part p).pchs
  forAll (m.data.filter (·.placed)) s fun d s =>
    match pchs[d.sel]? with
    | none => s
    | some c =>
      let a := rowBase (d.sub % 4 * 4 + d.sub / 4) d.addr
      let b := (d.under m pchs).take (1024 * (49152 - d.addr))
      s.modPch c fun x =>
        { x with mem := memPut x.mem a b, bad := x.bad.filter fun u => 32 * u < a || a + b.length ≤ 32 * u }

/-- Write the scratchpad data of member i of a shape into a core. -/
def Core.placeData (c : Core) (m : Image) (pchs : List Nat) (shape i : Nat) : Core :=
  (m.data.filter fun d => !d.placed && d.sel == shape && d.sub == i).foldl (fun c d =>
    c.putBlock d.addr (d.under m pchs)) c

/-! ## IMGLOAD (R273) -/

/-- A handle has a start word queued or a launch bound. -/
def Part.usesImage (p : Part) (h : Nat) : Bool :=
  p.queues.any fun q => q.2.words.any (·.img == h) ||
    (match q.2.launch with
     | some l => l.img == h
     | none => false)

def imgStat (h : Nat) (busy : Bool) (status : Nat) : Word :=
  BitVec.ofNat 64 (h + busy.toNat * 2 ^ 8 + status * 2 ^ 16)

/-- IMGLOAD with OP 1: a loaded handle is unloaded first; the load goes on in wall time. -/
def execImgloadLoad (part : Nat) (v : Word) (s : State) : Out :=
  s.vfWrite part fun s =>
  let h := bits v 7 0
  let p := s.part part
  if p.imgJob.isSome then .next s
  else if (SMap.get? p.images h).isSome && p.usesImage h then
    .next (s.setPart part { p with imgstat := imgStat h false stBusy })
  else
    let n := s.later
    .next (n.2.setPart part { p with images := SMap.del p.images h, imgstat := imgStat h true 0,
                                     imgJob := some (h, bits v 53 12 * 4096, n.1) })

/-- IMGLOAD with OP 2 (DESIGN CHOICE, log 32). -/
def execImgloadUnload (part : Nat) (v : Word) (s : State) : Out :=
  let h := bits v 7 0
  s.vfWrite part fun s => .next (s.modPart part fun p =>
    if p.imgJob.isSome then p
    else if p.usesImage h then { p with imgstat := imgStat h false stBusy }
    else { p with images := SMap.del p.images h, imgstat := imgStat h false stOk })

/-- A bound cohort uses a pseudo-channel that the image's placed data names. -/
def State.rowsInUse (s : State) (p : Nat) (m : Image) : Bool :=
  (m.data.filter (·.placed)).any fun d => match (s.part p).pchs[d.sel]? with
    | some c => s.cohorts.any fun e => e.2.pchs.contains c
    | none => false

/-- Banks of a partition take the content tag of an owned group without shards (DEDUCED, log 33). -/
def State.tagGroups (s : State) (p : Nat) (m : Image) : State :=
  let l := m.groups.filter fun g => g.owns && !m.shards.any (·.grp == g.grp)
  forAll (s.part p).sites s fun i s => s.modBank i fun b =>
    { b with tags := l.foldl (fun t g => SMap.set t g.grp g.tag) b.tags }

def State.loadDue (s : State) (p : Nat) : Bool :=
  match (s.part p).imgJob with
  | some (_, _, t) => t ≤ s.now && !(s.part p).dying
  | none => false

/-- IMAGE_LOAD_COMPLETE: the image is refused with BADIMG, waits for a pseudo-channel, or is loaded
with its placed data written. -/
def State.loadImage (s : State) (p : Nat) : State :=
  match (s.part p).imgJob with
  | none => s
  | some (h, base, _) =>
    match parseImage base (fun off n => s.readPart p (base + off) n) with
    | none => s.modPart p fun x => { x with imgJob := none, imgstat := imgStat h false stBadimg }
    | some m =>
      if s.rowsInUse p m then
        let n := s.later
        n.2.modPart p fun x => { x with imgJob := some (h, base, n.1) }
      else
        ((s.placeRows p m).tagGroups p m).modPart p fun x =>
          { x with imgJob := none, images := SMap.set x.images h m, imgstat := imgStat h false stOk }

def execImageLoadComplete (part : Nat) (s : State) : Out :=
  .next (if s.loadDue part then s.loadImage part else s)

/-! ## Shards (R208, R209) -/

/-- The conductances of a W4 pair code's G+ and G− (R34). -/
def pairLevels (code : Nat) : Nat × Nat := (4096 * (code % 16), 4096 * (code / 16 % 16))

/-- Where a cell is left by pulses toward a level, checked and repeated while it reads another level's code
within the margin: a physical outcome (R195, R199, R201). -/
def settledAt (vt n level : Nat) : Nat :=
  let g := Config.pulsed n level 0 0 false
  if codeOf g = level / 4096 || marginFails vt g then g else level

/-- Data columns that programming an array gives to spares, one per free spare at most: a physical
outcome (R202, R208). -/
def Arr.remaps (x : Arr) (n : Nat) : List (Nat × Nat) :=
  let free := (List.range 12).filter fun k => (SMap.get? x.spares k).isNone
  (free.take (Config.choice n % (free.length + 1))).map fun k => (k, Config.choice (n + 1 + k) % 512)

/-- Spares are consumed for data columns (R202). -/
def Arr.consume (x : Arr) (moved : List (Nat × Nat)) : Arr :=
  { x with spares := moved.foldl (fun m (e : Nat × Nat) => SMap.set m e.1 e.2) x.spares
           sparesNew := (moved.map fun (e : Nat × Nat) => e.1).reverse ++ x.sparesNew }

/-- Pulse the cells of 512 rows of 256 pair codes, through the spares in use, and the glint columns. -/
def Arr.fill (x : Arr) (vt n : Nat) (codes : List Byte) : Arr :=
  let put := fun (m : SMap Nat) (row c k level : Nat) => SMap.put m 0 (528 * row + c) (settledAt vt k level)
  let data := codes.zipIdx.foldl (fun m (e : Byte × Nat) =>
    let lv := pairLevels e.1.toNat
    let col := 2 * (e.2 % 256)
    put (put m (e.2 / 256) (x.phys col) (n + 2 * e.2) lv.1) (e.2 / 256) (x.phys (col + 1)) (n + 2 * e.2 + 1) lv.2) x.cells
  { x with cells := (List.range 2048).foldl (fun m k =>
      SMap.put m 0 (528 * (k / 4) + 524 + k % 4) (Config.pulsed (n + 262144 + k) 0 0 0 false)) data }

/-- Offsets and gains written, and a fresh glint reading taken: physical outcomes (R203, R205). -/
def Arr.calibrate (x : Arr) (n : Nat) : Arr :=
  { x with
    offs := (List.range 256).foldl (fun m k => SMap.put m 0 k (BitVec.ofInt 12 (Config.rawOffset (n + k)))) []
    gain := (List.range 256).foldl (fun m k => SMap.put m 0 k (BitVec.ofInt 16 (Config.rawOffset (n + 256 + k)))) []
    fresh := some ((List.range 4).map fun k => clampTo (-512) 511 (Config.rawOffset (n + 512 + k)))
    stale := false }

/-- Program one array by the operations of chapter 10, in their order: XERASE.ALL, XREMAP, pulses, offsets
and gains, XDRIFT. A RETIRED array takes none, and one that its wear retires takes no more (R197, R207,
R208). How many pulses it takes is a physical outcome. -/
def Arr.program (x : Arr) (site vt n : Nat) (codes : List Byte) : Arr :=
  if x.status == .retired then x
  else
    let x := { x.setStatus .programming with sealed_ := false, gref := none, fresh := none, stale := true }
    let x := (x.eraseRows vt n (List.range 512)).addWear (budget site) (528 * 512)
    if x.status == .retired then x
    else
      let x := ((x.consume (x.remaps (n + 920001))).fill vt (n + 600000) codes).addWear (budget site)
        (Config.choice (n + 920000))
      if x.status == .retired then x else x.calibrate (n + 900000)

/-- Program an array and commit it by the sweep of R205. The operations trap here as everywhere: a parked array
takes no erasure, pulse or commit, and is left PROGRAMMING; the commit of an array in a laid-out group with another
range shift traps (R197, R205, R208; DEDUCED, log 98). -/
def Bank.programArr (b : Bank) (site a rs n : Nat) (codes : List Byte) : Bank :=
  if b.parked a then b.modArr a fun x => { x.setStatus .programming with gref := none, stale := true }
  else
    let y := (b.arr a).program site (bits b.xvthr 5 0) n codes
    let c := b.setArr a y
    if y.status == .retired || !b.shiftIs a rs then c else c.sweep a rs (n + 910000)

/-- XGRP of a group as the manifest gives it: a layout that keeps its sets keeps ACT (R166, R177). -/
def newXgrp (old : Word) (xgv : Nat) (own : Bool) : Word :=
  let new : Word := BitVec.ofNat 64 (xgv + own.toNat * 2 ^ 26)
  let sets := fun (w : Word) => (grpValid w, grpDb w, grpBase w false, grpBase w true, grpKa w, grpNa w)
  if sets old == sets new then setBits new 15 15 (grpAct old).toNat else new

/-- Lay groups out in a bank: every array whose group membership changes becomes OFFLINE, one that a shard
was programmed into as well; no shard is programmed again for that (R167, R192; DESIGN CHOICE, log 67). -/
def Bank.layOut (b : Bank) (l : List GroupRec) : Bank :=
  let c := { b with xgrp := l.foldl (fun m g => SMap.put m 0 g.grp (newXgrp (SMap.get m 0 g.grp) g.xgv g.owns)) b.xgrp }
  ((List.range 128).filter fun a => b.members a != c.members a).foldl (fun c a => c.modArr a (·.setStatus .offline)) c

/-- OWN of every group for the image of the node being bound (R166, R190). -/
def Bank.ownGroups (b : Bank) (l : List GroupRec) : Bank :=
  { b with xgrp := (List.range 64).foldl (fun m g =>
      let w := SMap.get m 0 g
      SMap.put m 0 g (setBits w 26 26 (l.any fun r => r.grp == g && r.owns && grpValid w).toNat)) b.xgrp }

/-- Groups that lose their content where a shard of group g is programmed into arrays they held
(R189; DEDUCED, log 35). -/
def Bank.displaced (b : Bank) (g : Nat) (arrays : List Nat) : List Nat :=
  ((arrays.filterMap fun a => SMap.get? b.home a).map (· / 2)).filter (· != g)

/-- Program a shard's arrays in one bank; the arrays that do not commit are returned. XGRP is written at a
bind. -/
def Bank.shard (b : Bank) (site n : Nat) (g : GroupRec) (x : ShardRec) (data : List Byte) : Bank × List Nat :=
  let w : Word := BitVec.ofNat 64 g.xgv
  let arrays := grpArrays w x.setB
  let gone := b.displaced g.grp arrays
  let b := arrays.zipIdx.foldl (fun b (a : Nat × Nat) =>
    b.programArr site a.1 (grpRs w) (n + 1048576 * a.2) ((data.drop (131072 * a.2)).take 131072)) b
  ({ b with tags := SMap.set (gone.foldl SMap.del b.tags) g.grp x.tag
            home := arrays.foldl (fun m a => SMap.set m a (2 * g.grp + x.setB.toNat)) b.home },
   arrays.filter fun a => (b.arr a).status != .calibrated)

/-- A shard's arrays may be programmed in a bank: none is in the active set of a double-buffered group that is
laid out (R208), no cohort of the bank's core runs, and the bank is not being reclaimed (DESIGN CHOICE, log
67). -/
def State.mayProgram (s : State) (i : Nat) (g : GroupRec) (x : ShardRec) : Bool :=
  let b := s.bank i
  let arrays := grpArrays (BitVec.ofNat 64 g.xgv) x.setB
  (s.core i).run == .free && (s.core i).shadow.isEmpty && !s.parts.any (fun e => e.2.dying && e.2.sites.contains i) &&
    (List.range 64).all fun q =>
      let w := b.grp q
      !(grpValid w && grpDb w && arrays.any (grpArrays w (grpAct w)).contains)

/-- A shard's arrays become OFFLINE, and a single-set group loses its tag (R209). -/
def Bank.reject (b : Bank) (g : GroupRec) (x : ShardRec) : Bank :=
  let w : Word := BitVec.ofNat 64 g.xgv
  let b := (grpArrays w x.setB).foldl (fun b a => b.modArr a (·.setStatus .offline)) b
  if grpDb w then b else { b with tags := SMap.del b.tags g.grp }

/-- A shard is rejected in every bank of the partition (R209). -/
def State.rejectShard (s : State) (p h : Nat) (m : Image) (g : GroupRec) (x : ShardRec) : State :=
  let s := forAll (s.part p).sites s fun i s => s.modBank i (·.reject g x)
  let s := s.modPart p fun y =>
    { y with imgstat := setBits y.imgstat 23 16 stShard
             images := SMap.set y.images h { m with rejected := g.grp :: m.rejected } }
  s.notice p 1 ((grpArrays (BitVec.ofNat 64 g.xgv) x.setB).headD 0)

/-- A fetch of shard k that failed: it is fetched once more, then rejected (R209). -/
def State.missShard (s : State) (p h k : Nat) (m : Image) (g : GroupRec) (x : ShardRec) : State :=
  if (SMap.get? m.refetch k).isSome then
    s.rejectShard p h { m with unprogrammed := m.unprogrammed.erase k } g x
  else
    let n := s.later
    n.2.modPart p fun y => { y with images := SMap.set y.images h { m with refetch := SMap.set m.refetch k n.1 } }

/-- Shard k with its group. -/
def Image.shardOf (m : Image) (k : Nat) : Option (GroupRec × ShardRec) :=
  (m.shards[k]?).bind fun x => (m.groups.find? (·.grp == x.grp)).map fun g => (g, x)

/-- Shard k is not waiting to be fetched again. -/
def Image.fetchable (m : Image) (now k : Nat) : Bool :=
  match SMap.get? m.refetch k with
  | some t => decide (t ≤ now)
  | none => true

/-- SHARD_PROGRAM: fetch a shard, check its digest, program it in every bank of the partition, set the
content tag and report the arrays that did not commit. -/
def State.programShard (s : State) (p h k : Nat) : State :=
  match SMap.get? (s.part p).images h with
  | none => s
  | some m =>
    if !m.unprogrammed.contains k then s
    else
      match m.shardOf k with
      | none => s
      | some (g, x) =>
        if !m.fetchable s.now k || !(s.part p).sites.all fun i => s.mayProgram i g x then s
        else
          match s.readPart p x.va x.len with
          | none => s.missShard p h k m g x
          | some data =>
            if Config.sha384 data != x.digest then s.missShard p h k m g x
            else
              let s := s.modPart p fun y =>
                { y with images := SMap.set y.images h { m with unprogrammed := m.unprogrammed.erase k } }
              forAll (s.part p).sites s fun i s =>
                let r := (s.bank i).shard i s.fresh g x data
                let s := { s.setBank i r.1 with fresh := s.fresh + 16777216, pf := { s.pf with repDirty := true } }
                forAll r.2 s fun a s => s.notice p 1 a

def execShardProgram (part : Nat) (handle idx : Nat) (s : State) : Out :=
  .next (s.programShard part handle idx)

end Sys2Proof.Machine
end

