-- ==== Sys2Proof/Machine/Sched.lean ====
section
/-! DEFINITION. Launch queues and scheduling: start words, launches, choosing a variant and its pairs,
binding, start alignment, retirement, requeue, pre-emption, the watchdog (R81, R274 to R283, R295 to
R298, R306). -/

namespace Sys2Proof.Machine

/-! ## Start words (R274 to R276) -/

def wordHseq (v : Word) : Nat := bits v 15 0
def wordImg (v : Word) : Nat := bits v 23 16
def wordEset (v : Word) : Nat := bits v 27 24
def wordArg (v : Word) : Nat := bits v 55 28

/-- Address of a member's entry bundle in an entry set; 0 where it has none. -/
def Shape.entryOf (x : Shape) (i e : Nat) : Nat := x.entry.getD (16 * i + e) 0

/-- The entry set is in the image. -/
def Image.hasSet (m : Image) (e : Nat) : Bool :=
  m.shapes.any fun x => (List.range x.nm).any fun i => x.entryOf i e != 0

/-- LAUNCH[q]: accepted, or dropped with a status (R275). -/
def execLaunchWrite (part : Nat) (queue : Nat) (full : Bool) (v : Word) (s : State) : Out :=
  s.vfWrite part fun s =>
  let p := s.part part
  let q := p.queue queue
  let bad := bits v 63 56 != 0 || (match SMap.get? p.images (wordImg v) with
    | some m => !m.hasSet (wordEset v)
    | none => true)
  if !full then .next (s.dropWord part queue stBadstart 0 0)
  else if !q.en then .next (s.dropWord part queue stQoff (wordHseq v) v)
  else if q.words.length ≥ 64 then .next (s.dropWord part queue stQfull (wordHseq v) v)
  else if bad then .next (s.dropWord part queue stBadstart (wordHseq v) v)
  else
    let w : StartWord := { hseq := wordHseq v, img := wordImg v, eset := wordEset v, arg := wordArg v }
    let s := s.modPart part fun p =>
      p.setQueue queue { q with words := q.words ++ [w], lastHseq := wordHseq v }
    .next (s.qtr part { w0 := qtrHead 1 queue 0 (wordHseq v) 0, w1 := s.wcyc, w2 := v, w3 := 0 })

/-- A start word as it was offered. -/
def StartWord.word (w : StartWord) : Word :=
  BitVec.ofNat 64 (w.hseq + w.img * 2 ^ 16 + w.eset * 2 ^ 24 + w.arg * 2 ^ 28)

def execQctlErrClear (part : Nat) (queue : Nat) (s : State) : Out :=
  s.vfWrite part fun s => .next (s.modPart part fun p => p.setQueue queue { p.queue queue with err := false })

/-- The completion record of a queue's launch waits to be written. -/
def Part.recorded (p : Part) (q : Nat) : Bool :=
  p.records.any fun r => bits r.w0 7 0 == 1 && bits r.w0 18 16 == q

/-- Cohorts of a partition's queue. -/
def State.cohsOf (s : State) (p q : Nat) : List (Nat × Cohort) :=
  s.cohorts.filter fun e => e.2.part == p && e.2.queue == q

/-! ## Launches (R277) -/

/-- The argument block of a launch. -/
def State.argBlock (s : State) (p arg : Nat) : Option (List Word) :=
  let base := bits (s.part p).argbase 53 7 * 128
  (s.readPart p (base + 128 * arg) 128).map fun b => (fields b 8 16).map (BitVec.ofNat 64)

/-- Take the head start word of a queue without a launch. -/
def State.takeHead (s : State) (p q : Nat) : State :=
  let x := s.part p
  let y := x.queue q
  match y.launch, y.words with
  | none, w :: rest =>
    if x.dying || x.reclaim.isSome then s
    else
      let args := s.argBlock p w.arg
      let l : Launch := { hseq := w.hseq, img := w.img, eset := w.eset, arg := w.arg, args := args, nodes := []
                          rule := [], requeues := []
                          ending := if args.isNone then some stBadstart else none
                          fcause := 0, fnode := 0, fabt := 0, fxfr := 0, freq := 0 }
      s.setPart p (x.setQueue q { y with words := rest, launch := some l })
  | _, _ => s

/-- Where a node of a launch stands. -/
def Launch.node (l : Launch) (n : Nat) : NodeState := SMap.get l.nodes .waiting n

def Launch.setNode (l : Launch) (n : Nat) (x : NodeState) : Launch := { l with nodes := SMap.set l.nodes n x }

/-- Nodes that are ready to be bound. -/
def Launch.ready (l : Launch) (m : Image) : List Nat :=
  (List.range m.nodes.length).filter fun n => l.node n == .waiting && (match m.nodes[n]? with
    | some x => x.preds.all fun j => l.node j == .retired
    | none => false)

/-- Every node has retired, or the launch ends and none is bound. -/
def Launch.over (l : Launch) (m : Image) : Bool :=
  let all := List.range m.nodes.length
  if l.ending.isSome then all.all fun n => l.node n != .bound else all.all fun n => l.node n == .retired

/-- Drop the start words that an ABORT named, in queue order (R283; DEDUCED, log 31). -/
def State.dropAborted (s : State) (p q : Nat) : State :=
  let y := (s.part p).queue q
  let gone := y.words.take y.abort
  let s := s.modPart p fun x => x.setQueue q { y with words := y.words.drop y.abort, abort := 0 }
  forAll gone s fun w s => s.dropWord p q stAborted w.hseq w.word

/-- Queue the completion record of a launch that is over (R282); what an ABORT drops follows. -/
def State.finishLaunch (s : State) (p q : Nat) : State :=
  let x := s.part p
  match (x.queue q).launch with
  | none => s
  | some l =>
    if x.recorded q then s
    else
      match SMap.get? x.images l.img with
      | none => s
      | some m =>
        if l.over m then (s.addRecord p (l.record q (l.ending.getD stOk))).dropAborted p q else s

/-- ABORT: bound nodes end as faulting nodes, and once the launch in progress has ended, the start words
queued at the ABORT are dropped (R283). -/
def execQctlAbort (part : Nat) (queue : Nat) (s : State) : Out :=
  s.vfWrite part fun s =>
  let q := (s.part part).queue queue
  let s := s.modPart part fun p => p.setQueue queue { q with abort := q.words.length }
  if q.launch.isSome && !(s.part part).recorded queue then
    let s := s.modLaunch part queue fun l =>
      { l with ending := some stAborted, fnode := if l.fcause == 0 then 0 else l.fnode }
    let s := forAll (s.cohsOf part queue) s fun e s => s.endNode e.1 none (some stAborted)
    .next (s.finishLaunch part queue)
  else .next (s.dropAborted part queue)

/-! ## Hop tables (R145, R216) -/

def meshX (i : Nat) : Nat := i % 64 % 8
def meshY (i : Nat) : Nat := i % 64 / 8
def dist (a b : Nat) : Nat := max a b - min a b

/-- Real hop count of two sites, and whether the path crosses the bridge. -/
def realHop (a b : Nat) : Nat × Bool :=
  let y := dist (meshY a) (meshY b)
  if a / 64 = b / 64 then (dist (meshX a) (meshX b) + y, false)
  else if a < 64 then (7 - meshX a + meshX b + y, true)
  else (meshX a + (7 - meshX b) + y, true)

/-- Real hop count of a site to a pseudo-channel's stack. -/
def realMhop (a pch : Nat) : Nat :=
  let st := pch / 64
  let port := [(2, 0), (5, 0), (2, 7), (5, 7)].getD (st % 4) (0, 0)
  let y := dist (meshY a) port.2
  if a / 64 = st / 4 then dist (meshX a) port.1 + y
  else if a < 64 then 7 - meshX a + port.1 + y + 12
  else meshX a + (7 - port.1) + y + 12

/-- Site x satisfies the tables as the next member after those chosen. -/
def Shape.hopsOk (sh : Shape) (pchs : List Nat) (chosen : List Nat) (x : Nat) : Bool :=
  let m := chosen.length
  let ok := fun (i j a b : Nat) =>
    let e := sh.hops.getD (i * sh.nm + j) 0
    let h := realHop a b
    h.1 ≤ e % 128 && (!h.2 || e / 128 % 2 == 1)
  ok m m x x && (chosen.zipIdx.all fun e => ok m e.2 x e.1 && ok e.2 m e.1 x) &&
    (pchs.zipIdx.all fun e => e.2 ≥ sh.nlpc || realMhop x e.1 ≤ sh.mhops.getD (m * sh.nlpc + e.2) 0)

/-- The first assignment of n more members to distinct sites, in lexicographic order (R277). -/
def assign (ok : List Nat → Nat → Bool) (cands : List Nat) : Nat → List Nat → Option (List Nat)
  | 0, l => some l
  | n + 1, l => cands.findSome? fun x =>
      if !l.contains x && ok l x then assign ok cands n (l ++ [x]) else none

/-! ## Choosing a variant (R277, R306) -/

/-- Thermal class of a temperature in half degrees (R318). -/
def thermClass (t : Int) : Nat := if t < 170 then 0 else if t < 190 then 1 else if t < 210 then 2 else 3

/-- Class of a bank by its temperature; the class in force where none was measured. -/
def State.classNow (s : State) (i : Nat) : Nat :=
  match SMap.get? s.pf.bankTemp i with
  | some t => thermClass t
  | none => (s.bank i).therm.toNat

/-- A pair's bank meets the keys and tags of a shape (DEDUCED, log 44). With `later`, groups with shards
still to be programmed count as holding their tags. -/
def State.keysOk (s : State) (m : Image) (sh : Shape) (later : Bool) (i : Nat) : Bool :=
  let b := s.bank i
  let due := fun (g : Nat) => later && m.unprogrammed.any fun k => (m.shards[k]?).any (·.grp == g)
  sh.digital ||
    ((match sh.lat with
      | some h => (s.bank i).narrow == h
      | none => true) &&
     (match sh.therm with
      | some t => s.classNow i ≤ t
      | none => true) &&
     m.groups.all fun g => (SMap.get? b.tags g.grp == some g.tag || due g.grp) && !m.rejected.contains g.grp)

/-- Logical pseudo-channels of a shape (R214). -/
def Image.lpcs (m : Image) (sh : Shape) : List Nat :=
  if sh.uses.isEmpty then ((m.places.map (·.lpc)).eraseDups).mergeSort (· ≤ ·) else sh.uses

/-- Every placement and used pseudo-channel names what the grant has. -/
def Image.placesOk (m : Image) (sh : Shape) (npch : Nat) : Bool :=
  (m.places.all fun x => x.lpc < npch && x.row + x.rows ≤ 49152) && (m.lpcs sh).all (· < npch)

/-- Every member has an entry in the set. -/
def Shape.entersAll (sh : Shape) (e : Nat) : Bool := (List.range sh.nm).all fun i => sh.entryOf i e != 0

/-- Crossbar groups that the image of a pre-empted cohort names (R176). -/
def State.shadowGroups (s : State) (i : Nat) : List Nat :=
  (((s.core i).shadow.filterMap fun x => s.coh? x.coh).map fun c =>
    match SMap.get? (s.part c.part).images c.img with
    | some m => m.groups.map (·.grp)
    | none => []).flatten

/-- Effects of calibration operations are pending on pair i for a cohort that is, or is to be,
pre-empted: the arrays concerned are guarded, and what a program touches is not known (R198; DEDUCED, log 34). -/
def State.pendingEffects (s : State) (i : Nat) : Bool :=
  (s.bank i).pend.any fun p => (s.coh? p.coh).isSome

/-- A pair is free for a node of this shape: no cohort lives there, a pre-empted one shares no group with
it and has no effect pending in the bank (DEDUCED, log 34). A retraining bus bars no bind: the start waits for it
(log 53). -/
def State.pairFree (s : State) (m : Image) (sh : Shape) (victim i : Nat) : Bool :=
  let c := s.core i
  let free := c.run == .free || c.run == .bound victim
  let groups := s.shadowGroups i ++ (if c.run == .free then [] else (match s.coh? victim with
    | some v => (match SMap.get? (s.part v.part).images v.img with
      | some w => w.groups.map (·.grp)
      | none => [])
    | none => []))
  free && SMap.get s.bam 0 i == 0 && !s.pendingEffects i && (sh.digital || !m.groups.any fun g => groups.contains g.grp)

/-- No cohort number names no cohort. -/
def noCoh : Nat := 4096

/-- The pairs that a variant takes now, those of cohort `victim` counted as free. -/
def State.fits (s : State) (p : Nat) (m : Image) (eset victim : Nat) (sh : Shape) : Option (List Nat) :=
  let x := s.part p
  let phys := (m.lpcs sh).map fun l => x.pchs.getD l 0
  let busy := phys.any fun c => s.cohorts.any fun e => e.2.pchs.contains c
  let full := (List.range 16).all fun n => (s.coh? (16 * p + n)).isSome
  if !m.placesOk sh x.pchs.length || !sh.entersAll eset || busy || full then none
  else
    let cands := x.sites.filter fun i => s.pairFree m sh victim i && s.keysOk m sh false i
    assign (sh.hopsOk x.pchs) cands sh.nm []

/-- The status that a variant fails with under the whole grant; none: it can fit (R277). -/
def State.refusal (s : State) (p : Nat) (m : Image) (eset : Nat) (sh : Shape) : Option Nat :=
  let x := s.part p
  let live := x.sites.filter fun i => SMap.get s.bam 0 i == 0
  let keyed := live.filter (s.keysOk m sh true ·)
  let place := fun l => (assign (sh.hopsOk x.pchs) l sh.nm []).isSome
  if !m.placesOk sh x.pchs.length then some stBadimg
  else if !sh.entersAll eset then some stNovar
  else if place keyed then none
  else if (keyed.length < sh.nm && keyed.length < live.length) || place live then some stNovar
  else some stNoplace

/-- The variants of a node in the order in which they are tried (R306). -/
def variantOrder (rule : Option Requeue) (l : List (Nat × Shape)) : List (Nat × Shape) :=
  let digital := l.filter (·.2.digital)
  match rule with
  | none => l
  | some .any => l
  | some .digital => digital
  | some .half => (l.filter fun v => v.2.lat != some false) ++ digital
  | some (.therm c) =>
    (l.filter fun v => match v.2.therm with
      | some t => t ≥ c
      | none => true) ++ digital

/-- Variants of a node with their shapes. -/
def Image.variants (m : Image) (n : Nat) : List (Nat × Shape) :=
  match m.nodes[n]? with
  | some x => x.vars.zipIdx.filterMap fun v => (m.shapes[v.1]?).map fun sh => (v.2, sh)
  | none => []

/-- The variant and pairs that node n of a launch takes now. -/
def State.choose (s : State) (p : Nat) (l : Launch) (m : Image) (victim n : Nat) :
    Option (Nat × Shape × List Nat) :=
  (variantOrder (SMap.get? l.rule n) (m.variants n)).findSome? fun v =>
    (s.fits p m l.eset victim v.2).map fun sites => (v.1, v.2, sites)

/-- A group that a node's image names was rejected, for this image or the one that owns the group, and no
DIGITAL variant is there (R189, R209). -/
def Part.shardless (x : Part) (m : Image) (n : Nat) : Bool :=
  (m.groups.any fun g => x.images.any fun e => e.2.rejected.contains g.grp) && !(m.variants n).any (·.2.digital)

/-- The status with which a node that can never fit ends its launch: the first variant's, SHARD for the
tags of a rejected group; NOVAR for a requeued node (R209, R277, R306). -/
def State.hopeless (s : State) (p : Nat) (l : Launch) (m : Image) (n : Nat) : Option Nat :=
  let rule := SMap.get? l.rule n
  let vs := variantOrder rule (m.variants n)
  match vs with
  | [] => some stNovar
  | v :: _ =>
    if vs.all fun v => (s.refusal p m l.eset v.2).isSome then
      if rule.isSome then some stNovar
      else
        let st := s.refusal p m l.eset v.2
        if st == some stNovar && (s.part p).shardless m n then some stShard else st
    else none

/-! ## The order of service (R279) -/

/-- Live pairs of the unit. -/
def State.livePairs (s : State) : Nat := ((List.range 128).filter fun i => SMap.get s.bam 0 i == 0).length

/-- Live pairs of a partition. -/
def State.livesOf (s : State) (p : Nat) : Nat :=
  ((s.part p).sites.filter fun i => SMap.get s.bam 0 i == 0).length

/-- Allowance of a partition (R319). -/
def State.allowance (s : State) (p : Nat) : Nat :=
  (s.pf.capNow - min 300 Config.pfix) * s.livesOf p / max 1 s.livePairs

/-- Queues of a priority, from the one after the last served. -/
def Part.turns (x : Part) (prio : Nat) : List Nat :=
  let last := SMap.get x.served 7 prio
  ((List.range 8).map fun k => (last + 1 + k) % 8).filter fun q => (x.queue q).prio == prio

/-- Queues in the order in which they are served. -/
def Part.serviceOrder (x : Part) : List Nat := ((List.range 8).reverse.map x.turns).flatten

/-- The management core may bind nodes of a partition. -/
def State.mayBind (s : State) (p : Nat) : Bool :=
  let x := s.part p
  x.present && !x.dying && x.reclaim.isNone && x.pp ≤ s.allowance p

/-- The launch of a queue that binds nodes, with its image. -/
def Part.binding (x : Part) (q : Nat) : Option (Launch × Image) :=
  match (x.queue q).launch with
  | some l => if l.ending.isSome then none else (SMap.get? x.images l.img).map fun m => (l, m)
  | none => none

/-- The next node to bind: queue and node. -/
def State.nextBind (s : State) (p : Nat) : Option (Nat × Nat) :=
  if !s.mayBind p then none
  else
    (s.part p).serviceOrder.findSome? fun q =>
      match (s.part p).binding q with
      | some (l, m) => ((l.ready m).find? fun n => (s.choose p l m noCoh n).isSome).map fun n => (q, n)
      | none => none

/-! ## Binding (R277, R278) -/

/-- The mailboxes of a launch under the partition's map (R99, R213). -/
def mailboxes (m : Image) (pchs : List Nat) (args : List Word) : SMap Word :=
  (List.range 16).foldl (fun t n =>
    let w := args.getD n 0
    let l := bits w 33 25
    let v := if m.mbrel / 2 ^ n % 2 = 1 then setBits w 33 25 (pchs.getD l l) else w
    if m.mbname / 2 ^ n % 2 = 1 then SMap.put t 0 n v else t) []

/-- The register context at node entry: what no rule sets keeps its value (R53, R88, R97, R99, R149, R155,
R242, R243; DEDUCED, log 13). -/
def Ctx.atEntry (c : Ctx) (mb : SMap Word) (pc : Nat) : Ctx :=
  { Ctx.reset with
    s := c.s, v := c.v, p := c.p, nctl := c.nctl, stride := c.stride, tile := c.tile, poison := c.poison
    badLine := c.badLine
    mb := mb, pc := BitVec.ofNat 54 pc }

/-- CID (R98). -/
def cidWord (lcore member num part site : Nat) (half : Bool) (therm : BitVec 2) : Word :=
  BitVec.ofNat 64 (lcore + member * 2 ^ 8 + num * 2 ^ 16 + part * 2 ^ 20 + site * 2 ^ 24 +
    half.toNat * 2 ^ 32 + therm.toNat * 2 ^ 33)

/-- 4 KiB granules of the reserved bytes that a node places over a pre-empted context, with their uncorrectable
words (R67, R135, R297). -/
def Core.evict (c : Core) (reserved : Nat) : Core :=
  match c.shadow with
  | [] => c
  | x :: rest =>
    let bases := (List.range ((reserved + 4095) / 4096)).map (4096 * ·)
    let new := bases.filter fun b => !x.spad.any (·.1 == b)
    { c with shadow := { x with spad := x.spad ++ new.map fun b => (b, memBytes c.spad b 4096)
                                bad := x.bad ++ c.badWord.filter fun w => new.contains (w / 512 * 4096) } :: rest }

/-- Bind record word 0. -/
def bindWord (c : Cohort) : Word :=
  BitVec.ofNat 64 (c.node + c.hseq * 2 ^ 16 + c.queue * 2 ^ 32 + c.num * 2 ^ 35 + c.var * 2 ^ 39 +
    c.img * 2 ^ 47 + c.members.length * 2 ^ 55 + c.req.toNat * 2 ^ 62)

/-- The cohort of a bind. -/
def State.newCohort (s : State) (p q n num : Nat) (l : Launch) (m : Image) (var : Nat) (sh : Shape)
    (sites : List Nat) (lead : Nat) : Cohort :=
  let lpcs := m.lpcs sh
  { part := p, num := num, queue := q, node := n, hseq := l.hseq, img := l.img, var := var
    shape := (((m.nodes[n]?).map (·.vars)).getD []).getD var 0
    req := (SMap.get? l.rule n).isSome, eset := l.eset, members := sites
    pchs := lpcs.map fun k => (s.part p).pchs.getD k 0
    hops := sh.hops, mhops := sh.mhops, lpcs := lpcs
    spansDies := sites.any (· < 64) && sites.any (· ≥ 64)
    bound := s.now, wstart := s.now + lead, w0 := none, ccyc := 0, relCcyc := 0, turn := false
    adv := false, st := .starting, holds := [], holdStart := none, holdCode := 0
    holdSaid := false, resuming := false, releaseAt := none, closeAt := none, held := 0, requeue := none, status := none, preempt := 0, wdogUsed := 0
    restart := s.now + lead }

/-- Write a member's core and bank at a bind: the layout of the groups of a node that names them, OWN, the
class and width of the BAM (R166, R182, R185, R187; DEDUCED, log 14). A member whose own section has no
`_handler` has no handler; its reservations are read to evict what they cover (R67, R297). -/
def State.dispatch (s : State) (k i member : Nat) (c : Cohort) (l : Launch) (m : Image) (sh : Shape) : State :=
  let x := s.part c.part
  let therm := BitVec.ofNat 2 (s.classNow i)
  let s := s.modBank i fun b =>
    { (if sh.digital then b else b.layOut m.groups).ownGroups m.groups with therm := therm, half := b.narrow }
  let mb := mailboxes m x.pchs (l.args.getD [])
  let h := sh.handler.getD member 0
  let e := sh.entryOf member l.eset
  s.modCore i fun y =>
    { y.evict (sh.scratch.getD member 0) with
      run := .bound k, ctx := y.ctx.atEntry mb e, locks := []
      handlerPc := if h = 0 then none else some (BitVec.ofNat 54 h), entryPc := BitVec.ofNat 54 e
      cid := cidWord (x.sites.idxOf i) member c.num c.part i (s.bank i).half (s.bank i).therm }

/-- Bind node n of queue q. The links of a cohort on both dies are aligned some time after the start
cycle (R81; DESIGN CHOICE, log 15). -/
def State.bindNode (s : State) (p q n : Nat) : State :=
  match (s.part p).binding q with
  | none => s
  | some (l, m) =>
    if !(l.ready m).contains n then s
    else
      match s.choose p l m noCoh n, (List.range 16).find? fun j => (s.coh? (16 * p + j)).isNone with
      | some (var, sh, sites), some num =>
        let a := s.draw
        let b := a.2.draw
        let lead := 1000 + Config.bindLead a.1 % 2001
        let k := 16 * p + num
        let c := s.newCohort p q n num l m var sh sites lead
        let c := if c.spansDies then { c with releaseAt := some (c.wstart + Config.latency b.1) } else c
        let s := b.2.setCoh k c
        let s := forAll sites.zipIdx s fun e s => s.dispatch k e.1 e.2 c l m sh
        let s := s.modLaunch p q fun y =>
          let y := y.setNode n .bound
          { y with rule := SMap.del y.rule n }
        let s := s.modPart p fun y => { y with served := SMap.set y.served (y.queue q).prio q }
        let s := s.qtrCoh c 3 (bindWord c) (s.wcyc + BitVec.ofNat 64 lead)
        if c.req then s.qtrCoh c 9 (BitVec.ofNat 64 var) 0 else s
      | _, _ => s

def execNodeBind (part : Nat) (queue node : Nat) (s : State) : Out :=
  .next (if s.mayBind part then s.bindNode part queue node else s)

/-! ## Start alignment (R81, R231, R330) -/

/-- Every member's entry lines are there. -/
def State.entriesIn (s : State) (c : Cohort) : Bool := c.members.all fun i => (s.lacks i).isNone

/-- No refresh that began in the wait is in progress. -/
def State.guardsIdle (s : State) (c : Cohort) : Bool :=
  c.pchs.all fun p => match (s.pch p).custody with
    | some u => u.busyUntil ≤ s.now
    | none => true

/-- Nothing but the guards keeps a starting cohort from its entry bundles: members staged, links aligned,
buses up (DESIGN CHOICE, log 53). -/
def State.startReady (s : State) (c : Cohort) : Bool :=
  c.wstart ≤ s.now && (match c.releaseAt with
    | some t => t ≤ s.now
    | none => true) && s.entriesIn c && c.members.all fun i => (s.bank i).retraining.isNone

/-- The entry bundles can issue in this wall cycle. -/
def State.startDue (s : State) (k : Nat) : Bool :=
  match s.coh? k with
  | none => false
  | some c => c.st == .starting && s.startReady c && s.guardsIdle c

/-- The wait after the start cycle is a hold, which each member's buffer records; its code is open, and a
retrain that was requested before W0 belongs to the wait (DESIGN CHOICE, log 53). -/
def State.startHold (s : State) (k : Nat) : State :=
  match s.coh? k with
  | none => s
  | some c =>
    if c.st != .starting || s.now < c.wstart || c.holdStart.isSome || s.startDue k then s
    else
      let n := s.draw
      let s := (n.2.setCoh k { c with holds := [.start], holdStart := some s.now
                                      holdCode := Config.choice n.1 % 16 }).sayHold k
      forAll c.pchs s fun p s => s.modPch p (·.take 0 s.now)

/-- START_ALIGNMENT: cohort cycle 0 begins in this wall cycle. -/
def State.startAlign (s : State) (k : Nat) : State :=
  match s.coh? k with
  | none => s
  | some c =>
    if !s.startDue k then s
    else
      let s := (s.sayRelease k).setCoh k
        { c with st := .running, w0 := some s.now, ccyc := 0, relCcyc := 0, holds := []
                 holdStart := none, holdSaid := false, resuming := false, releaseAt := none }
      let s := forAll c.pchs s fun p s => s.modPch p fun x =>
        { x with banks := [], acts := [], cols := [], lastRd := none, lastWr := none, lastRef := none
                 rowAt := none, colAt := none, custody := none, frame := none }
      match SMap.get? (s.part c.part).images c.img with
      | none => s
      | some m => forAll c.members.zipIdx s fun e s =>
          s.modCore e.1 (·.placeData m (s.part c.part).pchs c.shape e.2)

def execStartAlignment (coh : Nat) (s : State) : Out := .next (s.startAlign coh)

/-! ## The end of a node (R93, R232, R258, R306) -/

/-- Nothing of the cohort is left on member i: no untimed operation, no pending bank effect. -/
def State.drained (s : State) (k i : Nat) : Bool :=
  !(s.core i).uops.any (·.coh == k) && !(s.bank i).pend.any (·.coh == k)

/-- A pseudo-channel has no command under way: driven ones, refreshes included, have completed (R232). -/
def Pch.quiet (p : Pch) (now : Nat) : Bool :=
  p.path.isEmpty && p.landing.isEmpty && p.jobs.isEmpty && decide (p.refUntil ≤ now)

/-- Wall cycles that the guard takes to close the banks, at most 94 with one open, and 16 for each valid
line after that (R232; DESIGN CHOICE, log 70). -/
def Pch.closing (p : Pch) (n : Nat) : Nat :=
  let open_ := allBanks.any fun b => match (p.bankTime b).st with
    | .opened _ => true
    | _ => false
  (if open_ then Config.latency n % 95 else 0) + 16 * p.valid.length

/-- Once every member has halted and every driven command has completed, the guards close (R232). -/
def State.beginClose (s : State) (k : Nat) : State :=
  match s.coh? k with
  | none => s
  | some c =>
    if c.st == .running && c.closeAt.isNone && c.holdStart.isNone && (c.members.all fun i => (s.ctx i).halted) &&
        c.pchs.all (fun p => (s.pch p).quiet s.now) then
      let n := s.draw
      let t := (c.pchs.map fun p => (s.pch p).closing (n.1 + p)).foldl max 0
      { n.2 with fresh := n.2.fresh + 512 }.setCoh k { c with closeAt := some (s.now + t) }
    else s

/-- The untimed and memory side of a node has ended. -/
def State.quietNode (s : State) (k : Nat) (c : Cohort) : Bool :=
  c.members.all (s.drained k ·) && c.pchs.all (fun p => (s.pch p).quiet s.now) &&
    !(s.part c.part).retries.any (·.coh == k)

/-- A node can retire, or an ended one can be cleared away. -/
def State.retireDue (s : State) (k : Nat) : Bool :=
  match s.coh? k with
  | none => false
  | some c =>
    match c.st with
    | .running => c.holdStart.isNone && s.quietNode k c && c.closeAt.any (· ≤ s.now) && c.members.all fun i =>
        let x := s.ctx i
        x.halted && x.flight.isEmpty && x.acc.isEmpty && x.bev.isEmpty && x.handler.isNone
    | .ending => s.quietNode k c
    | _ => false

/-- Release a cohort's cores, banks and pseudo-channels. -/
def State.unbind (s : State) (k : Nat) (c : Cohort) : State :=
  let s := forAll c.members s fun i s =>
    let s := s.modCore i fun x => if x.run == .bound k then { x with run := .free, locks := [] } else x
    s.modBank i fun b => { b with occ := b.occ.filter (·.coh != k), xmvs := b.xmvs.filter (·.coh != k) }
  let s := forAll c.pchs s fun p s => s.modPch p (Pch.fence · s.now (c.st == .running))
  { s with cohorts := SMap.del s.cohorts k }

/-- NODE_RETIRE: the node has run to its end, or has ended for good. -/
def execNodeRetire (coh : Nat) (s : State) : Out :=
  match s.coh? coh with
  | none => .next s
  | some c =>
    if !s.retireDue coh || c.requeue.isSome then .next s
    else
      let s := (s.unbind coh c).modLaunch c.part c.queue fun l =>
        let l := l.setNode c.node .retired
        if c.st == .ending then
          { l with ending := some (l.ending.getD (c.status.getD stFault))
                   fnode := if l.ending.isNone && l.fcause == 0 && c.status == some stTimeout then c.node else l.fnode }
        else l
      .next s

/-- Whether an ended node is bound again (R306). -/
def State.requeues (s : State) (c : Cohort) : Bool :=
  match (s.part c.part).binding c.queue with
  | none => false
  | some (l, m) =>
    let ovl := match m.nodes[c.node]? with
      | some x => x.ovl
      | none => true
    !ovl && SMap.get l.requeues 0 c.node < 3

/-- NODE_REQUEUE: the ended node waits to be bound again, or ends its launch with FAULT. -/
def execNodeRequeue (coh : Nat) (s : State) : Out :=
  match s.coh? coh with
  | none => .next s
  | some c =>
    match c.requeue with
    | none => .next s
    | some r =>
      if !s.retireDue coh then .next s
      else
        let again := s.requeues c
        .next ((s.unbind coh c).modLaunch c.part c.queue fun l =>
          if again then
            { l.setNode c.node .waiting with
              rule := SMap.set l.rule c.node r, freq := l.freq + 1
              requeues := SMap.set l.requeues c.node (SMap.get l.requeues 0 c.node + 1) }
          else { l.setNode c.node .retired with ending := some (l.ending.getD stFault) })

/-- End the launch of a queue whose ready node can never fit. -/
def State.failLaunch (s : State) (p q : Nat) : State :=
  match (s.part p).binding q with
  | none => s
  | some (l, m) =>
    match (l.ready m).findSome? (s.hopeless p l m ·) with
    | none => s
    | some st => s.modLaunch p q fun l => { l with ending := some st }

/-- THAW: the faulting node of a frozen core has ended (R295). -/
def State.thawDue (s : State) (i : Nat) : Bool :=
  match (s.core i).run with
  | .frozen k => (match s.coh? k with
    | some c => !c.members.contains i
    | none => true)
  | _ => false

def execThaw (site : Nat) (s : State) : Out :=
  .next (if s.thawDue site then s.modCore site fun c => { c with run := .free } else s)

/-! ## The watchdog (R280) -/

/-- Wall cycles counted against WDOG. -/
def State.wdogCount (s : State) (c : Cohort) : Nat := c.wdogUsed + (s.now - c.restart)

def State.wdogDue (s : State) (k : Nat) : Bool :=
  match s.coh? k with
  | none => false
  | some c =>
    match (SMap.get? (s.part c.part).images c.img).bind fun m => m.nodes[c.node]? with
    | none => false
    | some n => n.wdog != 0 && 2000 * n.wdog < s.wdogCount c &&
        (c.st == .running || c.st == .starting)

def execWdogTimeout (coh : Nat) (s : State) : Out :=
  match s.coh? coh with
  | none => .next s
  | some c =>
    if !s.wdogDue coh then .next s
    else .next (s.endNode coh none (some stTimeout))

/-! ## Pre-emption (R296 to R298) -/

/-- Ask for a cohort's pre-emption at its next bundle boundary: the reasons add up. -/
def State.askPreempt (s : State) (k why : Nat) : State :=
  s.modCoh k fun c => if c.st == .running || c.st == .starting then { c with preempt := c.preempt ||| why } else c

/-- Bytes of an evicted context with its matrix-unit image: weights, scales, and 16 for the format and the
time left of a TWL (R100, R155; DESIGN CHOICE, log 69). -/
def evictedContext : Nat := 229376 + 4096 + 128 + 16

/-- Bytes of the granules of core i that a node's reservation evicts beside those that are evicted already. -/
def Core.evictable (c : Core) (fresh : Bool) (reserved : Nat) : Nat :=
  let gone := fun (b : Nat) => !fresh && (c.shadow.head?).any fun x => x.spad.any (·.1 == b)
  if !fresh && c.shadow.isEmpty then 0
  else 4096 * ((List.range ((reserved + 4095) / 4096)).filter fun k => !gone (4096 * k)).length

/-- Bytes that a cohort's pre-emption for a node of this shape would evict: contexts where both slots are
taken, and the node's reservations over pre-empted contexts, the cohort's and earlier ones (R297). -/
def State.evictBytes (s : State) (c : Cohort) (sh : Option (Shape × List Nat)) : Nat :=
  (c.members.map fun i =>
    if ((s.core i).shadow.filter (!·.evicted)).length < 2 then 0 else evictedContext).sum +
  (match sh with
   | some (x, sites) => (sites.zipIdx.map fun e =>
       (s.core e.1).evictable (c.members.contains e.1) (x.scratch.getD e.2 0)).sum
   | none => 0)

/-- Running cohorts of a partition below a priority, the lowest first. -/
def State.victims (s : State) (p prio : Nat) : List (Nat × Cohort) :=
  let x := s.part p
  (s.cohorts.filter fun e => e.2.part == p && e.2.st == .running && (x.queue e.2.queue).prio < prio).mergeSort
    fun a b => (x.queue a.2.queue).prio ≤ (x.queue b.2.queue).prio

/-- The cohort to pre-empt for a ready node of a queue with PRE = 1 that waits for pairs (R279)
(DESIGN CHOICE, log 16). -/
def State.wantsPairs (s : State) (p q : Nat) : Option Nat :=
  let x := s.part p
  match x.binding q with
  | none => none
  | some (l, m) =>
    if !(x.queue q).pre || !s.mayBind p then none
    else
      (l.ready m).findSome? fun n =>
        if (s.choose p l m noCoh n).isSome then none
        else
          ((s.victims p (x.queue q).prio).find? fun v => match s.choose p l m v.1 n with
            | some (_, sh, sites) => s.evictBytes v.2 (some (sh, sites)) ≤ 3670016
            | none => false).map (·.1)

/-- The context as it is saved: between two repeats RPOS records the next one (R51; DEDUCED, log 37);
open regions are committed-through and hold nothing (R298). -/
def Ctx.shelve (c : Ctx) : Ctx :=
  { c with tstat := if c.rpos = 0 then c.tstat else setBits (setBits c.tstat 15 8 c.rpos) 2 0 0
           regions := c.regions.map fun r => { r with committed := true, entries := [] }, ready := false }

/-- Put a saved context away: with both slots taken, the older one's context is evicted (R297). -/
def putAway (l : List Saved) (x : Saved) : List Saved :=
  let held := l.filter (!·.evicted)
  let l := if held.length < 2 then l
    else l.zipIdx.map fun e =>
      if e.2 = (l.zipIdx.foldl (fun a f => if f.1.evicted then a else f.2) 0) then { e.1 with evicted := true } else e.1
  x :: l

/-- A cohort asked for pre-emption stands at a bundle boundary, unheld. -/
def State.preemptDue (s : State) (k : Nat) : Bool :=
  match s.coh? k with
  | some c => c.st == .running && c.turn && c.preempt != 0 && c.holdStart.isNone && s.evictBytes c none ≤ 3670016
  | none => false

/-- PREEMPT: every member's context moves into a shadow slot, and the guards take custody; a member
whose afterglow does not fit takes cause 0x1E (R289; DEDUCED, log 39). -/
def State.preemptNow (s : State) (k : Nat) : State :=
  match s.coh? k with
  | none => s
  | some c =>
    if !s.preemptDue k then s
    else
      match c.members.find? fun i => s.afterglow i > 96 with
      | some i =>
        let x := s.ctx i
        s.decodeTrap i 0x1E 0 x.pc x.rpos
      | none =>
        let n := s.later
        let s := forAll c.members n.2 fun i s =>
          (s.traceRec i 11 0 0).modCore i fun x =>
            { x with shadow := putAway x.shadow
                       { coh := k, ctx := x.ctx.shelve, cid := x.cid, locks := x.locks, handlerPc := x.handlerPc
                         entryPc := x.entryPc, half := (s.bank i).half, therm := (s.bank i).therm
                         evicted := false, spad := [], bad := [] }
                     run := .free, locks := [] }
        let s := s.setCoh k { c with st := .preempted, turn := false, adv := false
                                     wdogUsed := s.wdogCount c, restart := n.1 }
        forAll c.pchs s fun p s => s.modPch p (·.take c.ccyc s.now)

def execPreempt (coh : Nat) (s : State) : Out := .next (s.preemptNow coh)

/-- The class of a bank has returned to that of the pre-empted context of cohort k (R187). -/
def State.coolAgain (s : State) (k i : Nat) : Bool :=
  match (s.core i).shadow.find? (·.coh == k) with
  | some x => s.classNow i ≤ x.therm.toNat
  | none => true

/-- The members whose bank is above the class of the pre-empted context. -/
def State.hotMembers (s : State) (k : Nat) (c : Cohort) : List Nat := c.members.filter (!s.coolAgain k ·)

/-- A pre-empted cohort may resume: no bank is above the class that its node runs in, whatever else it was
pre-empted for, and the power cap lets it (R187, R319). -/
def State.causeGone (s : State) (k : Nat) (c : Cohort) : Bool :=
  (s.hotMembers k c).isEmpty && (!c.asked capCause || (match (s.part c.part).underSince with
    | some t => t + 2000000 ≤ s.now
    | none => false))

/-- The pairs of a pre-empted cohort are live and free, and its contexts are the last put away there. -/
def State.pairsBack (s : State) (k : Nat) (c : Cohort) : Bool :=
  c.members.all fun i =>
    SMap.get s.bam 0 i == 0 && (s.core i).run == .free && (s.bank i).retraining.isNone && (match (s.core i).shadow with
      | x :: _ => x.coh == k
      | [] => false)

/-- A pre-empted cohort resumes. -/
def State.resumeDue (s : State) (k : Nat) : Bool :=
  match s.coh? k with
  | none => false
  | some c =>
    c.st == .preempted && c.restart ≤ s.now && s.causeGone k c && s.pairsBack k c

/-- A member's context returns, with the width and the class that its node was bound with, and OWN as its
image has it (R166, R185, R187, R190). -/
def State.restoreMember (s : State) (k i : Nat) (groups : List GroupRec) : State :=
  match (s.core i).shadow with
  | [] => s
  | y :: rest =>
    (s.modBank i fun b => { b.ownGroups groups with half := y.half, therm := y.therm }).modCore i fun x =>
      (y.spad.foldl (fun (c : Core) (g : Nat × List Byte) => c.putBlock g.1 g.2)
        { x with run := .bound k, ctx := y.ctx, shadow := rest, cid := y.cid, locks := y.locks
                 handlerPc := y.handlerPc, entryPc := y.entryPc }).markWords y.bad

/-- RESUME: the contexts return; the guards reopen the rows, and release follows as after a hold
(R229, R231). -/
def State.resumeNow (s : State) (k : Nat) : State :=
  match s.coh? k with
  | none => s
  | some c =>
    if !s.resumeDue k then s
    else
      let groups := match SMap.get? (s.part c.part).images c.img with
        | some m => m.groups
        | none => []
      let s := forAll c.members s fun i s => s.restoreMember k i groups
      s.setCoh k { c with st := .running, preempt := 0, holdStart := some s.now, holdSaid := false
                          resuming := true, releaseAt := none, restart := s.now }

def execResume (coh : Nat) (s : State) : Out := .next (s.resumeNow coh)

/-- A pre-empted node whose bank is too hot when it is considered is requeued, onto a variant for the new class
of the banks that are too hot (R187, R306). A node pre-empted for its bank's temperature is considered once its
contexts are saved, another when it would resume (DESIGN CHOICE, log 97). -/
def State.tooHot (s : State) (k : Nat) : State :=
  match s.coh? k with
  | none => s
  | some c =>
    let hot := s.hotMembers k c
    if c.st == .preempted && c.restart ≤ s.now && !hot.isEmpty && (c.asked heatCause || s.pairsBack k c) then
      let cls := (hot.map fun i => s.classNow i).foldl max 0
      s.endNode k (some (.therm cls)) none
    else s

/-! ## What the management core does by itself -/

/-- One round over the queues of a partition. -/
def State.manageQueues (s : State) (p : Nat) : State :=
  forAll (List.range 8) s fun q s =>
    let s := (s.takeHead p q).failLaunch p q
    let s := match s.wantsPairs p q with
      | some k => s.askPreempt k queueCause
      | none => s
    s.finishLaunch p q

end Sys2Proof.Machine
end

