-- ==== Sys2Proof/Machine/Partition.lean ====
section
/-! DEFINITION. Partitions: creation, resizing, release, reclamation, function-level reset, and the
bank availability map (R18, R19, R182, R183, R268, R269, R285). -/

namespace Sys2Proof.Machine

/-! ## What is free (R16, R18) -/

def State.allParts (s : State) : List Part := s.parts.map (·.2)

/-- Live sites that belong to no partition and are not being reclaimed. -/
def State.freeSites (s : State) : List Nat :=
  (List.range 128).filter fun i => SMap.get s.bam 0 i == 0 &&
    !s.allParts.any fun p => (p.present && p.sites.contains i) || p.reclaimPairs.contains i

/-- A pseudo-channel that a request for partition `but` cannot have: another partition's, or one that is
being reclaimed and that the partition does not keep. -/
def State.pchTaken (s : State) (c : Nat) (but : Nat) : Bool :=
  s.parts.any fun e =>
    let has := e.2.present && e.2.pchs.contains c
    if e.1 = but then !has && e.2.reclaimPchs.contains c else has || e.2.reclaimPchs.contains c

/-- Free granules of an engine. -/
def State.freeGran (s : State) (eng : Nat) : List Nat :=
  (List.range 512).filter fun g =>
    !s.allParts.any fun p => (p.present && p.granAt.contains (eng, g)) || p.reclaimGran.contains (eng, g)

/-- Shares of the other partitions. -/
def State.sharesBut (s : State) (p : Nat) : Nat :=
  (s.parts.map fun e => if e.2.present && e.1 != p then e.2.share else 0).foldl (· + ·) 0

/-! ## The request (R269) -/

/-- A request record. -/
structure PmReq where
  op : Nat
  part : Nat
  pairs : Nat
  share : Nat
  gran : Nat
  pchs : List Nat
  /-- a reserved bit is set -/
  junk : Bool
  deriving DecidableEq, Repr

/-- The record at PMADDR, read when the request is carried out (DESIGN CHOICE, log 87). -/
def State.pmReq (s : State) : PmReq :=
  let a := bits s.pf.pmaddr 51 3 * 8
  let w : Word := BitVec.ofNat 64 (hostWord s.host a 8)
  let map : BitVec 512 := BitVec.ofNat 512 (hostWord s.host (a + 8) 64)
  { op := bits w 1 0, part := bits w 7 4, pairs := bits w 14 8, share := bits w 22 16, gran := bits w 33 24
    pchs := (List.range 512).filter (bitAt map ·)
    junk := bits w 3 2 != 0 || bits w 15 15 != 0 || bits w 23 23 != 0 || bits w 63 34 != 0 }

/-- The checks of a create or a resize that end with BADREQ. -/
def PmReq.bad (r : PmReq) : Bool :=
  r.junk || r.pchs.any mgmtPch || r.pairs = 0 || r.pairs > 120 || r.share = 0 || r.share > 64 || r.gran = 0

/-- The last request ends with a status. -/
def State.pmDone (s : State) (status : Nat) : State :=
  { s with pf := { s.pf with pmBusy := none, pmStatus := status } }

/-! ## Grants (R18, R19, R166, R192, R195) -/

/-- XPAMP of the configuration block: WID is at least 1 (R195). -/
def grantXpamp (i : Nat) : Word :=
  let v := Config.xpamp i &&& 0xFFFFFFFFF
  if bits v 35 28 = 0 then setBits v 35 28 1 else v

/-- A bank as it is granted: groups, counters and registers at their reset values, arrays OFFLINE and
sealed; cells, wear, spares and what the device keeps about the bus stay. -/
def Bank.grant (b : Bank) (i : Nat) : Bank :=
  { Bank.reset with
    half := b.half, therm := b.therm, narrow := b.narrow, xpamp := grantXpamp i
    retraining := b.retraining
    arrs := b.arrs.map fun a => (a.1, { a.2.setStatus .offline with sealed_ := true, gref := none, fresh := none }) }

/-- A bank at function-level reset: XGRP stays, XOVC and XCLIP are reset, arrays become OFFLINE and
sealed; no group keeps a content tag (DEDUCED, log 35). -/
def Bank.reclaim (b : Bank) : Bank :=
  { b with xovc := [], xclip := 0, occ := [], xmvs := [], pend := [], tags := [], home := []
           arrs := b.arrs.map fun a => (a.1, { a.2.setStatus .offline with sealed_ := true, gref := none, fresh := none }) }

/-- What was issued on a bank takes effect before it is reclaimed (R198, R206). -/
def State.reclaimBank (s : State) (i : Nat) : State :=
  (forAll (s.bank i).pend s fun p s => s.bankLand i p).modBank i Bank.reclaim

/-- A core scrubbed to zero; the trace control keeps KMASK, TKIND and POST (R19, R309). -/
def Core.scrub (c : Core) : Core :=
  { Core.reset with trace := { Trace.reset with kmask := c.trace.kmask, tkind := c.trace.tkind, post := c.trace.post } }

/-- Granules of a grant on die 0: its share of the pairs, rounded toward die 0 (R269). -/
def gran0Of (gran : Nat) (sites : List Nat) : Nat :=
  (gran * (sites.filter (· < 64)).length + sites.length - 1) / max 1 sites.length

/-- Places for new logical granules from number g on, die 0's up to g0, from what each engine has free: its
lowest free granules first, and the other engine's where one has none left (DESIGN CHOICE, log 99). -/
def placeGran (g0 : Nat) : Nat → Nat → List Nat → List Nat → List (Nat × Nat)
  | 0, _, _, _ => []
  | n + 1, g, f0, f1 =>
    match f0, f1 with
    | x :: r, [] => (0, x) :: placeGran g0 n (g + 1) r []
    | [], y :: r => (1, y) :: placeGran g0 n (g + 1) [] r
    | x :: r, y :: t =>
      if g < g0 then (0, x) :: placeGran g0 n (g + 1) r (y :: t)
      else (1, y) :: placeGran g0 n (g + 1) (x :: r) t
    | [], [] => []

/-- Byte of an engine's granule in the sync memory. -/
def granBase (g : Nat × Nat) : Nat := 2097152 * g.1 + 4096 * g.2

/-- Clear granules. -/
def clearGran (m : List Host.Cell) (l : List (Nat × Nat)) : List Host.Cell :=
  l.foldl (fun m g => memClear m (granBase g) 4096) m

/-- Error marks of cleared granules go with their contents. -/
def clearMarks (l : List Nat) (gran : List (Nat × Nat)) : List Nat :=
  l.filter fun u => !gran.any fun g => granBase g ≤ 4 * u && 4 * u < granBase g + 4096

/-- Granted pairs and granules begin as R19, R192 and R259 give. -/
def State.grantAll (s : State) (sites : List Nat) (gran : List (Nat × Nat)) : State :=
  let s := forAll sites s fun i s => s.modBank i (·.grant i)
  { s with sync := clearGran s.sync gran, syncBad := clearMarks s.syncBad gran }

/-- PARTITION_CREATE. -/
def State.create (s : State) : State :=
  let r := s.pmReq
  let free := s.freeSites
  if (s.part r.part).present || r.bad then s.pmDone stBadreq
  else
    let f0 := s.freeGran 0
    let f1 := s.freeGran 1
    if free.length < r.pairs || r.pchs.any (s.pchTaken · 16) || f0.length + f1.length < r.gran ||
        s.sharesBut r.part + r.share > 64 then s.pmDone stNores
    else
      let sites := free.take r.pairs
      let g0 := gran0Of r.gran sites
      let at_ := placeGran g0 r.gran 0 f0 f1
      ((s.setPart r.part { Part.reset with
        present := true, sites := sites, pchs := r.pchs, share := r.share, gran := r.gran, gran0 := g0
        granAt := at_, quota := s.quotaOf sites }).grantAll sites at_).pmDone stOk

def execPartitionCreate (s : State) : Out := .next s.create

/-- A launch of the partition is in progress. -/
def Part.busy (p : Part) : Bool := p.queues.any fun q => q.2.launch.isSome

/-- Wall cycles of the zero-fill of pseudo-channels: one MZRO for each of 16 · 49,152 rows, four in 32 cycles
(R233). -/
def zeroFill (pchs : List Nat) : Nat := if pchs.isEmpty then 0 else 6291456

/-- PARTITION_RESIZE: what is kept stays where it is, but for pairs that are no longer live (R183); what is
given up is reclaimed; every line of the partition's instruction stores becomes invalid (R18, R213). -/
def State.resize (s : State) : State :=
  let r := s.pmReq
  let p := s.part r.part
  let free := s.freeSites
  if !p.present || r.bad then s.pmDone stBadreq
  else if p.busy then s.pmDone stBusy
  else
    let live := p.sites.filter fun i => SMap.get s.bam 0 i == 0
    let more := r.pairs - live.length
    let extra := r.gran - p.granAt.length
    let f0 := s.freeGran 0
    let f1 := s.freeGran 1
    if free.length < more || r.pchs.any (s.pchTaken · r.part) || f0.length + f1.length < extra ||
        s.sharesBut r.part + r.share > 64 then s.pmDone stNores
    else
      let new := free.take more
      let sites := (live.take r.pairs ++ new).mergeSort (· ≤ ·)
      let g0 := gran0Of r.gran sites
      let kept := p.granAt.take r.gran
      let placed := placeGran g0 extra kept.length f0 f1
      let n := s.later
      let gone := p.sites.filter (!sites.contains ·)
      let pgone := p.pchs.filter (!r.pchs.contains ·)
      let ggone := p.granAt.drop r.gran
      let s := n.2.setPart r.part { p with
        sites := sites, pchs := r.pchs, share := r.share, gran := r.gran, gran0 := g0, granAt := kept ++ placed
        quota := s.quotaOf sites
        reclaim := if gone.isEmpty && pgone.isEmpty && ggone.isEmpty then p.reclaim else some (n.1 + zeroFill pgone)
        reclaimPairs := p.reclaimPairs.union gone, reclaimPchs := p.reclaimPchs.union pgone
        reclaimGran := p.reclaimGran.union ggone }
      let s := forAll sites s fun i s => s.modCore i (·.dropLines 0 (2 ^ 54))
      let s := forAll [0, 1] s fun die s => s.evictTlb die r.part ((s.part r.part).quotaAt die).2
      (s.grantAll new placed).pmDone stOk

def execPartitionResize (s : State) : Out := .next s.resize

/-! ## The end of a partition's work (R285 steps 2 and 4) -/

/-- A core stops at a reset: what has not begun is discarded, what was sent is drained (R267). -/
def Core.quench (c : Core) : Core :=
  { c with uops := c.uops.filter fun u => u.stage != .waiting && u.stage != .faulted
           istore := [], shadow := [] }

/-- End every node, discard the queues, the images, the records and the open retry entries (R285). -/
def State.endWork (s : State) (p : Nat) : State :=
  let x := s.part p
  let s := s.setPart p { x with queues := [], images := [], records := [], retries := [], imgJob := none }
  let s := forAll (s.cohorts.filter fun e => e.2.part == p) s fun e s => s.endNode e.1 none none
  let s := forAll x.sites s fun i s => s.modCore i Core.quench
  { s with tlb := s.tlb.filter (·.part != p) }

/-- Every register of the window at its reset value; what is kept is the grant, the queue trace and what
the device keeps about the partition (R285 step 4). -/
def Part.windowReset (x : Part) : Part :=
  { Part.reset with
    present := x.present, sites := x.sites, pchs := x.pchs, share := x.share, linkIn := x.linkIn
    linkOut := x.linkOut, linkTurn := x.linkTurn, gran := x.gran, gran0 := x.gran0
    granAt := x.granAt, quota := x.quota, rst := x.rst, qtrace := x.qtrace, qtraceAt := x.qtraceAt
    merged := x.merged, frost := x.frost, pp := x.pp, overSince := x.overSince, underSince := x.underSince
    irq0 := x.irq0, irq1 := x.irq1, irq2 := x.irq2, reclaim := x.reclaim, reclaimPairs := x.reclaimPairs
    reclaimPchs := x.reclaimPchs, reclaimGran := x.reclaimGran, releasing := x.releasing }

/-- All that a partition holds is to be reclaimed: the free wait ends at wall cycle t, and the zero-fill of its
pseudo-channels follows (R233; DESIGN CHOICE, log 8). -/
def Part.reclaimAll (x : Part) (t : Nat) : Part :=
  { x with reclaim := some (t + zeroFill (x.reclaimPchs.union x.pchs)), reclaimPairs := x.reclaimPairs.union x.sites
           reclaimPchs := x.reclaimPchs.union x.pchs, reclaimGran := x.reclaimGran.union x.granAt }

/-- PARTITION_RELEASE: the work ends, the window's registers are reset and what the partition holds is
reclaimed; PSTAT.RST stays 0. A release reads OP and PART alone, so that a nonzero reserved bit, which R7
rejects elsewhere, does not reject it (R269; DEDUCED, log 86). -/
def State.release (s : State) : State :=
  let r := s.pmReq
  let p := s.part r.part
  if !p.present then s.pmDone stBadreq
  else
    let n := (s.endWork r.part).later
    n.2.modPart r.part fun x =>
      { x.windowReset.reclaimAll n.1 with releasing := true }

def execPartitionRelease (s : State) : Out := .next s.release

/-- A request waits to be carried out: its OP; 3 where it is malformed. -/
def State.pmDue (s : State) : Option Nat :=
  match s.pf.pmBusy with
  | none => none
  | some t => if t ≤ s.now && !s.allParts.any (·.releasing) then some s.pmReq.op else none

/-- FUNCTION_LEVEL_RESET of a virtual function. -/
def execFunctionLevelReset (part : Nat) (s : State) : Out :=
  if !s.vfPresent part || (s.part part).rst then .next s
  else
    let n := (s.endWork part).later
    .next (n.2.modPart part fun x => { x.reclaimAll n.1 with rst := true })

/-! ## Reclamation (R19) -/

/-- The requests of the pairs have drained. -/
def State.reclaimDue (s : State) (p : Nat) : Bool :=
  let x := s.part p
  match x.reclaim with
  | none => false
  | some t => t ≤ s.now && x.reclaimPairs.all (fun i => (s.core i).uops.all fun u => u.stage == .atSys) &&
      x.reclaimPchs.all fun c => (s.pch c).jobs.isEmpty

/-- RECLAMATION_COMPLETE: pairs scrubbed, pseudo-channels zero-filled, granules cleared, arrays OFFLINE
and sealed; a release removes the function. -/
def State.reclaimed (s : State) (p : Nat) : State :=
  let x := s.part p
  let s := forAll x.reclaimPairs s fun i s => (s.modCore i Core.scrub).reclaimBank i
  let s := forAll x.reclaimPchs s fun c s => s.modPch c fun q => { Pch.reset with idleNext := q.idleNext }
  let whole := x.dying
  let s := { s with sync := clearGran s.sync x.reclaimGran, syncBad := clearMarks s.syncBad x.reclaimGran
                    cohorts := if whole then s.cohorts.filter fun e => e.2.part != p else s.cohorts }
  let s := s.modPart p fun y => { y with reclaim := none, reclaimPairs := [], reclaimPchs := [], reclaimGran := [] }
  if x.releasing then (s.setPart p Part.reset).pmDone stOk else s

def execReclamationComplete (part : Nat) (s : State) : Out :=
  .next (if s.reclaimDue part then s.reclaimed part else s)

/-- FLR_COMPLETE: every window register but the grant fields at its reset value, vector 2 sent, the
reset recorded in the queue trace (R285 steps 4 and 5). -/
def execFlrComplete (part : Nat) (s : State) : Out :=
  let x := s.part part
  if !x.rst || x.releasing || x.reclaim.isSome then .next s
  else
    let s := s.setPart part { x.windowReset with rst := false, irq2 := x.irq2 + 1 }
    .next (s.qtr part { w0 := qtrHead 10 0 0 0 0, w1 := s.wcyc, w2 := 0, w3 := 0 })

/-! ## The bank availability map (R182) -/

/-- A site is allotted to a partition. -/
def State.allotted (s : State) (i : Nat) : Bool := s.allParts.any fun p => p.present && p.sites.contains i

/-- The thermal class of a bank: the one in force during a node, else the one that a bind would apply (R187). -/
def State.bamClass (s : State) (i : Nat) : Nat :=
  match (s.core i).run with
  | .bound _ => (s.bank i).therm.toNat
  | _ => s.classNow i

/-- The entry of a site. The retrain count is the one that XBANK.RETR shows, which a grant clears (DEDUCED,
log 95). -/
def State.bamEntry (s : State) (i : Nat) : Nat :=
  let b := s.bank i
  SMap.get s.bam 0 i + b.narrow.toNat * 4 + s.bamClass i * 8 + (s.allotted i).toNat * 128 +
    min 255 b.retr * 256

end Sys2Proof.Machine
end

