-- ==== Sys2Proof/Machine/Events.lean ====
section
/-! DEFINITION. What is taken at bundle boundaries, the release of holds, the end of replays, retrains
and temperature (R76 to R79, R184 to R187, R229, R287, R294, R303, R304, R309, R331). -/

namespace Sys2Proof.Machine

/-! ## Boundary events (R287, R331) -/

/-- The bundle before a boundary has left the event there: a collision, a timing fault, an RFAIL. Any other
region error comes with the landings of the boundary's own cycle (DEDUCED, log 84). -/
def BEvent.ofBundle (e : BEvent) : Bool :=
  match e.kind with
  | .collision _ | .timing _ => true
  | .regionError cause _ => cause == 0x1C
  | .latencyClass => false

/-- A hold of core i's cohort begins in this wall cycle, after the cycle before: the boundary is one of the
hold's, and what the cycle's bundles left there joins it (R79). -/
def State.holdStarts (s : State) (i : Nat) : Bool :=
  match (s.cohOf i).bind s.coh? with
  | some c => c.st == .running && c.holdStart == some s.now && !c.turn
  | none => false

/-- The boundary events of core i that are due where it stands: in a handler that has not returned, in a replay,
or before the bundle that it would issue now, unless a hold begins there. -/
def State.boundaryNow (s : State) (i : Nat) : List BEvent :=
  let c := s.ctx i
  match c.replay with
  | some r =>
    if r.startWall ≤ s.now && r.cyc < r.upTo then c.bev.filter (·.due ≤ r.cyc) else []
  | none =>
    match c.handler with
    | some h => if h.resuming || h.returned.isSome then [] else h.bev.filter (·.due ≤ s.now)
    | none =>
      if (s.runs i || s.holdStarts i) && (c.halted || (c.waiting.isNone && c.nextIssue ≤ s.ccycOf i)) then
        c.bev.filter fun e => decide (e.due ≤ s.ccycOf i) && (s.runs i || e.ofBundle)
      else []

/-- Remove a boundary event. -/
def Ctx.dropBev (c : Ctx) (e : BEvent) : Ctx :=
  match c.handler with
  | some h =>
    if h.resuming then { c with bev := c.bev.erase e }
    else { c with handler := some { h with bev := h.bev.erase e } }
  | none => { c with bev := c.bev.erase e }

/-- Cause and TVAL of an event that a single core takes. -/
def BKind.trap? (k : BKind) : Option (Nat × Word) :=
  match k with
  | .collision v => some (0x0B, v)
  | .timing v => some (0x14, v)
  | .regionError c v => some (c, v)
  | .latencyClass => none

/-- The event is of the first class of R287. -/
def BEvent.isFirst (e : BEvent) : Bool :=
  match e.kind with
  | .collision _ | .timing _ => true
  | _ => false

def BEvent.isRegion (e : BEvent) : Bool :=
  match e.kind with
  | .regionError _ _ => true
  | _ => false

/-- An event of a handler whose trapped bundle is of cohort cycle t stands in that cycle once the handler is
gone (R292); an error that no open region is charged with stays so. -/
def BEvent.moved (e : BEvent) (t : Nat) : BEvent := { e with due := t, issued := min e.issued t }

/-- Take an event as a trap with SRES = 0. -/
def State.takeEvent (s : State) (i : Nat) (e : BEvent) : State :=
  match e.kind.trap? with
  | none => s
  | some (cause, tval) =>
    let c := s.ctx i
    (s.modCtx i (·.dropBev e)).takeTrap i
      { cause := cause, sres := 0, slot := 0, tval := tval, pc := c.pc, rep := c.rpos, issued := false
        erring := e.issued }

/-- TIMING_FAULT: a scratchpad collision or a timing fault of a core; with several at one boundary the
spec names none. -/
def execTimingFault (site : Nat) (s : State) : Out :=
  let l := (s.boundaryNow site).filter BEvent.isFirst
  match l with
  | [] => .next s
  | e :: _ =>
    let x := s.pick l e
    .next (x.2.takeEvent site x.1)

/-- The region error that landed first. -/
def firstDue (l : List BEvent) : List BEvent :=
  match l with
  | [] => []
  | e :: r => let t := r.foldl (fun a x => min a x.due) e.due
              l.filter (·.due = t)

/-- REGION_ROLLBACK: the earliest region error of a core rolls a region back or escalates. -/
def execRegionRollback (site : Nat) (s : State) : Out :=
  match firstDue ((s.boundaryNow site).filter BEvent.isRegion) with
  | [] => .next s
  | e :: r =>
    let x := s.pick (e :: r) e
    .next (x.2.takeEvent site x.1)

/-- The member whose bus ended a retrain at half width, once the trap is due. -/
def State.latencyDue (s : State) (k : Nat) : Option Nat :=
  match s.coh? k with
  | none => none
  | some c =>
    if c.st == .running && c.turn && c.holdStart.isNone then
      c.members.find? fun i => (s.ctx i).bev.any fun e => e.kind == .latencyClass
    else none

/-- LATENCY_CLASS: the members still issuing take the trap, and the node is requeued; with none it is not
taken (R185, R331). -/
def State.latencyTrap (s : State) (k : Nat) : State :=
  match s.coh? k, s.latencyDue k with
  | some c, some site =>
    let s := s.modCtx site fun x => { x with bev := x.bev.filter (·.kind != .latencyClass) }
    let live := c.members.filter fun i => !(s.ctx i).halted
    match live with
    | [] => s
    | m :: _ =>
      let s := forAll live s fun i s =>
        let x := s.ctx i
        (s.traceRec i 8 0 0x12).modCtx i (·.trapRegs
          { cause := 0x12, sres := 0, slot := 0, tval := BitVec.ofNat 64 site, pc := x.pc, rep := x.rpos
            issued := false, erring := 0 })
      (s.noteFault m k 0x12).endNode k (some (requeueRule 0x12)) none
  | _, _ => s

def execLatencyClass (coh : Nat) (s : State) : Out := .next (s.latencyTrap coh)

/-! ## Retrains and temperature (R184 to R187) -/

/-- The first wall cycle that an event of this moment can hold: the present one while no boundary of it has
passed. -/
def State.firstBoundary (s : State) : Nat :=
  match s.phase with
  | .inbox | .background | .release => s.now
  | _ => s.now + 1

/-- RETRAIN_REQUEST: a bus in use holds its cohort from the next bundle boundary. -/
def execRetrainRequest (site : Nat) (s : State) : Out :=
  if (s.bank site).retraining.isSome then .next s
  else
    let n := s.draw
    let s := n.2.modBank site fun b => { b with retraining := some (s.now + 1 + Config.latency n.1 % 23999) }
    match s.cohOf site with
    | none => .next s
    | some k =>
      match s.coh? k with
      | some c => .next (if c.st == .running then s.addHold k (.retrain site) 6 s.firstBoundary else s)
      | none => .next s

/-- The end of a retrain that is due. -/
def State.retrainDue (s : State) (i : Nat) : Bool :=
  match (s.bank i).retraining with
  | some t => t ≤ s.now
  | none => false

/-- Cohorts with a context on a pair: the one it serves and the pre-empted ones. -/
def State.cohortsAt (s : State) (i : Nat) : List Nat :=
  (s.cohOf i).toList ++ (s.core i).shadow.map (·.coh)

/-- The latency-class event of a cohort at its next boundary, on the pair whose bus has become half as
wide (R185). -/
def State.latencyEvent (s : State) (i k : Nat) : State :=
  match s.coh? k with
  | none => s
  | some c => s.modCore i (·.modOf k fun x =>
      { x with bev := x.bev ++ [{ due := c.ccyc, issued := 0, kind := .latencyClass }] })

/-- RETRAIN_COMPLETE: full width, half width with the latency-class trap of every node that is bound to the
pair, or a failed bus, whose pair is retired and whose nodes fault (DEDUCED, log 11). The width in force
for a bound node changes with its next bind. -/
def execRetrainComplete (site : Nat) (result : Retrain) (s : State) : Out :=
  if (s.bank site).retraining.isNone then .next s
  else
    let s := s.draw.2.modBank site fun b =>
      { b with retraining := none, retr := min 65535 (b.retr + 1), narrow := decide (result = .half) }
    let s := { s with pf := { s.pf with trained := match SMap.get? s.pf.bankTemp site with
      | some t => SMap.set s.pf.trained site t
      | none => s.pf.trained } }
    match result with
    | .full => .next s
    | .half => .next (forAll (s.cohortsAt site) s fun k s => s.latencyEvent site k)
    | .failed => .next (forAll (s.cohortsAt site) { s with bam := SMap.set s.bam site 2 } fun k s =>
        s.endNode k none (some stFault))

/-- Lower bound of a thermal class (R318). -/
def classFloor (cls : Nat) : Int := if cls = 0 then 0 else 150 + 20 * cls

/-- OVER_TEMPERATURE: a bank's temperature passes the limit of its class; a bound cohort is pre-empted at
its next boundary. The class in force changes at a bind. -/
def execOverTemperature (site : Nat) (cls : BitVec 2) (s : State) : Out :=
  let t := classFloor cls.toNat
  let t := if s.classNow site < cls.toNat then t else SMap.get s.pf.bankTemp t site
  let s := { s with pf := { s.pf with bankTemp := SMap.set s.pf.bankTemp site t } }
  match (s.core site).run with
  | .bound k => .next (if (s.bank site).therm.toNat < cls.toNat then s.askPreempt k heatCause else s)
  | _ => .next s

/-! ## Trace freeze (R309) -/

/-- The records after the trigger record have been written. -/
def State.freezeDue (s : State) (i : Nat) : Bool := (s.core i).trace.armed == some 0

def execTraceFreeze (site : Nat) (s : State) : Out :=
  .next (if s.freezeDue site then
      s.modCore site fun c => { c with trace := { c.trace with frozen := true, armed := none } }
    else s)

def execTrcctlFrozenClear (site : Nat) (s : State) : Out :=
  .next (s.modCore site fun c =>
    { c with trace := { c.trace with frozen := false, armed := if c.trace.armed == some 0 then none else c.trace.armed } })

/-! ## Holds (R76 to R79, R229, R294) -/

/-- A handler has returned, or halted, and nothing of it is in flight. -/
def Ctx.handlerDone (c : Ctx) (now : Nat) : Bool :=
  match c.handler with
  | none => true
  | some h =>
    (c.halted || (match h.returned with
      | some t => t < now
      | none => false)) && h.acc.isEmpty && h.flight.all (·.land ≤ now)

/-- A hold cause has ended (R76). -/
def State.causeEnded (s : State) (c : HoldCause) : Bool :=
  match c with
  | .miss i => (s.lacks i).isNone
  | .waits i mask _ => (s.ctx i).pending &&& mask == 0
  | .waitx i ch id _ =>
    ((SMap.get (s.ctx i).xdone 0 ch).truncate 32 - id).toInt > 0
  | .rollback i => (s.ctx i).replay.isNone
  | .fallback _ t => t ≤ s.now
  | .retrain i => (s.bank i).retraining.isNone
  | .trap i => (s.ctx i).handlerDone s.now
  | .start => false

/-- The guard may start a custodial refresh: the cohort is held, or waits to start, by a cause that has not
ended, or is pre-empted (R228, R229, R231). -/
def State.custodialDue (s : State) (pch : Nat) : Bool :=
  match (s.pch pch).custody, (s.userOf pch).bind s.coh? with
  | some c, some k => c.nextRef ≤ s.now && (match k.st with
      | .running => k.holds.any fun h => !s.causeEnded h
      | .starting => !s.startReady k
      | _ => true)
  | _, _ => false

def execCustodialRefresh (pch : Nat) (s : State) : Out :=
  .next (if s.custodialDue pch then s.custodial pch else s)

/-- A trap's cause of hold ends: the last results of the handler land; a handler that halted is gone. -/
def State.endCause (s : State) (c : HoldCause) : State :=
  match c with
  | .trap i =>
    let s := s.landSite i
    if (s.ctx i).halted then
      s.modCtx i fun x => { x with handler := none, bev := x.bev ++ (match x.handler with
        | some h => h.bev.map (·.moved h.cyc)
        | none => []) }
    else s
  | _ => s

/-- A replay stands at the boundary of its error. -/
def State.replayOver (s : State) (i : Nat) : Bool :=
  match (s.ctx i).replay with
  | some r => r.startWall ≤ s.now && r.upTo ≤ r.cyc
  | none => false

/-- End a replay: what had landed at e lands again, and an address other than the recorded one escalates (R303,
R304). -/
def State.endReplay (s : State) (i : Nat) : State :=
  match (s.ctx i).replay, s.cohOf i with
  | some r, some k =>
    let s := if r.landed then s.landSite i else s
    let rest := ((s.ctx i).replay.map (·.log)).getD []
    let s := forAll rest s fun e s => match e with
      | .delivery _ b port _ => s.deliver i b port
      | .arrival _ p => s.land1 i r.upTo false (s.ctx i) p
      | _ => s
    let c := s.ctx i
    let s := s.modCtx i fun x => { x with replay := none }
    let s := s.traceRec i 10 0 (r.depth + 8 * (s.now - r.heldFrom))
    if c.pc = r.upToPc && c.rpos = r.upToRep then s
    else s.escalate i k (bits c.tstat 23 16)
  | _, _ => s

/-- End what has ended of cohort k's hold, and find when the guards allow release. -/
def State.reviewHold (s : State) (k : Nat) : State :=
  match s.coh? k with
  | none => s
  | some c =>
    if c.st != .running then s
    else
      let s := forAll (c.members.filter (s.replayOver ·)) s fun i s => s.endReplay i
      match s.coh? k with
      | none => s
      | some c =>
        if c.st != .running || c.holdStart.isNone then s
        else
          let ended := c.holds.filter s.causeEnded
          let s := forAll ended s fun h s => s.endCause h
          let left := c.holds.filter fun h => !ended.contains h
          let at_ := match left, c.releaseAt with
            | [], none => some ((c.pchs.map fun p => (s.pch p).releaseAt c.ccyc c.relCcyc s.now).foldl max s.now)
            | [], some t => some t
            | _, _ => none
          s.setCoh k { c with holds := left, releaseAt := at_ }

/-- A trapped bundle's rest is still to issue. -/
def Ctx.resumesNow (c : Ctx) : Bool :=
  match c.handler with
  | some h => h.resuming
  | none => false

/-- The hold of a cohort ends in this wall cycle. -/
def State.releaseDue (s : State) (k : Nat) : Bool :=
  match s.coh? k with
  | none => false
  | some c => c.st == .running && c.holdStart.isSome && c.holds.isEmpty && (match c.releaseAt with
      | some t => t ≤ s.now
      | none => false) && !c.members.any fun i => (s.ctx i).resumesNow

/-- The handler of core i gives way to the trapped bundle: its boundary events follow the bundle's, in whose
cycle its operations stand (R292). -/
def Ctx.handBack (c : Ctx) : Ctx :=
  match c.handler with
  | none => c
  | some h =>
    if h.resuming then c
    else
      let moved := h.bev.map (·.moved h.cyc)
      let c := (c.resume h.cyc)
      if h.issuedAt then { c with bev := c.bev ++ moved, handler := some { h with bev := [], resuming := true } }
      else { c with bev := c.bev ++ moved, handler := none }

/-- A member's trapped bundle had issued, and its rest is still to issue in a held wall cycle (R294). -/
def Ctx.mustResume (c : Ctx) : Bool :=
  match c.handler with
  | some h => h.issuedAt && !h.resuming
  | none => false

/-- HOLD_RELEASE: the rest of trapped bundles issues in this wall cycle, still held, and the release
follows in the next; else every member goes on in this one. -/
def State.release1 (s : State) (k : Nat) : State :=
  match s.coh? k with
  | none => s
  | some c =>
    if !s.releaseDue k then s
    else if c.members.any fun i => (s.ctx i).mustResume then
      let s := forAll (c.members.filter fun i => (s.ctx i).mustResume) s fun i s => s.modCtx i Ctx.handBack
      s.setCoh k { c with releaseAt := some (s.now + 1) }
    else
      let s := (forAll c.members s fun i s => s.modCtx i Ctx.handBack).sayRelease k
      let s := s.modCoh k fun c => { c with holdStart := none, holdSaid := false, resuming := false
                                            releaseAt := none, relCcyc := c.ccyc }
      forAll c.pchs s fun p s => s.modPch p fun x => { x with custody := none }

def execHoldRelease (coh : Nat) (s : State) : Out := .next (s.release1 coh)

end Sys2Proof.Machine
end

