-- ==== Sys2Proof/Machine/Afterglow.lean ====
section
/-! DEFINITION. The entries of the afterglow buffer as bytes (R289), for the context image of R100. -/

namespace Sys2Proof.Machine

/-- The n-th run of bytes that the spec leaves open (DESIGN CHOICE, log 18). -/
def openBytes (n k : Nat) : List Byte := (List.range k).map (Config.recordByte n)

/-- An afterglow entry: kind, index, flags, landing offset, mask (none: R289 gives it no meaning), data.
The n-th runs of open bytes fill what the result does not carry. -/
structure Glow where
  kind : Nat
  idx : Nat
  flags : Nat
  rem : Nat
  mask : Option Nat
  data : List Byte
  deriving DecidableEq, Repr

/-- The tag of an entry. -/
def Glow.tag (g : Glow) (n : Nat) : Nat :=
  g.idx % 2 ^ 12 + (if g.kind = 4 then g.idx / 2 ^ 12 % 8 else g.flags % 64) * 2 ^ 12 + g.rem % 2 ^ 9 * 2 ^ 20 +
    g.kind % 8 * 2 ^ 29 + g.mask.getD (Config.choice n) % 2 ^ 32 * 2 ^ 32

/-- The 136 bytes of an entry. -/
def Glow.bytes (g : Glow) (n : Nat) : List Byte :=
  g.data.take 128 ++ openBytes n (128 - g.data.length) ++ bytesOf 8 (g.tag n)

/-- One entry for every 128 bytes that a result delivers to the scratchpad: the 128 bytes from the first
unit on, and their 4-byte words that it writes. -/
def glowWrites (b : List (Nat × Byte)) (rem : Nat) : List Glow :=
  (List.range (entriesOf b.length)).map fun k =>
    let part := (b.drop (128 * k)).take 128
    let unit := (part.map fun e => e.1 / 32).foldl min ((part.headD (0, 0)).1 / 32)
    let at_ := fun j => part.find? fun e => e.1 == 32 * unit + j
    { kind := 4, idx := unit, flags := 0, rem := rem
      mask := some (((List.range 32).filter fun w => (List.range 4).any fun j => (at_ (4 * w + j)).isSome).map (2 ^ ·)).sum
      data := (List.range 128).map fun j => ((at_ j).map (·.2)).getD 0 }

/-- Entries that the matrix unit keeps in its own store, in no layout that the spec gives. -/
def openGlow (k : Nat) : List (Option Glow) := List.replicate k none

/-- The entries of a result in flight, on a return in cohort cycle s. Data that only the landing decides is
open, and so are the bank's counter updates. -/
def Pend.glow (p : Pend) (s : Nat) : List (Option Glow) :=
  let e := fun kind idx mask data =>
    [some { kind := kind, idx := idx, flags := p.flags.toNat, rem := p.land - s, mask := mask, data := data }]
  if p.entries = 0 then []
  else
    match p.eff with
    | .sreg r v => e 0 r none (bytesOf 8 v.toNat)
    | .vreg r m v => e 1 r (some (laneBits m).toNat) (bytesOf 128 v.toNat)
    | .preg r m v => e 2 r (some m.toNat) (bytesOf 4 v.toNat)
    | .csr n v => e 3 n none (bytesOf 8 v.toNat)
    | .drift vd .. => e 1 vd (some (2 ^ 32 - 1)) []
    | .xcount .. => e 5 0 none []
    | _ => openGlow p.entries

/-- The access is the matrix unit's own work, a TST (R289). -/
def Access.ofMatrix (a : Access) : Bool :=
  match a.act with
  | .write .. => a.cls == 2 && a.key % 8 == 4
  | .ovc .. => true
  | _ => false

/-- The entries of an access that is not made yet; the data of a read is open, and so is the matrix unit's
work. -/
def Access.glow (a : Access) (s : Nat) : List (Option Glow) :=
  let e := fun kind idx land mask => some
    ({ kind := kind, idx := idx, flags := 0, rem := land - s, mask := mask, data := [] } : Glow)
  if a.ofMatrix then openGlow a.act.entries
  else match a.act with
  | .write b _ => (glowWrites b (a.due - s)).map some
  | .toS r _ _ _ land => [e 0 r land none]
  | .toV r lanes _ land _ => [e 1 r land (some ((lanes.map fun x => 2 ^ x.1).sum))]
  | .table r _ _ mask _ _ _ land _ => [e 1 r land (some (laneBits mask).toNat)]
  | .fallback _ _ vd sx cols _ _ land =>
    ((List.range (cols / 32)).map fun k => e 1 (vd + k) land (some (2 ^ 32 - 1))) ++ [e 0 sx land none, e 5 0 land none]
  | act => openGlow act.entries

/-- The entries of a fabric transfer that is still to be read, addressed to core i (R147). -/
def Port.glowTo (a : Port) (i s : Nat) : List (Option Glow) :=
  let e := fun (n dst due : Nat) => (List.range (entriesOf n)).map fun k =>
    some ({ kind := 4, idx := dst / 32 + 4 * k, flags := 0, rem := due - s
            mask := some (2 ^ min 32 ((n - 128 * k) / 4) - 1), data := [] } : Glow)
  match a with
  | .push _ n peer dst due _ => if peer = i then e n dst due else []
  | .pull _ n issuer dst due => if issuer = i then e n dst due else []
  | _ => []

/-- A layout not yet in effect: REM counts issued bundles (R243). -/
def LyPend.glow (l : LyPend) : Option Glow :=
  some { kind := 3, idx := 0x090 + l.n, flags := 0, rem := l.left, mask := none, data := bytesOf 8 l.v.toNat }

/-- Place of an access in the order of issue: by its slot within a cycle; what another core sends is a copy slot's. -/
def Access.order (a : Access) : Nat := 8 * a.issued + (if a.cls == 1 then 5 else a.key % 8)

/-- What core i's pipelines hold of the operations of `keeps`, on a return in cohort cycle t, in order of
issue. -/
def State.glowOf (s : State) (i t : Nat) (keeps : Bool → Nat → Bool) : List (Option Glow) :=
  let c := s.ctx i
  let own := ((c.flight.filter fun p => keeps p.again p.issued).map fun p => (8 * p.issued + p.slot, p.glow t)) ++
    ((c.acc.filter fun a => keeps a.again a.issued).map fun a => (a.order, a.glow t)) ++
    ((c.lyPend.filter fun l => keeps true l.issued).map fun l => (8 * l.issued + l.slot, [l.glow])) ++
    (s.cores.map fun e => e.2.ctx.acc.map fun a => (a.order, a.act.glowTo i t)).flatten
  ((own.mergeSort fun a b => a.1 ≤ b.1).map (·.2)).flatten

/-- The afterglow buffer of core i: while a handler runs there, everything in flight; while a region is rolled
back, what its replay does not issue again (R303). It is empty otherwise. -/
def State.glow (s : State) (i : Nat) : List (Option Glow) :=
  let c := s.ctx i
  match c.replay, c.handler with
  | some r, _ =>
    let b := ((c.regions[c.regions.length - r.depth]?).map (·.began)).getD 0
    s.glowOf i r.upTo fun again t => !again || t ≤ b
  | none, some h => s.glowOf i h.cyc fun _ _ => true
  | none, none => []

/-- The 13,056 bytes of the afterglow snapshot: what no entry takes is open. Takes 97 runs of open bytes. -/
def glowBytes (l : List (Option Glow)) (n : Nat) : List Byte :=
  ((l.take 96).zipIdx.map fun e => match e.1 with
    | some g => g.bytes (n + 1 + e.2)
    | none => openBytes (n + 1 + e.2) 136).flatten ++ openBytes n (136 * (96 - l.length))

end Sys2Proof.Machine
end

