-- ==== Sys2Proof/Machine/Pf.lean ====
section
/-! DEFINITION. The agents of the physical function: copies of trace buffers and queue traces, the
attestation report, fatal errors, injected errors, boot, power and temperature (R182, R184, R187,
R307, R309, R311 to R319). -/

namespace Sys2Proof.Machine

/-- Change the physical function's registers. -/
def State.modPf (s : State) (f : Pf → Pf) : State := { s with pf := f s.pf }

/-- Bits 51..12 of a register: a 4 KiB-aligned host address. -/
def pageAddr (v : Word) : Nat := bits v 51 12 * 4096

/-- A time that is due. -/
def State.at_ (s : State) (t : Option Nat) : Bool :=
  match t with
  | some n => n ≤ s.now
  | none => false

/-! ## TRCCOPY (R308, R309) -/

/-- The 16 bytes of a record. -/
def TraceRec.bytes (r : TraceRec) : List Byte :=
  bytesOf 16 (r.ccyc.toNat + r.wcyc.toNat * 2 ^ 32 + r.kind.toNat * 2 ^ 64 + r.slot.toNat * 2 ^ 72 +
    r.payload.toNat * 2 ^ 76)

/-- TRCCOPY_WRITE: ignored while a copy runs. -/
def execTrccopyWrite (v : Word) (s : State) : Out :=
  if s.pf.trcUntil.isSome then .next s
  else
    let n := s.later
    .next (n.2.modPf fun p =>
      { p with trccopy := BitVec.ofNat 64 (bits v 6 0 + pageAddr v), trcUntil := some n.1 })

/-- TRCCOPY_COMPLETE: the buffer's 4,096 records are in host memory. -/
def execTrccopyComplete (s : State) : Out :=
  if !s.at_ s.pf.trcUntil then .next s
  else
    let a := pageAddr s.pf.trccopy
    let t := (s.core (bits s.pf.trccopy 6 0)).trace
    let host := t.recs.foldl (fun m (r : Nat × TraceRec) => memPut m (a + 16 * r.1) r.2.bytes)
      (memClear s.host a 65536)
    .next ({ s with host := host }.modPf fun p => { p with trcUntil := none })

/-! ## QTRCOPY (R100, R311, R313) -/

/-- A control register of the register context; numbers that are not in it are reserved. -/
def Ctx.csrWord (c : Ctx) (n : Nat) : Word :=
  if n = 0x001 then c.tstat
  else if n = 0x002 then c.taddr
  else if n = 0x003 then c.tval
  else if n = 0x010 then c.nctl
  else if 0x021 ≤ n ∧ n ≤ 0x026 then (SMap.get c.stride 0 (n - 0x020)).zeroExtend 64
  else if 0x030 ≤ n ∧ n ≤ 0x033 then (c.loop (n - 0x030)).word
  else if 0x040 ≤ n ∧ n ≤ 0x05F then SMap.get c.tshape 0 (n - 0x040)
  else if 0x060 ≤ n ∧ n ≤ 0x07F then SMap.get c.ovc 0 (n - 0x060)
  else if 0x080 ≤ n ∧ n ≤ 0x083 then SMap.get c.xdone 0 (n - 0x080)
  else if 0x084 ≤ n ∧ n ≤ 0x087 then SMap.get c.xnext 0 (n - 0x084)
  else if 0x090 ≤ n ∧ n ≤ 0x09F then SMap.get c.ly 0 (n - 0x090)
  else 0

/-- The 224 KiB of a context with the entries of its afterglow buffer; the layout of the latches is open. Each
loop's START stands before its END (DESIGN CHOICE, log 54). Takes 98 runs of open bytes. -/
def Ctx.bytes (c : Ctx) (glow : List (Option Glow)) (n : Nat) : List Byte :=
  ((List.range 640).map fun r => bytesOf 128 (c.rv r).toNat).flatten ++
  memBytes c.tile 0 131072 ++
  ((List.range 64).map fun r => bytesOf 8 (c.rs r).toNat).flatten ++ bytesOf 8 c.pending.toNat ++
  ((List.range 16).map fun r => bytesOf 4 (c.rp r).toNat).flatten ++
  ((List.range 16).map fun r => bytesOf 8 (c.rmb r).toNat).flatten ++
  ((List.range 256).map fun r => bytesOf 8 (c.csrWord r).toNat).flatten ++
  openBytes n 96 ++
  ((List.range 4).map fun r => bytesOf 8 (c.loop r).start.toNat ++ bytesOf 8 (c.loop r).fin.toNat).flatten ++
  glowBytes glow (n + 1) ++ List.replicate 408 0

/-- The bytes of a frost slot before its padding; its results in flight are discarded (R295). -/
def FrostRec.bytes (f : FrostRec) (n : Nat) : List Byte :=
  f.ctx.bytes [] n ++ wordBytes [f.ctx.tstat.toNat, f.ctx.taddr.toNat, f.ctx.tval.toNat, f.site, f.wcyc.toNat]

def Rec4.bytes (r : Rec4) : List Byte := wordBytes [r.w0.toNat, r.w1.toNat, r.w2.toNat, r.w3.toNat]

/-- QTRCOPY_WRITE: ignored while a copy runs. -/
def execQtrcopyWrite (v : Word) (s : State) : Out :=
  if s.pf.qtrUntil.isSome then .next s
  else
    let n := s.later
    .next (n.2.modPf fun p =>
      { p with qtrcopy := BitVec.ofNat 64 (bits v 3 0 + pageAddr v), qtrUntil := some n.1 })

/-- QTRCOPY_COMPLETE: a header with the write index, the records, the frost area. -/
def execQtrcopyComplete (s : State) : Out :=
  if !s.at_ s.pf.qtrUntil then .next s
  else
    let a := pageAddr s.pf.qtrcopy
    let p := s.part (bits s.pf.qtrcopy 3 0)
    let n := s.fresh
    let m := memPut (memClear s.host a 68161536) a (bytesOf 8 p.qtraceAt ++ openBytes n 4088)
    let m := p.qtrace.foldl (fun m (r : Nat × Rec4) => memPut m (a + 4096 + 32 * r.1) r.2.bytes) m
    let m := p.frost.zipIdx.foldl (fun m (f : FrostRec × Nat) =>
      memPut m (a + 67112960 + 262144 * f.2) (f.1.bytes (n + 1 + 98 * f.2))) m
    .next ({ s with host := m, fresh := n + 1 + 98 * 4 }.modPf fun p => { p with qtrUntil := none })

/-! ## Attestation (R316) -/

/-- ATTREQ_WRITE: a request; a write while one runs is ignored (DEDUCED, log 36). -/
def execAttreqWrite (v : Word) (s : State) : Out :=
  if s.pf.attUntil.isSome then .next s
  else
    let n := s.later
    .next (n.2.modPf fun p =>
      { p with attreq := BitVec.ofNat 64 (bits v 55 12 * 4096), attUntil := some n.1 })

/-- The keys derived from the seed: the device identity, and the alias of the firmware (R316). -/
def identityKey : List Byte := Config.deriveKey Config.deviceSeed []
def Pf.aliasKey (p : Pf) : List Byte := Config.deriveKey Config.deviceSeed (Config.sha384 p.firmware)

/-- The bytes of the bank availability map. -/
def State.bamBytes (s : State) : List Byte := ((List.range 128).map fun i => bytesOf 2 (s.bamEntry i)).flatten

/-- What a report on partition p attests: nonce, firmware, configuration and BAM digests, and of every
loaded image with a manifest its handle, key slot and manifest digest (R316, R317). -/
def State.attested (s : State) (p : Nat) (nonce : List Byte) : List (List Byte) :=
  [nonce, Config.sha384 s.pf.firmware, Config.sha384 Config.configBlock, Config.sha384 s.bamBytes] ++
    (s.part p).images.filterMap fun e => e.2.manifest.map fun d => bytesOf 1 e.1 ++ bytesOf 1 e.2.keySlot ++ d

/-- The 4 KiB of a report: what it attests, its signature under the alias key, the certificate chain. -/
def State.report (s : State) (p : Nat) (nonce : List Byte) : List Byte :=
  let l := s.attested p nonce
  let sign := Config.signP384 s.pf.aliasKey (Config.sha384 l.flatten)
  let b := Config.packReport (l ++ [sign, Config.certificate identityKey s.pf.aliasKey])
  (b ++ List.replicate 4096 0).take 4096

/-- ATTESTATION_REPORT: the report replaces the nonce in the 4 KiB buffer (DESIGN CHOICE, log 21). -/
def execAttestationReport (s : State) : Out :=
  if !s.at_ s.pf.attUntil then .next s
  else
    let a := pageAddr s.pf.attreq
    let r := s.report (bits s.pf.attreq 55 52) (memBytes s.host a 48)
    .next ({ s with host := memPut s.host a r }.modPf fun p => { p with attUntil := none })

/-! ## Fatal errors (R312) -/

/-- Number of a fatal error in the order of R312. -/
def fatalCode (c : FatalCause) : Nat :=
  match c with
  | .management => 0
  | .dispatchMemory => 1
  | .bridgeLoss => 2
  | .temperature => 3
  | .dumpCommand => 4

/-- State of a line and its tag beside its data. -/
def ILine.bytes (l : ILine) : List Byte :=
  let st := match l.st with
    | .staging => 1
    | .valid => 2
    | .failed => 3
  bytesOf 64 l.data.toNat ++ bytesOf 8 (st + l.tag.toNat * 2 ^ 8)

/-- A pair in a dump: context, scratchpad, instruction store, trace buffer. -/
def State.coreDump (s : State) (i n : Nat) : List Byte :=
  let c := s.core i
  let line := fun k => match SMap.get? c.istore k with
    | some l => l.bytes
    | none => List.replicate 72 0
  let rec_ := fun k => match SMap.get? c.trace.recs k with
    | some r => r.bytes
    | none => List.replicate 16 0
  c.ctx.bytes (s.glow i) n ++ memBytes c.spad 0 786432 ++ ((List.range 4096).map line).flatten ++
    ((List.range 4096).map rec_).flatten

/-- A bank's state in a dump: what it does, its history, and the refresh it is owed. -/
def BankTime.words (b : BankTime) : List Nat :=
  let at_ := fun (x : Option Nat) => match x with
    | some t => t + 1
    | none => 0
  let st := match b.st with
    | .idle => [0, 0]
    | .opened r => [1, r]
    | .busy det t => [2 + 256 * det, t]
  st ++ [at_ b.act, at_ b.pre, at_ b.rd, at_ b.wr, at_ b.auto, (b.owed % 2 ^ 64).toNat, b.units]

/-- n words of a dump that hold a list: each entry plus 1, then zeros. -/
def listWords (n : Nat) (l : List Nat) : List Nat :=
  (l.take n).map (· + 1) ++ List.replicate (n - l.length) 0

/-- The guard's state in a dump: its banks; activates and column commands with their bank groups, the last
read, write and refresh, the row and column command of the cycle (R220, R221); valid lines and pending line
operations (R224); frame, rate, refresh in progress, idle interval, custody and rows to reopen (R227 to
R231). -/
def Pch.words (p : Pch) : List Nat :=
  (allBanks.map fun b => (p.bankTime b).words).flatten ++ listWords 8 (p.acts.map fun a => 4 * a.1 + a.2) ++
    listWords 8 (p.cols.map fun a => 4 * a.1 + a.2) ++
    ([p.lastRd, p.lastWr, p.lastRef, p.rowAt, p.colAt, p.frame].map fun x => listWords 1 x.toList).flatten ++
    [(p.valid.eraseDups.map (2 ^ ·)).sum, p.hot.toNat, p.refUntil, p.idleNext] ++
    (match p.custody with
      | some c => [1, c.start, c.nextRef, c.busyUntil] ++ listWords 16 (c.recorded.map fun r => 16 * r.2 + r.1)
      | none => List.replicate 20 0) ++
    listWords 64 (p.linePend.map fun x => (x.2.2 * 2 + x.2.1.toNat) * 32 + x.1)

/-- Queue-trace pointers of a pseudo-channel in a dump: a management pseudo-channel, which holds the queue traces
of all partitions, shows the write index of each (R211, R311); another one its owner's. -/
def State.tracePointers (s : State) (p : Nat) : List Nat :=
  if mgmtPch p then (List.range 16).map fun k => (s.part k).qtraceAt
  else [match s.pchOwner p with
    | some k => (s.part k).qtraceAt
    | none => 0]

/-- A pseudo-channel in a dump: its guard's state and its queue-trace pointers. -/
def State.pchDump (s : State) (p : Nat) : List Byte := wordBytes ((s.pch p).words ++ s.tracePointers p)

/-- The parts of a dump with their places: header, BAM, live pairs, sync SRAMs, pseudo-channels (R312;
DESIGN CHOICE, log 76). -/
def State.dump (s : State) (cause : FatalCause) (n : Nat) : List (Nat × List Byte) :=
  let live := (List.range 128).filter fun i => SMap.get s.bam 0 i == 0
  [(0, wordBytes [fatalCode cause, s.wcyc.toNat]), (4096, s.bamBytes)] ++
    (live.zipIdx.map fun e => (8192 + 1376256 * e.2, s.coreDump e.1 (n + 128 * e.1))) ++
    [(176168960, memBytes s.sync 0 4194304)] ++
    ((List.range 512).map fun p => (180363264 + 4096 * p, s.pchDump p))

/-- A fatal error: every cohort stops, the dump is written where DUMPBASE is set, and the device is
held in reset from then on. Bytes of the 192 MiB that no part takes are open. -/
def State.fatalStop (s : State) (cause : FatalCause) : State :=
  let s := { s with fatal := some cause }
  let a := pageAddr s.pf.dumpbase
  if a = 0 then s
  else
    let n := s.fresh
    let m := memPut s.host a (openBytes n 201326592)
    { s with fresh := n + 16385
             host := (s.dump cause (n + 1)).foldl (fun m e => memPut m (a + e.1) e.2) m }

def execFatalError (cause : FatalCause) (s : State) : Out := .next (s.fatalStop cause)

def execDumpcmdGo (s : State) : Out := .next (s.fatalStop .dumpCommand)

/-! ## Injected errors (R307) -/

/-- ERRINJ_WRITE: SITE and KIND, and ARM for the kinds that exist (DEDUCED, log 26). -/
def execErrinjWrite (v : Word) (s : State) : Out :=
  let k := bits v 11 8
  let arm := bitAt v 12 && 1 ≤ k && k ≤ 3
  .next (s.modPf fun p =>
    { p with errinj := BitVec.ofNat 64 (bits v 6 0 + k * 2 ^ 8 + arm.toNat * 2 ^ 12) })

/-! ## The repair record (R315) -/

/-- What the record holds of an array: retired or not, wear, the column of each spare, and the order in
which the spares were given (R192, R202, R206). -/
def Arr.repairWords (x : Arr) : List Nat :=
  [(x.status == .retired).toNat, x.wear] ++
    ((List.range 12).map fun k => match SMap.get? x.spares k with
      | some c => c + 1
      | none => 0) ++
    ((List.range 12).map fun k => match x.sparesNew[k]? with
      | some e => e + 1
      | none => 0)

/-- An array as the record's numbers give it, at power-on: a spare replaces a data column (R202), and every
consumed spare has a place in the order. -/
def arrOf (site : Nat) (l : List Nat) : Arr :=
  let at_ := fun k => l.getD k 0
  let consumed := (List.range 12).filter fun k => at_ (2 + k) != 0
  let order := (((List.range 12).filter fun k => at_ (14 + k) != 0).map fun k => (at_ (14 + k) - 1) % 12).eraseDups.filter
    consumed.contains
  let x := { Arr.reset with
    spares := consumed.map fun k => (k, (at_ (2 + k) - 1) % 512)
    sparesNew := order ++ consumed.filter fun k => !order.contains k }
  let x := x.addWear (budget site) (at_ 1 % 2 ^ 40)
  if at_ 0 = 0 then x else x.setStatus .retired

/-- An array as stage 4's test leaves it where no record is good. -/
def arrTested (site a : Nat) : Arr :=
  let k := 128 * site + a
  let spares := (List.range 12).filterMap fun x => (Config.testSpare (12 * k + x)).map fun c => (x, c % 512)
  let x := { Arr.reset with
    spares := spares, sparesNew := (spares.map fun (x : Nat × Nat) => x.1).reverse }.addWear (budget site)
      (Config.conservativeWear % 2 ^ 40)
  if Config.arrayFit k then x else x.setStatus .retired

/-- The numbers of the record: 26 for each array, bank by bank. -/
def State.repairContent (s : State) : List Nat :=
  ((List.range 128).map fun i => ((List.range 128).map fun a => ((s.bank i).arr a).repairWords).flatten).flatten

/-- The HMAC of a record's body under the device's key. -/
def repairMac (body : List Byte) : List Byte := Config.hmac384 (Config.repairKey identityKey) body

/-- The numbers of the record at REPADDR; none: it is absent or fails its check. -/
def State.readRepair (s : State) : Option (List Nat) :=
  let a := pageAddr s.pf.repaddr
  if a = 0 then none
  else
    let body := memBytes s.host a 65488
    if repairMac body == memBytes s.host (a + 65488) 48 then some (Config.unpackRepair body) else none

/-- The repair record has changed and has a place to be written to. -/
def State.repairDue (s : State) : Bool := s.pf.repDirty && pageAddr s.pf.repaddr != 0

/-- The management core rewrites the repair record: its body, then the HMAC. -/
def State.writeRepair (s : State) : State :=
  if !s.repairDue then s
  else
    let body := (Config.packRepair s.repairContent ++ List.replicate 65488 0).take 65488
    { s with host := memPut s.host (pageAddr s.pf.repaddr) (body ++ repairMac body) }.modPf
      fun p => { p with repDirty := false }

/-! ## Boot (R314; DESIGN CHOICE, log 20) -/

/-- Bus class and arrays of a site at boot, by the repair record or by test. -/
def bootBank (record : Option (List Nat)) (site : Nat) (b : Bank) : Bank :=
  let b := { b with half := Config.bootHalf site, narrow := Config.bootHalf site }
  (List.range 128).foldl (fun b a => b.setArr a (match record with
    | some l => arrOf site ((l.drop (26 * (128 * site + a))).take 26)
    | none => arrTested site a)) b

/-- STATE of the sites after boot: at most eight are not live, since a unit has at least 120 live pairs
(R1, R15; DESIGN CHOICE, log 20). -/
def bootStates : List Nat :=
  (List.range 128).foldl (fun l i =>
    l ++ [if (l.filter (· != 0)).length < 8 then Config.bootState i % 4 else 0]) []

/-- Stage 4: the buses are trained, the repair record is read, the BAM is built. -/
def State.buildBam (s : State) : State :=
  let record := s.readRepair
  let s := { s with
    bam := bootStates.zipIdx.foldl (fun m e => SMap.put m 0 e.2 e.1) []
    pf := { s.pf with trained := s.pf.sensed.bankTemp, bankTemp := s.pf.sensed.bankTemp
                      stackTemp := s.pf.sensed.stackTemp, repDirty := s.pf.repDirty || record.isNone } }
  forAll (List.range 128) s fun i s => s.modBank i fun b =>
    { bootBank record i b with therm := BitVec.ofNat 2 (s.classNow i) }

/-- The boot can go on. -/
def State.bootDue (s : State) : Bool :=
  s.pf.err == 0 && s.pf.stage < 5 && (s.pf.stage != 1 || pageAddr s.pf.bootaddr != 0)

/-- ERR of the check of the firmware's public key: 0 or 1. -/
def keyErr (image : List Byte) : Nat :=
  if Config.sha384 (Config.firmwareKey image) == Config.rootKeyHash then 0 else 1

/-- ERR of the two signatures: 0, 2 or 3. -/
def signErr (image : List Byte) : Nat :=
  let key := Config.firmwareKey image
  if !Config.ecdsaP384 key (Config.sha384 (Config.firmwareBody image)) (Config.firmwareSignature image) then 2
  else if !Config.ecdsaP384 key (Config.sha384 Config.configBlock) Config.configSignature then 3
  else 0

/-- The next stage is reached; its check may fail with its code. -/
def State.bootStep (s : State) : State :=
  if !s.bootDue then s
  else
    let next := fun (s : State) (stage err : Nat) => s.modPf fun p => { p with stage := stage, err := err }
    match s.pf.stage with
    | 0 => next s 1 0
    | 1 =>
      let image := memBytes s.host (pageAddr s.pf.bootaddr) Config.firmwareSize
      next (s.modPf fun p => { p with firmware := image }) 2 (keyErr image)
    | 2 => next s 3 (signErr s.pf.firmware)
    | 3 =>
      let n := s.draw
      if Config.trainingFails n.1 then next n.2 4 4 else (next n.2 4 0).buildBam
    | _ => { (next s 5 0).modPf fun p => { p with sampleAt := s.now + 20000 } with wcyc := 0 }

def execBoot (s : State) : Out := .next s.bootStep

def execBootaddrWrite (v : Word) (s : State) : Out :=
  .next (s.modPf fun p => { p with bootaddr := BitVec.ofNat 64 (pageAddr v) })

/-! ## Power (R318, R319) -/

/-- PWRCAP_WRITE: 600..1,400; other values leave the field. -/
def execPwrcapWrite (v : Word) (s : State) : Out :=
  let c := bits v 15 0
  .next (if 600 ≤ c && c ≤ 1400 then s.modPf fun p => { p with pwrcap := c } else s)

/-- A partition after a sample: its power, and since when it stands above or below its allowance. -/
def Part.sample (p : Part) (pp pa now : Nat) : Part :=
  { p with pp := pp
           overSince := if pa < pp then some (p.overSince.getD now) else none
           underSince := if pp < pa then some (p.underSince.getD now) else none }

/-- A bank's temperature after a sample: a bound cohort above its class is pre-empted (R187), and 8 °C since
the last training ask for a retrain (R184). -/
def State.bankSample (s : State) (i : Nat) (t : Int) : State :=
  let s := match (s.core i).run with
    | .bound k => if (s.bank i).therm.toNat < thermClass t then s.askPreempt k heatCause else s
    | _ => s
  match SMap.get? s.pf.trained i with
  | none => s.modPf fun p => { p with trained := SMap.set p.trained i t }
  | some u => if 16 ≤ (t - u).natAbs then (match execRetrainRequest i s with
      | .next s => s
      | _ => s) else s

/-- Power in W that a sample attributes to a partition: its live pairs, its pseudo-channels, its UCIe traffic
(DESIGN CHOICE, log 23). -/
def State.attributed (s : State) (r : PowerReading) (k : Nat) (p : Part) : Nat :=
  (((p.sites.filter fun i => SMap.get s.bam 0 i == 0).map (SMap.get r.pair 0 ·)).sum + (p.pchs.map (SMap.get r.pch 0 ·)).sum + SMap.get r.link 0 k) / 1000 % 65536

/-- Hottest bank of a sample, in half degrees. -/
def hottestBank (r : PowerReading) : Nat := r.bankTemp.foldl (fun m e => max m e.2.toNat) 0 % 65536

/-- What a sample does. -/
def State.sample (s : State) (r : PowerReading) : State :=
  let s := s.modPf fun p =>
    { p with pwr := r.pwr % 65536, tmax := hottestBank r, capNow := p.pwrcap, sampleAt := s.now + 20000
             bankTemp := r.bankTemp.foldl (fun m (e : Nat × Int) => SMap.set m e.1 e.2) p.bankTemp
             stackTemp := r.stackTemp.foldl (fun m (e : Nat × Int) => SMap.set m e.1 e.2) p.stackTemp }
  let s := forAll s.parts s fun e s =>
    s.modPart e.1 fun p => if p.present then p.sample (s.attributed r e.1 p) (s.allowance e.1) s.now else p
  if r.bankTemp.any (fun e => 230 ≤ e.2) || r.stackTemp.any (fun e => 95 ≤ e.2) then s.fatalStop .temperature
  else forAll r.bankTemp s fun e s => s.bankSample e.1 e.2

/-- A sample is due: every 20,000 wall cycles from the end of boot on (R318). -/
def State.sampleDue (s : State) : Bool := s.pf.stage == 5 && decide (s.pf.sampleAt ≤ s.now)

/-- POWER_SAMPLE: power and temperature are sampled and the power is attributed (R318, R319). -/
def execPowerSample (r : PowerReading) (s : State) : Out := .next (if s.sampleDue then s.sample r else s)

/-- The cohort that a partition over its allowance for 1 ms gives up: its running one of lowest
priority. -/
def State.capVictim (s : State) (p : Nat) : Option Nat :=
  let x := s.part p
  match x.overSince with
  | none => none
  | some t =>
    if t + 2000000 ≤ s.now && !(s.cohorts.any fun e => e.2.part == p && e.2.asked capCause) then
      (s.victims p 8).head?.map (·.1)
    else none

/-- The power cap at the end of a wall cycle. -/
def State.capAction (s : State) (p : Nat) : State :=
  match s.capVictim p with
  | some k => s.askPreempt k capCause
  | none => s

end Sys2Proof.Machine
end

