-- ==== Sys2Proof/Machine/Host.lean ====
section
/-! DEFINITION. The windows of the physical and the virtual functions: register reads and writes, the
sync window (R7, R182, R237, R240, R241, R260, R268 to R276, R307, R309, R313, R319). -/

namespace Sys2Proof.Machine

/-- The state of a `.next` outcome of a meaning that has no other. -/
def Out.state (s : State) (o : Out) : State :=
  match o with
  | .next t => t
  | _ => s

/-! ## Writes to the physical function's window -/

/-- PMCMD.GO: the request is carried out some time later (R269). -/
def State.pmGo (s : State) (v : Word) : State :=
  if !bitAt v 0 || s.pf.pmBusy.isSome then s
  else
    let n := s.later
    n.2.modPf fun p => { p with pmBusy := some n.1 }

/-- TRCCTL[s]: KMASK, TKIND, POST, and a written 1 to FROZEN (R309). -/
def State.writeTrcctl (s : State) (i : Nat) (v : Word) : State :=
  let s := s.modCore i fun c =>
    { c with trace := { c.trace with kmask := BitVec.ofNat 16 (bits v 15 0), tkind := BitVec.ofNat 8 (bits v 23 16)
                                     post := BitVec.ofNat 12 (bits v 35 24) } }
  if bitAt v 36 then Out.state s (execTrcctlFrozenClear i s) else s

/-- A 64-bit write to a register of the physical function. -/
def State.writePf (s : State) (off : Nat) (v : Word) : State :=
  match off with
  | 0x0000 => s.modPf fun p => { p with pmaddr := BitVec.ofNat 64 (bits v 51 3 * 8) }
  | 0x0008 => s.pmGo v
  | 0x0028 => Out.state s (execBootaddrWrite v s)
  | 0x0030 => s.modPf fun p => { p with repaddr := BitVec.ofNat 64 (pageAddr v) }
  | 0x0040 => s.modPf fun p => { p with dumpbase := BitVec.ofNat 64 (pageAddr v) }
  | 0x0048 => if bitAt v 0 then Out.state s (execDumpcmdGo s) else s
  | 0x0060 => Out.state s (execQtrcopyWrite v s)
  | 0x0070 => Out.state s (execAttreqWrite v s)
  | 0x0088 => Out.state s (execPwrcapWrite v s)
  | 0x0400 => Out.state s (execErrinjWrite v s)
  | 0x0900 => Out.state s (execTrccopyWrite v s)
  | _ => if 0x0500 ≤ off && off < 0x0900 && off % 8 == 0 then s.writeTrcctl ((off - 0x0500) / 8) v else s

/-! ## Writes to a partition's window -/

/-- RRRESP: retry or abort, or a word that is not accepted (R240). -/
def State.writeRrresp (s : State) (p : Nat) (v : Word) : State :=
  if bits v 63 17 != 0 then s.modPart p fun x => { x with rrbad := true }
  else if bitAt v 16 then Out.state s (execRrrespAbort p (bits v 15 0) s)
  else Out.state s (execRrrespRetry p (bits v 15 0) s)

/-- IMGLOAD: load, unload, or nothing (R273). -/
def State.writeImgload (s : State) (p : Nat) (v : Word) : State :=
  match bits v 9 8 with
  | 1 => Out.state s (execImgloadLoad p v s)
  | 2 => Out.state s (execImgloadUnload p v s)
  | _ => s

/-- A launch of the partition is bound: OVBASE and OVGR keep their values (R260). -/
def Part.launched (p : Part) : Bool := p.queues.any fun q => q.2.launch.isSome

/-- QCTL[q]: PRIO, EN, PRE; then ERR cleared and ABORT (R276). -/
def State.writeQctl (s : State) (p q : Nat) (v : Word) : State :=
  let s := s.modPart p fun x => x.setQueue q { x.queue q with prio := bits v 2 0, en := bitAt v 3, pre := bitAt v 4 }
  let s := if bitAt v 6 then Out.state s (execQctlErrClear p q s) else s
  if bitAt v 5 then Out.state s (execQctlAbort p q s) else s

/-- An aligned 64-bit write to a register of a virtual function. -/
def State.writeVf (s : State) (p off : Nat) (v : Word) : State :=
  match off with
  | 0x0008 => Out.state s (execPtrootWrite p v s)
  | 0x0010 => Out.state s (execTlbinvWrite p v s)
  | 0x0018 => Out.state s (execRrbaseWrite p v s)
  | 0x0020 => s.writeRrresp p v
  | 0x0028 => Out.state s (execEvbaseWrite p v s)
  | 0x0038 => Out.state s (execEvtailWrite p v s)
  | 0x0040 => s.modPart p fun x => { x with evcoal := BitVec.ofNat 64 (bits v 31 0) }
  | 0x0048 => s.modPart p fun x => if x.active then x else { x with argbase := BitVec.ofNat 64 (bits v 53 7 * 128) }
  | 0x0050 => s.writeImgload p v
  | 0x0068 => s.modPart p fun x => if x.launched then x else { x with ovbase := BitVec.ofNat 64 (bits v 53 12 * 4096) }
  | 0x0070 => s.modPart p fun x => if x.launched || 4096 < bits v 12 0 then x else { x with ovgr := bits v 12 0 }
  | 0x0078 => Out.state s (execRrcntWrite p v s)
  | _ =>
    if 0x0080 ≤ off && off < 0x00C0 && off % 8 == 0 then s.writeQctl p ((off - 0x0080) / 8) v
    else if 0x0100 ≤ off && off < 0x0140 && off % 8 == 0 then
      Out.state s (execLaunchWrite p ((off - 0x0100) / 8) true v s)
    else s

/-- The queue whose LAUNCH register holds a byte of the window. -/
def launchQueue (off : Nat) : Option Nat :=
  if 0x0100 ≤ off && off < 0x0140 then some ((off - 0x0100) / 8) else none

/-- A write that is not an aligned 64-bit one: to LAUNCH[q] it completes and is dropped with its record, any
other changes nothing (R270). -/
def State.oddWrite (s : State) (n off : Nat) (v : Word) : State :=
  match launchQueue off with
  | some q => Out.state s (execLaunchWrite n q false v s)
  | none => s

/-- REGISTER_WRITE: a 64-bit write of function fn: 0 the physical function, n + 1 virtual function n. A
write to an absent virtual function changes nothing, and so does one during its reset (R268, R285). -/
def execRegisterWrite (fn off : Nat) (v : Word) (s : State) : Out :=
  match fn with
  | 0 => .next (s.writePf off v)
  | n + 1 => s.vfWrite n fun s => .next (if off % 8 = 0 then s.writeVf n off v else s.oddWrite n off v)

/-! ## Reads -/

/-- A busy bit in bit 63. -/
def busyBit (b : Bool) : Nat := b.toNat * 2 ^ 63

/-- Four BAM entries of 16 bits from entry 4k on. -/
def bamWord (entry : Nat → Nat) (k : Nat) : Nat :=
  (List.range 4).foldl (fun a j => a + entry (4 * k + j) * 2 ^ (16 * j)) 0

/-- TRCCTL[s]. -/
def Trace.ctl (t : Trace) : Nat :=
  t.kmask.toNat + t.tkind.toNat * 2 ^ 16 + t.post.toNat * 2 ^ 24 + t.frozen.toNat * 2 ^ 36 +
    t.wptr.toNat * 2 ^ 37 + t.wrap.toNat * 2 ^ 49

/-- A register of the physical function. -/
def State.readPf (s : State) (off : Nat) : Nat :=
  let p := s.pf
  match off with
  | 0x0000 => p.pmaddr.toNat
  | 0x0010 => p.pmBusy.isSome.toNat + p.pmStatus * 2 ^ 8
  | 0x0020 => p.stage + p.err * 2 ^ 8
  | 0x0028 => p.bootaddr.toNat
  | 0x0030 => p.repaddr.toNat
  | 0x0040 => p.dumpbase.toNat
  | 0x0060 => p.qtrcopy.toNat + busyBit p.qtrUntil.isSome
  | 0x0070 => p.attreq.toNat + busyBit p.attUntil.isSome
  | 0x0080 => p.pwr + p.tmax * 2 ^ 16
  | 0x0088 => p.pwrcap
  | 0x0090 => min 300 Config.pfix
  | 0x0400 => p.errinj.toNat
  | 0x0900 => p.trccopy.toNat + busyBit p.trcUntil.isSome
  | _ =>
    if off % 8 != 0 then 0
    else if 0x00C0 ≤ off && off < 0x0140 then
      let q := (off - 0x00C0) / 8
      if (s.part q).present then (s.part q).pp % 65536 + s.allowance q % 65536 * 2 ^ 16 else 0
    else if 0x0200 ≤ off && off < 0x0300 then bamWord s.bamEntry ((off - 0x0200) / 8)
    else if 0x0500 ≤ off && off < 0x0900 then (s.core ((off - 0x0500) / 8)).trace.ctl
    else 0

/-- PSTAT; NPAIR counts the pairs granted, a pair whose bus has failed since among them (DEDUCED, log 78). -/
def Part.pstat (p : Part) (n : Nat) : Nat :=
  p.rst.toNat + p.launched.toNat * 2 + n * 2 ^ 4 + p.sites.length * 2 ^ 8 + p.pchs.length * 2 ^ 16 + p.share * 2 ^ 25

/-- QCTL[q]. -/
def Queue.qctl (q : Queue) : Nat :=
  q.prio + q.en.toNat * 2 ^ 3 + q.pre.toNat * 2 ^ 4 + q.err.toNat * 2 ^ 6 + q.words.length * 2 ^ 8 +
    q.lastHseq * 2 ^ 16 + (match q.launch with
      | some l => l.hseq * 2 ^ 32 + 2 ^ 48
      | none => 0)

/-- BAM entry of a logical core. -/
def State.vfBam (s : State) (p i : Nat) : Nat :=
  match (s.part p).sites[i]? with
  | some site => s.bamEntry site
  | none => 0

/-- A register of virtual function n outside a reset. -/
def State.readVf (s : State) (n off : Nat) : Nat :=
  let p := s.part n
  match off with
  | 0x0008 => p.ptroot.toNat
  | 0x0010 => busyBit p.tlbinv.isSome
  | 0x0018 => p.rrbase.toNat
  | 0x0020 => busyBit p.rrbad
  | 0x0028 => p.evbase.toNat
  | 0x0030 => p.evw.toNat + p.dseq.toNat * 2 ^ 32
  | 0x0038 => p.evr.toNat
  | 0x0040 => p.evcoal.toNat
  | 0x0048 => p.argbase.toNat
  | 0x0058 => p.imgstat.toNat
  | 0x0060 => p.gran
  | 0x0068 => p.ovbase.toNat
  | 0x0070 => p.ovgr
  | 0x0078 => p.rrw.toNat + p.rrr.toNat * 2 ^ 32
  | _ =>
    if off % 8 != 0 then 0
    else if 0x0080 ≤ off && off < 0x00C0 then (p.queue ((off - 0x0080) / 8)).qctl
    else if 0x0200 ≤ off && off < 0x0300 then bamWord (s.vfBam n) ((off - 0x0200) / 8)
    else 0

/-- A 64-bit read of a register, SYNCWIN excepted; none: Unsupported Request. -/
def State.windowRead (s : State) (fn off : Nat) : Option Word :=
  match fn with
  | 0 => if off % 8 = 0 then some (BitVec.ofNat 64 (s.readPf off)) else none
  | n + 1 =>
    if !s.vfPresent n || off % 8 != 0 then none
    else if off = 0 then some (BitVec.ofNat 64 ((s.part n).pstat n))
    else if (s.part n).rst then some 0
    else some (BitVec.ofNat 64 (s.readVf n off))

/-! ## SYNCWIN (R260) -/

/-- An access that SYNCWIN accepts. -/
def syncAligned (off size : Nat) : Bool := (size == 4 || size == 8) && off % size == 0

/-- The byte of the sync memory that offset `off` of a partition's SYNCWIN names. -/
def Part.syncByte (p : Part) (off : Nat) : Option Nat :=
  if off / 4096 < p.gran then some (granBase (p.granAt.getD (off / 4096) (0, 0)) + off % 4096) else none

/-- SYNCWIN_READ: an ATOM.LD by the home engine; beyond the slice an offset is not listed, so that an
aligned 64-bit read gives 0 and another one Unsupported Request (R270); during a reset it reads 0. A variable
with an uncorrectable error delivers an open value (DEDUCED, log 40). -/
def execSyncwinRead (part : Nat) (off size : Nat) (s : State) : Out :=
  let p := s.part part
  if !s.vfPresent part || !syncAligned off size then .next { s with rdata := none }
  else if p.rst then .next { s with rdata := some 0 }
  else
    match p.syncByte off with
    | none => .next { s with rdata := if size = 8 then some 0 else none }
    | some a =>
      if s.syncBad.any (syncWords a size).contains then
        let n := s.draw
        .next { n.2 with rdata := some (Config.openTval n.1 &&& BitVec.ofNat 64 (2 ^ (8 * size) - 1)) }
      else .next { s with rdata := some (BitVec.ofNat 64 (ofBytes (memBytes s.sync a size))) }

/-- SYNCWIN_WRITE: a RED.ST by the home engine, which rewrites its variable whole and so clears its error
marks (R259). A refused access completes with Unsupported Request. -/
def execSyncwinWrite (part : Nat) (off size : Nat) (v : Word) (s : State) : Out :=
  let p := s.part part
  if !s.vfPresent part || !syncAligned off size || p.rst then .next s
  else
    match p.syncByte off with
    | none => .next s
    | some a => .next ({ s with sync := memPut s.sync a (bytesOf size v.toNat) }.mendSync (syncWords a size))

/-! ## Accesses of every size (R268, R270) -/

/-- An offset in the BAM's region; the physical function's takes the same accesses (DEDUCED, log 77). -/
def inBam (off : Nat) : Bool := 0x0200 ≤ off && off < 0x0300

/-- A SYNCWIN offset of a partition's window. -/
def Part.inSync (p : Part) (off : Nat) : Bool := 0x10000 ≤ off && off < 0x10000 + 4096 * p.gran

/-- A host read of `size` bytes of a function's BAR0. -/
def State.barRead (s : State) (fn off size : Nat) : State :=
  let sync := match fn with
    | 0 => false
    | n + 1 => s.vfPresent n && (s.part n).inSync off
  if sync then Out.state s (execSyncwinRead (fn - 1) (off - 0x10000) size s)
  else if size = 8 then { s with rdata := s.windowRead fn off }
  else if inBam off && (size = 2 || size = 4) && off % size = 0 then
    { s with rdata := (s.windowRead fn (off / 8 * 8)).map fun (w : Word) =>
        BitVec.ofNat 64 (w.toNat / 2 ^ (8 * (off % 8)) % 2 ^ (8 * size)) }
  else { s with rdata := none }

/-- A host write of `size` bytes of a function's BAR0. -/
def State.barWrite (s : State) (fn off size : Nat) (v : Word) : State :=
  match fn with
  | 0 => if size = 8 then s.writePf off v else s
  | n + 1 =>
    if (s.part n).inSync off then Out.state s (execSyncwinWrite n (off - 0x10000) size v s)
    else if size = 8 then Out.state s (execRegisterWrite (n + 1) off v s)
    else Out.state s (s.vfWrite n fun s => .next (s.oddWrite n off v))

/-- A host access to a function's BAR0. -/
def State.barAccess (s : State) (fn off size : Nat) (w : Option Word) : State :=
  match w with
  | none => s.barRead fn off size
  | some v => s.barWrite fn off size v

/-- Function-level reset of function 0: the registers of its window that the host writes return to their
reset values, those of a copy or report in progress when it ends (R268; DEDUCED, log 74). -/
def State.pfReset (s : State) : State :=
  let keep := fun (busy : Option Nat) (v : Word) => if busy.isSome then v else 0
  let s := forAll s.cores s fun e s => s.modCore e.1 fun c =>
    { c with trace := { c.trace with kmask := Trace.reset.kmask, tkind := Trace.reset.tkind, post := Trace.reset.post } }
  s.modPf fun p =>
    { p with pmaddr := keep p.pmBusy p.pmaddr, pmStatus := 0, bootaddr := 0, repaddr := 0, dumpbase := 0
             qtrcopy := keep p.qtrUntil p.qtrcopy, attreq := keep p.attUntil p.attreq
             trccopy := keep p.trcUntil p.trccopy, errinj := 0, pwrcap := Pf.reset.pwrcap }

/-- A read of a function's configuration space: all ones where the virtual function is absent (R268). -/
def State.configRead (s : State) (fn off : Nat) : State :=
  let there := match fn with
    | 0 => true
    | n + 1 => s.vfPresent n
  let b := (List.range 8).map fun k => Config.configSpace fn (off + k)
  { s with rdata := some (if there then BitVec.ofNat 64 (ofBytes b) else BitVec.allOnes 64) }

end Sys2Proof.Machine
end

