-- ==== Sys2Proof/Machine/Scalar.lean ====
section
/-! DEFINITION. Template and prefix syllables, scalar arithmetic, logic, comparisons, predicates and
moves (R50 to R56, R104 to R109). -/

namespace Sys2Proof.Machine

/-! ## TM and PF -/

/-- TMPL sets the repeat count and sticky mask of its bundle (R50). -/
def execTmpl (rpt : BitVec 8) (stk : BitVec 6) (s : State) : Out :=
  .next { s with cur := { s.cur with rpt := rpt.toNat, stk := stk } }

/-- SCOPE sets the scope of its bundle's untimed operations (R54). -/
def execScope (scp : BitVec 3) (s : State) : Out :=
  .next { s with cur := { s.cur with scope := scp.toNat } }

/-- BLOCK locks the banks that its bundle's timed accesses touch; the lock is set when the bundle
has issued (R55, R140). -/
def execBlock (len : BitVec 8) (s : State) : Out :=
  .next { s with cur := { s.cur with blockLen := len.toNat } }

/-- XIMM extends the immediate of its target slot (R56). -/
def execXimm (tgt : BitVec 3) (x : BitVec 32) (s : State) : Out :=
  .next { s with cur := { s.cur with exts := s.cur.exts ++ [(slotOf tgt.toNat, x)] } }

/-! ## Shapes -/

/-- A guarded operation that lands one scalar register (R103). -/
def scalarOp (g : Guard) (sd : BitVec 6) (off : Nat) (f : Ctx → Word × NFlags) (s : State) : Out :=
  if s.guarded g then .next (s.landing off (f s.cx).2 false (.sreg sd.toNat (f s.cx).1))
  else .next s

/-- A guarded operation that lands one predicate register at c+1 (R107 to R109). -/
def predOp (g : Guard) (pd : Nat) (f : Ctx → Half) (s : State) : Out :=
  if s.guarded g then .next (s.landing 1 fNone false (.preg pd 0xFFFFFFFF (f s.cx))) else .next s

/-- Two register sources. -/
def opRR (o : ScRR) (off : Nat) (f : Word → Word → Word × NFlags) (s : State) : Out :=
  scalarOp o.g o.sd off (fun c => f (c.rs o.sa.toNat) (c.rs o.sb.toNat)) s

/-- A register and a signed immediate (R104). -/
def opRI (o : ScRI) (f : Word → Int → Word × NFlags) (s : State) : Out :=
  scalarOp o.g o.sd 1 (fun c => f (c.rs o.sa.toNat) (immOf o.imm s.cur.ext)) s

def opRS (o : ScRS) (f : Word → Nat → Word) (s : State) : Out :=
  scalarOp o.g o.sd 1 (fun c => (f (c.rs o.sa.toNat) o.sh.toNat, fNone)) s

def opRU (o : ScRU) (f : Word → Word) (s : State) : Out :=
  scalarOp o.g o.sd 1 (fun c => (f (c.rs o.sa.toNat), fNone)) s

/-- A result that sets no flag. -/
def plain (f : Word → Word → Word) (a b : Word) : Word × NFlags := (f a b, fNone)

/-- A signed result, wrapped or saturated with SQ (R29, R104). -/
def arith (sat : Bool) (x : Int) : Word × NFlags :=
  (BitVec.ofNat 64 (intResult 64 sat x).1, (intResult 64 sat x).2)

/-! ## Arithmetic (R104) -/

def execAdd (sat : Bool) (o : ScRR) (s : State) : Out :=
  opRR o 1 (fun a b => arith sat (a.toInt + b.toInt)) s

def execSub (sat : Bool) (o : ScRR) (s : State) : Out :=
  opRR o 1 (fun a b => arith sat (a.toInt - b.toInt)) s

def execAddi (sat : Bool) (o : ScRI) (s : State) : Out :=
  opRI o (fun a n => arith sat (a.toInt + n)) s

def execMul (sat : Bool) (o : ScRR) (s : State) : Out :=
  opRR o 3 (fun a b => arith sat (a.toInt * b.toInt)) s

/-- floor of the signed product over 2^64. -/
def execMulh (o : ScRR) (s : State) : Out :=
  opRR o 3 (plain fun a b => BitVec.ofInt 64 (a.toInt * b.toInt / 2 ^ 64)) s

def execMulhu (o : ScRR) (s : State) : Out :=
  opRR o 3 (plain fun a b => BitVec.ofNat 64 (a.toNat * b.toNat / 2 ^ 64)) s

/-- Signed quotient and remainder, with the values of R104 for a zero divisor and for overflow. -/
def sdiv (a b : Word) : Word × Word :=
  if b.toInt = 0 then (BitVec.ofInt 64 (-1), a)
  else if a.toInt = -2 ^ 63 ∧ b.toInt = -1 then (a, 0)
  else
    (BitVec.ofInt 64 (Int.tdiv a.toInt b.toInt),
     BitVec.ofInt 64 (a.toInt - b.toInt * Int.tdiv a.toInt b.toInt))

/-- Unsigned quotient and remainder. -/
def udiv (a b : Word) : Word × Word :=
  if b.toNat = 0 then (BitVec.ofNat 64 (2 ^ 64 - 1), a)
  else (BitVec.ofNat 64 (a.toNat / b.toNat), BitVec.ofNat 64 (a.toNat % b.toNat))

def execDiv (o : ScRR) (s : State) : Out := opRR o 12 (plain fun a b => (sdiv a b).1) s

def execDivu (o : ScRR) (s : State) : Out := opRR o 12 (plain fun a b => (udiv a b).1) s

def execRem (o : ScRR) (s : State) : Out := opRR o 12 (plain fun a b => (sdiv a b).2) s

def execRemu (o : ScRR) (s : State) : Out := opRR o 12 (plain fun a b => (udiv a b).2) s

/-! ## Logic, shifts, counts (R105) -/

def execAnd (o : ScRR) (s : State) : Out := opRR o 1 (plain fun a b => a &&& b) s

def execOr (o : ScRR) (s : State) : Out := opRR o 1 (plain fun a b => a ||| b) s

def execXor (o : ScRR) (s : State) : Out := opRR o 1 (plain fun a b => a ^^^ b) s

def execAndi (o : ScRI) (s : State) : Out :=
  opRI o (fun a n => (a &&& BitVec.ofInt 64 n, fNone)) s

def execOri (o : ScRI) (s : State) : Out :=
  opRI o (fun a n => (a ||| BitVec.ofInt 64 n, fNone)) s

def execXori (o : ScRI) (s : State) : Out :=
  opRI o (fun a n => (a ^^^ BitVec.ofInt 64 n, fNone)) s

def execShl (o : ScRR) (s : State) : Out :=
  opRR o 1 (plain fun a b => a <<< (b.toNat % 64)) s

def execShr (o : ScRR) (s : State) : Out :=
  opRR o 1 (plain fun a b => a >>> (b.toNat % 64)) s

def execSra (o : ScRR) (s : State) : Out :=
  opRR o 1 (plain fun a b => a.sshiftRight (b.toNat % 64)) s

def execShli (o : ScRS) (s : State) : Out := opRS o (fun a k => a <<< k) s

def execShri (o : ScRS) (s : State) : Out := opRS o (fun a k => a >>> k) s

def execSrai (o : ScRS) (s : State) : Out := opRS o (fun a k => a.sshiftRight k) s

def execMin (o : ScRR) (s : State) : Out :=
  opRR o 1 (plain fun a b => if b.toInt < a.toInt then b else a) s

def execMax (o : ScRR) (s : State) : Out :=
  opRR o 1 (plain fun a b => if a.toInt < b.toInt then b else a) s

def execMinu (o : ScRR) (s : State) : Out :=
  opRR o 1 (plain fun a b => if b.toNat < a.toNat then b else a) s

def execMaxu (o : ScRR) (s : State) : Out :=
  opRR o 1 (plain fun a b => if a.toNat < b.toNat then b else a) s

/-- Zero bits above the highest 1 bit; 64 for 0. -/
def execClz (o : ScRU) (s : State) : Out :=
  opRU o (fun a => BitVec.ofNat 64 (64 - bitLen a.toNat)) s

/-- Number of 1 bits. -/
def popCount (n : Nat) (x : Nat) : Nat :=
  ((List.range n).filter fun k => x / 2 ^ k % 2 == 1).length

def execPopc (o : ScRU) (s : State) : Out :=
  opRU o (fun a => BitVec.ofNat 64 (popCount 64 a.toNat)) s

/-! ## LI, MOV, SEL (R106) -/

def execLi (g : Guard) (sd : BitVec 6) (imm : BitVec 14) (s : State) : Out :=
  scalarOp g sd 1 (fun _ => (BitVec.ofInt 64 (immOf imm s.cur.ext), fNone)) s

def execMov (o : ScRU) (s : State) : Out := opRU o (fun a => a) s

def execSel (pc : BitVec 4) (o : ScRR) (s : State) : Out :=
  scalarOp o.g o.sd 1 (fun c =>
    (if bitAt (c.rp pc.toNat) 0 then c.rs o.sa.toNat else c.rs o.sb.toNat, fNone)) s

/-! ## Comparisons (R107) -/

/-- The conditions of R107; the decoder admits 0 to 11. -/
def condition (cc : BitVec 4) (a b : Word) : Bool :=
  match cc.toNat with
  | 0 => a == b
  | 1 => a != b
  | 2 => a.toInt < b.toInt
  | 3 => a.toInt ≥ b.toInt
  | 4 => a.toNat < b.toNat
  | 5 => a.toNat ≥ b.toNat
  | 6 => a.toInt > b.toInt
  | 7 => a.toInt ≤ b.toInt
  | 8 => a.toNat > b.toNat
  | 9 => a.toNat ≤ b.toNat
  | 10 => a &&& b != 0
  | _ => a &&& b == 0

/-- All ones where a condition holds, else zero. -/
def allBits (x : Bool) : Half := if x then 0xFFFFFFFF else 0

def execCmp (o : ScCmp) (s : State) : Out :=
  predOp o.g o.pd.toNat
    (fun c => allBits (condition o.cc (c.rs o.sa.toNat) (c.rs o.sb.toNat))) s

/-- The SB field is the 6-bit immediate, sign-extended (R107). -/
def execCmpi (o : ScCmp) (s : State) : Out :=
  predOp o.g o.pd.toNat
    (fun c => allBits (condition o.cc (c.rs o.sa.toNat)
      (BitVec.ofInt 64 (immOf o.sb s.cur.ext)))) s

/-! ## Predicates (R108, R109) -/

def opPP (o : ScPP) (f : Half → Half → Half) (s : State) : Out :=
  predOp o.g o.pd.toNat (fun c => f (c.rp o.pa.toNat) (c.rp o.pb.toNat)) s

def execPand (o : ScPP) (s : State) : Out := opPP o (fun a b => a &&& b) s

def execPor (o : ScPP) (s : State) : Out := opPP o (fun a b => a ||| b) s

def execPxor (o : ScPP) (s : State) : Out := opPP o (fun a b => a ^^^ b) s

def execPandn (o : ScPP) (s : State) : Out := opPP o (fun a b => a &&& ~~~b) s

def execPmovPP (g : Guard) (dst src : BitVec 6) (s : State) : Out :=
  predOp g dst.toNat (fun c => c.rp src.toNat) s

def execPmovPS (g : Guard) (dst src : BitVec 6) (s : State) : Out :=
  predOp g dst.toNat (fun c => (c.rs src.toNat).truncate 32) s

def execPmovSP (g : Guard) (dst src : BitVec 6) (s : State) : Out :=
  scalarOp g dst 1 (fun c => ((c.rp src.toNat).zeroExtend 64, fNone)) s

end Sys2Proof.Machine
end

