-- ==== Sys2Proof/Machine/Dispatch.lean ====
section
/-! DEFINITION. The meaning of every instruction and event: one arm per constructor. -/

namespace Sys2Proof.Machine

def exec (i : Instr) (s : State) : Host.Outcome State Fault Refusal :=
  match i with
  | .tmpl rpt stk => Sys2Proof.Machine.execTmpl rpt stk s
  | .scope scp => Sys2Proof.Machine.execScope scp s
  | .block len => Sys2Proof.Machine.execBlock len s
  | .blockLockExpire site => Sys2Proof.Machine.execBlockLockExpire site s
  | .ximm tgt x => Sys2Proof.Machine.execXimm tgt x s
  | .nop g => Sys2Proof.Machine.execNop g s
  | .halt g => Sys2Proof.Machine.execHalt g s
  | .trap g code => Sys2Proof.Machine.execTrap g code s
  | .rft g => Sys2Proof.Machine.execRft g s
  | .add sat o => Sys2Proof.Machine.execAdd sat o s
  | .sub sat o => Sys2Proof.Machine.execSub sat o s
  | .addi sat o => Sys2Proof.Machine.execAddi sat o s
  | .mul sat o => Sys2Proof.Machine.execMul sat o s
  | .mulh o => Sys2Proof.Machine.execMulh o s
  | .mulhu o => Sys2Proof.Machine.execMulhu o s
  | .div o => Sys2Proof.Machine.execDiv o s
  | .divu o => Sys2Proof.Machine.execDivu o s
  | .rem o => Sys2Proof.Machine.execRem o s
  | .remu o => Sys2Proof.Machine.execRemu o s
  | .and o => Sys2Proof.Machine.execAnd o s
  | .or o => Sys2Proof.Machine.execOr o s
  | .xor o => Sys2Proof.Machine.execXor o s
  | .andi o => Sys2Proof.Machine.execAndi o s
  | .ori o => Sys2Proof.Machine.execOri o s
  | .xori o => Sys2Proof.Machine.execXori o s
  | .shl o => Sys2Proof.Machine.execShl o s
  | .shr o => Sys2Proof.Machine.execShr o s
  | .sra o => Sys2Proof.Machine.execSra o s
  | .shli o => Sys2Proof.Machine.execShli o s
  | .shri o => Sys2Proof.Machine.execShri o s
  | .srai o => Sys2Proof.Machine.execSrai o s
  | .min o => Sys2Proof.Machine.execMin o s
  | .max o => Sys2Proof.Machine.execMax o s
  | .minu o => Sys2Proof.Machine.execMinu o s
  | .maxu o => Sys2Proof.Machine.execMaxu o s
  | .clz o => Sys2Proof.Machine.execClz o s
  | .popc o => Sys2Proof.Machine.execPopc o s
  | .li g sd imm => Sys2Proof.Machine.execLi g sd imm s
  | .mov o => Sys2Proof.Machine.execMov o s
  | .sel pc o => Sys2Proof.Machine.execSel pc o s
  | .cmp o => Sys2Proof.Machine.execCmp o s
  | .cmpi o => Sys2Proof.Machine.execCmpi o s
  | .pand o => Sys2Proof.Machine.execPand o s
  | .por o => Sys2Proof.Machine.execPor o s
  | .pxor o => Sys2Proof.Machine.execPxor o s
  | .pandn o => Sys2Proof.Machine.execPandn o s
  | .pmovPP g dst src => Sys2Proof.Machine.execPmovPP g dst src s
  | .pmovPS g dst src => Sys2Proof.Machine.execPmovPS g dst src s
  | .pmovSP g dst src => Sys2Proof.Machine.execPmovSP g dst src s
  | .lds o u => Sys2Proof.Machine.execLds o u s
  | .sts o => Sys2Proof.Machine.execSts o s
  | .br g off => Sys2Proof.Machine.execBr g off s
  | .brl g sd off => Sys2Proof.Machine.execBrl g sd off s
  | .ret g sa => Sys2Proof.Machine.execRet g sa s
  | .jmp g sa off => Sys2Proof.Machine.execJmp g sa off s
  | .loop g ln blen cnt => Sys2Proof.Machine.execLoop g ln blen cnt s
  | .loopm g ln blen mbi => Sys2Proof.Machine.execLoopm g ln blen mbi s
  | .align tag => Sys2Proof.Machine.execAlign tag s
  | .alignBarrierComplete coh => Sys2Proof.Machine.execAlignBarrierComplete coh s
  | .startAlignment coh => Sys2Proof.Machine.execStartAlignment coh s
  | .waits g sa => Sys2Proof.Machine.execWaits g sa s
  | .waitx g ch sa => Sys2Proof.Machine.execWaitx g ch sa s
  | .cycW g sd => Sys2Proof.Machine.execCycW g sd s
  | .cycC g sd se => Sys2Proof.Machine.execCycC g sd se s
  | .csrr g sd csr => Sys2Proof.Machine.execCsrr g sd csr s
  | .csrw g sa csr => Sys2Proof.Machine.execCsrw g sa csr s
  | .mbr g sd mbi => Sys2Proof.Machine.execMbr g sd mbi s
  | .mbw g sa mbi => Sys2Proof.Machine.execMbw g sa mbi s
  | .rbegin => Sys2Proof.Machine.execRbegin s
  | .rpres kind first cnt => Sys2Proof.Machine.execRpres kind first cnt s
  | .rend sd => Sys2Proof.Machine.execRend sd s
  | .rfail g => Sys2Proof.Machine.execRfail g s
  | .fence g scp => Sys2Proof.Machine.execFence g scp s
  | .iinv g sa sb => Sys2Proof.Machine.execIinv g sa sb s
  | .isync g => Sys2Proof.Machine.execIsync g s
  | .vadd o => Sys2Proof.Machine.execVadd o s
  | .vsub o => Sys2Proof.Machine.execVsub o s
  | .vmul o => Sys2Proof.Machine.execVmul o s
  | .vmulh o u => Sys2Proof.Machine.execVmulh o u s
  | .vfma o => Sys2Proof.Machine.execVfma o s
  | .vfms o => Sys2Proof.Machine.execVfms o s
  | .vfnma o => Sys2Proof.Machine.execVfnma o s
  | .vmac o => Sys2Proof.Machine.execVmac o s
  | .vmin o => Sys2Proof.Machine.execVmin o s
  | .vmax o => Sys2Proof.Machine.execVmax o s
  | .vminu o => Sys2Proof.Machine.execVminu o s
  | .vmaxu o => Sys2Proof.Machine.execVmaxu o s
  | .vabs o => Sys2Proof.Machine.execVabs o s
  | .vneg o => Sys2Proof.Machine.execVneg o s
  | .vand o => Sys2Proof.Machine.execVand o s
  | .vor o => Sys2Proof.Machine.execVor o s
  | .vxor o => Sys2Proof.Machine.execVxor o s
  | .vandn o => Sys2Proof.Machine.execVandn o s
  | .vshl o => Sys2Proof.Machine.execVshl o s
  | .vshlImm o k => Sys2Proof.Machine.execVshlImm o k s
  | .vshr o => Sys2Proof.Machine.execVshr o s
  | .vshrImm o k => Sys2Proof.Machine.execVshrImm o k s
  | .vsra o => Sys2Proof.Machine.execVsra o s
  | .vsraImm o k => Sys2Proof.Machine.execVsraImm o k s
  | .vcmp o cc => Sys2Proof.Machine.execVcmp o cc s
  | .vcmpP o cc => Sys2Proof.Machine.execVcmpP o cc s
  | .vsel o ps => Sys2Proof.Machine.execVsel o ps s
  | .vmov o => Sys2Proof.Machine.execVmov o s
  | .vbc o idx => Sys2Proof.Machine.execVbc o idx s
  | .vbcImm o imm => Sys2Proof.Machine.execVbcImm o imm s
  | .vcvt o dst src => Sys2Proof.Machine.execVcvt o dst src s
  | .vred o op => Sys2Proof.Machine.execVred o op s
  | .vperm o => Sys2Proof.Machine.execVperm o s
  | .vrot o k => Sys2Proof.Machine.execVrot o k s
  | .vslideDn o k => Sys2Proof.Machine.execVslideDn o k s
  | .vslideUp o k => Sys2Proof.Machine.execVslideUp o k s
  | .vtint o => Sys2Proof.Machine.execVtint o s
  | .vrcp o => Sys2Proof.Machine.execVrcp o s
  | .vrsq o => Sys2Proof.Machine.execVrsq o s
  | .vexp2 o => Sys2Proof.Machine.execVexp2 o s
  | .vlog2 o => Sys2Proof.Machine.execVlog2 o s
  | .vscl o => Sys2Proof.Machine.execVscl o s
  | .vmxq o q => Sys2Proof.Machine.execVmxq o q s
  | .vbfpq o n q => Sys2Proof.Machine.execVbfpq o n q s
  | .vdqg o gs eb nm h => Sys2Proof.Machine.execVdqg o gs eb nm h s
  | .vld o => Sys2Proof.Machine.execVld o s
  | .vst o => Sys2Proof.Machine.execVst o s
  | .vlds o => Sys2Proof.Machine.execVlds o s
  | .vgth o => Sys2Proof.Machine.execVgth o s
  | .vsct o => Sys2Proof.Machine.execVsct o s
  | .tld o => Sys2Proof.Machine.execTld o s
  | .tst o => Sys2Proof.Machine.execTst o s
  | .tstOV o => Sys2Proof.Machine.execTstOV o s
  | .twl g tw => Sys2Proof.Machine.execTwl g tw s
  | .twlMx g tw tsc => Sys2Proof.Machine.execTwlMx g tw tsc s
  | .tmma g tc ta asc => Sys2Proof.Machine.execTmma g tc ta asc s
  | .tmmaMx g tc ta tsc asc => Sys2Proof.Machine.execTmmaMx g tc ta tsc asc s
  | .katt g tc ta asc => Sys2Proof.Machine.execKatt g tc ta asc s
  | .kattMx g tc ta tsc asc => Sys2Proof.Machine.execKattMx g tc ta tsc asc s
  | .tmmaSmx g tc ta tx qs asc => Sys2Proof.Machine.execTmmaSmx g tc ta tx qs asc s
  | .tsmxInit g tx => Sys2Proof.Machine.execTsmxInit g tx s
  | .tsmxNorm g tc tx ns => Sys2Proof.Machine.execTsmxNorm g tc tx ns s
  | .tzero g td => Sys2Proof.Machine.execTzero g td s
  | .tmov g td ts => Sys2Proof.Machine.execTmov g td ts s
  | .ttrn g td ts => Sys2Proof.Machine.execTtrn g td ts s
  | .xmv o => Sys2Proof.Machine.execXmv o s
  | .xmvFallbackEnd coh => Sys2Proof.Machine.execXmvFallbackEnd coh s
  | .xswap g grp => Sys2Proof.Machine.execXswap g grp s
  | .xstat g sd idx => Sys2Proof.Machine.execXstat g sd idx s
  | .xstatA g sd idx => Sys2Proof.Machine.execXstatA g sd idx s
  | .xprogSet o vm win amp => Sys2Proof.Machine.execXprogSet o vm win amp s
  | .xprogRst o vm win amp => Sys2Proof.Machine.execXprogRst o vm win amp s
  | .xerase o => Sys2Proof.Machine.execXerase o s
  | .xeraseAll o => Sys2Proof.Machine.execXeraseAll o s
  | .xread o vd win => Sys2Proof.Machine.execXread o vd win s
  | .xreadE o vd ve rs win => Sys2Proof.Machine.execXreadE o vd ve rs win s
  | .xremap o spr => Sys2Proof.Machine.execXremap o spr s
  | .xdrift o vd => Sys2Proof.Machine.execXdrift o vd s
  | .xcalO o vs => Sys2Proof.Machine.execXcalO o vs s
  | .xcalG o vs => Sys2Proof.Machine.execXcalG o vs s
  | .xcalGC o vs rs => Sys2Proof.Machine.execXcalGC o vs rs s
  | .commitSweepComplete site arr => Sys2Proof.Machine.execCommitSweepComplete site arr s
  | .xwear o sd => Sys2Proof.Machine.execXwear o sd s
  | .pulseSettle site arr => Sys2Proof.Machine.execPulseSettle site arr s
  | .glintEvaluation site arr => Sys2Proof.Machine.execGlintEvaluation site arr s
  | .mact o => Sys2Proof.Machine.execMact o s
  | .mpre o => Sys2Proof.Machine.execMpre o s
  | .mprea o => Sys2Proof.Machine.execMprea o s
  | .mrd o sb => Sys2Proof.Machine.execMrd o sb s
  | .mrda o sb => Sys2Proof.Machine.execMrda o sb s
  | .mwr o sb => Sys2Proof.Machine.execMwr o sb s
  | .mwra o sb => Sys2Proof.Machine.execMwra o sb s
  | .mref o => Sys2Proof.Machine.execMref o s
  | .mrefp o => Sys2Proof.Machine.execMrefp o s
  | .mrcp o sb => Sys2Proof.Machine.execMrcp o sb s
  | .mrcbLd o line => Sys2Proof.Machine.execMrcbLd o line s
  | .mrcbSt o line => Sys2Proof.Machine.execMrcbSt o line s
  | .mrcbInv o line => Sys2Proof.Machine.execMrcbInv o line s
  | .mzro o => Sys2Proof.Machine.execMzro o s
  | .guardCommandDrive pch => Sys2Proof.Machine.execGuardCommandDrive pch s
  | .timingFault site => Sys2Proof.Machine.execTimingFault site s
  | .autoPrecharge pch bank => Sys2Proof.Machine.execAutoPrecharge pch bank s
  | .dramOperationComplete pch bank => Sys2Proof.Machine.execDramOperationComplete pch bank s
  | .dramReadLanding pch => Sys2Proof.Machine.execDramReadLanding pch s
  | .refreshFrameBoundary pch => Sys2Proof.Machine.execRefreshFrameBoundary pch s
  | .custodialRefresh pch => Sys2Proof.Machine.execCustodialRefresh pch s
  | .idleRefresh pch => Sys2Proof.Machine.execIdleRefresh pch s
  | .push o sr peer sz => Sys2Proof.Machine.execPush o sr peer sz s
  | .pull o sr peer sz => Sys2Proof.Machine.execPull o sr peer sz s
  | .layout o lyn => Sys2Proof.Machine.execLayout o lyn s
  | .xfrG o sv lyn ch st => Sys2Proof.Machine.execXfrG o sv lyn ch st s
  | .xfrP o sv lyn ch st => Sys2Proof.Machine.execXfrP o sv lyn ch st s
  | .xfrBegin site ch id => Sys2Proof.Machine.execXfrBegin site ch id s
  | .xfrComplete site ch id => Sys2Proof.Machine.execXfrComplete site ch id s
  | .untimedPortAccess site ch id => Sys2Proof.Machine.execUntimedPortAccess site ch id s
  | .istage o nl => Sys2Proof.Machine.execIstage o nl s
  | .demandStaging site line => Sys2Proof.Machine.execDemandStaging site line s
  | .lineStagingComplete site slot => Sys2Proof.Machine.execLineStagingComplete site slot s
  | .retryEntryWrite part => Sys2Proof.Machine.execRetryEntryWrite part s
  | .rrrespRetry part tag => Sys2Proof.Machine.execRrrespRetry part tag s
  | .rrrespAbort part tag => Sys2Proof.Machine.execRrrespAbort part tag s
  | .rrcntWrite part v => Sys2Proof.Machine.execRrcntWrite part v s
  | .ptrootWrite part v => Sys2Proof.Machine.execPtrootWrite part v s
  | .tlbinvWrite part v => Sys2Proof.Machine.execTlbinvWrite part v s
  | .tlbinvComplete part => Sys2Proof.Machine.execTlbinvComplete part s
  | .atomAdd o sb sd => Sys2Proof.Machine.execAtomAdd o sb sd s
  | .atomSwap o sb sd => Sys2Proof.Machine.execAtomSwap o sb sd s
  | .atomCas o sb sc sd => Sys2Proof.Machine.execAtomCas o sb sc sd s
  | .atomAnd o sb sd => Sys2Proof.Machine.execAtomAnd o sb sd s
  | .atomOr o sb sd => Sys2Proof.Machine.execAtomOr o sb sd s
  | .atomXor o sb sd => Sys2Proof.Machine.execAtomXor o sb sd s
  | .atomMin o sb sd => Sys2Proof.Machine.execAtomMin o sb sd s
  | .atomMax o sb sd => Sys2Proof.Machine.execAtomMax o sb sd s
  | .atomMinu o sb sd => Sys2Proof.Machine.execAtomMinu o sb sd s
  | .atomMaxu o sb sd => Sys2Proof.Machine.execAtomMaxu o sb sd s
  | .atomFadd o sb sd => Sys2Proof.Machine.execAtomFadd o sb sd s
  | .atomLd o sd => Sys2Proof.Machine.execAtomLd o sd s
  | .redAdd o sb => Sys2Proof.Machine.execRedAdd o sb s
  | .redSt o sb => Sys2Proof.Machine.execRedSt o sb s
  | .redAnd o sb => Sys2Proof.Machine.execRedAnd o sb s
  | .redOr o sb => Sys2Proof.Machine.execRedOr o sb s
  | .redXor o sb => Sys2Proof.Machine.execRedXor o sb s
  | .redMin o sb => Sys2Proof.Machine.execRedMin o sb s
  | .redMax o sb => Sys2Proof.Machine.execRedMax o sb s
  | .redMinu o sb => Sys2Proof.Machine.execRedMinu o sb s
  | .redMaxu o sb => Sys2Proof.Machine.execRedMaxu o sb s
  | .redFadd o sb => Sys2Proof.Machine.execRedFadd o sb s
  | .atomicPerform site n => Sys2Proof.Machine.execAtomicPerform site n s
  | .atomReturn site n => Sys2Proof.Machine.execAtomReturn site n s
  | .trc o tag => Sys2Proof.Machine.execTrc o tag s
  | .trcFrz o tag => Sys2Proof.Machine.execTrcFrz o tag s
  | .traceFreeze site => Sys2Proof.Machine.execTraceFreeze site s
  | .resultLanding site => Sys2Proof.Machine.execResultLanding site s
  | .holdRelease coh => Sys2Proof.Machine.execHoldRelease coh s
  | .trapHandlerEntry site => Sys2Proof.Machine.execTrapHandlerEntry site s
  | .thaw site => Sys2Proof.Machine.execThaw site s
  | .regionRollback site => Sys2Proof.Machine.execRegionRollback site s
  | .latencyClass coh => Sys2Proof.Machine.execLatencyClass coh s
  | .retrainRequest site => Sys2Proof.Machine.execRetrainRequest site s
  | .retrainComplete site result => Sys2Proof.Machine.execRetrainComplete site result s
  | .overTemperature site cls => Sys2Proof.Machine.execOverTemperature site cls s
  | .preempt coh => Sys2Proof.Machine.execPreempt coh s
  | .resume coh => Sys2Proof.Machine.execResume coh s
  | .nodeBind part queue node => Sys2Proof.Machine.execNodeBind part queue node s
  | .nodeRetire coh => Sys2Proof.Machine.execNodeRetire coh s
  | .nodeRequeue coh => Sys2Proof.Machine.execNodeRequeue coh s
  | .wdogTimeout coh => Sys2Proof.Machine.execWdogTimeout coh s
  | .eventRecordWrite part => Sys2Proof.Machine.execEventRecordWrite part s
  | .evcoalTimeout part => Sys2Proof.Machine.execEvcoalTimeout part s
  | .launchWrite part queue full v => Sys2Proof.Machine.execLaunchWrite part queue full v s
  | .qctlAbort part queue => Sys2Proof.Machine.execQctlAbort part queue s
  | .qctlErrClear part queue => Sys2Proof.Machine.execQctlErrClear part queue s
  | .imgloadLoad part v => Sys2Proof.Machine.execImgloadLoad part v s
  | .imgloadUnload part v => Sys2Proof.Machine.execImgloadUnload part v s
  | .imageLoadComplete part => Sys2Proof.Machine.execImageLoadComplete part s
  | .shardProgram part handle idx => Sys2Proof.Machine.execShardProgram part handle idx s
  | .partitionCreate => Sys2Proof.Machine.execPartitionCreate s
  | .partitionResize => Sys2Proof.Machine.execPartitionResize s
  | .partitionRelease => Sys2Proof.Machine.execPartitionRelease s
  | .reclamationComplete part => Sys2Proof.Machine.execReclamationComplete part s
  | .functionLevelReset part => Sys2Proof.Machine.execFunctionLevelReset part s
  | .flrComplete part => Sys2Proof.Machine.execFlrComplete part s
  | .rrbaseWrite part v => Sys2Proof.Machine.execRrbaseWrite part v s
  | .evbaseWrite part v => Sys2Proof.Machine.execEvbaseWrite part v s
  | .evtailWrite part v => Sys2Proof.Machine.execEvtailWrite part v s
  | .syncwinRead part off size => Sys2Proof.Machine.execSyncwinRead part off size s
  | .syncwinWrite part off size v => Sys2Proof.Machine.execSyncwinWrite part off size v s
  | .registerWrite fn off v => Sys2Proof.Machine.execRegisterWrite fn off v s
  | .trcctlFrozenClear site => Sys2Proof.Machine.execTrcctlFrozenClear site s
  | .trccopyWrite v => Sys2Proof.Machine.execTrccopyWrite v s
  | .trccopyComplete => Sys2Proof.Machine.execTrccopyComplete s
  | .qtrcopyWrite v => Sys2Proof.Machine.execQtrcopyWrite v s
  | .qtrcopyComplete => Sys2Proof.Machine.execQtrcopyComplete s
  | .attreqWrite v => Sys2Proof.Machine.execAttreqWrite v s
  | .attestationReport => Sys2Proof.Machine.execAttestationReport s
  | .dumpcmdGo => Sys2Proof.Machine.execDumpcmdGo s
  | .fatalError cause => Sys2Proof.Machine.execFatalError cause s
  | .errinjWrite v => Sys2Proof.Machine.execErrinjWrite v s
  | .boot => Sys2Proof.Machine.execBoot s
  | .bootaddrWrite v => Sys2Proof.Machine.execBootaddrWrite v s
  | .pwrcapWrite v => Sys2Proof.Machine.execPwrcapWrite v s
  | .powerSample r => Sys2Proof.Machine.execPowerSample r s

end Sys2Proof.Machine
end

