-- ==== Sys2Proof/Machine/Issue.lean ====
section
/-! DEFINITION. Issue of a bundle: its template and prefixes, its slots in order with their latches,
and what follows it (R47 to R56, R86 to R93, R140, R243, R286, R288, R294, R301, R307). -/

namespace Sys2Proof.Machine

/-- Go on with the next state of an outcome. -/
def andThen (o : Out) (f : State → Out) : Out :=
  match o with
  | .next s => f s
  | .fault r => .fault r
  | .refused r => .refused r

/-- One after the other. -/
def issueAll (f : α → State → Out) : List α → State → Out
  | [], s => .next s
  | x :: l, s => andThen (f x s) (issueAll f l)

/-! ## Slots -/

/-- The operation of a slot: what decodes, or the reason it does not, with its header word, its
extension and the latch it comes from. -/
structure Op where
  slot : Nat
  instr : Option Instr
  raw : Half
  ext : Option Half
  latch : Option Latch
  deriving DecidableEq, Repr

/-- What slot k of the bundle performs. -/
def Ctx.opAt (c : Ctx) (l : List Syl) (k : Nat) : Option Op :=
  match c.slotOp l k with
  | none => none
  | some (.syllable x) =>
    some { slot := k, raw := sylHeader x, ext := extOf (ximms l) k, latch := none
           instr := match decodeSyl x.wide x.w with
             | .ok i => some i
             | .error _ => none }
  | some (.latched x) =>
    some { slot := k, raw := x.raw, ext := x.ext, latch := some x, instr := some x.op }

/-- The value on the broadcast port: the SC operation's first scalar source (R49). -/
def Ctx.broadcast (c : Ctx) (l : List Syl) : Option Word :=
  match (c.opAt l 1).bind (·.instr) with
  | some i => (bSource i).map fun r => c.rs r.toNat
  | none => none

/-- Operations that a replay does not issue: their logged results land, or their effect stands (R301). -/
def notReplayed (i : Instr) : Bool :=
  match i with
  | .cycW _ _ => true
  | .csrr _ _ csr => csrLogged csr.toNat
  | .xmv _ | .xread .. | .xreadE .. | .xdrift .. | .xstat .. | .xstatA .. | .xwear .. => true
  | .mrd .. | .mrda .. | .pull .. | .mact _ | .mpre _ | .mprea _ | .mref _ | .mrefp _ | .mrcbLd ..
  | .mrcbInv .. | .mwr .. | .mwra .. | .mrcp .. | .mrcbSt .. | .mzro _ | .push .. => true
  | .xprogSet .. | .xprogRst .. | .xerase _ | .xeraseAll _ | .xremap .. | .xcalO .. | .xcalG ..
  | .xcalGC .. | .xswap .. => true
  | .xfrG .. | .xfrP .. | .istage .. | .trc .. | .trcFrz .. => true
  | .atomAdd .. | .atomSwap .. | .atomCas .. | .atomAnd .. | .atomOr .. | .atomXor .. | .atomMin ..
  | .atomMax .. | .atomMinu .. | .atomMaxu .. | .atomFadd .. | .atomLd .. => true
  | .redAdd .. | .redSt .. | .redAnd .. | .redOr .. | .redXor .. | .redMin .. | .redMax ..
  | .redMinu .. | .redMaxu .. | .redFadd .. => true
  | _ => false

/-- SC operations that leave an empty latch (R51). -/
def leavesNoLatch (i : Instr) : Bool :=
  match encodeFields i with
  | some f => clsOf f == 2 && controlOp (opOf f)
  | none => true

/-- The state in which an operation executes. -/
def State.prepare (s : State) (x : Op) : State :=
  let step := (s.ctx s.cur.site).step x.slot
  let at_ := match x.latch, x.instr with
    | some l, some i => stepped i step l.ea l.ea2
    | _, _ => none
  { s with cur := { s.cur with slot := x.slot, raw := x.raw, ext := x.ext, sticky := at_, ea := at_ } }

/-- Landings of what one operation put into the pipelines of its core's time. -/
def Ctx.landsOf (c : Ctx) (key : Nat) : List Nat :=
  let own := match c.handler with
    | some h => if h.returned.isNone then (h.flight, h.acc) else (c.flight, c.acc)
    | none => (c.flight, c.acc)
  (own.1.filter (·.seq == key)).map (·.land) ++ (own.2.filter (·.key == key)).map (·.errAt)

/-- Landings of a PULL of core i: its read stands at the remote core. -/
def State.pullLands (s : State) (i key : Nat) : List Nat :=
  (s.cores.map fun e => (e.2.ctx.acc.filter fun a => a.key == key && (match a.act with
    | .pull _ _ issuer _ _ => issuer == i
    | _ => false)).map (·.errAt)).flatten

/-- Landing of the read command of core i that issued in cycle t from slot k: c + 44 + 2h (R75, R217). -/
def State.readLands (s : State) (i t k : Nat) : List Nat :=
  (s.pchs.map fun e => (e.2.path.filter fun x => x.site == i && x.issued == t && x.slot == k).map fun x =>
    t + 44 + 2 * x.hops).flatten

/-- Offset of the landing cycle of an operation whose results the pipelines do not show (R75): the tile
store, the weight latch, calibration; stores of registers land nothing. -/
def fixedLanding (i : Instr) : Option Nat :=
  match i with
  | .sts .. | .vst _ | .vsct _ | .mwr .. | .mwra .. | .xremap .. | .xswap .. => some 1
  | .xcalO .. | .xcalG .. | .xcalGC .. => some 2
  | .tst _ | .tstOV _ => some 16
  | .twl .. | .twlMx .. => some 64
  | .xprogSet .. | .xprogRst .. | .xerase _ | .xeraseAll _ => some 256
  | _ => none

/-- The landing cycle of the operation i that the present slot has issued; c + 1 where it has none (R286;
DEDUCED, log 64). -/
def State.landingOf (s : State) (i : Instr) : Nat :=
  let site := s.cur.site
  let t := s.timeOf site
  match fixedLanding i with
  | some n => t + n
  | none =>
    match (s.ctx site).landsOf s.issueKey ++ s.pullLands site s.issueKey ++ s.readLands site t s.cur.slot with
    | [] => t + 1
    | x :: r => r.foldl max x

/-- The region error of a register read of operation i, from its landing on (R286); an injected one has
acted. -/
def State.readFault (s : State) (op : Instr) (code : Nat) : State :=
  if code = 0 then s
  else
    let i := s.cur.site
    let t := s.timeOf i
    let due := s.landingOf op
    let s := if code = 2 && s.injectsRead i then { s.disarm with fresh := s.fresh + 640 } else s
    s.modCtx i (·.addBev { due := due, issued := t, kind := .regionError 0x18 (BitVec.ofNat 64 code)
                           again := !notReplayed op })

/-- Update the slot's latch after its operation (R51). -/
def State.keepLatch (s : State) (x : Op) (i : Instr) : State :=
  let ea := s.cur.ea.getD (0, 0)
  s.modCtx s.cur.site fun c =>
    { c with latch :=
        if leavesNoLatch i then SMap.del c.latch x.slot
        else SMap.set c.latch x.slot { op := i, raw := x.raw, ext := x.ext, ea := ea.1, ea2 := ea.2 } }

/-- TRAP commits its slot, and its trap follows (R294; DEDUCED, log 19). -/
def State.softTrap (s : State) : State :=
  match s.cur.soft with
  | none => s
  | some code =>
    let s' := s.takeTrap s.cur.site
      { cause := 0x01, sres := 2, slot := 1, tval := code.zeroExtend 64, pc := s.cur.pc, rep := s.cur.rep
        issued := true, erring := s.timeOf s.cur.site }
    { s' with cur := { s'.cur with trapped := true } }

/-- What follows an operation that did not trap. -/
def State.settle (s : State) (x : Op) (i : Instr) (code : Nat) : State :=
  if s.cur.trapped then s else ((s.readFault i code).keepLatch x i).softTrap

/-- Issue the operation of one slot. -/
def State.issueOp (s : State) (x : Op) : Out :=
  let s := s.prepare x
  match x.instr with
  | none => .next s.illegal
  | some i =>
    if s.replaying && notReplayed i then
      andThen (exec i s) fun t => .next ({ s with cur := { s.cur with ea := t.cur.ea } }.settle x i 0)
    else
      let code := s.readError (x.slot == 2 || x.slot == 3) i
      andThen (exec i s) fun t => .next (t.settle x i code)

/-- Issue slot k of the bundle, unless a lower slot trapped (DEDUCED, log 48). -/
def State.issueSlot (l : List Syl) (k : Nat) (s : State) : Out :=
  if s.cur.trapped then .next s
  else
    match (s.ctx s.cur.site).opAt l k with
    | none => .next s
    | some x => s.issueOp x

/-! ## The bundle -/

/-- What the committed slots of the bundle that is being resumed had decided (R288). -/
def Ctx.heldTail (c : Ctx) : Option Tail :=
  match c.handler with
  | none => none
  | some h =>
    h.tail.filter fun t => h.resuming && decide (2 ≤ c.sres) && t.pc == c.pc && t.rep == c.rpos

/-- The bundle-level context in which core i issues its bundle. -/
def State.openBundle (s : State) (i : Nat) (l : List Syl) (next : BitVec 54) : State :=
  let c := s.ctx i
  let cur := { Cur.reset with site := i, pc := c.pc, next := next, rep := c.rpos, b := c.broadcast l }
  { s with cur := match c.heldTail with
      | some t => { cur with jump := t.jump, bubble := t.bubble, halt := t.halt }
      | none => cur }

/-- A TM or PF syllable takes effect. -/
def State.prefixOp (x : Syl) (s : State) : Out :=
  match decodeSyl x.wide x.w with
  | .ok i => exec i s
  | .error _ => .next s

/-- Count a pending LAYOUT down; at 0 the shape is in effect (R243). In a replay only those issued in
the replayed region count. -/
def Ctx.countLayouts (c : Ctx) : Ctx :=
  if c.inHandler then c
  else
    let counts := fun (l : LyPend) => match c.replay with
      | some r => (match c.regions[c.regions.length - r.depth]? with
        | some q => decide (l.issued > q.began)
        | none => true)
      | none => true
    let l := c.lyPend.map fun x => if counts x then { x with left := x.left - 1 } else x
    { c with lyPend := l.filter (·.left != 0)
             ly := (l.filter (·.left == 0)).foldl (fun m x => SMap.put m 0 x.n x.v) c.ly }

/-- The lock of a BLOCK prefix on the banks of the slots that have issued: it counts from the bundle's
cohort cycle, for a bundle whose higher slot trapped, for its rest, and for a handler's bundle, which
stands in its trapped bundle's cycle (R140; DEDUCED, log 66). -/
def State.lockBanks (s : State) : State :=
  let i := s.cur.site
  if s.cur.blockLen = 0 then s
  else
    let t := s.cycOf i
    let l : Lock := { banks := s.cur.banks.eraseDups, from_ := t, to_ := t + s.cur.blockLen - 1 }
    s.modCore i fun c => { c with locks := c.locks ++ [l] }

/-- The context whose next bundle is at `pc` in cycle `at_`. -/
def Ctx.goTo (c : Ctx) (pc : BitVec 54) (at_ : Nat) : Ctx :=
  { c with pc := pc, rpos := 0, sres := 0, resumed := false, nextIssue := at_, ready := false }

/-- The next repeat of the bundle (R51). -/
def Ctx.again (c : Ctx) (at_ : Nat) : Ctx :=
  { c with rpos := c.rpos + 1, sres := 0, resumed := false, nextIssue := at_, ready := false }

/-- Where the core goes after a bundle whose slots have committed (R51, R86, R90). -/
def Ctx.advance (c : Ctx) (u : Cur) (t : Nat) : Ctx :=
  match u.jump with
  | some (a, n) => c.goTo a (t + n + u.bubble)
  | none =>
    if u.rep < u.rpt then c.again (t + 1 + u.bubble)
    else
      let r := c.endLoops u.next c.stack
      r.1.goTo r.2 (t + 1 + u.bubble)

/-- The end of a bundle of core i: LAYOUT counts, BLOCK locks, RFT, HALT, the next bundle, and the
start of replay of a region that it opened. -/
def State.closeBundle (s : State) : State :=
  let i := s.cur.site
  let u := s.cur
  let t := s.timeOf i
  let s := s.lockBanks
  if u.trapped then s
  else
    s.modCtx i fun c =>
      let c := c.countLayouts
      if u.rft then c.return_ s.now
      else if u.halt then { c with halted := true, ready := false }
      else
        let c := c.advance u t
        c.regionNext t c.pc c.nextIssue

/-- Issue the bundle that core i stands at. -/
def State.issueBundle (s : State) (i : Nat) : Out :=
  match (s.core i).fetch with
  | .bundle l next =>
    let k := (s.ctx i).sres
    let slots := [1, 2, 3, 4, 5, 6].filter fun j => decide (k ≤ j)
    andThen (issueAll State.prefixOp (l.filter fun x => x.cls ≤ 1) (s.openBundle i l next)) fun s =>
      andThen (issueAll (State.issueSlot l) slots s) fun s => .next s.closeBundle
  | _ => .next (s.modCtx i fun c => { c with ready := false })

end Sys2Proof.Machine
end

