-- ==== Sys2Proof/WellFormed.lean ====
section
/-! DEFINITION. Well-formed instructions: a syllable's fields hold values that its entry permits; an
event names things that exist. -/

namespace Sys2Proof

/-- Indices within the resources of R13 to R16: 128 sites, 512 pseudo-channels, 16 partitions with
16 cohorts and 8 queues each. -/
def eventOk (i : Instr) : Bool :=
  match i with
  | .blockLockExpire s | .xfrBegin s _ _ | .xfrComplete s _ _ | .untimedPortAccess s _ _
  | .demandStaging s _ | .timingFault s | .traceFreeze s | .resultLanding s | .trapHandlerEntry s
  | .thaw s | .regionRollback s | .retrainRequest s | .retrainComplete s _ | .overTemperature s _
  | .trcctlFrozenClear s | .atomicPerform s _ | .atomReturn s _ | .lineStagingComplete s _ => s < 128
  | .commitSweepComplete s a | .pulseSettle s a | .glintEvaluation s a => s < 128 && a < 128
  | .alignBarrierComplete c | .startAlignment c | .xmvFallbackEnd c | .holdRelease c
  | .latencyClass c | .preempt c | .resume c | .nodeRetire c | .nodeRequeue c
  | .wdogTimeout c => c < 256
  | .guardCommandDrive p | .dramReadLanding p | .refreshFrameBoundary p | .custodialRefresh p
  | .idleRefresh p => p < 512
  | .autoPrecharge p b | .dramOperationComplete p b => p < 512 && b < 16
  | .retryEntryWrite p | .rrrespRetry p _ | .rrrespAbort p _ | .rrcntWrite p _ | .ptrootWrite p _
  | .tlbinvWrite p _ | .tlbinvComplete p | .eventRecordWrite p | .evcoalTimeout p
  | .imgloadLoad p _ | .imgloadUnload p _ | .imageLoadComplete p | .reclamationComplete p
  | .functionLevelReset p | .flrComplete p | .rrbaseWrite p _ | .evbaseWrite p _
  | .evtailWrite p _ | .syncwinRead p _ _ | .syncwinWrite p _ _ _ => p < 16
  | .shardProgram p h _ => p < 16 && h < 256
  | .nodeBind p q _ | .launchWrite p q _ _ | .qctlAbort p q | .qctlErrClear p q => p < 16 && q < 8
  | .registerWrite f _ _ => f < 17
  | .partitionCreate | .partitionResize | .partitionRelease | .trccopyWrite _ | .trccopyComplete
  | .qtrcopyWrite _ | .qtrcopyComplete | .attreqWrite _ | .attestationReport | .dumpcmdGo
  | .fatalError _ | .errinjWrite _ | .boot | .bootaddrWrite _ | .pwrcapWrite _
  | .powerSample _ => true
  | _ => false

/-- An instruction that a program can hold, or an event that the device or its host can meet. -/
def wellFormed (i : Instr) : Bool := legal i == none || eventOk i

end Sys2Proof
end

