-- ==== Sys2Proof/Machine/Run.lean ====
section
/-! DEFINITION. The order of a wall cycle: in each phase the events that are due, then what the end of
the phase does (DESIGN CHOICE, log 4). -/

namespace Sys2Proof.Machine

/-! ## What there is -/

/-- Core sites with a state of their own. -/
def State.siteKeys (s : State) : List Nat := s.cores.map (·.1)
def State.bankKeys (s : State) : List Nat := s.banks.map (·.1)
/-- Pseudo-channels with a state of their own, and those that a cohort uses (DESIGN CHOICE, log 28). -/
def State.pchKeys (s : State) : List Nat :=
  (s.pchs.map (·.1) ++ (s.cohorts.map fun e => e.2.pchs).flatten).eraseDups
def State.partKeys (s : State) : List Nat := s.parts.map (·.1)
def State.cohKeys (s : State) : List Nat := s.cohorts.map (·.1)

/-- The event of the first candidate that passes a test. -/
def due (l : List Nat) (p : Nat → Bool) (f : Nat → Instr) : Option Instr := (l.find? p).map f

/-- The first event that a list of choices gives. -/
def firstSome : List (Option Instr) → Option Instr
  | [] => none
  | some i :: _ => some i
  | none :: l => firstSome l

/-! ## Inbox -/

/-- The first item of the inbox whose time has come. -/
def State.arrived (s : State) : Option (Nat × Input) := s.inbox.find? fun e => e.1 ≤ s.now

/-- A result in flight that an error of draw n hits: one of a shadowed pair changes in open bits of what
it writes, an accumulation takes a parity error, a known-answer test differs. -/
def Pend.hit (p : Pend) (paired : Bool) (n : Nat) : Pend :=
  match p.eff with
  | .vreg .. | .preg .. => if paired then p.flip (Config.errorBits n) else p
  | .accumulate tc m k v bad par => { p with eff := .accumulate tc m k v bad (n :: par) }
  | .softmax tc tx m sc w qs asc bad par => { p with eff := .softmax tc tx m sc w qs asc bad (n :: par) }
  | .known tr _ => { p with eff := .known tr true }
  | _ => p

/-- The n-th result in flight of a core is hit. -/
def State.hitResult (s : State) (i n : Nat) : State :=
  match (s.ctx i).flight[n]? with
  | none => s
  | some p =>
    let d := s.draw
    let paired := (s.ctx i).flight.any fun q => p.pairs q || q.pairs p
    d.2.modCtx i fun c => { c with flight := c.flight.set n (p.hit paired d.1) }

/-- A CRC error of a pseudo-channel's link: a region error of the core that issued the command,
of the node that it served (R234). -/
def State.crcError (s : State) (pch : Nat) (write : Bool) : State :=
  let tval := fun (code : Nat) => BKind.regionError 0x1D (BitVec.ofNat 64 (pch * 2 ^ 16 + code))
  if write then
    match (s.pch pch).path.find? fun k => k.cmd == .wr || k.cmd == .wra with
    | some k => s.modCore k.site (·.modOf k.coh fun c =>
        { c with bev := c.bev ++
            [{ due := k.issued + 2 + 2 * k.hops, issued := k.issued, kind := tval 3, again := false }] })
    | none => s
  else
    match (s.pch pch).landing with
    | l :: _ => s.modCore l.site (·.modOf l.coh fun c =>
        { c with bev := c.bev ++ [{ due := l.port + 1, issued := l.issued, kind := tval 2, again := false }] })
    | [] => s

/-- An error strikes (DESIGN CHOICE, log 24; DEDUCED, log 25). -/
def State.strike (s : State) (u : Upset) : State :=
  match u with
  | .register i f r => s.modCore i fun c => { c with badReg := ((f, r) :: c.badReg).eraseDups }
  | .word i n => s.modCore i fun c => { c with badWord := (n :: c.badWord).eraseDups }
  | .line i n => s.modCore i fun c =>
      match SMap.get? c.istore n with
      | some l => { c with istore := SMap.set c.istore n { l with bad := true } }
      | none => c
  | .tile i l => s.modCtx i fun c =>
      if c.poison.contains l then c else { c with poison := l :: c.poison, badLine := l :: c.badLine }
  | .result i n => s.hitResult i n
  | .block p b => s.modPch p fun x => { x with bad := (b :: x.bad).eraseDups }
  | .crc p w => s.crcError p w
  | .sync n => { s with syncBad := ([2 * n, 2 * n + 1] ++ s.syncBad).eraseDups }
  | .transfer i ch id =>
    match s.xfrWith i ch id (·.stage != .atSys) with
    | some u => s.modCore i (·.modUop u.n fun x =>
        if x.stage == .running then { x with failed := true, todo := [] }
        else if (x.stage == .atCore || x.stage == .atPort) && !x.completeAt x.scope then { x with failed := true }
        else x)
    | none => s
  | .argument p q => s.modLaunch p q fun l =>
      if l.nodes.all (fun n => n.2 == .waiting) then { l with ending := some (l.ending.getD stBadstart) } else l

/-- What the error strikes exists. -/
def Upset.ok (u : Upset) : Bool :=
  match u with
  | .register i f r => i < 128 && ((f = 0 && r < 64) || (f = 1 && r < 640) || (f = 2 && r < 16))
  | .word i n => i < 128 && n < 98304
  | .line i n => i < 128 && n < 4096
  | .tile i l => i < 128 && l < 512
  | .result i _ => i < 128
  | .block p b => p < 512 && b < 25165824
  | .crc p _ => p < 512
  | .sync n => n < 524288
  | .transfer i _ _ => i < 128
  | .argument p q => p < 16 && q < 8

/-- Take one item out of the inbox. What this device does not have is dropped. -/
def State.receive (s : State) (e : Nat × Input) : Out :=
  let s := { s with inbox := s.inbox.erase e }
  match e.2 with
  | .hostStore a b => .next { s with host := memPut s.host a b }
  | .act i => if eventOk i then exec i s else .next s
  | .access fn off size w => .next (if fn < 17 then s.barAccess fn off size w else s)
  | .configRead fn off => .next (if fn < 17 then s.configRead fn off else s)
  | .vfEnable on => .next (s.modPf fun p => { p with vfEnable := on })
  | .pfReset => .next s.pfReset
  | .sense r => .next (s.modPf fun p => { p with sensed := r })
  | .upset u => .next (if u.ok then s.strike u else s)

/-! ## Background -/

/-- The pseudo-channel operations that have ended. -/
def State.jobDue (s : State) (p : Nat) : Option Nat :=
  ((s.pch p).jobs.find? fun j => j.done ≤ s.now).map (·.bank)

/-- The slot of a line whose staging ends. -/
def State.lineSlot (s : State) (i : Nat) : Option Nat :=
  ((s.core i).istore.find? fun e => s.lineDue i e.1 e.2).map (·.1)

def State.backgroundEvent (s : State) : Option Instr :=
  firstSome [
    s.pchKeys.findSome? fun p => (s.jobDue p).map fun b => .dramOperationComplete p b,
    due s.siteKeys s.lockDue .blockLockExpire,
    s.siteKeys.findSome? fun i => (s.lineSlot i).map fun n => .lineStagingComplete i n,
    due s.pchKeys s.custodialDue .custodialRefresh,
    due s.pchKeys s.idleDue .idleRefresh,
    due s.siteKeys s.freezeDue .traceFreeze,
    due s.cohKeys s.fallbackDue .xmvFallbackEnd,
    due s.cohKeys s.barrierDue .alignBarrierComplete,
    due s.cohKeys s.startDue .startAlignment]

/-- Waits of starting cohorts become holds, holds are reviewed, and the guards of halted nodes close. -/
def State.backgroundEnd (s : State) : State :=
  forAll s.cohKeys s fun k s => ((s.startHold k).reviewHold k).beginClose k

/-! ## Release, landing, boundaries -/

def State.releaseEvent (s : State) : Option Instr := due s.cohKeys s.releaseDue .holdRelease

/-- The cohorts that stand in a cohort cycle. -/
def State.releaseEnd (s : State) : State :=
  forAll s.cohKeys s fun k s => s.modCoh k fun c => { c with turn := c.st == .running && c.holdStart.isNone }

/-- The bank effect of a site that lands now, as its event. -/
def State.bankEvent (s : State) (i : Nat) : Option Instr :=
  ((s.bankDue i).head?).map fun p =>
    if p.eff.isSweep then .commitSweepComplete i p.eff.array else .pulseSettle i p.eff.array

def State.landEvent (s : State) : Option Instr :=
  firstSome [
    s.bankKeys.findSome? s.bankEvent,
    due s.pchKeys s.frameDue .refreshFrameBoundary,
    due s.siteKeys s.landsNow .resultLanding]

def State.boundaryEvent (s : State) : Option Instr :=
  firstSome [
    due s.siteKeys (fun i => (s.boundaryNow i).any BEvent.isFirst) .timingFault,
    due s.siteKeys (fun i => (s.boundaryNow i).any BEvent.isRegion) .regionRollback,
    due s.cohKeys (fun k => (s.latencyDue k).isSome) .latencyClass,
    due s.cohKeys s.preemptDue .preempt]

/-! ## Fetch -/

/-- A handler of the core waits for an untimed result (R293). -/
def Cohort.handlerWaits (c : Cohort) (i : Nat) : Bool :=
  c.holds.any fun h => match h with
    | .waits j _ w => w && j == i
    | .waitx j _ _ w => w && j == i
    | _ => false

/-- Core i stands before a bundle that it issues in this wall cycle unless its cohort is held:
in its cohort's cycle, at the boundary at which a hold begins, in a handler, in the rest of a trapped
bundle, in a replay; before W0 it only fetches. -/
def State.wants (s : State) (i : Nat) : Bool :=
  let c := s.ctx i
  match (s.core i).run with
  | .bound k =>
    match s.coh? k with
    | none => false
    | some g =>
      if g.st == .starting then true
      else if g.st != .running || c.halted then false
      else
        match c.replay with
        | some r => r.startWall ≤ s.now && r.cyc < r.upTo && c.nextIssue ≤ r.cyc
        | none =>
          match c.handler with
          | some h =>
            if h.resuming then c.nextIssue ≤ h.cyc
            else h.returned.isNone && c.nextIssue ≤ s.now && !g.handlerWaits i
          | none =>
            (g.turn && g.holdStart.isNone || g.holdStart == some s.now) && c.waiting.isNone &&
              c.nextIssue ≤ g.ccyc
  | _ => false

/-- Core i issues in this wall cycle what it stands before. -/
def State.mayIssue (s : State) (i : Nat) : Bool :=
  let c := s.ctx i
  s.wants i && (match (s.cohOf i).bind s.coh? with
    | some g => g.st == .running && (g.holdStart.isNone || c.replay.isSome || c.handler.isSome)
    | none => false)

/-- The cohort of core i is held for a line that the core lacks. -/
def State.missHeld (s : State) (i : Nat) : Bool :=
  match (s.missHolds i).bind s.coh? with
  | some c => c.holds.contains (.miss i)
  | none => false

/-- The line that core i's next bundle lacks, where its staging or its hold has not begun. A bundle may
lie in two lines that are not there: the second is staged in the hold for the first. -/
def State.demandDue (s : State) (i : Nat) : Option Nat :=
  match (s.core i).fetch with
  | .missing a => if s.wants i || s.missHeld i then some a else none
  | .staging a =>
    if s.wants i && (s.missHolds i).isSome && !s.missHeld i then some a else none
  | _ => none

/-- Core i's next bundle takes a trap before any slot issues. Before W0, and at a boundary whose hold
began with the bundle before it, none is taken. -/
def State.fetchTraps (s : State) (i : Nat) : Bool :=
  s.wants i && (match (s.cohOf i).bind s.coh? with
    | some g => g.st == .running && (g.turn || (s.ctx i).replay.isSome || (s.ctx i).handler.isSome)
    | none => false) && (s.core i).fetchFault.isSome

def State.fetchEvent (s : State) : Option Instr :=
  firstSome [
    s.siteKeys.findSome? fun i => (s.demandDue i).map fun a => .demandStaging i a,
    due s.siteKeys s.fetchTraps .trapHandlerEntry]

/-- A bundle was found for a core that issues. -/
def State.decoded (s : State) (i : Nat) : Bool :=
  s.mayIssue i && (match (s.core i).fetch with
    | .bundle _ _ => true
    | _ => false)

/-- The cores that issue, and the cohorts whose clock advances. -/
def State.fetchEnd (s : State) : State :=
  let s := forAll (s.siteKeys.filter s.decoded) s fun i s => s.modCtx i fun c => { c with ready := true }
  forAll s.cohKeys s fun k s => s.modCoh k fun c =>
    { c with adv := c.st == .running && c.turn && c.holdStart.isNone }

/-! ## Issue -/

/-- Holds that begin with the bundles of this wall cycle are recorded after them (R308). -/
def State.issueEnd (s : State) : State := forAll s.cohKeys s fun k s => s.sayHold k

/-- The next core to issue. -/
def State.issuer (s : State) : Option Nat := s.siteKeys.find? fun i => (s.ctx i).ready

/-! ## Ports, guards, untimed work -/

/-- A transfer of core i that uses its untimed port now. -/
def State.mover (s : State) (i : Nat) : Option Instr :=
  (s.core i).uops.findSome? fun u => match u.kind with
    | .xfr _ ch id _ _ _ _ => if s.canMove i u then some (.untimedPortAccess i ch id) else none
    | _ => none

/-- Read data of a pseudo-channel that enters a port now. -/
def State.readDue (s : State) (p : Nat) : Bool :=
  (s.pch p).landing.any fun l => match s.coh? l.coh with
    | some c => c.adv && l.port ≤ c.ccyc
    | none => false

def State.portEvent (s : State) : Option Instr :=
  firstSome [due s.pchKeys s.readDue .dramReadLanding, s.siteKeys.findSome? s.mover]

def State.portEnd (s : State) : State := (forAll s.siteKeys s fun i s => s.servePorts i).stopEnded

/-- The cohort that a pseudo-channel serves, in a wall cycle in which its clock advances. -/
def State.driving (s : State) (p : Nat) : Option Cohort := ((s.userOf p).bind s.coh?).filter (·.adv)

def State.driveDue (s : State) (p : Nat) : Bool :=
  match s.driving p with
  | some c => !((s.pch p).arriving c.ccyc).isEmpty
  | none => false

/-- The bank of a pseudo-channel whose automatic precharge has come. -/
def State.autoDue (s : State) (p : Nat) : Option Nat :=
  match s.driving p with
  | none => none
  | some c => ((s.pch p).banks.find? fun e => match e.2.auto with
      | some d => d ≤ c.ccyc
      | none => false).map (·.1)

def State.guardEvent (s : State) : Option Instr :=
  firstSome [
    due s.pchKeys s.driveDue .guardCommandDrive,
    s.pchKeys.findSome? fun p => (s.autoDue p).map fun b => .autoPrecharge p b]

/-- The next step of an untimed operation of core i. -/
def State.untimedStep (s : State) (i : Nat) (u : UOp) : Option Instr :=
  match u.kind with
  | .xfr _ ch id _ _ _ _ => if s.canComplete i u then some (.xfrComplete i ch id) else none
  | .atom .. =>
    if s.canPerform i u then some (.atomicPerform i u.n)
    else if s.canReturn i u then some (.atomReturn i u.n) else none
  | _ => none

def State.untimedEvent (s : State) : Option Instr :=
  firstSome [
    s.siteKeys.findSome? fun i => (s.xfrReady i).map fun t => .xfrBegin i t.1 t.2,
    s.siteKeys.findSome? fun i => (s.core i).uops.findSome? (s.untimedStep i),
    due s.partKeys (fun p => (s.part p).retryDue) .retryEntryWrite,
    due s.partKeys s.invDone .tlbinvComplete]

def State.untimedEnd (s : State) : State := forAll s.siteKeys s fun i s => s.settleOps i

/-! ## Management -/

/-- A partition request that is carried out now; one with OP = 3 is refused at the end of the phase. -/
def State.pmEvent (s : State) : Option Instr :=
  if s.pf.stage != 5 then none
  else
    match s.pmDue with
    | some 0 => some .partitionCreate
    | some 1 => some .partitionResize
    | some 2 => some .partitionRelease
    | _ => none

/-- A shard that can be programmed now: handle and index. -/
def State.shardDue (s : State) (p : Nat) : Option (Nat × Nat) :=
  (s.part p).images.findSome? fun e =>
    (e.2.unprogrammed.find? fun k => e.2.fetchable s.now k && match e.2.shardOf k with
      | some (g, x) => (s.part p).sites.all fun i => s.mayProgram i g x
      | none => false).map fun k => (e.1, k)

/-- A bound node that can be cleared away. -/
def State.clearDue (s : State) (k : Nat) : Option Instr :=
  match s.coh? k with
  | none => none
  | some c => if !s.retireDue k then none else if c.requeue.isSome then some (.nodeRequeue k) else some (.nodeRetire k)

/-- How a retrain that is due ends is a physical outcome. -/
def retrainResult (n : Nat) : Retrain :=
  match Config.choice n % 3 with
  | 0 => .full
  | 1 => .half
  | _ => .failed

def State.manageEvent (s : State) : Option Instr :=
  firstSome [
    if s.bootDue then some .boot else none,
    if s.sampleDue then some (.powerSample s.pf.sensed) else none,
    due s.bankKeys s.retrainDue fun i => .retrainComplete i (retrainResult s.fresh),
    due s.cohKeys s.wdogDue .wdogTimeout,
    s.cohKeys.findSome? s.clearDue,
    due s.siteKeys s.thawDue .thaw,
    due s.partKeys s.reclaimDue .reclamationComplete,
    due s.partKeys (fun p => (s.part p).rst && !(s.part p).releasing && (s.part p).reclaim.isNone) .flrComplete,
    s.pmEvent,
    due s.partKeys s.loadDue .imageLoadComplete,
    s.partKeys.findSome? fun p => (s.shardDue p).map fun x => .shardProgram p x.1 x.2,
    s.partKeys.findSome? fun p => (s.nextBind p).map fun x => .nodeBind p x.1 x.2,
    due s.cohKeys s.resumeDue .resume,
    due s.partKeys (fun p => (s.part p).recordDue) .eventRecordWrite,
    due s.partKeys s.coalDue .evcoalTimeout,
    if s.at_ s.pf.trcUntil then some .trccopyComplete else none,
    if s.at_ s.pf.qtrUntil then some .qtrcopyComplete else none,
    if s.at_ s.pf.attUntil then some .attestationReport else none]

/-- A malformed partition request ends with BADREQ (R269). -/
def State.refusePm (s : State) : State := if s.pf.stage == 5 && s.pmDue == some 3 then s.pmDone stBadreq else s

def State.manageEnd (s : State) : State :=
  let s := s.refusePm.writeRepair
  let s := forAll s.partKeys s fun p s => ((s.manageQueues p).capAction p).qtrFlush p
  forAll s.cohKeys s fun k s => s.tooHot k

/-! ## The end of a wall cycle -/

/-- A core's clocks: a replayed cycle passes when its bundle has issued, and a handler is gone once the
rest of its trapped bundle has. -/
def Ctx.tick (c : Ctx) (now : Nat) : Ctx :=
  let c := match c.replay with
    | some r => if r.startWall ≤ now && r.cyc < c.nextIssue then { c with replay := some { r with cyc := r.cyc + 1 } } else c
    | none => c
  match c.handler with
  | some h => if h.resuming && (c.halted || h.cyc < c.nextIssue) then { c with handler := none } else c
  | none => c

/-- A cohort's clocks (R72, R73); an ended node's count goes on for its bank's pending effects (R198). -/
def Cohort.tick (c : Cohort) : Cohort :=
  let stands := c.w0.isSome && !c.adv && (c.st == CohState.running || c.st == CohState.preempted)
  let runs := c.adv || c.st == CohState.ending
  { c with held := if stands then c.held + 1 else c.held
           ccyc := if runs then c.ccyc + 1 else c.ccyc
           turn := false, adv := false }

/-- The guards of a held cohort take custody of its pseudo-channels (R228). -/
def State.custody (s : State) (k : Nat) : State :=
  match s.coh? k with
  | none => s
  | some c =>
    match c.st, c.holdStart with
    | .running, some t => forAll c.pchs s fun p s =>
        if (s.pch p).custody.isSome then s else s.modPch p (·.take c.ccyc t)
    | _, _ => s

/-- The wall cycle ends. -/
def State.finishCycle (s : State) : State :=
  let s := forAll s.siteKeys s fun i s => s.modCore i fun c => { c with portBusy := [], ctx := c.ctx.tick s.now }
  let s := { s with cohorts := s.cohorts.map fun e => (e.1, e.2.tick) }
  let s := forAll s.cohKeys s fun k s => s.custody k
  { s with now := s.now + 1, wcyc := if s.pf.stage == 5 then s.wcyc + 1 else s.wcyc }

/-! ## One step -/

/-- The event that is due in the present phase. -/
def State.event (s : State) : Option Instr :=
  match s.phase with
  | .background => s.backgroundEvent
  | .release => s.releaseEvent
  | .land => s.landEvent
  | .boundary => s.boundaryEvent
  | .fetch => s.fetchEvent
  | .ports => s.portEvent
  | .guard => s.guardEvent
  | .untimed => s.untimedEvent
  | .manage => s.manageEvent
  | .inbox | .issue | .finish => none

/-- The end of a phase: what it does, and the phase that follows. -/
def State.endPhase (s : State) : State :=
  match s.phase with
  | .inbox => { s with phase := .background }
  | .background => { s.backgroundEnd with phase := .release }
  | .release => { s.releaseEnd with phase := .land }
  | .land => { s with phase := .boundary }
  | .boundary => { s with phase := .fetch }
  | .fetch => { s.fetchEnd with phase := .issue }
  | .issue => { s.issueEnd with phase := .ports }
  | .ports => { s.portEnd with phase := .guard }
  | .guard => { s with phase := .untimed }
  | .untimed => { s.untimedEnd with phase := .manage }
  | .manage => { s.manageEnd with phase := .finish }
  | .finish => { s.finishCycle with phase := .inbox }

/-- What happens next: an item of the inbox, the bundle of a core, the event that is due, or the end of
the phase. -/
def State.advance (s : State) : Out :=
  match s.phase, s.arrived, s.issuer with
  | .inbox, some e, _ => s.receive e
  | .issue, _, some i => s.issueBundle i
  | _, _, _ =>
    match s.event with
    | some i => exec i s
    | none => .next s.endPhase

/-! ## Placing one instruction (for the host's check) -/

/-- A running cohort of the core at site 0. -/
def benchCohort (now : Nat) : Cohort :=
  { part := 0, num := 0, queue := 0, node := 0, hseq := 0, img := 0, var := 0, shape := 0, req := false, eset := 0
    members := [0], pchs := [], hops := [0], mhops := [], lpcs := [], spansDies := false, bound := now, wstart := now
    w0 := some now, ccyc := 0, relCcyc := 0, turn := true, adv := true, st := .running, holds := []
    holdStart := none, holdCode := 0, holdSaid := false, resuming := false, releaseAt := none, closeAt := none, held := 0, requeue := none, status := none
    preempt := 0, wdogUsed := 0, restart := now }

/-- The word of a syllable with its stop bit set. -/
def stopped (w : Nat) : Nat := if stopOf w then w else w + 2 ^ 31

/-- The line at address 0 that holds one syllable, which ends its bundle. -/
def benchLine (w : Nat) : ILine :=
  { st := .valid, tag := 0, data := BitVec.ofNat 512 (stopped w), bad := false, ready := 0, op := 0 }

/-- Core 0 runs in a cohort of its own and is about to issue the bundle that holds one syllable. -/
def State.bench (s : State) (w : Nat) : State :=
  let c := s.core 0
  let x := { c.ctx with pc := 0, rpos := 0, sres := 0, resumed := false, nextIssue := 0, ready := true
                        waiting := none, halted := false, handler := none, replay := none }
  let core := { c with run := .bound 0, ctx := x, istore := SMap.set c.istore 0 (benchLine w) }
  { (s.setCore 0 core).setCoh 0 (benchCohort s.now) with phase := .issue }

end Sys2Proof.Machine
end

