-- ==== Sys2Proof/Machine/Step.lean ====
section
/-! DEFINITION. One step of the device, and the placing of one instruction. -/

namespace Sys2Proof.Machine

/-- One event of the device, one issued bundle of a core, or the end of a phase of the wall cycle. A
device that took a fatal error makes no step (R312). -/
def step (s : State) : Host.Outcome State Fault Refusal :=
  match s.fatal with
  | some c => .fault (.heldInReset c)
  | none => s.advance

/-- The state s in which core 0 issues next the bundle that holds the instruction of bits w (DESIGN CHOICE, log 38). -/
def State.withFetchWord (s : State) (nbits w : Nat) : State := s.bench (w % 2 ^ nbits)

end Sys2Proof.Machine
end

