-- ==== Sys2Proof/Safety.lean ====
section
/-! DEFINITION. The terms in which claims about the device are stated: the bytes of its memories, the
canonical form of its memories, what two states have in common, and what a trap leaves. -/

namespace Sys2Proof.Machine

/-! ## Bytes -/

/-- A byte of core i's scratchpad. -/
def State.spadByte (s : State) (i a : Nat) : Byte := memGet (s.core i).spad a

/-- A byte of core i's tile file. -/
def State.tileByte (s : State) (i a : Nat) : Byte := memGet (s.ctx i).tile a

/-- A byte of pseudo-channel p's rows. -/
def State.dramByte (s : State) (p a : Nat) : Byte := memGet (s.pch p).mem a

/-- A byte of pseudo-channel p's staging lines. -/
def State.stagedByte (s : State) (p a : Nat) : Byte := memGet (s.pch p).lines a

/-! ## The canonical form of the memories -/

/-- The memories of a core: its scratchpad, its tile file, and the tile files of its saved contexts. -/
structure Core.MemoriesWf (c : Core) : Prop where
  spad : Memory.wf c.spad = true
  tile : Memory.wf c.ctx.tile = true
  saved : ∀ x ∈ c.shadow, Memory.wf x.ctx.tile = true

/-- The rows and the staging lines of a pseudo-channel. -/
structure Pch.MemoriesWf (p : Pch) : Prop where
  mem : Memory.wf p.mem = true
  lines : Memory.wf p.lines = true

/-- Every memory of the device is in canonical form. -/
structure State.MemoriesWf (s : State) : Prop where
  host : Memory.wf s.host = true
  sync : Memory.wf s.sync = true
  core : ∀ i, (s.core i).MemoriesWf
  pch : ∀ p, (s.pch p).MemoriesWf

/-! ## What two states have in common -/

/-- Every byte of every memory reads the same. -/
structure SameMemory (s t : State) : Prop where
  spad : ∀ i a, t.spadByte i a = s.spadByte i a
  tile : ∀ i a, t.tileByte i a = s.tileByte i a
  dram : ∀ p a, t.dramByte p a = s.dramByte p a
  staged : ∀ p a, t.stagedByte p a = s.stagedByte p a
  sync : ∀ a, memGet t.sync a = memGet s.sync a
  host : ∀ a, memGet t.host a = memGet s.host a

/-- A context without its pipelines: every register, flag, latch, loop, mode and address of it. -/
def Ctx.still (c : Ctx) : Ctx :=
  { c with flight := [], acc := [], bev := [],
           handler := c.handler.map fun h => { h with flight := [], acc := [], bev := [] } }

def Core.still (c : Core) : Core := { c with ctx := c.ctx.still }

/-- The devices outside the cores are the same: banks, pseudo-channels, partitions, cohorts, memories,
the physical function, the clocks. -/
structure SameOutside (s t : State) : Prop where
  now : t.now = s.now
  wcyc : t.wcyc = s.wcyc
  phase : t.phase = s.phase
  inbox : t.inbox = s.inbox
  pf : t.pf = s.pf
  bam : t.bam = s.bam
  parts : t.parts = s.parts
  cohorts : t.cohorts = s.cohorts
  banks : t.banks = s.banks
  pchs : t.pchs = s.pchs
  sync : t.sync = s.sync
  syncBad : t.syncBad = s.syncBad
  host : t.host = s.host
  rdata : t.rdata = s.rdata
  tlb : t.tlb = s.tlb
  fatal : t.fatal = s.fatal

/-- Nothing has changed but what is in flight in the cores' pipelines, the free-value counter and the
bundle-level context. -/
structure OnlyInFlight (s t : State) : Prop where
  outside : SameOutside s t
  core : ∀ i, (t.core i).still = (s.core i).still

/-- Nothing outside core i has changed but the free-value counter and the bundle-level context. -/
structure OnlyCore (i : Nat) (s t : State) : Prop where
  outside : SameOutside s t
  core : ∀ j, j ≠ i → t.core j = s.core j

/-! ## Sources -/

/-- Where a vector operation names B among its sources, B carries a value (R49). -/
def State.readable (s : State) (l : List (BitVec 10)) : Prop := 0x3FF ∈ l → s.cur.b ≠ none

/-- The first scalar source of an MT, CA or CB operation: B with BS = 1 (R49). -/
def State.source (s : State) (bs : Bool) (r : BitVec 6) : Option Word :=
  if bs then s.cur.b else some (s.cx.rs r.toNat)

/-- An operation names B among its sources: in a vector register field, as VDQG's block exponent or VTINT's
table address, or by BS (R49, R126, R131). -/
def namesB (i : Instr) : Bool :=
  (vFields i).contains 0x3FF || match i with
  | .vtint _ => true
  | .vdqg _ _ eb _ _ => eb
  | .tld o | .tst o | .tstOV o | .xprogSet o _ _ _ | .xprogRst o _ _ _ | .xerase o | .xeraseAll o
  | .xread o _ _ | .xreadE o _ _ _ _ | .xremap o _ | .xdrift o _ | .xcalO o _ | .xcalG o _
  | .xcalGC o _ _ | .xwear o _ | .mact o | .mpre o | .mprea o | .mref o | .mrefp o | .mrcbLd o _
  | .mrcbSt o _ | .mrcbInv o _ | .mzro o | .layout o _ | .istage o _ | .atomLd o _ | .trc o _
  | .trcFrz o _ | .xmv o | .mrd o _ | .mrda o _ | .mwr o _ | .mwra o _ | .mrcp o _ | .atomAdd o _ _
  | .atomSwap o _ _ | .atomAnd o _ _ | .atomOr o _ _ | .atomXor o _ _ | .atomMin o _ _
  | .atomMax o _ _ | .atomMinu o _ _ | .atomMaxu o _ _ | .atomFadd o _ _ | .atomCas o _ _ _
  | .redAdd o _ | .redSt o _ | .redAnd o _ | .redOr o _ | .redXor o _ | .redMin o _ | .redMax o _
  | .redMinu o _ | .redMaxu o _ | .redFadd o _ | .push o _ _ _ | .pull o _ _ _ | .xfrG o _ _ _ _
  | .xfrP o _ _ _ _ => o.bs
  | _ => false

/-- B carries a value where an operation names it (R49). -/
def State.carries (s : State) (i : Instr) : Prop := namesB i = true → s.cur.b ≠ none

/-! ## Vector results -/

/-- The flags of the elements of width w in active lanes, merged. -/
def laneFlags (m : Half) (w : Nat) (f : Nat → NFlags) : NFlags :=
  orAll ((List.range (1024 / w)).map fun k => if active m w k then f k else fNone)

/-- t is s with one vector result more in flight: element k of width w of each active lane is x k
modulo 2^w. -/
def LandsV (s t : State) (o : VOp) (off w : Nat) (x : Nat → Nat) (f : NFlags) : Prop :=
  ∃ v, t = s.landV o off o.vd.toNat (laneMask (s.cx.mask o.g)) v f ∧
    ∀ k < 1024 / w, active (s.cx.mask o.g) w k = true → elem w v k = x k % 2 ^ w

/-- The operation i completes with elements x k and their flags. -/
def Elementwise (i : Instr) (s : State) (o : VOp) (off w : Nat) (x : Nat → Nat) (f : Nat → NFlags) : Prop :=
  ∃ t, exec i s = .next t ∧ LandsV s t o off w x (laneFlags (s.cx.mask o.g) w f)

/-- The operation i completes with the signed integers x k: wrapped, or saturated with SQ (R29, R115). -/
def IntegerLanes (i : Instr) (s : State) (o : VOp) (off : Nat) (x : Nat → Int) : Prop :=
  let w := tyWidth o.ty
  Elementwise i s o off w (fun k => wrapTo w (if o.sat then satS w (x k) else x k))
    fun k => if o.sat && satS w (x k) != x k then fSQ else fNone

/-- A whole-register result under the lane mask. -/
def Bitwise (i : Instr) (s : State) (o : VOp) (v : VWord) : Prop :=
  exec i s = .next (s.landV o 2 o.vd.toNat (laneMask (s.cx.mask o.g)) v fNone)

/-! ## The matrix unit -/

/-- Tile t is a valid operand of element width code `ew` (R149, R151). -/
def Ctx.tileOk (c : Ctx) (t ew : Nat) : Prop :=
  let w := c.shape t
  1 ≤ tileRows w ∧ tileRows w ≤ 64 ∧ 1 ≤ tileCols w ∧ tileCols w ≤ 64 ∧ tileEw w = ew ∧ ew < 3 ∧
    4096 * t + tileSize w ≤ 131072

/-- A multiplication on A tile ta of width code `ew` with accumulator tc meets its checks (R151, R154,
R160). -/
structure MatrixReady (s : State) (g : Guard) (tc ta ew : Nat) (w : Weights) : Prop where
  guarded : s.guarded g = true
  outside : s.cx.inHandler = false
  latch : s.cx.matrix.at (s.timeOf s.cur.site) = some w
  acc : s.cx.tileOk tc 2
  a : s.cx.tileOk ta ew
  inner : tileCols (s.cx.shape ta) = w.k
  rows : tileRows (s.cx.shape tc) = tileRows (s.cx.shape ta)
  cols : tileCols (s.cx.shape tc) = w.n
  free : s.cx.matrix.freeAt (tileRows (s.cx.shape ta)) (s.timeOf s.cur.site) = s.timeOf s.cur.site

/-- The array is occupied for `rows` cycles, and weight loads that have taken effect are in the latch. -/
def State.withArray (s : State) (rows : Nat) : State :=
  let x := s.timeOf s.cur.site
  s.modCtx s.cur.site fun c =>
    let m := c.matrix.settle x
    { c with matrix := { m with busy := (m.busy.filter fun b => b.2 ≥ x) ++ [(x, x + rows - 1)] } }

/-! ## Calibration -/

/-- A calibration operation on array a meets the checks of R197 that apply to it. -/
structure CalibReady (s : State) (a : Nat) (writes reads thermal : Bool) (w : List (Nat × Nat × Nat)) : Prop where
  bar : writes = true → s.writeBar a = 0
  open_ : reads = true → (s.myBank.arr a).sealed_ = false
  cool : thermal = true → s.myBank.parked a = false
  free : s.freeAt ((a, 0, 0) :: w) = s.timeOf s.cur.site

/-! ## Bundles -/

/-- Core i issues in this step the bundle of the syllables l, which ends before `next`. -/
structure State.Issues (s : State) (i : Nat) (l : List Syl) (next : BitVec 54) : Prop where
  live : s.fatal = none
  phase : s.phase = .issue
  turn : s.issuer = some i
  fetched : (s.core i).fetch = .bundle l next

/-- t is what the prefixes and slots of core i's bundle leave, one after the other, before the bundle closes. -/
def State.SlotsLeave (s : State) (i : Nat) (l : List Syl) (next : BitVec 54) (t : State) : Prop :=
  ∃ p, issueAll State.prefixOp (l.filter fun x => x.cls ≤ 1) (s.openBundle i l next) = .next p ∧
    issueAll (State.issueSlot l) ([1, 2, 3, 4, 5, 6].filter fun k => decide ((s.ctx i).sres ≤ k)) p = .next t ∧
    t.cur.site = i

/-! ## Traps -/

/-- Core i's trap registers tell of a trap: cause, slot, bundle, repeat and TVAL (R97, R288). -/
structure TrapTold (c : Ctx) (cause sres : Nat) (pc : BitVec 54) (rep : Nat) (tval : Word) : Prop where
  cause : bits c.tstat 23 16 = cause
  sres : bits c.tstat 2 0 = sres
  rpos : bits c.tstat 15 8 = rep
  taddr : c.taddr = pc.zeroExtend 64
  tval : c.tval = tval

/-- Core i runs no handler and replays no region. -/
def State.plain (s : State) (i : Nat) : Prop := (s.ctx i).handler = none ∧ (s.ctx i).replay = none

end Sys2Proof.Machine
end

