-- ==== Sys2Proof/Certificates/Slice0/Obligations.lean ====
section
/-! DEFINITION. The statements about the KX-440 that are to be proved. A result's landing is its effect,
so an instruction completes by putting its result in flight (R74, R75); what a result in flight does is
stated by itself. -/

open Sys2Proof Sys2Proof.Machine


/-! ## Scalar operations (R103 to R110) -/

/-- R104: sums, differences, products, quotients and remainders; the .SAT forms land the bounded exact
result, with SQ when the bound replaced it. -/
def Obligations.ScalarArithmetic : Prop :=
  (∀ (s : State) (g : Guard) (sd sa sb : BitVec 6) (imm : BitVec 8), s.guarded g = true →
     let a := s.cx.rs sa.toNat
     let b := s.cx.rs sb.toNat
     let lands := fun off v => Host.Outcome.next (s.landing off fNone false (.sreg sd.toNat v))
     exec (.add false ⟨g, sd, sa, sb⟩) s = lands 1 (a + b) ∧
     exec (.sub false ⟨g, sd, sa, sb⟩) s = lands 1 (a - b) ∧
     exec (.addi false ⟨g, sd, sa, imm⟩) s = lands 1 (a + BitVec.ofInt 64 (immOf imm s.cur.ext)) ∧
     exec (.mul false ⟨g, sd, sa, sb⟩) s = lands 3 (a * b) ∧
     exec (.mulh ⟨g, sd, sa, sb⟩) s =
       lands 3 ((a.signExtend 128 * b.signExtend 128).extractLsb' 64 64) ∧
     exec (.mulhu ⟨g, sd, sa, sb⟩) s =
       lands 3 ((a.zeroExtend 128 * b.zeroExtend 128).extractLsb' 64 64)) ∧
  (∀ (s : State) (g : Guard) (sd sa sb : BitVec 6) (imm : BitVec 8), s.guarded g = true →
     let a := (s.cx.rs sa.toNat).toInt
     let b := (s.cx.rs sb.toNat).toInt
     let lands := fun (i : Instr) (off : Nat) (x : Int) => ∃ v : Word,
       exec i s = .next (s.landing off (if -2 ^ 63 ≤ x ∧ x ≤ 2 ^ 63 - 1 then fNone else fSQ) false
         (.sreg sd.toNat v)) ∧ v.toInt = max (-2 ^ 63) (min (2 ^ 63 - 1) x)
     lands (.add true ⟨g, sd, sa, sb⟩) 1 (a + b) ∧
     lands (.sub true ⟨g, sd, sa, sb⟩) 1 (a - b) ∧
     lands (.addi true ⟨g, sd, sa, imm⟩) 1 (a + immOf imm s.cur.ext) ∧
     lands (.mul true ⟨g, sd, sa, sb⟩) 3 (a * b)) ∧
  (∀ (s : State) (g : Guard) (sd sa sb : BitVec 6), s.guarded g = true →
     let a := s.cx.rs sa.toNat
     let b := s.cx.rs sb.toNat
     let lands := fun v => Host.Outcome.next (s.landing 12 fNone false (.sreg sd.toNat v))
     exec (.div ⟨g, sd, sa, sb⟩) s = lands (if b = 0 then BitVec.allOnes 64 else a.sdiv b) ∧
     exec (.rem ⟨g, sd, sa, sb⟩) s = lands (if b = 0 then a else a.srem b) ∧
     exec (.divu ⟨g, sd, sa, sb⟩) s = lands (if b = 0 then BitVec.allOnes 64 else a / b) ∧
     exec (.remu ⟨g, sd, sa, sb⟩) s = lands (if b = 0 then a else a % b))

/-- R105: logic, shifts, minimum, maximum and the bit counts. -/
def Obligations.ScalarLogicAndShifts : Prop :=
  (∀ (s : State) (g : Guard) (sd sa sb sh : BitVec 6) (imm : BitVec 8), s.guarded g = true →
     let a := s.cx.rs sa.toNat
     let b := s.cx.rs sb.toNat
     let n := BitVec.ofInt 64 (immOf imm s.cur.ext)
     let lands := fun v => Host.Outcome.next (s.landing 1 fNone false (.sreg sd.toNat v))
     exec (.and ⟨g, sd, sa, sb⟩) s = lands (a &&& b) ∧
     exec (.or ⟨g, sd, sa, sb⟩) s = lands (a ||| b) ∧
     exec (.xor ⟨g, sd, sa, sb⟩) s = lands (a ^^^ b) ∧
     exec (.andi ⟨g, sd, sa, imm⟩) s = lands (a &&& n) ∧
     exec (.ori ⟨g, sd, sa, imm⟩) s = lands (a ||| n) ∧
     exec (.xori ⟨g, sd, sa, imm⟩) s = lands (a ^^^ n) ∧
     exec (.shl ⟨g, sd, sa, sb⟩) s = lands (a <<< (b % 64)) ∧
     exec (.shr ⟨g, sd, sa, sb⟩) s = lands (a >>> (b % 64)) ∧
     exec (.sra ⟨g, sd, sa, sb⟩) s = lands (a.sshiftRight' (b % 64)) ∧
     exec (.shli ⟨g, sd, sa, sh⟩) s = lands (a <<< sh) ∧
     exec (.shri ⟨g, sd, sa, sh⟩) s = lands (a >>> sh) ∧
     exec (.srai ⟨g, sd, sa, sh⟩) s = lands (a.sshiftRight' sh)) ∧
  (∀ (s : State) (g : Guard) (sd sa sb : BitVec 6), s.guarded g = true →
     let a := s.cx.rs sa.toNat
     let b := s.cx.rs sb.toNat
     let lands := fun v => Host.Outcome.next (s.landing 1 fNone false (.sreg sd.toNat v))
     exec (.min ⟨g, sd, sa, sb⟩) s = lands (if b.slt a then b else a) ∧
     exec (.max ⟨g, sd, sa, sb⟩) s = lands (if a.slt b then b else a) ∧
     exec (.minu ⟨g, sd, sa, sb⟩) s = lands (if b.ult a then b else a) ∧
     exec (.maxu ⟨g, sd, sa, sb⟩) s = lands (if a.ult b then b else a) ∧
     exec (.clz ⟨g, sd, sa⟩) s = lands a.clz ∧
     exec (.popc ⟨g, sd, sa⟩) s = lands a.cpop) ∧
  ((∀ (o : ScRR) (r : ScRI) (h : ScRS) (u : ScRU),
     ∀ e ∈ [(Instr.and o, 0x12), (.or o, 0x13), (.xor o, 0x14), (.andi r, 0x15), (.ori r, 0x16),
       (.xori r, 0x17), (.shl o, 0x18), (.shr o, 0x19), (.sra o, 0x1A), (.shli h, 0x1B), (.shri h, 0x1C),
       (.srai h, 0x1D), (.min o, 0x1E), (.max o, 0x1F), (.minu o, 0x20), (.maxu o, 0x21), (.clz u, 0x22),
       (.popc u, 0x23)],
     ∀ second stop x, encode second stop e.1 = some x → clsOf x.w = 2 ∧ opOf x.w = e.2) ∧
   ∀ (c : Ctx) (next : BitVec 54) (l : List Syl) (x : Syl) (e : Nat × Half), slotSyl l 1 = some x →
     0x18 ≤ opOf x.w → opOf x.w ≤ 0x1D → e ∈ ximms l → e.1 = 1 → c.decodeFault l next = some (3, 0))

/-- R56, R106, R110, R87: moves, reads of mailboxes and of the two cycle counters, and what an immediate
reads as without and with its XIMM. -/
def Obligations.ScalarMoves : Prop :=
  (∀ (s : State) (g : Guard) (sd se sa sb : BitVec 6) (pc mbi : BitVec 4) (imm : BitVec 14),
     s.guarded g = true →
     let c := s.cx
     let lands := fun v => Host.Outcome.next (s.landing 1 fNone false (.sreg sd.toNat v))
     exec (.li g sd imm) s = lands (BitVec.ofInt 64 (immOf imm s.cur.ext)) ∧
     exec (.mov ⟨g, sd, sa⟩) s = lands (c.rs sa.toNat) ∧
     exec (.sel pc ⟨g, sd, sa, sb⟩) s =
       lands (if (c.rp pc.toNat).getLsbD 0 then c.rs sa.toNat else c.rs sb.toNat) ∧
     exec (.mbr g sd mbi) s = lands (c.rmb mbi.toNat) ∧
     exec (.mbw g sa mbi) s =
       .next (s.landing 1 fNone false (.mbox mbi.toNat (c.rs sa.toNat))) ∧
     exec (.cycW g sd) s = .next (s.once (·.landing 1 fNone false (.sreg sd.toNat s.wcyc))) ∧
     exec (.cycC g sd 0) s = lands (BitVec.ofNat 64 (s.cycOf s.cur.site)) ∧
     (se ≠ 0 → c.replay = none →
       exec (.cycC g sd se) s =
         .next ((s.landing 1 fNone false
           (.sreg sd.toNat (BitVec.ofNat 64 (s.cycOf s.cur.site)))).once
             (·.landing 1 fNone false (.sreg se.toNat s.wcyc))))) ∧
  (∀ (w : Nat) (i : BitVec w) (x : Half),
     immOf i none = i.toInt ∧ immOf i (some x) = (x ++ i).toInt)

/-- R107: every condition of CMP and CMPI, and the value in every bit of the predicate. -/
def Obligations.ScalarCompare : Prop :=
  ∀ (s : State) (g : Guard) (pd : BitVec 4) (sa sb : BitVec 6), s.guarded g = true →
    let table := fun (a b : Word) =>
      [(0#4, a == b), (1, a != b), (2, a.slt b), (3, b.sle a), (4, a.ult b), (5, b.ule a),
       (6, b.slt a), (7, a.sle b), (8, b.ult a), (9, a.ule b), (10, a &&& b != 0), (11, a &&& b == 0)]
    let a := s.cx.rs sa.toNat
    let lands := fun (x : Bool) => Host.Outcome.next
      (s.landing 1 fNone false (.preg pd.toNat (BitVec.allOnes 32) (if x then BitVec.allOnes 32 else 0)))
    (∀ e ∈ table a (s.cx.rs sb.toNat), exec (.cmp ⟨g, pd, e.1, sa, sb⟩) s = lands e.2) ∧
    (∀ e ∈ table a (BitVec.ofInt 64 (immOf sb s.cur.ext)), exec (.cmpi ⟨g, pd, e.1, sa, sb⟩) s = lands e.2) ∧
    (∀ (wide : Bool) (w : Nat), clsOf w = 2 → opOf w = 0x28 ∨ opOf w = 0x29 → 12 ≤ w / 2 ^ 12 % 16 →
      ∀ i, decodeSyl wide w ≠ .ok i) ∧
    ∀ x : Op, x.instr = none → s.issueOp x = .next (s.prepare x).illegal

/-- R108: the predicate logic operations on all 32 bits, and their opcodes. -/
def Obligations.PredicateLogic : Prop :=
  ∀ (s : State) (g : Guard) (pd pa pb : BitVec 4), s.guarded g = true →
    let a := s.cx.rp pa.toNat
    let b := s.cx.rp pb.toNat
    let lands := fun v => Host.Outcome.next
      (s.landing 1 fNone false (.preg pd.toNat (BitVec.allOnes 32) v))
    let opcode := fun (i : Instr) (n : Nat) =>
      ∀ second stop x, encode second stop i = some x → clsOf x.w = 2 ∧ opOf x.w = n
    (exec (.pand ⟨g, pd, pa, pb⟩) s = lands (a &&& b) ∧ opcode (.pand ⟨g, pd, pa, pb⟩) 0x2A) ∧
    (exec (.por ⟨g, pd, pa, pb⟩) s = lands (a ||| b) ∧ opcode (.por ⟨g, pd, pa, pb⟩) 0x2B) ∧
    (exec (.pxor ⟨g, pd, pa, pb⟩) s = lands (a ^^^ b) ∧ opcode (.pxor ⟨g, pd, pa, pb⟩) 0x2C) ∧
    (exec (.pandn ⟨g, pd, pa, pb⟩) s = lands (a &&& ~~~b) ∧ opcode (.pandn ⟨g, pd, pa, pb⟩) 0x2D)

/-- R109: moves between the predicate and the scalar file; codes above 15 and MODE 3 are not decoded. -/
def Obligations.PredicateMoves : Prop :=
  (∀ (s : State) (g : Guard) (dst src : BitVec 6), s.guarded g = true →
    let lands := fun e => Host.Outcome.next (s.landing 1 fNone false e)
    exec (.pmovPP g dst src) s =
      lands (.preg dst.toNat (BitVec.allOnes 32) (s.cx.rp src.toNat)) ∧
    exec (.pmovPS g dst src) s =
      lands (.preg dst.toNat (BitVec.allOnes 32) ((s.cx.rs src.toNat).extractLsb' 0 32)) ∧
    exec (.pmovSP g dst src) s =
      lands (.sreg dst.toNat (BitVec.ofNat 64 (s.cx.rp src.toNat).toNat))) ∧
  ∀ (wide : Bool) (w : Nat), clsOf w = 2 → opOf w = 0x2E →
    (w / 2 ^ 18 % 4 = 0 → (16 ≤ w / 2 ^ 12 % 64 ∨ 16 ≤ w / 2 ^ 6 % 64) → ∀ i, decodeSyl wide w ≠ .ok i) ∧
    (w / 2 ^ 18 % 4 = 1 → 16 ≤ w / 2 ^ 12 % 64 → ∀ i, decodeSyl wide w ≠ .ok i) ∧
    (w / 2 ^ 18 % 4 = 2 → 16 ≤ w / 2 ^ 6 % 64 → ∀ i, decodeSyl wide w ≠ .ok i) ∧
    (w / 2 ^ 18 % 4 = 3 → ∀ i, decodeSyl wide w ≠ .ok i)

/-! ## Control operations of the scalar slot (R83 to R93, R248, R255, R294, R302) -/

/-- R141: LDS and STS of an aligned item inside the scratchpad; any other address traps. -/
def Obligations.ScalarScratchpadAccess : Prop :=
  ∀ (s : State) (o : ScMem) (u : Bool), s.guarded o.g = true →
    let n : Nat := 2 ^ o.sz.toNat
    let ea := s.ea1 ((s.cx.rs o.sa.toNat).toInt + immOf o.off s.cur.ext * (n : Int))
    let s' := s.setEa ea 0
    let v := s.cx.rs o.sr.toNat
    (0 ≤ ea → ea % (n : Int) = 0 → ea + n ≤ 786432 →
      exec (.lds o u) s = .next (s'.access 0 3 false (unitsOf ea.toNat n)
        (.toS o.sr.toNat ea.toNat n u (s.timeOf s.cur.site + 4))) ∧
      exec (.sts o) s = .next (s'.access 0 3 false (unitsOf ea.toNat n)
        (.write ((List.range n).map fun k => (ea.toNat + k, v.extractLsb' (8 * k) 8)) none))) ∧
    (ea < 0 ∨ ea % (n : Int) ≠ 0 ∨ 786432 < ea + n →
      exec (.lds o u) s = .next (s'.slotTrap 0x09 (BitVec.ofInt 64 ea)) ∧
      exec (.sts o) s = .next (s'.slotTrap 0x09 (BitVec.ofInt 64 ea)))

/-- R50 to R53, R57, R86, R87, R90, R93, R243, R294: a taken transfer issues its target two cycles later; BR and
JMP leave the loops whose body the target is not in. The step in which a core issues a bundle: what follows it is
the target of its transfer, its next repeat, the next trip of the innermost loop, or the bundle after it, a cycle
later and after its bubbles; a halt, and a return from a handler; TRAP's trap. A repeat executes the operation of
the slot's latch, with its addresses stepped by the slot's STRIDE, where the slot is sticky; the latch keeps the
operation that was executed. -/
def Obligations.TransfersAndRepeats : Prop :=
  (∀ (s : State) (g : Guard) (sd sa : BitVec 6) (o20 : BitVec 20) (o14 : BitVec 14), s.guarded g = true →
    let i := s.cur.site
    let goes := fun (u : State) (kind : Nat) (t : BitVec 54) =>
      let v := u.traceRec i kind 1 (t.toNat / 4)
      Host.Outcome.next { v with cur := { v.cur with jump := some (t, 2) } }
    let leaves := fun (t : BitVec 54) => s.modCtx i fun c => c.popLoops t c.stack
    let rel := fun (n : Int) => s.cur.pc + BitVec.ofInt 54 (4 * n)
    let back := (s.cx.rs sa.toNat).extractLsb' 0 54
    let away := BitVec.ofInt 54 ((s.cx.rs sa.toNat).toNat + 4 * immOf o14 s.cur.ext)
    let br := rel (immOf o20 s.cur.ext)
    let brl := rel (immOf o14 s.cur.ext)
    (br.toNat % 4 = 0 → exec (.br g o20) s = goes (leaves br) 1 br) ∧
    (brl.toNat % 4 = 0 → exec (.brl g sd o14) s =
      goes (s.landing 1 fNone false (.sreg sd.toNat (s.cur.next.zeroExtend 64))) 1 brl) ∧
    (back.toNat % 4 = 0 → exec (.ret g sa) s = goes s 2 back) ∧
    (away.toNat % 4 = 0 → exec (.jmp g sa o14) s = goes (leaves away) 1 away) ∧
    (back.toNat % 4 ≠ 0 → exec (.ret g sa) s = .next (s.slotTrap 0x04 (back.zeroExtend 64))) ∧
    (away.toNat % 4 ≠ 0 → exec (.jmp g sa o14) s = .next (s.slotTrap 0x04 (away.zeroExtend 64)))) ∧
  (∀ (s t : State) (i : Nat) (l : List Syl) (next : BitVec 54), s.Issues i l next → s.SlotsLeave i l next t →
    let u := t.cur
    let x := t.ctx i
    let now := t.timeOf i
    ∃ w, step s = .next w ∧
      let d := w.ctx i
      let at_ := fun pc rpos cyc => d.pc = pc ∧ d.rpos = rpos ∧ d.sres = 0 ∧ d.nextIssue = cyc + u.bubble
      (u.trapped = true → d = x) ∧
      (u.trapped = false →
        (u.rft = true → ∀ h, x.handler = some h → d.handler = some { h with returned := some t.now }) ∧
        (u.rft = false → d.latch = x.latch) ∧
        (u.rft = false → u.halt = true → d.halted = true ∧ d.pc = x.pc) ∧
        (u.rft = false → u.halt = false →
          (∀ a n, u.jump = some (a, n) → at_ a 0 (now + n) ∧ d.stack = x.stack) ∧
          (u.jump = none →
            (u.rep < u.rpt → at_ x.pc (x.rpos + 1) (now + 1) ∧ d.stack = x.stack) ∧
            (u.rpt ≤ u.rep →
              ((∀ n m, x.stack = n :: m → (x.loop n).fin ≠ u.next) → at_ u.next 0 (now + 1) ∧
                d.stack = x.stack) ∧
              ∀ n m, x.stack = n :: m → (x.loop n).fin = u.next → 1 < (x.loop n).count.toNat →
                at_ (x.loop n).start 0 (now + 1) ∧ (d.loop n).count = (x.loop n).count - 1))) ∧
        (x.handler = none → x.replay = none →
          (∀ y ∈ x.lyPend, 1 < y.left → { y with left := y.left - 1 } ∈ d.lyPend) ∧
          ∀ y, x.lyPend = [y] → y.left = 1 → d.lyPend = [] ∧
            ∀ n, SMap.get d.ly 0 n = if n = y.n then y.v else SMap.get x.ly 0 n))) ∧
  (∀ (s : State) (i k : Nat) (x : Syl) (next h : BitVec 54) (g : Guard) (code : BitVec 8), s.Issues i [x] next →
    x.cls = 2 → decodeSyl x.wide x.w = .ok (.trap g code) → (s.openBundle i [x] next).guarded g = true →
    s.plain i → (s.ctx i).sres ≤ 1 → (s.ctx i).rpos < 256 → s.cohOf i = some k → (s.core i).handlerPc = some h →
    s.afterglow i ≤ 96 → ∃ w, step s = .next w ∧
      TrapTold (w.ctx i) 1 2 (s.ctx i).pc (s.ctx i).rpos (code.zeroExtend 64) ∧ (w.ctx i).pc = h ∧
      (w.ctx i).inHandler = true ∧ (w.ctx i).nextIssue = s.now + 4) ∧
  (∀ (s : State) (l : List Syl) (k : Nat), s.cur.trapped = false →
    let c := s.ctx s.cur.site
    let sticky := (tmplOf l).2 k
    let own := fun x => slotSyl l k = some x ∧ (c.rpos = 0 ∨ sticky = false)
    (∀ x ins, own x → decodeSyl x.wide x.w = .ok ins → State.issueSlot l k s =
      s.issueOp { slot := k, instr := some ins, raw := sylHeader x, ext := extOf (ximms l) k, latch := none }) ∧
    (∀ y, sticky = true → (∀ x, ¬ own x) → SMap.get? c.latch k = some y → State.issueSlot l k s =
      s.issueOp { slot := k, instr := some y.op, raw := y.raw, ext := y.ext, latch := some y }) ∧
    (sticky = false → slotSyl l k = none → State.issueSlot l k s = .next s)) ∧
  ∀ (s : State) (op : Op) (ins : Instr), op.instr = some ins → s.replaying = false →
    let n := (SMap.get (s.ctx s.cur.site).stride 0 op.slot).toInt
    let v := s.prepare op
    let at_ := v.cur.sticky
    let turned := fun (p a : Int) (lo w : Nat) => p % 2 ^ lo = a % 2 ^ lo ∧
      p / 2 ^ lo % 2 ^ w = (a / 2 ^ lo + n) % 2 ^ w ∧ p / 2 ^ (lo + w) = a / 2 ^ (lo + w)
    (op.latch = none → at_ = none) ∧
    (∀ y, op.latch = some y →
      (addrKind ins = .none → at_ = none) ∧
      (∀ w unit, addrKind ins = .plain w unit → at_ = some ((y.ea + n * unit) % 2 ^ w, y.ea2)) ∧
      (∀ w z, addrKind ins = .pair w z → at_ = some ((y.ea + n) % 2 ^ w, (y.ea2 + n) % 2 ^ z)) ∧
      (addrKind ins = .column → ∃ p, at_ = some (p, (y.ea2 + 32 * n) % 2 ^ 20) ∧ turned p y.ea 0 21) ∧
      (addrKind ins = .row → ∃ p, at_ = some (p, y.ea2) ∧ turned p y.ea 5 16) ∧
      (addrKind ins = .rows → ∃ p q, at_ = some (p, q) ∧ turned p y.ea 5 16 ∧ turned q y.ea2 5 16)) ∧
    ∀ t, exec ins v = .next t → t.cur.trapped = false → t.cur.soft = none → ∃ w, s.issueOp op = .next w ∧
      let m := (w.ctx t.cur.site).latch
      (leavesNoLatch ins = true → SMap.get? m op.slot = none) ∧
      (leavesNoLatch ins = false → ∃ y, SMap.get? m op.slot = some y ∧ y.op = ins ∧ y.raw = op.raw ∧
        y.ext = op.ext ∧ (y.ea, y.ea2) = t.cur.ea.getD (0, 0))

/-- R88 to R91: LOOP and LOOPM open their loop, or skip its body for a count of 0 or a false guard; at the
last bundle of the innermost body it is issued again while trips are left; a taken BR or JMP ends the
loops whose body the target is not in. -/
def Obligations.Loops : Prop :=
  (∀ (s : State) (g : Guard) (ln : BitVec 2) (blen : BitVec 12) (cnt : BitVec 16) (mbi : BitVec 4),
     let c := s.cx
     let n := ln.toNat
     let fin := s.cur.next + BitVec.ofNat 54 (4 * blen.toNat)
     let runs := fun (i : Instr) (k : Half) =>
       (k = 0 ∨ s.guarded g = false →
         exec i s = .next { s with cur := { s.cur with jump := some (fin, 1) } }) ∧
       (k ≠ 0 → s.guarded g = true →
         exec i s = .next (s.setCtx s.cur.site
           { (c.setLoop n { count := k, act := true, start := s.cur.next, fin := fin }) with
             stack := n :: c.stack }))
     blen ≠ 0 → (c.loop n).act = false → (∀ m, c.stack.head? = some m → fin ≤ (c.loop m).fin) →
       runs (.loop g ln blen cnt) (cnt.zeroExtend 32) ∧
       runs (.loopm g ln blen mbi) ((c.rmb mbi.toNat).extractLsb' 0 32)) ∧
  (∀ (c : Ctx) (next : BitVec 54) (n : Nat) (l : List Nat), (c.loop n).fin = next →
     (1 < (c.loop n).count.toNat →
       c.endLoops next (n :: l) =
         ({ c.setLoop n { c.loop n with count := (c.loop n).count - 1 } with stack := n :: l },
          (c.loop n).start)) ∧
     ((c.loop n).count.toNat ≤ 1 →
       c.endLoops next (n :: l) =
         (c.setLoop n { c.loop n with count := 0, act := false }).endLoops next l) ∧
     ∀ m, (c.loop m).fin ≠ next → c.endLoops next (m :: l) = ({ c with stack := m :: l }, next)) ∧
  (∀ (c : Ctx) (t : BitVec 54), c.stack.Nodup →
     let inside := fun n => decide ((c.loop n).start ≤ t ∧ t < (c.loop n).fin)
     let d := c.popLoops t c.stack
     d.stack = c.stack.dropWhile (!inside ·) ∧
     (∀ n ∈ c.stack.takeWhile (!inside ·), (d.loop n).act = false ∧ (d.loop n).count = 0) ∧
     ∀ n, n ∉ c.stack.takeWhile (!inside ·) → d.loop n = c.loop n)

/-- R81 to R83, R84, R85: ALIGN at the entry of its node and elsewhere, tagged ALIGN and the barrier it
completes, WAITS for pending registers, WAITX for an identifier that XDONE has not passed; it traps where a
transfer it waits for is still to begin at a later cohort cycle, or is held back behind one that is. -/
def Obligations.Waiting : Prop :=
  (∀ (s : State) (tag : BitVec 8) (k : Cohort), s.cx.inHandler = false → s.myCoh = some k →
     let i := s.cur.site
     let others := k.members.filter (· != i)
     let entry := s.cur.pc = (s.core i).entryPc ∧ (s.timeOf i = 0 ∨ s.cx.resumed = true)
     (entry → exec (.align 0) s = .next s) ∧ (¬ entry → exec (.align 0) s = .next s.illegal) ∧
     (tag ≠ 0 → s.cx.replay = none →
       ((∀ j ∈ others, ∀ w, (s.ctx j).waiting = some w → w.1 = tag.toNat) →
         (∀ j ∈ others, (s.ctx j).halted = false) →
         exec (.align tag) s =
           .next (s.setCtx i { s.cx with waiting := some (tag.toNat, s.timeOf i) })) ∧
       ((∀ j ∈ others, ∀ w, (s.ctx j).waiting = some w → w.1 = tag.toNat) →
         (∃ j ∈ others, (s.ctx j).halted = true) → exec (.align tag) s = .next (s.slotTrap 0x06 0)) ∧
       (∀ j w, others = [j] → (s.ctx j).waiting = some w → w.1 ≠ tag.toNat →
         exec (.align tag) s =
           .next (s.slotTrap 0x06 (BitVec.ofNat 64 (tag.toNat + 256 * w.1)))))) ∧
  (∀ (s : State) (k : Nat) (c : Cohort), s.coh? k = some c → s.barrierDue k = true →
     let last := ((c.members.filterMap fun i => (s.ctx i).waiting).map (·.2)).foldl max 0
     ∃ t, exec (.alignBarrierComplete k) s = .next t ∧
       (∀ i ∈ c.members, (t.ctx i).waiting = none ∧
         (t.ctx i).nextIssue = last + if c.spansDies then 26 else 2) ∧
       ∀ i, i ∉ c.members → t.core i = s.core i) ∧
  (∀ (s : State) (g : Guard) (sa : BitVec 6) (k : Nat), s.guarded g = true → s.cx.replay = none →
     s.cohOf s.cur.site = some k →
     let awaited := fun r => s.cx.pending.getLsbD r = true ∧ (if sa = 0 then 1 ≤ r else r = sa.toNat)
     ((∀ r, ¬ awaited r) → exec (.waits g sa) s = .next s) ∧
     ((∃ r, awaited r) →
       exec (.waits g sa) s = .next (s.addHold k
         (.waits s.cur.site (if sa = 0 then ~~~1 else 1 <<< sa.toNat) s.cx.inHandler) 2 (s.now + 1)))) ∧
  (∀ (s : State) (g : Guard) (ch : BitVec 2) (sa : BitVec 6) (k : Nat),
     s.guarded g = true → s.cx.replay = none → s.cohOf s.cur.site = some k →
     let id := (s.cx.rs sa.toNat).extractLsb' 0 32
     let next := (SMap.get s.cx.xnext 0 ch.toNat).extractLsb' 0 32
     let done := (SMap.get s.cx.xdone 0 ch.toNat).extractLsb' 0 32
     let ops := (s.core s.cur.site).uops.filter fun u => u.coh == k
     let later := fun (e : UOp) => e.stage = .waiting ∧
       ∃ get h j T a b l, e.kind = .xfr get h j T a b l ∧ s.cycOf s.cur.site < T
     let awaited := fun (u : UOp) => ∃ get j T a b l, u.kind = .xfr get ch.toNat j T a b l ∧
       0 ≤ (BitVec.ofNat 32 j - done).toInt ∧ 0 ≤ (id - BitVec.ofNat 32 j).toInt
     let traps := exec (.waitx g ch sa) s = .next (s.slotTrap 0x07 (id.zeroExtend 64))
     ((next - id).toInt ≤ 0 → traps) ∧
     (∀ u ∈ ops, awaited u → (later u ∨ (u.stage = .waiting ∧ ∃ e ∈ ops, later e ∧ holdsBack ops e u = true)) →
       traps) ∧
     (0 < (next - id).toInt → (∀ u ∈ ops, ¬ later u) →
       exec (.waitx g ch sa) s =
         if 0 < (done - id).toInt then .next s
         else .next (s.addHold k (.waitx s.cur.site ch.toNat id s.cx.inHandler) 3 (s.now + 1))))

/-- R93, R294, R50, R54 to R56, R248, R255: NOP, HALT, TRAP, RFT, the template and prefix syllables, FENCE,
IINV and ISYNC. -/
def Obligations.BundleControl : Prop :=
  (∀ (s : State) (g : Guard) (code : BitVec 8) (rpt : BitVec 8) (stk : BitVec 6) (f3 : BitVec 3)
     (x : Half),
     let cur := fun (u : State) (c : Cur) => Host.Outcome.next { u with cur := c }
     exec (.nop g) s = .next s ∧
     (s.guarded g = true → s.cx.regions = [] → s.myCoh = none →
       exec (.halt g) s = cur (s.modCtx s.cur.site fun c => { c with loops := [], stack := [] })
         { s.cur with halt := true }) ∧
     (∀ k, s.guarded g = true → s.cx.regions = [] → s.myCoh = some k →
       (∀ i ∈ k.members, i ≠ s.cur.site → (s.ctx i).waiting = none) →
       exec (.halt g) s = cur (s.modCtx s.cur.site fun c => { c with loops := [], stack := [] })
         { s.cur with halt := true }) ∧
     (s.guarded g = true → s.cx.inHandler = false →
       exec (.trap g code) s = cur s { s.cur with soft := some code }) ∧
     (s.guarded g = true → s.cx.inHandler = true → exec (.rft g) s = cur s { s.cur with rft := true }) ∧
     (s.guarded g = true → s.cx.inHandler = false → exec (.rft g) s = .next s.illegal) ∧
     exec (.tmpl rpt stk) s = cur s { s.cur with rpt := rpt.toNat, stk := stk } ∧
     exec (.scope f3) s = cur s { s.cur with scope := f3.toNat } ∧
     exec (.block rpt) s = cur s { s.cur with blockLen := rpt.toNat } ∧
     exec (.ximm f3 x) s = cur s { s.cur with exts := s.cur.exts ++ [(f3.toNat - 1, x)] }) ∧
  (∀ (s : State) (g : Guard) (scp : BitVec 3) (sa sb : BitVec 6), s.guarded g = true →
     exec (.fence g scp) s = .next (s.addUop scp.toNat .fence) ∧
     exec (.iinv g sa sb) s = .next (s.landing 1 fNone false
       (.iinv (s.cx.rs sa.toNat).toNat (s.cx.rs sb.toNat).toNat)) ∧
     exec (.isync g) s = .next { s with cur := { s.cur with bubble := 1 } })

/-- R302: opening a region, preserving registers in it as they stand, closing it and reporting, failing it.
Model's choice: what RPRES copies it reads, so that an error or a poisoned line in it is reported (R152, R286;
DEDUCED, log 93). -/
def Obligations.RegionOperations : Prop :=
  ∀ (s : State) (g : Guard) (kind : BitVec 3) (first : BitVec 10) (cnt : BitVec 7) (sd : BitVec 6),
    s.cx.inHandler = false →
    let i := s.cur.site
    (s.cx.regions.length < 4 → exec .rbegin s = .next (s.modCtx i (·.openRegion (s.timeOf i)))) ∧
    (4 ≤ s.cx.regions.length → exec .rbegin s = .next s.illegal) ∧
    (let regs := ((List.range (cnt.toNat + 1)).map (first.toNat + ·)).filter fun r =>
       !s.cx.preserved kind.toNat r
     let u := if kind = 3 then s.readLines 1 (regs.map tileLines).flatten else s
     (s.cx.regions ≠ [] → exec (.rpres kind first cnt) s = .next (u.preserve kind.toNat regs)) ∧
     ∀ r l, s.cx.regions = r :: l → r.began < s.timeOf i → (∀ q ∈ s.cx.regions, q.overflowed = false) →
       s.cx.penumbra + 4104 * regs.length ≤ 32768 → ∃ t q m, exec (.rpres kind first cnt) s = .next t ∧
         (t.ctx i).regions = q :: m ∧ ∀ x ∈ regs, .preserve ((u.core i).snapshotReg kind.toNat x) ∈ q.entries) ∧
    (∀ r l, s.cx.regions = r :: l → exec (.rend sd) s =
      .next ((s.landing 1 fNone false (.sreg sd.toNat (BitVec.ofNat 64
        (r.committed.toNat + 2 * r.overflowed.toNat + 4 * (r.rollbacks % 256))))).modCtx i
          Ctx.closeRegion)) ∧
    (s.guarded g = true → exec (.rfail g) s =
      .next (s.boundary i 1 (.regionError 0x1C (s.cur.pc.zeroExtend 64)))) ∧
    (s.cx.regions = [] → exec (.rpres kind first cnt) s = .next s.illegal ∧
      exec (.rend sd) s = .next s.illegal)

/-- R110, R96: CSRR lands the register's value, with the crossbar bank's and the transfer counters'
values taken from the log in a replay; CSRW lands its write at c+1 unless TSTAT or TADDR refuses the
value. -/
def Obligations.ControlRegisterMoves : Prop :=
  ∀ (s : State) (g : Guard) (sd sa : BitVec 6) (n : BitVec 12), s.guarded g = true →
    let v := s.cx.rs sa.toNat
    let e := Effect.sreg sd.toNat (s.csr s.cur.site n.toNat)
    let logged := (0x080 ≤ n.toNat ∧ n.toNat ≤ 0x087) ∨ 0x100 ≤ n.toNat
    let refused := (n = 0x001 ∧ v.extractLsb' 0 3 = 7) ∨ (n = 0x002 ∧ v.extractLsb' 0 2 ≠ 0)
    (¬ logged → exec (.csrr g sd n) s = .next (s.landing 1 fNone false e)) ∧
    (logged → exec (.csrr g sd n) s = .next (s.once (·.landing 1 fNone false e))) ∧
    (¬ refused → exec (.csrw g sa n) s = .next (s.landing 1 fNone false (.csr n.toNat v))) ∧
    (refused → exec (.csrw g sa n) s = .next s.illegal)

/-! ## Vector operations (R113 to R131, R142, R143) -/

/-- R115, R117: the integer forms. -/
def Obligations.VectorIntegerArithmetic : Prop :=
  ∀ (s : State) (o : VOp), isFloat o.ty = false → s.cx.mask o.g ≠ 0 → s.readable [o.va, o.vb] →
    let w := tyWidth o.ty
    let a := fun k => elem w (s.srcV w o.va) k
    let b := fun k => elem w (s.srcV w o.vb) k
    let sa := fun k => sval w (a k)
    let sb := fun k => sval w (b k)
    let none_ := fun (_ : Nat) => fNone
    IntegerLanes (.vadd o) s o 2 (fun k => sa k + sb k) ∧
    IntegerLanes (.vsub o) s o 2 (fun k => sa k - sb k) ∧
    IntegerLanes (.vmul o) s o 3 (fun k => sa k * sb k) ∧
    IntegerLanes (.vabs o) s o 2 (fun k => |sa k|) ∧
    IntegerLanes (.vneg o) s o 2 (fun k => -sa k) ∧
    Elementwise (.vmulh o true) s o 3 w (fun k => a k * b k / 2 ^ w) none_ ∧
    Elementwise (.vmulh o false) s o 3 w (fun k => (sa k * sb k / 2 ^ w % 2 ^ w).toNat) none_ ∧
    Elementwise (.vmin o) s o 2 w (fun k => (min (sa k) (sb k) % 2 ^ w).toNat) none_ ∧
    Elementwise (.vmax o) s o 2 w (fun k => (max (sa k) (sb k) % 2 ^ w).toNat) none_ ∧
    Elementwise (.vminu o) s o 2 w (fun k => min (a k) (b k)) none_ ∧
    Elementwise (.vmaxu o) s o 2 w (fun k => max (a k) (b k)) none_

/-- R114 to R117: the floating-point forms, each rounded once under its mode, and VMAC, whose sum is exact and
rounded once. Model's choice: terms of VMAC that are all +0 add up to +0 under RDN, and a term that is NaN
decides before infinities of opposite sign (DEDUCED, log 50). -/
def Obligations.VectorFloatArithmetic : Prop :=
  (∀ (s : State) (o : VOp), isFloat o.ty = true → s.cx.mask o.g ≠ 0 → s.readable [o.va, o.vb] →
     let w := tyWidth o.ty
     let f := fmtOf o.ty
     let m := modeOf o.rms s.cx
     let z := s.cx.ftz
     let a := fun k => fdec f z (elem w (s.srcV w o.va) k)
     let b := fun k => fdec f z (elem w (s.srcV w o.vb) k)
     let d := fun k => fdec f z (elem w (s.readV o.vd.toNat) k)
     let bits_ := fun k => elem w (s.srcV w o.va) k
     let does := fun (i : Instr) (off : Nat) (r : Nat → Nat × NFlags) =>
       Elementwise i s o off w (fun k => (r k).1) (fun k => (r k).2)
     does (.vadd o) 4 (fun k => faddR f m z (a k) (b k)) ∧
     does (.vsub o) 4 (fun k => faddR f m z (a k) (fneg (b k))) ∧
     does (.vmul o) 4 (fun k => fmulR f m z (a k) (b k)) ∧
     does (.vfma o) 4 (fun k => ffmaR f m z (a k) (b k) (d k)) ∧
     does (.vfms o) 4 (fun k => ffmaR f m z (a k) (b k) (fneg (d k))) ∧
     does (.vfnma o) 4 (fun k => ffmaR f m z (fneg (a k)) (b k) (d k)) ∧
     does (.vmin o) 2 (fun k => fpick false f (a k) (b k)) ∧
     does (.vmax o) 2 (fun k => fpick true f (a k) (b k)) ∧
     does (.vabs o) 2 (fun k => (bits_ k % 2 ^ (w - 1), fNone)) ∧
     does (.vneg o) 2 (fun k => (bits_ k ^^^ 2 ^ (w - 1), fNone))) ∧
  (∀ (s : State) (o : VOp), s.cx.mask o.g ≠ 0 → s.readable [o.va, o.vb] →
     let w := tyWidth o.ty
     let a := fun k => sval w (elem w (s.srcV w o.va) k)
     let b := fun k => sval w (elem w (s.srcV w o.vb) k)
     let d := fun k => sval 32 (elem 32 (s.readV o.vd.toNat) k)
     let lands := fun (x : Nat → Int) => Elementwise (.vmac o) s o 3 32
       (fun k => wrapTo 32 (if o.sat then satS 32 (x k) else x k))
       fun k => if o.sat && satS 32 (x k) != x k then fSQ else fNone
     let f := fmtOf o.ty
     let z := s.cx.ftz
     let fa := fun k => fdec f z (elem w (s.srcV w o.va) k)
     let fb := fun k => fdec f z (elem w (s.srcV w o.vb) k)
     (o.ty = 4 → lands fun k => d k + a (2 * k) * b (2 * k) + a (2 * k + 1) * b (2 * k + 1)) ∧
     (o.ty = 3 → lands fun k => d k + a (4 * k) * b (4 * k) + a (4 * k + 1) * b (4 * k + 1) +
       a (4 * k + 2) * b (4 * k + 2) + a (4 * k + 3) * b (4 * k + 3)) ∧
     let fd := fun k => fdec fmtF32 z (elem 32 (s.readV o.vd.toNat) k)
     let product := fun k => fmulx (fa k) (fb k)
     let sum := fun k => fsumx (modeOf o.rms s.cx) [fd k, (product (2 * k)).1, (product (2 * k + 1)).1]
     let rounded := fun k => fround fmtF32 (modeOf o.rms s.cx) z (sum k).1
     let signals := fun k => fsig (fa k) ||| fsig (fb k) ||| (product k).2
     (o.ty = 1 ∨ o.ty = 2 → Elementwise (.vmac o) s o 4 32 (fun k => (rounded k).1) fun k =>
       (rounded k).2 ||| (sum k).2 ||| fsig (fd k) ||| signals (2 * k) ||| signals (2 * k + 1)))

/-- R118, R120, R124: operations on whole registers, shifts, broadcasts and permutations of elements. -/
def Obligations.VectorElementMoves : Prop :=
  (∀ (s : State) (o : VOp) (ps : BitVec 4), s.cx.mask o.g ≠ 0 → s.readable [o.va, o.vb] →
     let a := s.srcV 32 o.va
     let b := s.srcV 32 o.vb
     Bitwise (.vand o) s o (a &&& b) ∧ Bitwise (.vor o) s o (a ||| b) ∧
     Bitwise (.vxor o) s o (a ^^^ b) ∧ Bitwise (.vandn o) s o (a &&& ~~~b) ∧
     Bitwise (.vmov o) s o (s.srcV (tyWidth o.ty) o.va) ∧
     ∃ v, Bitwise (.vsel o ps) s o v ∧
       ∀ i < 32, elem 32 v i = if (s.cx.rp ps.toNat).getLsbD i then elem 32 a i else elem 32 b i) ∧
  (∀ (s : State) (o : VOp) (k5 : BitVec 5) (k : BitVec 7) (imm : BitVec 8), s.cx.mask o.g ≠ 0 →
     s.readable [o.va, o.vb] →
     let w := tyWidth o.ty
     let n := 1024 / w
     let a := fun i => elem w (s.srcV w o.va) i
     let b := fun i => elem w (s.srcV w o.vb) i
     let does := fun (i : Instr) (off : Nat) (x : Nat → Nat) => Elementwise i s o off w x fun _ => fNone
     let asr := fun (x k : Nat) => (sval w x / 2 ^ k % 2 ^ w).toNat
     does (.vshl o) 2 (fun i => a i * 2 ^ (b i % w)) ∧
     does (.vshr o) 2 (fun i => a i / 2 ^ (b i % w)) ∧
     does (.vsra o) 2 (fun i => asr (a i) (b i % w)) ∧
     does (.vshlImm o k5) 2 (fun i => a i * 2 ^ k5.toNat) ∧
     does (.vshrImm o k5) 2 (fun i => a i / 2 ^ k5.toNat) ∧
     does (.vsraImm o k5) 2 (fun i => asr (a i) k5.toNat) ∧
     does (.vbc o k) 2 (fun _ => a k.toNat) ∧
     does (.vbcImm o imm) 2 (fun _ => (immOf imm s.cur.ext % 2 ^ w).toNat) ∧
     does (.vperm o) 3 (fun i => if b i < n then a (b i) else 0) ∧
     does (.vrot o k) 3 (fun i => a ((i + k.toNat) % n)) ∧
     does (.vslideDn o k) 3 (fun i => if i + k.toNat < n then a (i + k.toNat) else b (i + k.toNat - n)) ∧
     does (.vslideUp o k) 3 (fun i => if k.toNat ≤ i then a (i - k.toNat) else b (n - k.toNat + i)))

/-- R119, R121, R122: VCMP and its predicate form; each written element of VCVT is the conversion of its
source element. -/
def Obligations.VectorCompareAndConvert : Prop :=
  (∀ (s : State) (o : VOp) (cc : BitVec 4), s.cx.mask o.g ≠ 0 → s.readable [o.va, o.vb] →
     let w := tyWidth o.ty
     let a := fun i => elem w (s.srcV w o.va) i
     let b := fun i => elem w (s.srcV w o.vb) i
     let fp := fun x => fdec (fmtOf o.ty) s.cx.ftz x
     let r := fun i => if isFloat o.ty then fcond cc (fp (a i)) (fp (b i)) else (icond cc w (a i) (b i), fNone)
     Elementwise (.vcmp o cc) s o 2 w (fun i => if (r i).1 then 2 ^ w - 1 else 0) (fun i => (r i).2) ∧
     ∃ v fl, exec (.vcmpP o cc) s =
         .next (s.landing 2 (if o.sh then fNone else fl) o.sh (.preg o.vd.toNat (s.cx.mask o.g) v)) ∧
       ∀ i < 32, (s.cx.mask o.g).getLsbD i = true →
         (v.getLsbD i = true ↔ ∀ j, i * (32 / w) ≤ j → j < (i + 1) * (32 / w) → (r j).1 = true)) ∧
  (∀ (s : State) (o : VOp) (dst src : BitVec 4), s.cx.mask o.g ≠ 0 → s.readable [o.va] →
     let ws := cvtWidth src
     let wd := cvtWidth dst
     let q := o.ty.toNat
     let from_ : Nat → Option Nat := fun i =>
       if wd < ws then
         if 1024 / ws * q ≤ i ∧ i < 1024 / ws * (q + 1) then some (i - 1024 / ws * q) else none
       else if ws < wd then some (1024 / wd * q + i) else some i
     let r := fun i => if active (s.cx.mask o.g) wd i then
         (from_ i).map fun j => cvtElem dst src (modeOf o.rms s.cx) s.cx.ftz o.sat (elem ws (s.srcV ws o.va) j)
       else none
     ∃ mask v fl, exec (.vcvt o dst src) s = .next (s.landV o 3 o.vd.toNat mask v fl) ∧
       (∀ i < 1024 / wd, elem wd mask i = (if (r i).isSome then 2 ^ wd - 1 else 0) ∧
         ∀ x, r i = some x → elem wd v i = x.1 % 2 ^ wd) ∧
       fl = orAll ((List.range (1024 / wd)).map fun i => ((r i).map (·.2)).getD fNone))

/-- R37, R123, R125 to R128: VRED lands the root of the fixed tree; table interpolation reads its table in the
port cycle of its issue and interpolates in the segment that holds its argument (a delivered table's result
is stated with the ports), while its shadow makes no access; the functions and VSCL land per element. Model's
choice: a subnormal u of the table is a result that FTZ delivers as zero (DEDUCED, log 90). -/
def Obligations.VectorReduceAndFunctions : Prop :=
  (∀ (s : State) (o : VOp) (op : BitVec 3), s.readable [o.va] →
     let w := tyWidth o.ty
     let m := s.cx.mask o.g
     let a := s.srcV w o.va
     let xs := (List.range (1024 / w)).map fun i => if active m w i then some (elem w a i) else none
     let r := treeReduce (redNode op.toNat o s w) 7 xs
     (o.g = 0b10000 → exec (.vred o op) s = .next s) ∧
     (o.g ≠ 0b10000 → exec (.vred o op) s = .next (s.landV o 6 o.vd.toNat (BitVec.allOnes 1024)
       (BitVec.ofNat 1024 (r.1.getD (redIdentity op.toNat o w))) r.2)) ∧
     (o.g ≠ 0b10000 → isFloat o.ty = false → o.sat = false → op = 0 →
       ∃ v, exec (.vred o op) s = .next (s.landV o 6 o.vd.toNat (BitVec.allOnes 1024) v fNone) ∧
         v.toNat = (((List.range (1024 / w)).filter (active m w)).map (elem w a)).sum % 2 ^ w)) ∧
  (∀ (s : State) (o : VOp), s.cx.mask o.g ≠ 0 → s.readable [o.va, o.vb] →
     let w := tyWidth o.ty
     let f := fmtOf o.ty
     let m := modeOf o.rms s.cx
     let z := s.cx.ftz
     let raw := fun k => elem w (s.srcV w o.va) k
     let x := fun k => fdec f z (raw k)
     let e := fun k => sval w (elem w (s.srcV w o.vb) k)
     let addr := (s.cur.b.getD 0).toNat % 2 ^ 20
     let does := fun (i : Instr) (off : Nat) (r : Nat → Nat × NFlags) =>
       Elementwise i s o off w (fun k => (r k).1) (fun k => (r k).2)
     does (.vrcp o) 6 (fun k => frcp f m z (x k)) ∧
     does (.vrsq o) 6 (fun k => frsq f m z (x k)) ∧
     does (.vexp2 o) 6 (fun k => fexp2 f m z (x k)) ∧
     does (.vlog2 o) 6 (fun k => flog2 f m z (x k)) ∧
     (isFloat o.ty = true →
       does (.vscl o) 3 fun k =>
         ((fround f m z (fscale (e k) (x k))).1, (fround f m z (fscale (e k) (x k))).2 ||| fsig (x k))) ∧
     (isFloat o.ty = false → IntegerLanes (.vscl o) s o 3 fun k =>
       (roundInt m (sval w (raw k) < 0) (sval w (raw k)).natAbs (max (-64) (min 64 (e k)))).1) ∧
     (addr % 16 = 0 → addr + 2064 ≤ 786432 → o.sh = false →
       exec (.vtint o) s = .next (s.access 0 2 false (unitsOf addr 2064)
         (.table o.vd.toNat addr (s.srcV w o.va) (laneMask (s.cx.mask o.g)) w m z
           (s.timeOf s.cur.site + 6) false))) ∧
     (addr % 16 = 0 → addr + 2064 ≤ 786432 → o.sh = true →
       exec (.vtint o) s = .next (s.landing 6 fNone true (.vreg o.vd.toNat (laneMask (s.cx.mask o.g)) 0))) ∧
     (addr % 16 ≠ 0 ∨ 786432 < addr + 2064 →
       exec (.vtint o) s = .next (s.slotTrap 0x09 (BitVec.ofNat 64 addr)))) ∧
  (∀ (f : Fmt) (mode : Nat) (ftz : Bool) (tab : Nat → Nat) (x : Nat),
     let v := fdec f ftz x
     let word := fun o => fdec fmtF32 ftz (tab o)
     let u := fdec fmtF32 false (fround fmtF32 0 ftz (fmulx (fsumx 0 [v, fneg (word 0)]).1 (word 4)).1).1
     let value := fun (n : Bool) (m : Nat) (e : Int) => (if n then -1 else 1) * (m : ℚ) * 2 ^ e
     let segment := fun (k : Nat) (t : FV) => tintElem f mode ftz tab x =
       ffmaR f mode ftz (word (20 + 8 * k)) t (word (16 + 8 * k))
     (fisNan v = true → tintElem f mode ftz tab x = (fnan f, fsig v)) ∧
     (fisNan v = false →
       (fisNan u = true → tintElem f mode ftz tab x = (fnan f, fIV)) ∧
       (∀ n, u = .inf n → segment (if n then 0 else 255) (.inf n)) ∧
       ∀ n m e, u = .fin n m e → ∀ k : Nat, k ≤ 255 → (k = 0 ∨ (k : ℚ) ≤ value n m e) →
         (k = 255 ∨ value n m e < k + 1) → ∃ n' m' e', segment k (.fin n' m' e') ∧
           value n' m' e' = value n m e - k))

/-- R33, R129 to R131: VMXQ and VBFPQ of one block of FP32 or two of BF16: the active elements and the exponent
byte of each block that has any, with the unused bits of its slot as zeros, and nothing else; and VDQG, which
multiplies an element by its group's scale and the block exponent, rounding once. Model's choice: the integer 0
counts as +0 in VDQG's product (DEDUCED, log 100). -/
def Obligations.VectorQuantise : Prop :=
  (∀ (s : State) (o : VOp) (q : BitVec 2) (n slot : BitVec 4), o.ty = 0 ∨ o.ty = 1 → s.cx.mask o.g ≠ 0 →
     s.readable [o.va] → 2 ≤ n.toNat → n.toNat ≤ 8 →
     let w := tyWidth o.ty
     let blocks := if o.ty = 0 then 1 else 2
     let act := fun b j => active (s.cx.mask o.g) w (32 * b + j)
     let l := fun b => (List.range 32).map fun j =>
       (act b j, fdec (fmtOf o.ty) s.cx.ftz (elem w (s.srcV w o.va) (32 * b + j)))
     let m := modeOf o.rms s.cx
     let k := n.toNat
     let mx := fun b => quantBlock 127 133 (-127) 127 m (l b)
     let bfp := fun b => quantBlock 128 (126 + k) (-(2 ^ (k - 1))) (2 ^ (k - 1) - 1) m (l b)
     let done := fun (i : Instr) (r : Nat → Nat × List (Option Int) × NFlags) (slot width n : Nat) =>
       ∃ em ev xm xv, exec i s = .next ((s.landV o 5 o.vd.toNat em ev
           (orAll ((List.range blocks).map fun b => (r b).2.2))).landV o 5 o.vb.toNat xm xv fNone) ∧
         (∀ p, p < width * slot ∨ width * (slot + blocks) ≤ p → em.getLsbD p = false) ∧
         (∀ y, y < slot ∨ slot + blocks ≤ y → elem 8 xm y = 0) ∧
         ∀ b < blocks,
           let base := width * (slot + b)
           let any := ∃ j < 32, act b j = true
           (any → elem 8 xm (slot + b) = 255 ∧ elem 8 xv (slot + b) = (r b).1 % 256) ∧
           (¬ any → elem 8 xm (slot + b) = 0) ∧
           (∀ p, 32 * n ≤ p → p < width → (em.getLsbD (base + p) = true ↔ any) ∧ ev.getLsbD (base + p) = false) ∧
           ∀ j < 32,
             (act b j = false → em.toNat / 2 ^ (base + n * j) % 2 ^ n = 0) ∧
             (act b j = true → em.toNat / 2 ^ (base + n * j) % 2 ^ n = 2 ^ n - 1 ∧
               ((ev.toNat / 2 ^ (base + n * j) % 2 ^ n : Nat) : Int) = (((r b).2.1.getD j none).getD 0) % 2 ^ n)
     (q.toNat + blocks ≤ 4 → done (.vmxq o q) mx q.toNat 256 8) ∧
     (slot.toNat + blocks ≤ bfpSlots k → done (.vbfpq o n slot) bfp slot.toNat (1024 / bfpSlots k) k)) ∧
  (∀ (s : State) (o : VOp) (gs nm : BitVec 3) (eb h : Bool), s.cx.mask o.g ≠ 0 →
     s.readable [o.va, o.vb] → (eb = true → s.cur.b ≠ none) → o.ty = 0 ∨ o.ty = 1 → (o.ty = 0 → h = false) →
     let w := tyWidth o.ty
     let f := fmtOf o.ty
     let X := (s.cur.b.getD 0).toNat % 256
     let sc := fun i => fdec fmtF32 s.cx.ftz (elem 32 (s.srcV 32 o.vb) (i / 2 ^ gs.toNat))
     let a := fun i => sval 32 (elem 32 (s.srcV 32 o.va) i)
     let p := fun i => fmulx (.fin (a i < 0) (a i).natAbs 0)
       (fscale (if eb then (X : Int) - 127 - nm.toNat else 0) (sc i))
     let x := fun i =>
       if (eb && X == 255) || fisNan (sc i) then fnan f
       else (fround f (modeOf o.rms s.cx) s.cx.ftz (p i).1).1
     let at_ := fun i => if h then 32 + i else i
     ∃ mask v fl, exec (.vdqg o gs eb nm h) s = .next (s.landV o 4 o.vd.toNat mask v fl) ∧
       ∀ i < 32,
         (active (s.cx.mask o.g) w (at_ i) = true →
           elem w mask (at_ i) = 2 ^ w - 1 ∧ elem w v (at_ i) = x i % 2 ^ w) ∧
         (active (s.cx.mask o.g) w (at_ i) = false → elem w mask (at_ i) = 0))

/-- R134, R142 to R144: vector loads and stores of aligned items inside the scratchpad that meet no bank
limit, their shadow forms, which touch no bank, and the traps of the rest. Model's choices: VLD, VST and VLDS
touch and check all 128 bytes or 32 words under any mask (DEDUCED, log 42); of several offending items a
trap reports any one (DESIGN CHOICE, log 27); a shadow store keeps the bytes of lane 0 (DEDUCED, log 62);
the rows of a gather or scatter are served in the last cycle of its window (DESIGN CHOICE, log 58). -/
def Obligations.VectorScratchpadAccess : Prop :=
  (∀ (s : State) (o : VMem), s.cx.mask o.g ≠ 0 → s.readable [o.vd, o.vx] → o.sh = false →
     let m := s.cx.mask o.g
     let t := s.timeOf s.cur.site
     let ea := s.ea1 ((s.cx.rs o.sa.toNat).toInt + immOf o.off s.cur.ext)
     let s' := s.setEa ea 0
     let x := fun i => elem 32 (s.srcV 32 o.vx) i
     let word := fun i => elem 32 (s.srcV 32 o.vd) i
     let bytes := fun (a : Nat → Nat) => (lanesOf m).flatMap fun i =>
       (List.range 4).map fun k => (a i + k, BitVec.ofNat 8 (word i / 2 ^ (8 * k)))
     let inside := fun (a : Int) => 0 ≤ a ∧ a % 4 = 0 ∧ a + 4 ≤ 786432
     let units := fun (l : List Nat) => (l.map (· / 32)).eraseDups
     let words := fun (l : List Nat) => (l.map (· / 8)).eraseDups
     let line := fun i => ea.toNat + 4 * i
     let strided := fun i => ea.toNat + 4 * o.vx.toNat * i
     let gathered := fun i => (ea + x i).toNat
     (0 ≤ ea → ea % 32 = 0 → ea + 128 ≤ 786432 →
       exec (.vld o) s = .next (s'.access 0 3 false (unitsOf ea.toNat 128)
         (.toV o.vd.toNat ((lanesOf m).map fun i => (i, line i)) (wordsOf ea.toNat 128) (t + 5) false)) ∧
       exec (.vst o) s = .next (s'.access 0 3 false (unitsOf ea.toNat 128) (.write (bytes line) none))) ∧
     ((∀ i < 32, inside (ea + 4 * o.vx.toNat * i)) → crowded 1 ((List.range 32).map fun i => strided i / 32) = [] →
       exec (.vlds o) s = .next (s'.access 0 3 false (units ((List.range 32).map strided))
         (.toV o.vd.toNat ((lanesOf m).map fun i => (i, strided i)) (words ((List.range 32).map strided))
           (t + 5) false))) ∧
     ((∀ i ∈ lanesOf m, inside (ea + x i)) → crowded 4 ((lanesOf m).map fun i => gathered i / 32) = [] →
       exec (.vgth o) s = .next (s'.access 3 3 true (units ((lanesOf m).map gathered))
         (.toV o.vd.toNat ((lanesOf m).map fun i => (i, gathered i)) (words ((lanesOf m).map gathered))
           (t + 8) false)) ∧
       exec (.vsct o) s = .next (s'.access 3 3 true (units ((lanesOf m).map gathered))
         (.write (bytes gathered) none)))) ∧
  (∀ (s : State) (o : VMem), s.cx.mask o.g ≠ 0 → s.readable [o.vd, o.vx] → o.sh = true →
     let ea := s.ea1 ((s.cx.rs o.sa.toNat).toInt + immOf o.off s.cur.ext)
     let s' := s.setEa ea 0
     let load := fun off => Host.Outcome.next
       (s'.landing off fNone true (.vreg o.vd.toNat (laneMask (s.cx.mask o.g)) 0))
     let lane0 := fun (a : Int) =>
       if (s.cx.mask o.g).getLsbD 0 = true ∧ 0 ≤ a ∧ a % 4 = 0 ∧ a + 4 ≤ 786432 then
         (List.range 4).map fun k => (a.toNat + k, BitVec.ofNat 8 (elem 32 (s.srcV 32 o.vd) 0 / 2 ^ (8 * k)))
       else []
     let store := fun off a => Host.Outcome.next
       (s'.access off 3 false [] (.write (lane0 a) (some o.vd.toNat)))
     exec (.vld o) s = load 5 ∧ exec (.vlds o) s = load 5 ∧ exec (.vgth o) s = load 8 ∧
     exec (.vst o) s = store 0 ea ∧ exec (.vsct o) s = store 3 (ea + elem 32 (s.srcV 32 o.vx) 0)) ∧
  (∀ (s : State) (o : VMem), s.cx.mask o.g ≠ 0 → s.readable [o.vd, o.vx] → o.sh = false →
     let ea := s.ea1 ((s.cx.rs o.sa.toNat).toInt + immOf o.off s.cur.ext)
     let s' := s.setEa ea 0
     let inside := fun (a : Int) => 0 ≤ a ∧ a % 4 = 0 ∧ a + 4 ≤ 786432
     let gathered := (lanesOf (s.cx.mask o.g)).map fun i => ea + elem 32 (s.srcV 32 o.vx) i
     let strided := (List.range 32).map fun (i : Nat) => ea + 4 * o.vx.toNat * i
     let traps := fun (i : Instr) cause (v : Int) =>
       ∃ n, exec i s = .next ({ s' with fresh := n }.slotTrap cause (BitVec.ofInt 64 v))
     let outside := fun (i : Instr) (l : List Int) =>
       (∃ a ∈ l, ¬ inside a) → ∃ a ∈ l, ¬ inside a ∧ traps i 0x09 a
     let overfull := fun (i : Instr) (k : Nat) (l : List Int) => (∀ a ∈ l, inside a) →
       let full := crowded k (l.map fun a => a.toNat / 32)
       full ≠ [] → ∃ b ∈ full, traps i 0x0A (b : Nat)
     (ea < 0 ∨ ea % 32 ≠ 0 ∨ 786432 < ea + 128 →
       exec (.vld o) s = .next (s'.slotTrap 0x09 (BitVec.ofInt 64 ea)) ∧
       exec (.vst o) s = .next (s'.slotTrap 0x09 (BitVec.ofInt 64 ea))) ∧
     (outside (.vlds o) strided ∧ outside (.vgth o) gathered ∧ outside (.vsct o) gathered) ∧
     (overfull (.vlds o) 1 strided ∧ overfull (.vgth o) 4 gathered ∧ overfull (.vsct o) 4 gathered)) ∧
  (∀ (k : Nat) (units : List Nat) (b : Nat),
     b ∈ crowded k units ↔ k < (units.eraseDups.filter fun u => u % 192 == b).length)

/-! ## Tiles and the matrix unit (R149 to R164) -/

/-- R151, R152, R157: TLD and TST at an aligned address inside the scratchpad, and their traps; invalid
shapes; a poisoned line is a region error at the operation's landing, and nothing else. Model's choice: the
read that first meets an uncorrectable error reports source 4 of 0x18, later ones 0x1B (DEDUCED, log 63). -/
def Obligations.TileMoves : Prop :=
  (∀ (s : State) (o : TMem) (v : Word), s.source o.bs o.sa = some v → s.guarded o.g = true →
     s.cx.inHandler = false → Memory.wf s.cx.tile = true →
     let t := o.t.toNat
     let ea := s.ea1 (v.toInt + immOf o.off s.cur.ext)
     let s' := s.setEa ea 0
     let a := ea.toNat
     let image := (List.range 4096).map fun k => (a + k, s.tileByte s.cur.site (4096 * t + k))
     let stored := (s'.readLines 16 (tileLines t)).access 16 2 false (unitsOf a 4096) (.write image none)
     let outside := fun (n : Int) => ea < 0 ∨ ea % 32 ≠ 0 ∨ 786432 < ea + n
     (¬ outside 4096 →
       exec (.tld o) s =
         .next (s'.access 0 3 false (unitsOf a 4096) (.toTile t a (s.timeOf s.cur.site + 16))) ∧
       exec (.tst o) s = .next stored) ∧
     (¬ outside 4128 → exec (.tstOV o) s =
       .next ((stored.access 16 2 false (unitsOf (a + 4096) 32) (.ovc t (a + 4096) 0)).landing 16 fNone
         false (.ovcStore t))) ∧
     (outside 4096 → exec (.tld o) s = .next (s'.slotTrap 0x09 (BitVec.ofInt 64 ea)) ∧
       exec (.tst o) s = .next (s'.slotTrap 0x09 (BitVec.ofInt 64 ea))) ∧
     (outside 4128 → exec (.tstOV o) s = .next (s'.slotTrap 0x09 (BitVec.ofInt 64 ea)))) ∧
  (∀ (s : State) (g : Guard) (td : BitVec 5), s.guarded g = true → s.cx.inHandler = false →
     let w := s.cx.shape td.toNat
     let valid := 1 ≤ tileRows w ∧ tileRows w ≤ 64 ∧ 1 ≤ tileCols w ∧ tileCols w ≤ 64 ∧ tileEw w ≠ 3
     (¬ valid → exec (.tzero g td) s = .next (s.slotTrap 0x0D (BitVec.ofNat 64 (1 + 256 * td.toNat)))) ∧
     (valid → 131072 < 4096 * td.toNat + tileSize w →
       exec (.tzero g td) s = .next (s.slotTrap 0x0D (BitVec.ofNat 64 (2 + 256 * td.toNat))))) ∧
  (∀ (s : State) (off : Nat) (lines : List Nat),
     ((∀ l ∈ lines, l ∉ s.cx.poison ∧ l ∉ s.cx.badLine) → s.readLines off lines = s) ∧
     ((∀ l ∈ lines, l ∉ s.cx.badLine) → ∀ l ∈ lines, l ∈ s.cx.poison →
       ∃ e, e ∈ lines ∧ e ∈ s.cx.poison ∧ ∃ n, s.readLines off lines =
         { s with fresh := n }.boundary s.cur.site off (.regionError 0x1B (BitVec.ofNat 64 e))) ∧
     ((∀ l ∈ lines, l ∈ s.cx.poison → l ∈ s.cx.badLine) → (∃ l ∈ lines, l ∈ s.cx.badLine) →
       ∃ t : State, s.readLines off lines = t.boundary s.cur.site off (.regionError 0x18 4) ∧ t.cx.poison = s.cx.poison ∧
         ∀ l, l ∈ t.cx.badLine ↔ l ∈ s.cx.badLine ∧ l ∉ lines))

/-- R158, R164: the operations that rewrite tiles inside the file, on operands that meet their checks. -/
def Obligations.TileRewrites : Prop :=
  ∀ (s : State) (g : Guard) (td ts ns : BitVec 5), s.guarded g = true → s.cx.inHandler = false →
    let c := s.cx
    let d := td.toNat
    let t := ts.toNat
    let wd := c.shape d
    let ws := c.shape t
    let whole := wholeLines (4096 * d) (tileSize wd)
    let grid := fun (f : Nat → Nat → Nat) => (List.range (tileRows wd)).flatMap fun r =>
      (List.range (tileCols wd)).flatMap fun k => bytesOf (tileEb wd) (f r k)
    (∀ ew, c.tileOk d ew → exec (.tzero g td) s =
      .next ((s.landing 1 fNone false (.tile [(4096 * d, List.replicate (tileSize wd) 0)] whole [])).landing
        1 fNone false (.ovcClear d))) ∧
    (∃ clear set, exec (.tmov g td ts) s = .next ((s.readLines 4 (tileLines t)).landing 4 fNone false
        (.tile [(4096 * d, memBytes c.tile (4096 * t) 4096)] clear set)) ∧
      ∀ k < 16, (16 * d + k ∈ set ↔ 16 * t + k ∈ c.poison) ∧ (16 * d + k ∈ clear ↔ 16 * t + k ∉ c.poison)) ∧
    (∀ ew, c.tileOk d ew → c.tileOk t ew → tileRows wd = tileCols ws → tileCols wd = tileRows ws →
      ∃ clear set, exec (.ttrn g td ts) s = .next ((s.readLines 8 (c.footLines t)).landing 8 fNone false
          (.tile [(4096 * d, grid fun r k => c.telem t k r)] clear set)) ∧
        (c.poison = [] → clear = whole ∧ set = [])) ∧
    (c.tileOk d 2 → tileCols wd = 2 → exec (.tsmxInit g td) s = .next (s.landing 8 fNone false
      (.tile [(4096 * d, grid fun _ k => if k = 0 then 2 ^ 31 else 0)] whole []))) ∧
    (c.tileOk d 2 → c.tileOk t 2 → tileCols ws = 2 → tileRows ws = tileRows wd →
      let sum := fun r => c.tint t r 1
      let x := fun r n => if 0 < sum r then roundDiv (c.tint d r n * 2 ^ ns.toNat) (sum r).toNat else 0
      ∃ n clear set, exec (.tsmxNorm g td ts ns) s =
          .next (((s.readLines 8 (c.footLines d ++ c.footLines t)).landing 8 fNone false
            (.tile [(4096 * d, grid fun r k => wrapTo 32 (satS 32 (x r k)))] clear set)).landing 8 fNone
              false (.ovcCount d n)) ∧
        (c.poison = [] → clear = whole ∧ set = []) ∧
        n = (((List.range (tileRows wd)).flatMap fun r => (List.range (tileCols wd)).map (x r)).filter
          fun v => satS 32 v != v).length)

/-- R153, R159: TWL loads the latch for multiplications issued 64 cycles later; a second one within 64
cycles traps. -/
def Obligations.WeightLoad : Prop :=
  ∀ (s : State) (g : Guard) (tw tsc : BitVec 5), s.guarded g = true → s.cx.inHandler = false →
    s.cx.tileOk tw.toNat 0 →
    let c := s.cx
    let x := s.timeOf s.cur.site
    let shape := c.shape tw.toNat
    let w := fun mx scale => ({ k := tileRows shape, n := tileCols shape, mx := mx,
                                w := memBytes c.tile (4096 * tw.toNat) (tileSize shape), scale := scale } : Weights)
    let loads := fun (i : Instr) (w : Weights) => ∃ t, exec i s = .next t ∧
      (∀ y, x + 64 ≤ y → t.cx.matrix.at y = some w) ∧
      (c.matrix.loading.Pairwise (fun a b => a.1 < b.1) → ∀ y, x ≤ y → y < x + 64 →
        t.cx.matrix.at y = c.matrix.at y) ∧
      t.cx.matrix.lastTwl = some x ∧ SameMemory s t
    ((∀ y, c.matrix.lastTwl = some y → y + 64 ≤ x) →
      loads (.twl g tw) (w false []) ∧
      loads (.twlMx g tw tsc) (w true (memBytes c.tile (4096 * tsc.toNat) 128))) ∧
    ∀ y, c.matrix.lastTwl = some y → x < y + 64 →
      exec (.twl g tw) s = .next (s.slotTrap 0x0E (BitVec.ofNat 64 (y + 64))) ∧
      exec (.twlMx g tw tsc) s = .next (s.slotTrap 0x0E (BitVec.ofNat 64 (y + 64)))

/-- R150, R151, R154, R160, R162, R163: the multiplications occupy the array and land at c + 66 + M, or
c + 70 + M with the online softmax; a product is exact, then rounded half to even; its landing adds it to each
accumulator element, bounded and counted. Where they trap: an operand of an invalid shape, outside the file
or of a wrong width, that of TWL and of the softmax tile operations too, no weights in the latch, dimensions
that do not agree, and an occupied array, whose TVAL is the first cycle at which it is free. That the first
three reasons are reported before the others, and these before the occupied array, is log 59 (DESIGN
CHOICE). -/
def Obligations.MatrixMultiplies : Prop :=
  (∀ (s : State) (g : Guard) (tc ta tsc tx qs : BitVec 5) (asc : BitVec 6) (w : Weights),
     let c := s.cx
     let m := tileRows (c.shape ta.toNat)
     let scales := fun n => linesOf (4096 * tsc.toNat) (2 * (m - 1) + n)
     let clean := fun off l => (s.withArray m).readLines (off + m) l
     let foot := c.footLines ta.toNat
     let bad := c.badRows ta.toNat
     let badMx := if (scales w.blocks).any c.poison.contains then List.range m else bad
     let v := fun mx => c.products w mx ta.toNat tsc.toNat m asc.toInt
     let v0 := c.products w false ta.toNat 0 m asc.toInt
     let lands := fun off l e => Host.Outcome.next ((clean off l).landing (off + m) fNone false e)
     let both := foot ++ c.footLines tc.toNat
     let ref := (List.range m).flatMap fun r => (List.range w.n).map fun n => c.tint tc.toNat r n
     let differs := fun (l : List (Bool × Int)) => l.map (fun e => if e.1 then -2 ^ 31 else satS 32 e.2) != ref
     (MatrixReady s g tc.toNat ta.toNat 0 w →
       exec (.tmma g tc ta asc) s = lands 66 (foot ++ []) (.accumulate tc.toNat m w.n v0 bad []) ∧
       exec (.tmmaMx g tc ta tsc asc) s = 
         lands 66 (foot ++ scales w.blocks) (.accumulate tc.toNat m w.n (v true) badMx []) ∧
       exec (.katt g tc ta asc) s = lands 66 (both ++ []) (.known tc.toNat (differs v0)) ∧
       exec (.kattMx g tc ta tsc asc) s = 
         lands 66 (both ++ scales w.blocks) (.known tc.toNat (differs (v true)))) ∧
     (MatrixReady s g tc.toNat ta.toNat 2 w → c.tileOk tx.toNat 2 →
       tileRows (c.shape tx.toNat) = m → tileCols (c.shape tx.toNat) = 2 →
       exec (.tmmaSmx g tc ta tx qs asc) s = lands 70 foot (.softmax tc.toNat tx.toNat m
         ((List.range m).flatMap fun r => (List.range w.k).map fun k => c.tint ta.toNat r k) w qs.toNat
         asc.toInt bad []))) ∧
  (∀ (w : Weights) (asc : Int) (a : Nat → Int) (xa : Nat → Nat) (n : Nat), w.mx = false →
     let sum := ((List.range w.k).map fun k => a k * w.at k n).sum
     w.product false asc a xa n =
       (false, if 0 ≤ asc then sum * 2 ^ asc.toNat else roundHalfEven sum (-asc).toNat)) ∧
  (∀ (c was : Ctx) (t m n : Nat) (v : List Int), v.length = m * n → Memory.wf c.tile = true →
     let d := c.accumulate was t m n (v.map fun x => (false, x)) []
     let acc := fun (m : List Host.Cell) k => tileWord m (4096 * t + 4 * k)
     (∀ k (h : k < v.length), acc d.tile k = max (-2 ^ 31) (min (2 ^ 31 - 1) (acc was.tile k + v[k]))) ∧
     (∀ b, (b < 4096 * t ∨ 4096 * t + 4 * v.length ≤ b) → memGet d.tile b = memGet c.tile b) ∧
     let bounded := (v.zipIdx.filter fun e =>
       acc was.tile e.2 + e.1 < -2 ^ 31 || 2 ^ 31 - 1 < acc was.tile e.2 + e.1).length
     bits (SMap.get d.ovc 0 t) 31 0 = min 0xFFFFFFFF (bits (SMap.get c.ovc 0 t) 31 0 + bounded)) ∧
  ∀ (s : State) (g : Guard) (tc ta tsc tx qs : BitVec 5) (asc : BitVec 6), s.guarded g = true →
    s.cx.inHandler = false →
    let c := s.cx
    let x := s.timeOf s.cur.site
    let shape := fun (t : BitVec 5) => c.shape t.toNat
    let m := tileRows (shape ta)
    let traps := fun (i : Instr) (reason : Nat) (t : BitVec 5) => ∃ n,
      exec i s = .next ({ s with fresh := n }.slotTrap 0x0D (BitVec.ofNat 64 (reason + 256 * t.toNat)))
    let valid := fun t => let w := shape t
      1 ≤ tileRows w ∧ tileRows w ≤ 64 ∧ 1 ≤ tileCols w ∧ tileCols w ≤ 64 ∧ tileEw w ≠ 3
    let inside := fun t => 4096 * t.toNat + tileSize (shape t) ≤ 131072
    let wrong := fun (e : BitVec 5 × Nat) reason => (¬ valid e.1 ∧ reason = 1) ∨
      (valid e.1 ∧ ¬ inside e.1 ∧ reason = 2) ∨ (valid e.1 ∧ inside e.1 ∧ tileEw (shape e.1) ≠ e.2 ∧ reason = 3)
    let products := [Instr.tmma g tc ta asc, .tmmaMx g tc ta tsc asc, .katt g tc ta asc, .kattMx g tc ta tsc asc]
    let forms := products.map (fun i => (i, [(tc, 2), (ta, 0)])) ++
      [(.tmmaSmx g tc ta tx qs asc, [(tc, 2), (ta, 2), (tx, 2)])]
    (∀ f ∈ forms ++ [(.twl g ta, [(ta, 0)]), (.twlMx g ta tsc, [(ta, 0)]), (.tsmxInit g tx, [(tx, 2)]),
        (.tsmxNorm g tc tx qs, [(tc, 2), (tx, 2)])],
      (∃ e ∈ f.2, ∃ r, wrong e r) → ∃ e ∈ f.2, ∃ r, wrong e r ∧ traps f.1 r e.1) ∧
    ∀ f ∈ forms, (∀ e ∈ f.2, ∀ r, ¬ wrong e r) →
      (c.matrix.at x = none → traps f.1 5 tc ∨ traps f.1 5 ta) ∧
      ∀ w, c.matrix.at x = some w →
        let apart := fun t => (t = ta ∧ tileCols (shape ta) ≠ w.k) ∨
          (t = tc ∧ (tileRows (shape tc) ≠ m ∨ tileCols (shape tc) ≠ w.n)) ∨
          (t = tx ∧ (tx, 2) ∈ f.2.drop 2 ∧ (tileRows (shape tx) ≠ m ∨ tileCols (shape tx) ≠ 2))
        let free := fun y => ∀ b ∈ c.matrix.busy, b.2 < y ∨ y + m ≤ b.1
        ((∃ t, apart t) → ∃ t, apart t ∧ traps f.1 4 t) ∧
        ((∀ t, ¬ apart t) → ¬ free x → ∃ y, x < y ∧ free y ∧ (∀ z, x ≤ z → z < y → ¬ free z) ∧
          exec f.1 s = .next (s.slotTrap 0x0E (BitVec.ofNat 64 y)))

/-! ## The crossbar bank (R167 to R206) -/

/-- R170 to R175: an XMV that passes its checks occupies its windows. On CALIBRATED arrays it lands the
columns of R169; with an exponent 0xFF it lands zeros; otherwise the cohort holds for the fallback. A
plane code is within 1 of the ideal code. -/
def Obligations.CrossbarMultiply : Prop :=
  (∀ (s : State) (o : XmvOp) (f : Word), s.source o.bs o.sf = some f → s.guarded o.g = true →
     s.cx.inHandler = false →
     let n := o.nm.toNat + 1
     let g := o.grp.toNat
     let b := s.myBank
     let w := b.grp g
     let rows := grpRows w
     let cols := grpCols w
     let nr := rows / (32 * (1024 / bfpWidth n))
     let off := 16 * n + if b.half then 152 else 24
     let t := s.timeOf s.cur.site
     let k := (s.cohOf s.cur.site).getD 0
     let nan := 0xFF ∈ s.exponents o.va.toNat n rows
     let x := s.aligned o.va.toNat n rows
     let r := b.outputs w n s.fresh x.2
     let u := (s.occupy (xmvWindows w b.half n)).modMyBank fun b =>
       { b with xmvs := (b.xmvs.filter fun x => x.coh != k || x.to_ ≥ t) ++
           [{ coh := k, grp := g, set := grpAct w, from_ := t, to_ := t + off }] }
     o.va.toNat + nr ≤ 639 → o.vd.toNat + cols / 32 - 1 ≤ 639 → grpValid w = true →
     (∀ a ∈ grpArrays w (grpAct w), b.parked a = false) → s.freeAt (xmvWindows w b.half n) = t →
     (nan → exec (.xmv o) s =
       .next (u.landXmv off o.vd.toNat o.sx.toNat g 0xFF (List.replicate cols 0) 0 0 0)) ∧
     (¬ nan → b.fit w (grpAct w) = true → exec (.xmv o) s =
       .next ({ u with fresh := u.fresh + conversions }.landXmv off o.vd.toNat o.sx.toNat g x.1 (r.map fun (e : Int × Bool × Bool) => e.1)
         (r.filter fun (e : Int × Bool × Bool) => e.2.1).length 0 (clipBits r))) ∧
     (¬ nan → b.fit w (grpAct w) = false → f ≠ 0 → 0 ≤ f.toInt → f.toInt % 32 = 0 →
       f.toInt + (rows * cols : Nat) ≤ 786432 →
       let h := u.addHold k (.fallback s.cur.site (s.now + 1 + 96 + 8 * grpKa w * cols)) 5 (s.now + 1)
       let copy := ((unitsOf f.toNat (rows * cols)).map bankOfUnit).eraseDups
       let y := { h with cur := { h.cur with banks := h.cur.banks ++ copy } }
       exec (.xmv o) s = .next (y.place s.cur.site
         { due := t, cls := 4, key := y.issueKey, issued := t, again := false, window := none, units := []
           lost := [], act := .fallback f.toNat g o.vd.toNat o.sx.toNat cols x.2 x.1 (t + off) }))) ∧
  (∀ (x : Arr) (l rs d : Nat) (on : Nat → Bool),
     let c := x.convert l rs d on
     let ideal := max (-512) (min 511 (roundHalfEven (x.sum l on) rs))
     |c.1 - ideal| ≤ 1 ∧ -512 ≤ c.2 ∧ c.2 ≤ 511)

/-- R172, R197, R202, R205: the traps of XMV and of the calibration operations, in their order: of the
operations that write, the three bars, the parked slot, occupancy, and each entry's own conditions; of those
that read, the seal in place of the bars. -/
def Obligations.CrossbarTraps : Prop :=
  (∀ (s : State) (o : XmvOp) (f : Word), s.source o.bs o.sf = some f → s.guarded o.g = true →
     s.cx.inHandler = false →
     let n := o.nm.toNat + 1
     let b := s.myBank
     let w := b.grp o.grp.toNat
     let inRange := o.va.toNat + grpRows w / (32 * (1024 / bfpWidth n)) ≤ 639 ∧
       o.vd.toNat + grpCols w / 32 - 1 ≤ 639
     let g := BitVec.ofNat 64 o.grp.toNat
     let parked := ∃ a ∈ grpArrays w (grpAct w), b.parked a = true
     let free := s.freeAt (xmvWindows w b.half n)
     (¬ inRange → exec (.xmv o) s = .next s.illegal) ∧
     (inRange → grpValid w = false → exec (.xmv o) s = .next (s.slotTrap 0x0F g)) ∧
     (inRange → grpValid w = true → parked → exec (.xmv o) s = .next (s.slotTrap 0x10 g)) ∧
     (inRange → grpValid w = true → ¬ parked → free ≠ s.timeOf s.cur.site →
       exec (.xmv o) s = .next (s.slotTrap 0x0E (BitVec.ofNat 64 free))) ∧
     (inRange → grpValid w = true → ¬ parked → free = s.timeOf s.cur.site →
       0xFF ∉ s.exponents o.va.toNat n (grpRows w) → b.fit w (grpAct w) = false →
       (f = 0 → exec (.xmv o) s = .next (s.slotTrap 0x11 g)) ∧
       (f ≠ 0 → (f.toInt < 0 ∨ f.toInt % 32 ≠ 0 ∨ 786432 < f.toInt + (grpRows w * grpCols w : Nat)) →
         exec (.xmv o) s = .next (s.slotTrap 0x09 (BitVec.ofInt 64 f.toInt))))) ∧
  (∀ (s : State) (o : XOp) (v : Word) (vd ve : BitVec 10) (win rs : BitVec 3) (amp spr : BitVec 4),
     s.source o.bs o.sa = some v → s.guarded o.g = true → s.cx.inHandler = false →
     let ca := s.ea1 (v.toNat % 65536)
     let a := ca.toNat % 128
     let l0 := ca.toNat / 128
     let u := s.setEa ca 0
     let t := s.timeOf s.cur.site
     let b := s.myBank
     let x := b.arr a
     let bar := u.writeBar a
     let config := fun (i : Instr) (reason : Nat) =>
       exec i s = .next (u.slotTrap 0x0F (BitVec.ofNat 64 (a + 256 * reason)))
     let parks := fun (i : Instr) => exec i s = .next (u.slotTrap 0x10 (BitVec.ofNat 64 a))
     let free := fun w => u.freeAt ((a, 0, 0) :: w)
     let waits := fun (i : Instr) w => exec i s = .next (u.slotTrap 0x0E (BitVec.ofNat 64 (free w)))
     let array := [(a, 0, 255), s.downWin]
     let sweep := [(a, 0, 1023), s.downWin]
     let misplaced := l0 % 32 ≠ 0 ∨ 224 < l0
     let settled := x.status = .programming ∨ x.status = .drift
     let stale := x.fresh = none ∨ x.stale = true
     let holds := fun (g : Nat) (set : Bool) => g < 64 ∧ grpValid (b.grp g) = true ∧
       (set = true → grpDb (b.grp g) = true) ∧ a ∈ grpArrays (b.grp g) set
     let inUse := fun (g : Nat) => ∃ m ∈ b.xmvs, some m.coh = s.cohOf s.cur.site ∧
       m.grp = g ∧ m.set = grpAct (b.grp g) ∧ m.from_ ≤ t ∧ t ≤ m.to_
     let first := (∃ g, grpDb (b.grp g) = true ∧ holds g (grpAct (b.grp g))) ∨ ∃ g set, holds g set ∧ inUse g
     let second := ∃ g set, holds g set ∧ grpShb (b.grp g) = true ∧ grpOwn (b.grp g) = false
     (first → bar = 1) ∧ (¬ first → second → bar = 2) ∧
     (¬ first → ¬ second → bar = if x.status = .retired then 3 else 0) ∧
     (∀ e ∈ [(Instr.xprogSet o vd win amp, true, array), (.xprogRst o vd win amp, true, array),
         (.xerase o, true, array), (.xeraseAll o, true, array), (.xremap o spr, false, []),
         (.xcalO o vd, false, [s.downWin]), (.xcalG o vd, false, [s.downWin]), (.xcalGC o vd rs, true, sweep)],
       (bar ≠ 0 → config e.1 bar) ∧ (bar = 0 → e.2.1 = true → b.parked a = true → parks e.1) ∧
       (bar = 0 → (e.2.1 = true → b.parked a = false) → free e.2.2 ≠ t → waits e.1 e.2.2)) ∧
     (∀ e ∈ [(Instr.xread o vd win, [(a, 0, 15), s.upWin]), (.xdrift o vd, [(a, 0, 15), s.upWin]),
         (.xreadE o vd ve rs win, [(a, 0, 15), s.downWin, s.upWin])],
       (x.sealed_ = true → config e.1 4) ∧ (x.sealed_ = false → b.parked a = true → parks e.1) ∧
       (x.sealed_ = false → b.parked a = false → free e.2 ≠ t → waits e.1 e.2)) ∧
     (bar = 0 → free [] = t →
       (x.status ≠ .programming → config (.xremap o spr) 7) ∧
       (x.status = .programming → (12 ≤ spr.toNat ∨ SMap.get? x.spares spr.toNat ≠ none) →
         config (.xremap o spr) 5)) ∧
     (bar = 0 → free [s.downWin] = t → misplaced → config (.xcalO o vd) 8 ∧ config (.xcalG o vd) 8) ∧
     (bar = 0 → b.parked a = false → free sweep = t →
       (misplaced → config (.xcalGC o vd rs) 8) ∧
       (¬ misplaced → ¬ settled → config (.xcalGC o vd rs) 7) ∧
       (¬ misplaced → settled → stale → config (.xcalGC o vd rs) 6) ∧
       (¬ misplaced → settled → ¬ stale →
         (∃ g set, holds g set ∧ grpRs (b.grp g) ≠ rs.toNat) → config (.xcalGC o vd rs) 9)))

/-- R177, R178: XSWAP flips the active set of a double-buffered group, and of nothing else; XSTAT lands
the status at issue, of a group or of an array. Model's choice: of several valid groups that hold an array,
XSTAT.A names the lowest-numbered (DESIGN CHOICE, log 91). -/
def Obligations.CrossbarSwapAndStatus : Prop :=
  ∀ (s : State) (g : Guard) (grp sd : BitVec 6) (idx : BitVec 7), s.guarded g = true →
    s.cx.inHandler = false →
    let b := s.myBank
    let w := b.grp grp.toNat
    let v := b.grp idx.toNat
    (grpValid w = true → grpDb w = true → (grpShb w = true → grpOwn w = true) →
      ∃ t, exec (.xswap g grp) s = .next t ∧ grpAct (t.myBank.grp grp.toNat) = !grpAct w ∧
        (∀ k ≠ grp.toNat, t.myBank.grp k = b.grp k) ∧ t.myBank.arrs = b.arrs ∧
        (∀ j ≠ s.cur.site, t.bank j = s.bank j) ∧ SameMemory s t) ∧
    (grpValid w = false ∨ grpDb w = false →
      exec (.xswap g grp) s = .next (s.slotTrap 0x0F (grp.zeroExtend 64))) ∧
    (grpValid w = true → grpDb w = true → grpShb w = true → grpOwn w = false →
      exec (.xswap g grp) s = .next (s.slotTrap 0x0F (grp.zeroExtend 64))) ∧
    let code := fun a => (b.arr a).status.code
    let worst := fun (l : List Nat) (n : Nat) => (∃ a ∈ l, code a = n) ∧ ∀ a ∈ l, code a ≤ n
    let act := grpArrays v (grpAct v)
    let holds := fun (k : Nat) (set : Bool) => k < 64 ∧ grpValid (b.grp k) = true ∧
      (set = true → grpDb (b.grp k) = true) ∧ idx.toNat ∈ grpArrays (b.grp k) set
    [ArrStatus.calibrated, .drift, .programming, .offline, .retired].map (·.code) = [0, 1, 2, 3, 4] ∧
    (idx.toNat < 64 → grpValid v = true → ∃ r : Word,
      exec (.xstat g sd idx) s = .next (s.once (·.landing 2 fNone false (.sreg sd.toNat r))) ∧
      worst act (bits r 2 0) ∧ (grpDb v = true → worst (grpArrays v !grpAct v) (bits r 5 3)) ∧
      (grpDb v = false → bits r 5 3 = 7) ∧ bitAt r 6 = grpAct v ∧
      (bitAt r 7 = true ↔ ∃ a ∈ act, (b.arr a).status ≠ .calibrated) ∧
      (bitAt r 8 = true ↔ ∃ a ∈ act, b.parked a = true) ∧ bits r 63 9 = 0) ∧
    ((64 ≤ idx.toNat ∨ grpValid v = false) →
      exec (.xstat g sd idx) s = .next (s.slotTrap 0x0F (idx.zeroExtend 64))) ∧
    ∃ r : Word, exec (.xstatA g sd idx) s = .next (s.once (·.landing 2 fNone false (.sreg sd.toNat r))) ∧
      bits r 2 0 = code idx.toNat ∧ bits r 4 3 = idx.toNat % 4 ∧ bitAt r 5 = b.parked idx.toNat ∧
      (bitAt r 6 = true → ∃ k set, holds k set ∧ bits r 13 8 = k ∧ bitAt r 7 = set ∧
        ∀ k' < k, ∀ set', ¬ holds k' set') ∧
      (bitAt r 6 = false → (∀ k set, ¬ holds k set) ∧ bits r 13 8 = 0 ∧ bitAt r 7 = false) ∧ bits r 63 14 = 0

/-- R197 to R206: the calibration operations where their checks pass: what they occupy, when their effects
land, what they read. -/
def Obligations.CalibrationOperations : Prop :=
  (∀ (s : State) (o : XOp) (v : Word) (vr : BitVec 10) (win rs : BitVec 3) (amp spr : BitVec 4),
     s.source o.bs o.sa = some v → s.guarded o.g = true → s.cx.inHandler = false →
     let ca := s.ea1 (v.toNat % 65536)
     let a := ca.toNat % 128
     let row := ca.toNat / 128
     let u := s.setEa ca 0
     let x := s.myBank.arr a
     let array := [(a, 0, 255), s.downWin]
     let cols := s.readV vr.toNat
     let sel := (List.range (windowSize win.toNat)).filter fun i => cols.getLsbD i
     let pulsed := fun (i : Instr) => ∃ cells, cells.map (·.1) = sel.map (fun k => 528 * row + x.window win.toNat k) ∧
       exec i s = .next (({ u.occupy array with fresh := s.fresh + 128 }.writeOp a false).bankLater 256
         (.settle a cells sel.length))
     let offs := (lanes32 cols).map (BitVec.ofNat 12)
     let gains := gainLanes cols
     (CalibReady u a true false true array →
       pulsed (.xprogSet o vr win amp) ∧ pulsed (.xprogRst o vr win amp) ∧
       exec (.xerase o) s = .next (((u.occupy array).writeOp a false).bankLater 256 (.erase a (some row) 528)) ∧
       exec (.xeraseAll o) s = .next ((((u.occupy array).writeOp a false).modMyBank fun b =>
         b.modArr a fun x => { x with sealed_ := false }).bankLater 256 (.erase a none (528 * 512)))) ∧
     (CalibReady u a true false false [] → x.status = .programming → spr.toNat < 12 →
       SMap.get? x.spares spr.toNat = none → exec (.xremap o spr) s =
         .next (((u.occupy []).writeOp a false).bankLater 1 (.remap a spr.toNat row))) ∧
     (CalibReady u a true false false [s.downWin] → row % 32 = 0 → row ≤ 224 →
       exec (.xcalO o vr) s =
         .next (((u.occupy [s.downWin]).writeOp a false).bankLater 2 (.offsets a row offs)) ∧
       exec (.xcalG o vr) s =
         .next (((u.occupy [s.downWin]).writeOp a false).bankLater 2 (.gains a row gains))) ∧
     (CalibReady u a true false true [(a, 0, 1023), s.downWin] → row % 32 = 0 → row ≤ 224 →
       x.status = .programming ∨ x.status = .drift → x.fresh ≠ none → x.stale = false →
       (∀ g < 64, ∀ set, grpValid (s.myBank.grp g) = true → (set = true → grpDb (s.myBank.grp g) = true) →
         a ∈ grpArrays (s.myBank.grp g) set → grpRs (s.myBank.grp g) = rs.toNat) →
       exec (.xcalGC o vr rs) s = .next ((((u.occupy [(a, 0, 1023), s.downWin]).writeOp a true).bankLater 2
         (.gains a row gains)).bankLater 1024 (.sweep a rs.toNat)))) ∧
  (∀ (s : State) (o : XOp) (v : Word) (vd ve : BitVec 10) (win rs : BitVec 3) (sd : BitVec 6),
     s.source o.bs o.sa = some v → s.guarded o.g = true → s.cx.inHandler = false →
     let ca := s.ea1 (v.toNat % 65536)
     let a := ca.toNat % 128
     let row := ca.toNat / 128
     let u := s.setEa ca 0
     let x := s.myBank.arr a
     let reads := [(a, 0, 15), s.upWin]
     let cell := fun i => SMap.get x.cells 0 (528 * row + x.window win.toNat i)
     let byte := fun i => if i < windowSize win.toNat
       then codeOf (cell i) + 16 * (marginFails (bits s.myBank.xvthr 5 0) (cell i)).toNat else 0
     (CalibReady u a false true true reads →
       (∃ r, exec (.xread o vd win) s =
           .next ((u.occupy reads).once (·.landing 48 fNone false (.vreg vd.toNat (BitVec.allOnes 1024) r))) ∧
         ∀ i < 128, elem 8 r i = byte i % 256) ∧
       ∃ rg : List Int, rg.length = 4 ∧ (∀ y ∈ rg, -512 ≤ y ∧ y ≤ 511) ∧
         exec (.xdrift o vd) s = .next
           (((({ u.occupy reads with fresh := s.fresh + 4 }).modMyBank fun b =>
               b.modArr a fun x => { x with fresh := none, stale := false }).bankLater 48 (.drift a rg)).once
             (·.landing 48 fNone false (.drift vd.toNat a rg)))) ∧
     (CalibReady u a false true true [(a, 0, 15), s.downWin, s.upWin] →
       ∃ r, exec (.xreadE o vd ve rs win) s =
           .next ({ u.occupy [(a, 0, 15), s.downWin, s.upWin] with fresh := s.fresh + 64 }.once
             (·.landing 48 fNone false (.vreg vd.toNat (BitVec.allOnes 1024) r))) ∧
         ∀ i < 64, -512 ≤ sval 16 (elem 16 r i) ∧ sval 16 (elem 16 r i) ≤ 511) ∧
     exec (.xwear o sd) s =
       .next (u.once (·.landing 2 fNone false (.sreg sd.toNat (BitVec.ofNat 64 x.wear)))))

/-- R175, R192, R198 to R206, R315: what each pending effect of a bank does to it when it lands, leaving the other
banks alone, and which of them the repair record must follow: programming, the cells that
settle or are erased, with the wear, offsets, gains, spares, a drift evaluation, and the commit sweep, whose
three tests pass or fail in their order with XCRES and the reference; the end of a fallback; a hardware
evaluation. Raw outputs and what an erasure leaves are free values (R199, R200). Model's choice: an
evaluation event that R204 does not allow is ignored (DESIGN CHOICE, log 23). -/
def Obligations.BankEvents : Prop :=
  ((∀ (s : State) (i a : Nat) (p : BankPend), (s.bankDue i).filter (fun p => !p.eff.isSweep && p.eff.array == a) = [p] →
     exec (.pulseSettle i a) s = .next (s.bankLand i p)) ∧
   (∀ (s : State) (i a : Nat) (p : BankPend), (s.bankDue i).filter (fun p => p.eff.isSweep && p.eff.array == a) = [p] →
     exec (.commitSweepComplete i a) s = .next (s.bankLand i p)) ∧
   (∀ (s : State) (i : Nat) (p : BankPend), let t := s.bankLand i p
     t.bank i = { s.bank i with pend := (s.bank i).pend.erase p }.apply i s.fresh p.eff ∧
     (∀ j ≠ i, t.bank j = s.bank j) ∧ t.cores = s.cores ∧
     (t.pf.repDirty = true ↔ s.pf.repDirty = true ∨ (∃ a c w, p.eff = .settle a c w) ∨
       (∃ a r w, p.eff = .erase a r w) ∨ ∃ a r c, p.eff = .remap a r c)) ∧
   ∀ (b : Bank) (i n a : Nat),
     let x := b.arr a
     ((b.apply i n (.programming a)).arr a).status = (if x.status = .retired then .retired else .programming) ∧
     ((b.apply i n (.programming a)).arr a).gref = none ∧
     let worn := fun (y : Arr) w => y.wear = min (2 ^ 40 - 1) (x.wear + w) ∧
       (budget i ≤ y.wear → y.status = .retired) ∧ (y.wear < budget i → y.status = x.status)
     let cell := fun (x : Arr) k => SMap.get x.cells 0 k
     (∀ cells w, let y := (b.apply i n (.settle a cells w)).arr a
       worn y w ∧ (∀ k, k ∉ cells.map (·.1) → cell y k = cell x k) ∧
         ((cells.map (·.1)).Nodup → ∀ e ∈ cells, cell y e.1 = e.2)) ∧
     (∀ row w, let y := (b.apply i n (.erase a row w)).arr a
       let erased := fun k => k < 528 * 512 ∧ ∀ r, row = some r → k / 528 = r
       worn y w ∧ y.spares = x.spares ∧ ((∀ r, row = some r → r < 512) → ∀ k,
         (¬ erased k → cell y k = cell x k) ∧
         (erased k → codeOf (cell y k) = 0 ∨ marginFails (bits b.xvthr 5 0) (cell y k) = true))) ∧
     (∀ l0 v k (h : k < v.length), ((b.apply i n (.gains a l0 v)).arr a).gainOf (l0 + k) = (v[k] + 4096).toNat) ∧
     (∀ rg, let y := (b.apply i n (.drift a rg)).arr a
       let trips := ∃ g < 4, ∃ r, x.gref = some r ∧ bits b.xdthr 9 0 < (rg.getD g 0 - r.getD g 0).natAbs
       (trips → x.status = .calibrated → y.status = .drift) ∧
       (¬ (trips ∧ x.status = .calibrated) → y.status = x.status) ∧ y.gref = x.gref ∧
       ((∀ p ∈ b.pend, ∀ g, p.eff ≠ .drift a g) → y.fresh = some rg)) ∧
     (∀ l0 v k (h : k < v.length), ((b.apply i n (.offsets a l0 v)).arr a).off (l0 + k) = v[k].toInt) ∧
     (∀ spr col, SMap.get? x.spares spr = none → ((b.apply i n (.remap a spr col)).arr a).phys col = 512 + spr) ∧
     ∀ rs, let t := b.apply i n (.sweep a rs)
       let y := t.arr a
       let rg := x.fresh.getD []
       let sound := fun r c => marginFails (bits b.xvthr 5 0) (cell x (528 * r + c)) = false
       let exact_ := fun p l =>
         let ideal := idealCode rs (x.sum l fun q => p == 0 || q % 2 == 0)
         let raw := ideal + Config.rawOffset (n + 256 * p + l)
         |raw - x.off l - ideal| ≤ 1
       let level := fun g => -448 ≤ rg.getD g 0 ∧ rg.getD g 0 ≤ 448
       let margin := ∀ r < 512, ∀ c ∈ x.inUse, sound r c
       let eval := ∀ p < 2, ∀ l < 256, exact_ p l
       let glint := ∀ g < rg.length, level g
       let reports := fun (kind idx pcol : Nat) => t.xcres = BitVec.ofNat 64
         (a + 2 ^ 8 + kind * 2 ^ 9 + idx * 2 ^ 11 + pcol * 2 ^ 20)
       (x.status ≠ .retired →
         (margin → eval → glint → y.status = .calibrated ∧ y.gref = some rg ∧
           t.xcres = BitVec.ofNat 64 (a + 2 ^ 7 + 2 ^ 8)) ∧
         (¬ (margin ∧ eval ∧ glint) → y.status = .programming ∧ y.gref = x.gref)) ∧
       (x.status = .retired → y.status = .retired) ∧
       (¬ margin → ∃ r < 512, ∃ c ∈ x.inUse, ¬ sound r c ∧ (∀ q < r, ∀ d ∈ x.inUse, sound q d) ∧
         (∀ d ∈ x.inUse, d < c → sound r d) ∧ reports 1 r c) ∧
       (margin → ¬ eval → ∃ p < 2, ∃ l < 256, ¬ exact_ p l ∧ (∀ q < p, ∀ k < 256, exact_ q k) ∧
         (∀ k < l, exact_ p k) ∧ reports 2 l 0) ∧
       (margin → eval → ¬ glint → ∃ g < rg.length, ¬ level g ∧ (∀ k < g, level k) ∧ reports 3 g (524 + g))) ∧
  ((∀ (s : State) (k : Nat), ∃ t, exec (.xmvFallbackEnd k) s = .next t ∧
     (∀ c, s.coh? k = some c → ∃ d, t.coh? k = some d ∧
       d.holds = c.holds.filter (fun h => match h with | .fallback _ u => s.now < u | _ => true)) ∧
     ∀ j ≠ k, t.coh? j = s.coh? j) ∧
   ∀ (s : State) (i a : Nat), ∃ t, exec (.glintEvaluation i a) s = .next t ∧
     (s.glintReady i a = false → t = s) ∧
     (s.glintReady i a = true → SMap.get? (t.bank i).glintAt a = some s.now) ∧
     (∀ j, j ≠ a → (t.bank i).arr j = (s.bank i).arr j) ∧
     (((t.bank i).arr a).status = ((s.bank i).arr a).status ∨
       ((s.bank i).arr a).status = .calibrated ∧ ((t.bank i).arr a).status = .drift))

/-! ## DRAM commands, fabric, copies, atomics (R145 to R147, R215 to R224, R242 to R247, R262 to R265, R310) -/

/-- R215, R217: a DRAM command whose address words are granted, named by the node and inside their rows
goes on the path to its guard, in order and addressed as its words say. Model's choice: an address word is the
low 34 bits of its source, and the latch keeps those (DEDUCED, log 43). -/
def Obligations.DramCommands : Prop :=
  (∀ (s : State) (o : DOp) (sb : BitVec 6) (line : BitVec 5) (v : Word) (c : Cohort),
     s.source o.bs o.sa = some v → s.guarded o.g = true → s.cx.inHandler = false → s.myCoh = some c →
     let a := s.ea1 ((v.toNat % 2 ^ 34 : Nat) : Int)
     let r := s.cx.rs sb.toNat
     let b := s.ea2 r.toInt
     let row2 := s.ea2 ((r.toNat % 2 ^ 34 : Nat) : Int)
     let zero := s.ea2 0
     let mine := fun a => dawPch a ∈ (s.part c.part).pchs ∧ dawPch a % 64 ≠ 63 ∧ dawPch a ∈ c.pchs
     let rowOk := dawRow a < 49152
     let sends := fun (i : Instr) (x : DramOp) (b : Int) => exec i s = .next ((s.setEa a b).sendCmd c x a b)
     let op := fun cmd n rows => plainOp cmd n rows
     mine a →
     (sends (.mpre o) (op .pre 1 false) zero ∧ sends (.mprea o) (op .prea 2 false) zero ∧
       sends (.mref o) (op .ref 7 false) zero ∧ sends (.mrefp o) (op .refp 8 false) zero ∧
       sends (.mrcbInv o line) { op .rcbInv 10 false with arg := line.toNat } zero) ∧
     (rowOk → sends (.mact o) (op .act 0 true) zero ∧
       sends (.mzro o) { op .zro 11 true with irrevocable := true } zero ∧
       sends (.mrcbLd o line) { op .rcbLd 10 true with arg := line.toNat } zero ∧
       sends (.mrcbSt o line) { op .rcbSt 10 true with arg := line.toNat, irrevocable := true } zero) ∧
     (rowOk → 0 ≤ b → b % 32 = 0 → b + 32 ≤ 786432 →
       sends (.mrd o sb) { op .rd 3 true with spad := true } b ∧
       sends (.mrda o sb) { op .rda 5 true with spad := true } b ∧
       sends (.mwr o sb) { op .wr 4 true with spad := true, store := true, irrevocable := true } b ∧
       sends (.mwra o sb) { op .wra 6 true with spad := true, store := true, irrevocable := true } b) ∧
     (rowOk → mine row2 → dawRow row2 < 49152 → dawPch row2 = dawPch a → dawBank row2 = dawBank a →
       dawRow row2 / 1024 = dawRow a / 1024 → dawRow row2 ≠ dawRow a →
       sends (.mrcp o sb) { op .rcp 9 true with two := true, irrevocable := true } row2)) ∧
  (∀ (s : State) (c : Cohort) (x : DramOp) (a b : Int),
     let t := s.sendCmd c x a b
     let p := dawPch a
     (∃ k, (t.pch p).path = (s.pch p).path ++ [k] ∧ k.cmd = x.cmd ∧ k.site = s.cur.site ∧
       k.bank = dawBank a ∧ k.row = dawRow a ∧ k.col = dawCol a ∧ k.issued = s.timeOf s.cur.site ∧
       k.hops = s.mhop c (c.memberOf s.cur.site) p ∧ (x.spad = true → k.arg = b.toNat)) ∧
     (∀ q ≠ p, t.pch q = s.pch q) ∧ SameMemory s t ∧
     (∀ j ≠ s.cur.site, t.core j = s.core j))

/-- R215, R243, R244, R247, R264, R293: the checks of DRAM commands, of layouts, transfers and staging, and of
atomics, each with its trap, and the double trap of the operations that a handler may not issue. Model's
choices: which of several rows a transfer reports (DESIGN CHOICE, log 27); TVAL of a barred operation but TRAP
is free. Which of two address words the trap of an MRCP names is left open here (DESIGN CHOICE,
log 92). -/
def Obligations.IssueTraps : Prop :=
  (∀ (s : State) (o : DOp) (sb : BitVec 6) (line : BitVec 5) (v : Word) (c : Cohort),
     s.source o.bs o.sa = some v → s.guarded o.g = true → s.cx.inHandler = false → s.myCoh = some c →
     let a := s.ea1 ((v.toNat % 2 ^ 34 : Nat) : Int)
     let r := s.cx.rs sb.toNat
     let own := s.ea2 r.toInt
     let two := s.ea2 ((r.toNat % 2 ^ 34 : Nat) : Int)
     let zero := s.ea2 0
     let granted := fun a => dawPch a ∈ (s.part c.part).pchs ∧ dawPch a % 64 ≠ 63
     let named := fun a => dawPch a ∈ c.pchs
     let traps := fun (i : Instr) (b : Int) (rsn : Nat) (x : Int) =>
       exec i s = .next ((s.setEa a b).slotTrap 0x13
         (BitVec.ofNat 64 (rsn + dawPch x * 2 ^ 16 + s.timeOf s.cur.site % 2 ^ 32 * 2 ^ 32)))
     let moves := [Instr.mrd o sb, .mrda o sb, .mwr o sb, .mwra o sb]
     let plain := [Instr.mpre o, .mprea o, .mref o, .mrefp o, .mrcbInv o line]
     let rows := [Instr.mact o, .mzro o, .mrcbLd o line, .mrcbSt o line]
     (∀ e ∈ moves.map (·, own) ++ (plain ++ rows).map (·, zero),
       (¬ granted a → traps e.1 e.2 1 a) ∧ (granted a → ¬ named a → traps e.1 e.2 2 a)) ∧
     (∀ e ∈ moves.map (·, own) ++ rows.map (·, zero),
       granted a → named a → 49152 ≤ dawRow a → traps e.1 e.2 3 a) ∧
     (∀ i ∈ moves, granted a → named a → dawRow a < 49152 → (own < 0 ∨ own % 32 ≠ 0 ∨ 786432 < own + 32) →
       exec i s = .next ((s.setEa a own).slotTrap 0x09 (BitVec.ofInt 64 own))) ∧
     (let copies := fun (rsn : Nat) (fails : Int → Prop) =>
        ∃ x, (x = a ∨ x = two) ∧ fails x ∧ traps (.mrcp o sb) two rsn x
      let both := granted a ∧ granted two
      let mine := both ∧ named a ∧ named two
      let inside := mine ∧ dawRow a < 49152 ∧ dawRow two < 49152
      (¬ both → copies 1 fun x => ¬ granted x) ∧ (both → ¬ mine → copies 2 fun x => ¬ named x) ∧
      (mine → ¬ inside → copies 3 fun x => 49152 ≤ dawRow x) ∧
      (inside → (dawPch two ≠ dawPch a ∨ dawBank two ≠ dawBank a ∨ dawRow two / 1024 ≠ dawRow a / 1024 ∨
          dawRow two = dawRow a) → copies 4 fun _ => True))) ∧
  (∀ (s : State) (o : DOp) (sv st : BitVec 6) (lyn : BitVec 4) (ch : BitVec 2) (v : Word) (get : Bool),
     s.source o.bs o.sa = some v → s.guarded o.g = true → s.cx.inHandler = false →
     let c := s.cx
     let t := s.timeOf s.cur.site
     let ly := SMap.get c.ly 0 lyn.toNat
     let sa := s.ea1 v.toInt
     let va := s.ea2 ((c.rs sv.toNat).toNat : Int)
     let valid := lyRlen ly ≠ 0 ∧ lyRlen ly ≤ 4096 ∧ lyRlen ly % 4 = 0
     let i := if get then Instr.xfrG o sv lyn ch st else Instr.xfrP o sv lyn ch st
     let traps := fun cause (tval : Word) => exec i s = .next ((s.setEa sa va).slotTrap cause tval)
     let at_ := if st = 0 then t else (c.rs st.toNat).toNat
     let n : Nat := lyRlen ly
     let host := fun (k : Nat) => va + (k : Int) * lyHstr ly
     let spad := fun (k : Nat) => sa + 32 * (lySstr ly : Int) * (k : Int)
     let aligned := valid ∧ sa % 4 = 0 ∧ va % 4 = 0
     let hosted := aligned ∧ ∀ k < lyRows ly, 0 ≤ host k ∧ host k + n ≤ 2 ^ 54
     let inside := fun k => 0 ≤ spad k ∧ spad k + n ≤ 786432
     let placed := hosted ∧ at_ ≤ t + 2 ^ 24 ∧ ∀ k < lyRows ly, inside k
     let id : Half := (SMap.get c.xnext 0 ch.toNat).truncate 32
     let done : Half := (SMap.get c.xdone 0 ch.toNat).truncate 32
     (¬ valid → traps 0x15 1) ∧
     (valid → sa % 4 ≠ 0 ∨ va % 4 ≠ 0 → traps 0x15 3) ∧
     (aligned → ¬ hosted → traps 0x15 2) ∧
     (hosted → t + 2 ^ 24 < at_ → traps 0x15 4) ∧
     (hosted → at_ ≤ t + 2 ^ 24 → (∃ k < lyRows ly, ¬ inside k) → ∃ k < lyRows ly, ¬ inside k ∧
       ∃ n, exec i s = .next ({ s.setEa sa va with fresh := n }.slotTrap 0x09 (BitVec.ofInt 64 (spad k)))) ∧
     (placed → at_ < t → traps 0x14 (BitVec.ofNat 64 (7 + at_ % 2 ^ 32 * 2 ^ 32))) ∧
     (placed → t ≤ at_ → 64 ≤ (id - done).toInt → traps 0x16 (ch.zeroExtend 64))) ∧
  (∀ (s : State) (o : DOp) (lyn : BitVec 4) (nl : BitVec 6) (v : Word), s.source o.bs o.sa = some v →
     s.guarded o.g = true →
     let line := s.ea1 (v.toNat : Int)
     (s.cx.inHandler = false → ¬ (lyRlen v ≠ 0 ∧ lyRlen v ≤ 4096 ∧ lyRlen v % 4 = 0) →
       exec (.layout o lyn) s = .next (s.slotTrap 0x15 1)) ∧
     (line % 64 ≠ 0 → exec (.istage o nl) s =
       .next ((s.setEa line 0).slotTrap 0x04 (BitVec.ofInt 64 line)))) ∧
  (∀ (s : State) (o : AOp) (sb sc sd : BitVec 6) (v : Word), s.source o.bs o.sa = some v →
     s.guarded o.g = true →
     let w : Nat := if o.sp then 32 else 54
     let a := s.ea1 ((v.toNat % 2 ^ w : Nat) : Int)
     let n : Nat := if o.sz then 8 else 4
     let p := s.part ((s.cohOf s.cur.site).map partOf |>.getD 0)
     let traps := fun (rsn : Nat) (i : Instr) => exec i s =
       .next ((s.setEa a 0).slotTrap 0x17 (BitVec.ofNat 64 (rsn + a.toNat * 2 ^ 8)))
     ∀ i ∈ [Instr.atomAdd o sb sd, .atomSwap o sb sd, .atomCas o sb sc sd, .atomAnd o sb sd, .atomOr o sb sd,
         .atomXor o sb sd, .atomMin o sb sd, .atomMax o sb sd, .atomMinu o sb sd, .atomMaxu o sb sd,
         .atomFadd o sb sd, .atomLd o sd, .redAdd o sb, .redSt o sb, .redAnd o sb, .redOr o sb, .redXor o sb,
         .redMin o sb, .redMax o sb, .redMinu o sb, .redMaxu o sb, .redFadd o sb],
       (a % (n : Int) ≠ 0 → traps 2 i) ∧
       (a % (n : Int) = 0 → o.sp = true → p.gran + p.ovgr ≤ a.toNat / 4096 → traps 1 i)) ∧
  (∀ (s : State) (i : Instr) (f : Nat), encodeFields i = some f → s.cx.inHandler = true → s.carries i →
     let doubled := ∃ e n v, exec i s =
       .next ({ s with cur := { s.cur with ea := e }, fresh := n }.slotTrap 0x1F v)
     (∀ g, guardOf i = some g → s.guarded g = true →
       (clsOf f = 5 ∨ (clsOf f = 6 ∧ opOf f ≤ 0x15) ∨ i = .rfail g → doubled) ∧
       ∀ code, i = .trap g code → exec i s = .next (s.slotTrap 0x1F 1)) ∧
     ((∃ t, i = .align t) ∨ i = .rbegin ∨ (∃ k r n, i = .rpres k r n) ∨ (∃ d, i = .rend d) → doubled))

/-- R136, R145, R146: PUSH reads its source at its issue and writes the peer at c + 5 + 2h; PULL reads
the peer at c + 6 + 2h and writes its own core at c + 11 + 4h; across the bridge, 24 or 48 later. A peer that
is no member and an address outside the scratchpad trap. Model's choices: of two such addresses the trap reports
either (DESIGN CHOICE, log 27); a PULL's return has the hops of its request (DESIGN CHOICE, log 81). -/
def Obligations.FabricTransfers : Prop :=
  ∀ (s : State) (o : DOp) (sr : BitVec 6) (peer : BitVec 7) (sz : BitVec 2) (v : Word) (c : Cohort),
    s.source o.bs o.sa = some v → s.guarded o.g = true → s.cx.inHandler = false → s.myCoh = some c →
    let n : Nat := 128 / 2 ^ sz.toNat
    let la := s.ea1 v.toInt
    let ra := s.ea2 (s.cx.rs sr.toNat).toInt
    let inside := fun (a : Int) => 0 ≤ a ∧ a % 32 = 0 ∧ a + n ≤ 786432
    let i := s.cur.site
    let j := c.members.getD peer.toNat 0
    let me := c.memberOf i
    let h := c.hop me peer.toNat
    let t := s.timeOf i
    let u := s.setEa la ra
    let own := fun (u : State) => if j = i then u.touch (unitsOf ra.toNat n) else u
    let more := fun (k : Nat) => if h.2 then k else 0
    let ops := [Instr.push o sr peer sz, .pull o sr peer sz]
    (c.members.length ≤ peer.toNat → ∀ x ∈ ops,
      exec x s = .next (u.slotTrap 0x0C (peer.zeroExtend 64))) ∧
    (peer.toNat < c.members.length → (¬ inside la ∨ ¬ inside ra) → ∀ x ∈ ops,
      ∃ a n, (a = la ∨ a = ra) ∧ ¬ inside a ∧
        exec x s = .next ({ u with fresh := n }.slotTrap 0x09 (BitVec.ofInt 64 a))) ∧
    (peer.toNat < c.members.length → inside la → inside ra →
      exec (.push o sr peer sz) s = .next (((own u).access 0 3 false (unitsOf la.toNat n)
        (.push la.toNat n j ra.toNat (t + 5 + more 24 + 2 * h.1) me)).irrevocable) ∧
      exec (.pull o sr peer sz) s = .next ((own (u.touch (unitsOf la.toNat n))).place j
        { due := t + 6 + more 24 + 2 * h.1, cls := 3, key := s.issueKey, issued := t, again := false,
          window := none, units := unitsOf ra.toNat n, lost := [],
          act := .pull ra.toNat n i la.toNat (t + 11 + more 48 + 4 * h.1) }))

/-- R243, R244, R247, R310: LAYOUT waits three bundles; a transfer that meets its checks takes the next
identifier of its channel and a place in the buffer; ISTAGE stages its lines; TRC lands a record. Model's choice:
the request of a line that ISTAGE replaces while it is staged goes on outside its slot (DEDUCED, log 29). -/
def Obligations.CopySlotOperations : Prop :=
  ∀ (s : State) (o : DOp) (sv st : BitVec 6) (lyn : BitVec 4) (ch : BitVec 2) (nl : BitVec 6)
    (tag : BitVec 8) (v : Word),
    s.source o.bs o.sa = some v → s.guarded o.g = true →
    let i := s.cur.site
    let c := s.cx
    let t := s.timeOf i
    let valid := fun w => lyRlen w ≠ 0 ∧ lyRlen w ≤ 4096 ∧ lyRlen w % 4 = 0
    let ly := SMap.get c.ly 0 lyn.toNat
    let sa := s.ea1 v.toInt
    let va := s.ea2 ((c.rs sv.toNat).toNat : Int)
    let at_ := if st = 0 then t else (c.rs st.toNat).toNat
    let n : Nat := lyRlen ly
    let next := SMap.get c.xnext 0 ch.toNat
    let id : Half := next.truncate 32
    let done : Half := (SMap.get c.xdone 0 ch.toNat).truncate 32
    let row := fun (k : Nat) => (va + (k : Int) * lyHstr ly, sa + 32 * (lySstr ly : Int) * (k : Int))
    let fits := ∀ k < lyRows ly, 0 ≤ (row k).1 ∧ (row k).1 + n ≤ 2 ^ 54 ∧ 0 ≤ (row k).2 ∧ (row k).2 + n ≤ 786432
    let queued := fun (get : Bool) =>
      ((((s.setEa sa va).modCtx i fun c =>
        { c with xnext := SMap.put c.xnext 0 ch.toNat (setBits next 31 0 (id + 1).toNat) }).addUop s.cur.scope
          (.xfr get ch.toNat id.toNat at_ sa.toNat va.toNat ly)).irrevocable)
    let line := s.ea1 (v.toNat : Int)
    let lines := stageLines line.toNat (nl.toNat + 1)
    let put := fun m x => putStaging m x (stagingLine x (s.core i).nextUop)
    let record := fun (freeze : Bool) => s.once (·.landing 1 fNone false (.trace
      (BitVec.ofNat 52 (v.toNat % 2 ^ 44 + tag.toNat * 2 ^ 44)) s.cur.slot freeze))
    (c.inHandler = false → valid v → exec (.layout o lyn) s = .next (s.modCtx i fun c =>
      { c with lyPend := c.lyPend ++ [{ issued := t, slot := s.cur.slot, left := 3, n := lyn.toNat, v := v }] })) ∧
    (c.inHandler = false → valid ly → sa % 4 = 0 → va % 4 = 0 → fits → t ≤ at_ → at_ ≤ t + 2 ^ 24 →
      (id - done).toInt < 64 →
      exec (.xfrG o sv lyn ch st) s = .next (queued true) ∧
      exec (.xfrP o sv lyn ch st) s = .next (queued false)) ∧
    (line % 64 = 0 → exec (.istage o nl) s =
      .next (((s.setEa line 0).modCore i fun c => { c with istore := lines.foldl put c.istore }).addUop
        s.cur.scope (.stage line.toNat (nl.toNat + 1)))) ∧
    exec (.trc o tag) s = .next (record false) ∧ exec (.trcFrz o tag) s = .next (record true)

/-- R262 to R265: an aligned ATOM or RED inside the partition's sync space joins the untimed work with
its operands; an ATOM marks its destination pending. -/
def Obligations.AtomicsIssue : Prop :=
  ∀ (s : State) (o : AOp) (sb sc sd : BitVec 6) (v : Word), s.source o.bs o.sa = some v →
    s.guarded o.g = true →
    let i := s.cur.site
    let w : Nat := if o.sp then 32 else 54
    let a := s.ea1 ((v.toNat % 2 ^ w : Nat) : Int)
    let n : Nat := if o.sz then 8 else 4
    let p := s.part ((s.cohOf i).map partOf |>.getD 0)
    let u := s.setEa a 0
    let pending := if sd = 0 then u else u.modCtx i (·.setPend sd.toNat true)
    let x := (s.cx.rs sb.toNat)
    let y := (s.cx.rs sc.toNat)
    let adds := fun (ins : Instr) (u : State) (ret : Bool) (op : AtomOp) (x y : Word) (d : Nat) =>
      exec ins s = .next ((u.addUop s.cur.scope (.atom ret op n o.sp a.toNat x y d)).irrevocable)
    let atom := fun ins op => adds ins pending true op x 0 sd.toNat
    let red := fun ins op => adds ins u false op x 0 0
    a % (n : Int) = 0 → (o.sp = true → a.toNat / 4096 < p.gran + p.ovgr) →
    atom (.atomAdd o sb sd) .add ∧ atom (.atomSwap o sb sd) .swap ∧ atom (.atomAnd o sb sd) .and ∧
    atom (.atomOr o sb sd) .or ∧ atom (.atomXor o sb sd) .xor ∧ atom (.atomMin o sb sd) .min ∧
    atom (.atomMax o sb sd) .max ∧ atom (.atomMinu o sb sd) .minu ∧ atom (.atomMaxu o sb sd) .maxu ∧
    atom (.atomFadd o sb sd) .fadd ∧
    adds (.atomCas o sb sc sd) pending true .cas x y sd.toNat ∧
    adds (.atomLd o sd) pending true .ld 0 0 sd.toNat ∧
    red (.redAdd o sb) .add ∧ red (.redSt o sb) .swap ∧ red (.redAnd o sb) .and ∧ red (.redOr o sb) .or ∧
    red (.redXor o sb) .xor ∧ red (.redMin o sb) .min ∧ red (.redMax o sb) .max ∧
    red (.redMinu o sb) .minu ∧ red (.redMaxu o sb) .maxu ∧ red (.redFadd o sb) .fadd

/-! ## The timing guard (R220 to R231) -/

/-- R217, R220 to R226: which commands the guard accepts, and the first test that fails of a refused one, in the
order of R222 with its reason and DET; what an accepted command does to its pseudo-channel at its drive
cycle. -/
def Obligations.GuardCommands : Prop :=
  (∀ (p : Pch) (k : Cmd) (d : Nat),
     let b := p.bankTime k.bank
     let bg := k.bank / 4
     let idle := fun (b : BankTime) => b.at d = .idle
     let near := fun (x : Option Nat) (n : Nat) => ∃ y, x = some y ∧ d < y + n
     let column := k.cmd.isColumn = true
     let act := k.cmd.isAct = true
     let bus := if column then p.colAt = some d else p.rowAt = some d
     let busy := fun det => ∃ x ∈ k.needs, ∃ n, (p.bankTime x).at d = .busy det n
     let state := (column → b.at d = .opened k.row ∧ b.auto = none) ∧ (act → idle b) ∧
       (k.cmd = .ref → ∀ x < 16, idle (p.bankTime x))
     let pending := fun (x : Nat × Bool × Nat) => x ∈ p.linePend ∧ x.1 = k.arg ∧ d ≤ x.2.2
     let line := (k.cmd = .rcbLd ∨ k.cmd = .rcbInv → ∀ x, ¬ pending x) ∧
       (k.cmd = .rcbSt → k.arg ∈ p.valid ∧ ∀ x, pending x → x.2.1 = false)
     let ahead := fun x => (k.cmd = .ref ∨ k.cmd = .refp) ∧ x ∈ k.needs ∧ (p.bankTime x).owed - 1 < -4
     let early := fun (b : BankTime) det => (∃ r, b.at d = .opened r) ∧ b.auto = none ∧
       ((det = 3 ∧ near b.act 66) ∨ (det = 10 ∧ near b.wr 46) ∨ (det = 11 ∧ near b.rd 10))
     let broken := fun (det : Nat) =>
       (act ∧ ((det = 2 ∧ near (b.preAt d) 28) ∨ (det = 4 ∧ near b.act 94) ∨
         (det = 5 ∧ ∃ a ∈ p.acts, a.2 ≠ bg ∧ d < a.1 + 4) ∨ (det = 6 ∧ ∃ a ∈ p.acts, a.2 = bg ∧ d < a.1 + 6) ∨
         (det = 7 ∧ 4 < (p.acts.filter fun a => decide (d < a.1 + 32)).length +
           if k.cmd = .rcp then 2 else 1))) ∨
       (column ∧ ((det = 1 ∧ near b.act 28) ∨ (det = 8 ∧ ∃ a ∈ p.cols, a.2 ≠ bg ∧ d < a.1 + 2) ∨
         (det = 9 ∧ ∃ a ∈ p.cols, a.2 = bg ∧ d < a.1 + 4) ∨
         (det = 12 ∧ (k.cmd = .rd ∨ k.cmd = .rda) ∧ near p.lastWr 30) ∨
         (det = 13 ∧ (k.cmd = .wr ∨ k.cmd = .wra) ∧ near p.lastRd 28))) ∨
       (k.cmd = .pre ∧ early b det) ∨ (k.cmd = .prea ∧ ∃ x < 16, early (p.bankTime x) det) ∨
       (k.cmd = .ref ∧ det = 2 ∧ ∃ x < 16, near ((p.bankTime x).preAt d) 28) ∨ (det = 14 ∧ near p.lastRef 700)
     let least := fun (f : Nat → Prop) det => f det ∧ ∀ e, f e → det ≤ e
     (p.refuses k d = none ↔ ¬ bus ∧ (∀ det, ¬ busy det) ∧ state ∧ line ∧ (∀ x, ¬ ahead x) ∧ ∀ det, ¬ broken det) ∧
     (bus → p.refuses k d = some (3, 0)) ∧
     (¬ bus → ∀ det, least busy det → p.refuses k d = some (2, det)) ∧
     (¬ bus → (∀ det, ¬ busy det) → (¬ state → p.refuses k d = some (1, 0)) ∧
       (state → ¬ line → p.refuses k d = some (6, k.arg)) ∧
       (state → line → (∃ x, ahead x) → ∃ x, ahead x ∧ p.refuses k d = some (4, x)) ∧
       (state → line → (∀ x, ¬ ahead x) → ∀ det, least broken det → p.refuses k d = some (2, det)))) ∧
  (∀ (p : Pch) (d now : Nat) (k : Cmd) (x r : Nat), k.cmd = .prea → x < 16 → (p.bankTime x).at d = .opened r →
     (p.bankTime x).auto = none → ((p.drive k d now).bankTime x).at d = .idle) ∧
  (∀ (p : Pch) (k : Cmd) (d now : Nat),
     let t := p.drive k d now
     let b := p.bankTime k.bank
     let x := t.bankTime k.bank
     let col := rowBase k.bank k.row + 32 * k.col
     let row := memBytes p.mem (rowBase k.bank k.row) 1024
     let job := fun n (r : Option Nat) line data => t.jobs =
       p.jobs ++ [{ bank := k.bank, done := now + n, row := r, line := line, data := data }]
     let reads := k.cmd = .rd ∨ k.cmd = .rda
     let writes := k.cmd = .wr ∨ k.cmd = .wra
     (reads → ∃ l, t.landing = p.landing ++ [l] ∧ l.data = memBytes p.mem col 32 ∧ l.site = k.site ∧
       l.addr = k.arg ∧ l.port = d + 42 + k.hops) ∧
     (¬ reads → t.landing = p.landing) ∧
     (writes → k.data.length = 32 → ∀ a, memGet t.mem a =
       if col ≤ a ∧ a < col + 32 then k.data.getD (a - col) 0 else memGet p.mem a) ∧
     (¬ writes → t.mem = p.mem) ∧
     (k.cmd = .act → x.st = .opened k.row ∧ x.act = some d) ∧
     (k.cmd = .pre → b.auto = none → (∀ det n, b.at d ≠ .busy det n) → x.at d = .idle) ∧
     (∀ a, b.act = some a → (k.cmd = .rda → x.auto = some (max (d + 10) (a + 66))) ∧
       (k.cmd = .wra → x.auto = some (max (d + 46) (a + 66)))) ∧
     (k.cmd = .ref → ∀ y < 16, (t.bankTime y).owed = (p.bankTime y).owed - 1 ∧
       (t.bankTime y).st = .busy 14 (d + 699)) ∧
     (k.cmd = .refp → x.owed = b.owed - 1 ∧ x.st = .busy 15 (d + 349)) ∧
     (k.cmd = .rcp → job 188 (some k.arg) 0 row) ∧
     (k.cmd = .rcbLd → job 160 none k.arg row) ∧
     (k.cmd = .rcbSt → job 192 (some k.row) 0 (memBytes p.lines (1024 * k.arg) 1024)) ∧
     (k.cmd = .zro → job 94 (some k.row) 0 (List.replicate 1024 0)) ∧
     (k.cmd = .rcbInv → ∀ l, l ∈ t.valid ↔ l ∈ p.valid ∧ l ≠ k.arg) ∧
     (k.cmd ≠ .prea → k.cmd ≠ .ref → ∀ y ≠ k.bank, t.bankTime y = p.bankTime y))

/-- R221 to R231: the events of a guard. A command at its drive cycle is driven or refused; operations
end, automatic precharges and read data come due, frames begin at the rate of their stack's temperature as its
sensor shows it then, refreshes go on. -/
def Obligations.GuardEvents : Prop :=
  ∀ (s : State) (p : Nat),
    let x := s.pch p
    (∀ u c k l, s.userOf p = some u → s.coh? u = some c → x.arriving c.ccyc = k :: l →
      let q : Pch := { x with path := x.path.erase k }
      (∀ e, q.refuses k c.ccyc = some e → ∃ t, exec (.guardCommandDrive p) s = .next t ∧ t.pch p = q ∧
        SameMemory s t ∧ (t.ctx k.site).bev = (s.ctx k.site).bev ++
          [{ due := k.issued + 2 + 2 * k.hops, issued := k.issued
             kind := .timing (timingWord e.1 e.2 p c.ccyc) }]) ∧
      (q.refuses k c.ccyc = none → ∃ t, exec (.guardCommandDrive p) s = .next t ∧
        t.pch p = q.drive k c.ccyc s.now ∧ (∀ j ≠ p, t.pch j = s.pch j) ∧ ∀ i, t.core i = s.core i)) ∧
    (∀ b j, x.jobs.filter (fun j => j.bank == b && decide (j.done ≤ s.now)) = [j] →
      ∃ t, exec (.dramOperationComplete p b) s = .next t ∧ (t.pch p).jobs = x.jobs.erase j ∧
        (∀ q ≠ p, t.pch q = s.pch q) ∧
        (∀ r, j.row = some r → (t.pch p).lines = x.lines ∧ ∀ a, t.dramByte p a =
          if rowBase b r ≤ a ∧ a < rowBase b r + j.data.length then j.data.getD (a - rowBase b r) 0
          else s.dramByte p a) ∧
        (j.row = none → (t.pch p).mem = x.mem ∧ j.line ∈ (t.pch p).valid ∧
          ∀ a < j.data.length, t.stagedByte p (1024 * j.line + a) = j.data.getD a 0)) ∧
    (∀ u c b r d, s.userOf p = some u → s.coh? u = some c → (x.bankTime b).st = .opened r →
      (x.bankTime b).auto = some d → d ≤ c.ccyc → ∃ t, exec (.autoPrecharge p b) s = .next t ∧
        (t.pch p).bankTime b = { x.bankTime b with st := .idle, pre := some d, auto := none }) ∧
    (∀ l c, x.landing = [l] → s.coh? l.coh = some c → l.port ≤ c.ccyc → l.bad = false →
      ∃ t, exec (.dramReadLanding p) s = .next t ∧ (t.pch p).landing = [] ∧
        (t.ctx l.site).acc = (s.ctx l.site).acc ++
          [{ due := l.port, cls := 2, key := l.seq, issued := l.issued, again := false, window := none
             lost := [], units := unitsOf l.addr 32, act := .write (placed l.addr l.data) none }]) ∧
    (∀ u c, s.userOf p = some u → s.coh? u = some c → s.frameDue p = true →
      ∃ t, exec (.refreshFrameBoundary p) s = .next t ∧ (t.pch p).frame = some (c.ccyc / 7800) ∧
        (∀ b < 16, ((t.pch p).bankTime b).owed = (x.bankTime b).owed + 2 ∧
          ((t.pch p).bankTime b).units = 0) ∧
        ((t.pch p).hot = true ↔ 85 ≤ (SMap.get? s.pf.sensed.stackTemp (p / 64)).getD (SMap.get s.pf.stackTemp 0 (p / 64))) ∧
        ((∀ b < 16, (x.bankTime b).owed ≤ 6) → ∀ i, t.core i = s.core i) ∧
        ((∃ b < 16, 6 < (x.bankTime b).owed) → ∃ b < 16, 6 < (x.bankTime b).owed ∧
          (t.ctx (c.members.getD 0 0)).bev = (s.ctx (c.members.getD 0 0)).bev ++
            [{ due := c.ccyc, issued := c.ccyc, kind := .timing (timingWord 5 b p c.ccyc) }])) ∧
    (∀ c, x.custody = some c → s.custodialDue p = true → ∃ t, exec (.custodialRefresh p) s = .next t ∧
      (t.pch p).custody = some { c with nextRef := c.nextRef + 3900, busyUntil := s.now + 700 } ∧
      SameMemory s t) ∧
    (s.idleDue p = true → ∃ t, exec (.idleRefresh p) s = .next t ∧
      (t.pch p).idleNext = s.now + 3900 ∧ SameMemory s t)

/-! ## Untimed work (R235 to R247, R252 to R267) -/

/-- R16, R139, R238, R245, R246, R253, R254: a transfer begins, translates each of its pages once, moves its units
of 32 bytes through the untimed port while its partition has UCIe bytes left in its turn, and completes; a line is
staged on demand, its page is translated once, and it arrives. Model's choices: a line that left its slot is
discarded on arrival (DEDUCED, log 29); a transfer that meets an uncorrectable word drops what it has still to move
(the clause with todo = [], log 25); the turn of the port and what counts in it (DESIGN CHOICE, log 94); the hold
that a miss begins in the wait after a resume (holdStart, DESIGN CHOICE, log 60). -/
def Obligations.TransferEvents : Prop :=
  ∀ (s : State) (i : Nat),
    let left := fun (t : State) (n : Nat) (f : UOp → Prop) => ∃ v ∈ (t.core i).uops, v.n = n ∧ f v
    let walks := fun (i' : Instr) (u : UOp) (va : Nat) (w x : Bool) (src ch id : Nat) (f : UOp → Prop) =>
      let p := partOf u.coh
      let r := (s.translate i u va w x).1
      (r = none → ∃ t, exec i' s = .next t ∧ SameMemory s t ∧
        left t u.n fun v => v.walk = true ∧ s.now < v.ready) ∧
      (∀ g, r = some (.ok g) → ∃ t, exec i' s = .next t ∧ SameMemory s t ∧
        left t u.n fun v => v.pages = u.pages ++ [g] ∧ f v) ∧
      (∀ e, r = some (.error e) → (s.part p).dying = false → ∃ t, exec i' s = .next t ∧ SameMemory s t ∧
        (left t u.n fun v => v.stage = .faulted) ∧ ∃ y, (t.part p).retries = (s.part p).retries ++ [y] ∧
          y.tag = none ∧ y.va = va ∧ y.kind = e ∧ y.src = src ∧ y.who = ⟨i, u.n⟩ ∧ y.coh = u.coh ∧ y.ch = ch ∧
          y.id = id)
    (∀ (va sa n b : Nat), b < n → ∃ p ∈ splitRow n va sa n, p.1 ≤ va + b ∧ va + b < p.1 + p.2.2 ∧
      p.2.1 + (va + b - p.1) = sa + b ∧ p.2.1 % 32 + p.2.2 ≤ 32 ∧ p.1 % 4096 + p.2.2 ≤ 4096) ∧
    (∀ u get ch id T sa va ly, u.kind = .xfr get ch id T sa va ly →
      (s.canBegin i u = true ↔ s.clockAt i u.coh T = true ∧ (s.core i).mayBegin u = true) ∧
      (s.xfrWith i ch id (s.canBegin i) = some u → ∃ t, exec (.xfrBegin i ch id) s = .next t ∧ SameMemory s t ∧
        left t u.n fun v => v.stage = .running ∧ v.todo = xfrPieces sa va ly ∧ s.now < v.ready) ∧
      (s.xfrWith i ch id (s.canMove i) = some u → u.wantsPage = true →
        walks (.untimedPortAccess i ch id) u (lowest u.todo) (!get) false (if get then 1 else 2) ch id
          fun v => v.todo = u.todo) ∧
      (∀ p pa, s.xfrWith i ch id (s.canMove i) = some u → u.wantsPage = false → s.movable i u get = [p] →
        u.phys p.1 = some pa → p.2.1 % 32 + p.2.2 ≤ 32 → s.liveCoh i u.coh = true →
        let unit := p.2.1 / 32
        let bad := ∃ q ∈ u.todo, q.2.1 / 32 = unit ∧ ∃ x ∈ wordsOf q.2.1 q.2.2, x ∈ (s.core i).badWord
        let early := fun (va a : Nat) => (u.ahead.find? fun e => e.1 == va && e.2.1 == a).map (·.2.2)
        let moves := fun (t : State) => ∀ a, t.spadByte i a =
          if p.2.1 ≤ a ∧ a < p.2.1 + p.2.2 then
            (early (p.1 + (a - p.2.1)) a).getD (memGet s.host (pa + (a - p.2.1)))
          else s.spadByte i a
        let inWord := fun (va : Nat) => va / 4 = p.1 / 4 ∨ va / 4 = (p.1 + p.2.2 - 1) / 4
        (get = true → (s.ctx i).replay = none → Memory.wf s.host = true →
          ∃ t, exec (.untimedPortAccess i ch id) s = .next t ∧ moves t ∧ t.host = s.host ∧
            bankOfUnit unit ∈ (t.core i).portBusy ∧
            (p.1 % 4 ≠ 0 → 0 < p.2.2 → left t u.n fun v =>
              ∀ q ∈ u.todo, q ≠ p → q.1 + p.2.1 = p.1 + q.2.1 → ∀ k < q.2.2, inWord (q.1 + k) →
                (q.1 + k, q.2.1 + k, memGet s.host (pa + q.1 + k - p.1)) ∈ v.ahead) ∧
            ∀ dir, (t.part (partOf u.coh)).linkUsed s.now dir = (s.part (partOf u.coh)).linkUsed s.now dir +
              if dir then 0 else p.2.2) ∧
        (get = false → SMap.get? u.units unit = none → Memory.wf (s.core i).spad = true →
          (¬ bad → ∃ t, exec (.untimedPortAccess i ch id) s = .next t ∧ SameMemory s t ∧
            bankOfUnit unit ∈ (t.core i).portBusy ∧
            left t u.n fun v => v.held = u.held ++ placed pa (memBytes (s.core i).spad p.2.1 p.2.2) ∧
              ((∃ q ∈ u.todo.erase p, q.2.1 / 32 = unit) →
                SMap.get? v.units unit = some (memBytes (s.core i).spad (32 * unit) 32))) ∧
          (bad → ∃ t, exec (.untimedPortAccess i ch id) s = .next t ∧ SameMemory s t ∧
            left t u.n fun v => v.failed = true ∧ v.todo = [])) ∧
        (∀ b, get = false → SMap.get? u.units unit = some b →
          ∃ t, exec (.untimedPortAccess i ch id) s = .next t ∧ SameMemory s t ∧
            (t.core i).portBusy = (s.core i).portBusy ∧
            left t u.n fun v => v.held = u.held ++ placed pa ((b.drop (p.2.1 % 32)).take p.2.2))) ∧
      (s.xfrWith i ch id (s.canMove i) = some u → u.wantsPage = false → get = true →
        (s.part (partOf u.coh)).share ≠ 0 →
        (s.part (partOf u.coh)).linkUsed s.now false < 1024 * (s.part (partOf u.coh)).share) ∧
      (s.canComplete i u = true → get = false → u.stage = .running → ∀ b ∈ u.held, (s.core i).owes u b.1 1 = false) ∧
      (s.xfrWith i ch id (s.canComplete i) = some u → ∃ t, exec (.xfrComplete i ch id) s = .next t ∧
        (left t u.n fun v => v.stage = u.advance get) ∧
        t.host = (if u.stage = .atCore then memPuts s.host u.held else s.host) ∧
        (u.advance get = .atSys → (s.core i).opsOf u.coh = [u] →
          (s.core i).serves u.coh = true →
          bits (SMap.get (t.ctx i).xdone 0 ch) 31 0 = bits (SMap.get (s.ctx i).xnext 0 ch) 31 0))) ∧
    (∀ a k, (s.core i).fetch = .missing a → s.cohOf i = some k → ∃ t, exec (.demandStaging i a) s = .next t ∧
      SameMemory s t ∧ (left t (s.core i).nextUop fun v => v.coh = k ∧ v.kind = .stage a 1 ∧ v.stage = .waiting) ∧
      (∃ l, SMap.get? (t.core i).istore (slotOfLine a) = some l ∧ l.st = .staging ∧
        l.tag = tagOfLine a ∧ l.op = (s.core i).nextUop) ∧
      ∀ c, s.missHolds i = some k → s.coh? k = some c → HoldCause.miss i ∉ c.holds →
        ∃ d, t.coh? k = some d ∧ d.holds = c.holds ++ [.miss i] ∧
          d.holdStart = some (if c.resuming then s.now else c.holdStart.getD s.now)) ∧
    ∀ key l u, SMap.get? (s.core i).istore key = some l → s.lineDue i key l = true →
      (s.core i).uops.find? (·.n == l.op) = some u →
      let a := lineAddr key l
      (∀ pa, u.phys a = some pa → ∃ t, exec (.lineStagingComplete i key) s = .next t ∧ SameMemory s t ∧
        SMap.get? (t.core i).istore key = if key ≥ 4096 then none else
          some { l with st := .valid, bad := false
                        data := BitVec.ofNat 512 (ofBytes (s.lineBytes (partOf u.coh) a pa)) }) ∧
      (u.phys a = none → walks (.lineStagingComplete i key) u a false true 3 0 0 fun _ => True) ∧
      ∀ g, u.phys a = none → (s.translate i u a false true).1 = some (.ok g) →
        ∃ t l', exec (.lineStagingComplete i key) s = .next t ∧
          SMap.get? (t.core i).istore key = some l' ∧ s.now < l'.ready

/-- R235 to R241, R268, R285: what a walk makes of each table entry, in the order of R236's rows, and of the
leaf's permissions; a page's address with the offset; a translation is a TLB entry's, or a walk's that holds a
slot; an invalidation ends when no operation uses a translation that it removed; the retry ring, its answers,
and the registers of translation, which act on a function that is there (log 73) and is not being reset. The
first TAG of a ring is log 10, the walk slots are log 30 (DESIGN CHOICE); what uses a translation is log 85
(DEDUCED); that an abort of a staging operation leaves none of its lines staging is log 72 (DEDUCED). -/
def Obligations.TranslationEvents : Prop :=
  (∀ (host : List Host.Cell) (root : Word) (va : Nat) (w x : Bool),
     (bitAt root 0 = false → walk host root va w x = .error 1) ∧
     (bitAt root 0 = true → let r := walkFrom host va 4 (bits root 51 12 * 4096)
       (∀ k, r = .error k → walk host root va w x = .error k) ∧
       ∀ l, r = .ok l → (w = true → l.w = false → walk host root va w x = .error 2) ∧
         ((w = true → l.w = true) → x = true → l.x = false → walk host root va w x = .error 3) ∧
         ((w = true → l.w = true) → (x = true → l.x = true) → walk host root va w x = .ok l)) ∧
     (∀ level table, level ≤ 4 →
       let e := ofBytes (memBytes host (table + 8 * (va / 2 ^ (12 + 9 * level) % 512)) 8)
       let r := walkFrom host va level table
       let valid := e.testBit 0 = true
       let lf := e.testBit 4 = true
       let c := e.testBit 3 = true
       let pa := e / 2 ^ 12 % 2 ^ 40
       let malformed := (∃ k, ((5 ≤ k ∧ k ≤ 11) ∨ 52 ≤ k) ∧ e.testBit k = true) ∨ (lf ∧ 3 ≤ level) ∨
         (c ∧ 0 < level) ∨ (lf ∧ level = 1 ∧ pa % 2 ^ 9 ≠ 0) ∨ (lf ∧ level = 2 ∧ pa % 2 ^ 18 ≠ 0)
       let split := level = 0 ∧ c ∧ pa % 16 ≠ 0
       (¬ valid → r = .error 1) ∧ (valid → malformed → r = .error 4) ∧
       (valid → ¬ malformed → split → r = .error 5) ∧
       (valid → ¬ malformed → 0 < level → ¬ lf → r = walkFrom host va (level - 1) (pa * 2 ^ 12)) ∧
       (valid → ¬ malformed → ¬ split → level = 0 ∨ lf → ∃ l, r = .ok l ∧ l.pa = pa * 2 ^ 12 ∧
         (l.size = if level = 0 ∧ e.testBit 3 = true then 2 ^ 16 else 2 ^ (12 + 9 * level)) ∧
         l.va = va / l.size * l.size ∧ l.w = e.testBit 1 ∧ l.x = e.testBit 2)) ∧
     (∀ l, walk host root va w x = .ok l → l.va ≤ va ∧ va < l.va + l.size ∧ l.va % l.size = 0 ∧
       (w = true → l.w = true) ∧ (x = true → l.x = true) ∧
       l.size ∈ [2 ^ 12, 2 ^ 16, 2 ^ 21, 2 ^ 30] ∧ l.pa % l.size = 0) ∧
     ∀ e, walk host root va w x = .error e → e ∈ [1, 2, 3, 4, 5] ∧ (w = false → e ≠ 2) ∧ (x = false → e ≠ 3)) ∧
  (∀ (s : State) (i : Nat) (u : UOp) (va : Nat) (w x : Bool), u ∈ (s.core i).uops →
     let p := partOf u.coh
     let r := s.translate i u va w x
     SameMemory s r.2 ∧
     (∀ l g m, u.pages = l ++ g :: m → (∀ q ∈ l, q.has va = false) → g.va ≤ va → va < g.va + g.size →
       u.phys va = some (g.pa + (va - g.va))) ∧
     ((∀ g ∈ u.pages, g.has va = false) → u.phys va = none) ∧
     (∀ e, s.tlbHit (i / 64) p va w x = some e → r.1 = some (.ok ⟨e.va, e.size, e.pa⟩)) ∧
     (s.tlbHit (i / 64) p va w x = none →
       (u.walk = false → r.1 = none ∧ ∃ v ∈ (r.2.core i).uops, v.n = u.n ∧ v.walk = true ∧ s.now < v.ready) ∧
       (u.walk = true → (∃ v ∈ (r.2.core i).uops, v.n = u.n ∧ v.walk = false) ∧
         (∀ e, walk s.host (s.part p).ptroot va w x = .error e → r.1 = some (.error e) ∧ r.2.tlb = s.tlb) ∧
         ∀ l, walk s.host (s.part p).ptroot va w x = .ok l → r.1 = some (.ok ⟨l.va, l.size, l.pa⟩) ∧
           ∃ e ∈ r.2.tlb, e.die = i / 64 ∧ e.part = p ∧ e.va = l.va ∧ e.size = l.size ∧ e.pa = l.pa))) ∧
  (∀ (s : State) (p : Nat) (v : Word),
     let x := s.part p
     let there := s.vfPresent p = true ∧ x.rst = false
     (∀ r, x.retries.find? (·.tag.isNone) = some r → x.retryDue = true →
       let a := bits x.rrbase 51 12 * 4096 + 32 * (x.rrw.toNat % rrSize x)
       let b := wordBytes ({ r with after := s.afterHalt r.who.site r.coh }.words (x.sites.idxOf r.who.site)
         x.rrTag (ringPhase x.rrw.toNat (rrSize x)))
       ∃ t, exec (.retryEntryWrite p) s = .next t ∧ (t.part p).rrw = x.rrw + 1 ∧
         (t.part p).irq1 = x.irq1 + 1 ∧ (t.part p).rrTag = (x.rrTag + 1) % 65536 ∧
         ∀ k, memGet t.host k = if a ≤ k ∧ k < a + 32 then b.getD (k - a) 0 else memGet s.host k) ∧
     (∀ tag, ¬ there → ∀ i ∈ [Instr.rrrespRetry p tag, .rrrespAbort p tag, .rrcntWrite p v, .rrbaseWrite p v,
       .ptrootWrite p v, .tlbinvWrite p v], exec i s = .next s) ∧
     (∀ tag, there → x.retries.find? (·.tag == some tag) = none →
       (∃ t, exec (.rrrespRetry p tag) s = .next t ∧ (t.part p).rrbad = true) ∧
       ∃ t, exec (.rrrespAbort p tag) s = .next t ∧ (t.part p).rrbad = true) ∧
     (∀ tag r u, there → x.retries.find? (·.tag == some tag) = some r →
       let i := r.who.site
       (s.core i).uops.find? (·.n == r.who.op) = some u →
       (∃ t, exec (.rrrespRetry p tag) s = .next t ∧ (t.part p).rrbad = false ∧
         (∀ e ∈ (t.part p).retries, e.tag ≠ some tag) ∧
         ∃ y ∈ (t.core i).uops, y.n = u.n ∧ y.stage = .running ∧ y.todo = u.todo ∧ s.now < y.ready) ∧
       ∃ t, exec (.rrrespAbort p tag) s = .next t ∧ (t.part p).rrbad = false ∧
         (∀ e ∈ (t.part p).retries, e.tag ≠ some tag) ∧
         ((∃ a n, u.kind = .stage a n) → ∀ e ∈ (t.core i).istore, e.2.st = .staging → e.2.op ≠ u.n) ∧
         ∃ y ∈ (t.core i).uops, y.n = u.n ∧
           ((∃ g c d T a b l, u.kind = .xfr g c d T a b l) → y.failed = true ∧ y.todo = []) ∧
           ((∃ r o n q a b c d, u.kind = .atom r o n q a b c d) → y.stage = .atSys)) ∧
     (there → let r : Half := BitVec.ofNat 32 (bits v 63 32)
       ∃ t, exec (.rrcntWrite p v) s = .next t ∧ (t.part p).rrr =
         if 0 ≤ (x.rrw - r).toInt ∧ (x.rrw - r).toNat ≤ rrSize x then r else x.rrr) ∧
     (there → x.active = false → ∃ t, exec (.rrbaseWrite p v) s = .next t ∧ (t.part p).rrw = 0 ∧
       (t.part p).rrr = 0 ∧ bits (t.part p).rrbase 51 12 = bits v 51 12) ∧
     (there → ∃ t, exec (.ptrootWrite p v) s = .next t ∧ (t.part p).ptroot = v &&& 0xFFFFFFFFFF001 ∧
       (∀ e ∈ t.tlb, e.part = p → 2 ^ 54 ≤ e.va ∨ e.va + e.size = 0) ∧
       (∀ i ∈ x.sites, ∀ e ∈ (t.core i).istore, 4096 ≤ e.1) ∧
       ∃ n, (t.part p).tlbinv = some (0, 2 ^ 54, n) ∧ s.now < n) ∧
     (there → bits v 11 6 = 0 → bits v 62 54 = 0 → x.tlbinv = none →
       ∀ lo hi, (bits v 5 0 = 63 ∧ lo = 0 ∧ hi = 2 ^ 54) ∨ (12 ≤ bits v 5 0 ∧ bits v 5 0 ≤ 54 ∧
           lo = bits v 53 12 * 4096 / 2 ^ bits v 5 0 * 2 ^ bits v 5 0 ∧ hi = lo + 2 ^ bits v 5 0) →
       ∃ t, exec (.tlbinvWrite p v) s = .next t ∧ SameMemory s t ∧
         (∀ e ∈ t.tlb, e.part = p → hi ≤ e.va ∨ e.va + e.size ≤ lo) ∧
         (∀ e ∈ s.tlb, e.part ≠ p → e ∈ t.tlb) ∧
         (∀ i ∈ x.sites, (∀ e ∈ (t.core i).istore, e.1 < 4096 →
             hi ≤ lineAddr e.1 e.2 ∨ lineAddr e.1 e.2 + 64 ≤ lo) ∧ (t.core i).uops = (s.core i).uops) ∧
         ∃ n, (t.part p).tlbinv = some (lo, hi, n) ∧ s.now < n) ∧
     ((bits v 11 6 ≠ 0 ∨ bits v 62 54 ≠ 0 ∨ x.tlbinv ≠ none ∨
       (bits v 5 0 < 12 ∨ 54 < bits v 5 0) ∧ bits v 5 0 ≠ 63) → exec (.tlbinvWrite p v) s = .next s) ∧
     (s.invDone p = true ↔ ∃ lo hi n, x.tlbinv = some (lo, hi, n) ∧ n ≤ s.now ∧
       ∀ i ∈ x.sites, ∀ u ∈ (s.core i).uops, partOf u.coh = p → ∀ g ∈ u.pages, g.va < hi → lo < g.va + g.size →
         (s.core i).uses u g = false) ∧
     (s.invDone p = true → ∃ t, exec (.tlbinvComplete p) s = .next t ∧ (t.part p).tlbinv = none))

/-- R84, R254, R259, R261 to R263: an atomic is performed on its location in one step, in the arithmetic of bit
vectors, FADD rounding the exact sum once to nearest even with subnormals kept; what a host engine does itself
in the overflow area is a read, and later a write; a RED to host memory is first accepted by the core; a
variable in error is refused unless it is rewritten whole (DEDUCED, log 9); an ATOM's old value then lands and
clears the pending bit. -/
def Obligations.AtomicEvents : Prop :=
  (∀ (w : Nat) (m v c : BitVec w), 0 < w →
    let new := fun (op : AtomOp) => BitVec.ofNat w (op.new w m.toNat v.toNat c.toNat)
    new .add = m + v ∧ new .swap = v ∧ new .cas = (if m = c then v else m) ∧ new .and = m &&& v ∧
    new .or = m ||| v ∧ new .xor = m ^^^ v ∧ new .min = (if v.slt m then v else m) ∧
    new .max = (if m.slt v then v else m) ∧ new .minu = (if v < m then v else m) ∧
    new .maxu = (if m < v then v else m) ∧ new .ld = m) ∧
  (∀ (m v c : Nat),
    let a := fdec fmtF32 false m
    let b := fdec fmtF32 false v
    let new := AtomOp.fadd.new 32 m v c
    let signed := fun (n : Bool) (x : Nat) => if n then -(x : Int) else x
    (fisNan a = true ∨ fisNan b = true → new = 0x7FC00000) ∧
    (∀ n, a = .inf n → b = .inf (!n) → new = 0x7FC00000) ∧
    (∀ n, (a = .inf n ∧ fisNan b = false ∧ b ≠ .inf (!n)) ∨ (b = .inf n ∧ fisNan a = false ∧ a ≠ .inf (!n)) →
      new = finf fmtF32 n) ∧
    ∀ n x d n' x' d', a = .fin n x d → b = .fin n' x' d' →
      (x = 0 → x' = 0 → new = if n && n' then 2 ^ 31 else 0) ∧
      (x = 0 → x' ≠ 0 → new = (roundMag fmtF32 0 false n' x' d' false).1) ∧
      (x ≠ 0 → x' = 0 → new = (roundMag fmtF32 0 false n x d false).1) ∧
      (x ≠ 0 → x' ≠ 0 →
        let q := min d d'
        let sum := signed n x * 2 ^ (d - q).toNat + signed n' x' * 2 ^ (d' - q).toNat
        new = if sum = 0 then 0 else (roundMag fmtF32 0 false (sum < 0) sum.natAbs q false).1)) ∧
  ∀ (s : State) (i n : Nat) (u : UOp) (ret sp : Bool) (op : AtomOp) (len a d : Nat) (v c : Word),
    (s.core i).uops.find? (·.n == n) = some u → u.kind = .atom ret op len sp a v c d →
    let left := fun (t : State) (f : UOp → Prop) => ∃ y ∈ (t.core i).uops, y.n = n ∧ f y
    let target := (s.part (partOf u.coh)).target sp a
    let pcie := op ∈ [AtomOp.add, .swap, .cas, .ld]
    (s.canPerform i u = true → len = 4 ∨ len = 8 →
      let value := fun (m : List Host.Cell) (x : Nat) => bytesOf len (op.new (8 * len) (ofBytes (memBytes m x len))
        (v.toNat % 2 ^ (8 * len)) (c.toNat % 2 ^ (8 * len)))
      let made := fun (m m' : List Host.Cell) (x : Nat) => ∀ b, memGet m' b =
        if x ≤ b ∧ b < x + len ∧ op ≠ .ld then (value m x).getD (b - x) 0 else memGet m b
      let sent := fun (t : State) (old : Nat) => left t fun y =>
        y.old = BitVec.ofNat 64 old ∧ y.stage = if ret then .returning else .atSys
      let does := fun (f : State → Prop) => ∃ t, exec (.atomicPerform i n) s = .next t ∧ f t
      (u.stage = .rewriting → does fun t => t.host = memPuts s.host u.held ∧ sent t u.old.toNat ∧ t.sync = s.sync) ∧
      (∀ x, u.stage ≠ .rewriting → target = .sram x →
        let words := (List.range (len / 4)).map (x / 4 + ·)
        ((∀ w ∈ words, w ∉ s.syncBad) ∨ op = .swap → does fun t => made s.sync t.sync x ∧
          sent t (ofBytes (memBytes s.sync x len)) ∧ t.host = s.host ∧
          ∀ w, w ∈ t.syncBad ↔ w ∈ s.syncBad ∧ w ∉ words) ∧
        ((∃ w ∈ words, w ∈ s.syncBad) → op ≠ .swap → does fun t => t.sync = s.sync ∧ t.host = s.host ∧
          left t fun y => y.bad = true ∧ y.stage = if ret then .returning else .atSys)) ∧
      ∀ va, u.stage ≠ .rewriting → target = .host va →
        (∀ pa, u.phys va = some pa →
          (ret = false → sp = false → u.stage = .running →
            does fun t => SameMemory s t ∧ left t fun y => y.stage = .atCore) ∧
          (sp = true → ¬ pcie → does fun t => SameMemory s t ∧ left t fun y => y.stage = .rewriting ∧
            y.held.map (·.1) = (List.range len).map (pa + ·) ∧
            (Memory.wf s.host = true → op ≠ .ld → y.held.map (·.2) = value s.host pa)) ∧
          ((ret = true ∨ sp = true ∨ u.stage ≠ .running) → (sp = false ∨ pcie) → does fun t =>
            made s.host t.host pa ∧ sent t (ofBytes (memBytes s.host pa len)) ∧ t.sync = s.sync)) ∧
        (u.phys va = none →
          let r := (s.translate i u va (op != .ld) false).1
          (∀ g, r = some (.ok g) → does fun t => SameMemory s t ∧ left t fun y => y.pages = u.pages ++ [g]) ∧
          ∀ e, r = some (.error e) → (s.part (partOf u.coh)).dying = false → does fun t => SameMemory s t ∧
            (left t fun y => y.stage = .faulted) ∧ ∃ z, (t.part (partOf u.coh)).retries =
              (s.part (partOf u.coh)).retries ++ [z] ∧ z.va = va ∧ z.kind = e ∧ z.src = if ret then 4 else 5)) ∧
    (s.canReturn i u = true → s.liveCoh i u.coh = true → s.endedOp u = false → ret = true → 0 < d →
      d < 64 → ∃ t, exec (.atomReturn i n) s = .next t ∧ SameMemory s t ∧
        (t.ctx i).pending.getLsbD d = false ∧
        (u.bad = false → ∀ r, (t.ctx i).rs r = if r = d then u.old else (s.ctx i).rs r) ∧
        (u.bad = true → ∀ r, (t.ctx i).rs r = (s.ctx i).rs r))

/-! ## Landings and ports (R48, R74, R94 to R97, R136 to R143) -/

/-- R48, R94 to R97, R113, R149, R150, R160, R162, R163, R173, R203, R248, R310: a result that lands writes its
register, tile, counter, control register or trace record, and NCTL's flags, and nothing else but the pipeline
it leaves and the log of an open region; S0 and P0 discard. Of several results that land in one register in one
cycle, that of the later bundle is kept, and of one bundle that of the higher slot. What an accumulation makes of
the accumulator is stated with the matrix multiplications. -/
def Obligations.ResultsLand : Prop :=
  (∀ (s : State) (off : Nat) (fl : NFlags) (e : Effect), s.plain s.cur.site →
    let t := s.timeOf s.cur.site
    ∃ p, ((s.landing off fl false e).ctx s.cur.site).flight = s.cx.flight ++ [p] ∧ p.land = t + off ∧ p.eff = e ∧
      p.flags = fl ∧ p.shadow = false ∧ p.issued = t ∧ p.slot = s.cur.slot ∧ p.seq = 8 * t + s.cur.slot) ∧
  (∀ (s : State) (i : Nat), s.plain i → bitAt s.pf.errinj 12 = false →
    (∀ p ∈ s.dueResults i, p.shadow = false ∧ p.slot < 8 ∧ p.seq = 8 * p.issued + p.slot) →
    ∃ t, exec (.resultLanding i) s = .next t ∧
      let d := t.ctx i
      let kept := fun (p : Pend) (hits : Effect → Prop) => p ∈ s.dueResults i ∧ hits p.eff ∧
        ∀ q ∈ s.dueResults i, hits q.eff →
          q = p ∨ q.issued < p.issued ∨ (q.issued = p.issued ∧ q.slot < p.slot)
      (∀ p r v, r ≠ 0 → p.eff = .sreg r v → kept p (fun e => ∃ w, e = .sreg r w) → d.rs r = v) ∧
      (∀ p r m v k, p.eff = .vreg r m v → kept p (fun e =>
          (∃ n w, e = .vreg r n w ∧ n.getLsbD k = true) ∨ ∃ a g, e = .drift r a g) →
        (d.rv r).getLsbD k = v.getLsbD k) ∧
      (∀ p r m v k, r ≠ 0 → p.eff = .preg r m v → kept p (fun e => ∃ n w, e = .preg r n w ∧ n.getLsbD k = true) →
        (d.rp r).getLsbD k = v.getLsbD k) ∧
      (∀ p n v, p.eff = .mbox n v → kept p (fun e => ∃ w, e = .mbox n w) → d.rmb n = v) ∧
      (∀ p n v, p.eff = .csr n v → kept p (fun e => ∃ w, e = .csr n w) →
        (n = 0x002 → d.taddr = v &&& 0x3FFFFFFFFFFFFF) ∧
        (0x020 ≤ n → n < 0x030 → SMap.get d.stride 0 (n - 0x020) = v.truncate 32) ∧
        (0x040 ≤ n → n < 0x060 → d.shape (n - 0x040) = v &&& 0x37F7F) ∧
        (n = 0x191 → (t.bank i).xvthr = v &&& 0x3F))) ∧
  ∀ (s : State) (i : Nat) (p : Pend), s.plain i → s.dueResults i = [p] → p.shadow = false →
    bitAt s.pf.errinj 12 = false → ∃ t, exec (.resultLanding i) s = .next t ∧ SameOutside s { t with banks := s.banks } ∧
      (∀ j ≠ i, t.core j = s.core j ∧ t.bank j = s.bank j) ∧
      let c := s.ctx i
      let d := t.ctx i
      let flagged := c.nctl ||| (p.flags.zeroExtend 64 <<< 8)
      let b := s.bank i
      let e := t.bank i
      let clean := fun l => l ∉ c.poison ∧ l ∉ c.badLine
      let word := fun (m : List Host.Cell) r => tileWord m r
      (∀ r v, p.eff = .sreg r v → SameMemory s t ∧ e = b ∧
        d = { c with s := d.s, nctl := flagged, flight := d.flight, regions := d.regions } ∧
        ∀ q, d.rs q = if q = r ∧ q ≠ 0 then v else c.rs q) ∧
      (∀ r m v, p.eff = .vreg r m v → SameMemory s t ∧ e = b ∧
        d = { c with v := d.v, nctl := flagged, flight := d.flight, regions := d.regions } ∧
        ∀ q, d.rv q = if q = r then (c.rv q &&& ~~~m) ||| (v &&& m) else c.rv q) ∧
      (∀ r m v, p.eff = .preg r m v → SameMemory s t ∧ e = b ∧
        d = { c with p := d.p, nctl := flagged, flight := d.flight, regions := d.regions } ∧
        ∀ q, d.rp q = if q = r ∧ q ≠ 0 then (c.rp q &&& ~~~m) ||| (v &&& m) else c.rp q) ∧
      (∀ n v, p.eff = .mbox n v → SameMemory s t ∧ e = b ∧
        d = { c with mb := d.mb, nctl := flagged, flight := d.flight, regions := d.regions } ∧
        ∀ q, d.rmb q = if q = n then v else c.rmb q) ∧
      (∀ n v, p.eff = .csr n v → SameMemory s t ∧
        (n < 0x100 → e = b ∧ d = { c with tstat := d.tstat, taddr := d.taddr, nctl := d.nctl, stride := d.stride,
                                          tshape := d.tshape, flight := d.flight, regions := d.regions }) ∧
        (n ≠ 0x010 → d.nctl = flagged) ∧
        (n = 0x010 → d.nctl = (v &&& 0x3F07) ||| (p.flags.zeroExtend 64 <<< 8)) ∧
        (n = 0x002 → d.taddr = v &&& 0x3FFFFFFFFFFFFF) ∧
        (n = 0x001 → bits d.tstat 15 8 = bits v 15 8 ∧ bits d.tstat 2 0 = bits v 2 0 ∧
          bits d.tstat 23 16 = bits c.tstat 23 16 ∧ bits d.tstat 27 27 = bits c.tstat 27 27) ∧
        (0x020 ≤ n → n < 0x030 → ∀ k, SMap.get d.stride 0 k =
          if k = n - 0x020 then v.truncate 32 else SMap.get c.stride 0 k) ∧
        (0x040 ≤ n → n < 0x060 → ∀ k, d.shape k = if k = n - 0x040 then v &&& 0x37F7F else c.shape k) ∧
        (0x100 ≤ n → d = { c with nctl := flagged, flight := d.flight, regions := d.regions } ∧
          e = { b with xovc := e.xovc, xclip := e.xclip, xpamp := e.xpamp, xvthr := e.xvthr, xdthr := e.xdthr,
                       xrsel := e.xrsel }) ∧
        (0x140 ≤ n → n < 0x180 → ∀ k, SMap.get e.xovc 0 k =
          if k = n - 0x140 then v &&& 0xFFFFFFFFFFFF else SMap.get b.xovc 0 k) ∧
        (0x180 ≤ n → n < 0x184 → ∀ k < 4, e.xclip.extractLsb' (64 * k) 64 =
          if k = n - 0x180 then v else b.xclip.extractLsb' (64 * k) 64) ∧
        (n = 0x190 → bits e.xpamp 27 0 = bits v 27 0 ∧
          bits e.xpamp 35 28 = if bits v 35 28 = 0 then bits b.xpamp 35 28 else bits v 35 28) ∧
        (n = 0x191 → e.xvthr = v &&& 0x3F) ∧ (n = 0x192 → e.xdthr = v &&& 0xFFFF03FF) ∧
        (n = 0x193 → e.xrsel = v &&& 0x7F)) ∧
      (∀ a l clear set, p.eff = .tile [(a, l)] clear set → e = b ∧
        d = { c with tile := d.tile, poison := d.poison, badLine := d.badLine, nctl := flagged
                     flight := d.flight, regions := d.regions } ∧
        (∀ x, t.tileByte i x = if a ≤ x ∧ x < a + l.length then l.getD (x - a) 0 else s.tileByte i x) ∧
        (∀ x, x ∈ d.poison ↔ x ∈ set ∨ (x ∈ c.poison ∧ x ∉ clear)) ∧
        ∀ x, x ∈ d.badLine ↔ x ∈ c.badLine ∧ x ∉ clear ∧ x ∉ set) ∧
      (∀ n, p.eff = .ovcClear n → SameMemory s t ∧ e = b ∧
        d = { c with ovc := d.ovc, nctl := flagged, flight := d.flight, regions := d.regions } ∧
        ∀ k, SMap.get d.ovc 0 k = if k = n then 0 else SMap.get c.ovc 0 k) ∧
      (∀ n, p.eff = .ovcStore n → SameMemory s t ∧ e = b ∧
        (∀ k, SMap.get d.ovc 0 k = if k = n then 0 else SMap.get c.ovc 0 k) ∧
        d = { c with ovc := d.ovc, acc := d.acc, nctl := flagged, flight := d.flight, regions := d.regions } ∧
        d.acc.length = c.acc.length ∧ ∀ a ∈ c.acc, ∀ x o, a.act = .ovc n x o → a.due = p.land →
          { a with act := .ovc n x (SMap.get c.ovc 0 n) } ∈ d.acc) ∧
      (∀ n k, p.eff = .ovcCount n k → SameMemory s t ∧ e = b ∧
        d = { c with ovc := d.ovc, nctl := flagged, flight := d.flight, regions := d.regions } ∧
        bits (SMap.get d.ovc 0 n) 31 0 = min 0xFFFFFFFF (bits (SMap.get c.ovc 0 n) 31 0 + k) ∧
        bits (SMap.get d.ovc 0 n) 47 32 = bits (SMap.get c.ovc 0 n) 47 32 ∧
        ∀ q ≠ n, SMap.get d.ovc 0 q = SMap.get c.ovc 0 q) ∧
      (∀ tc m n v bad, p.eff = .accumulate tc m n v bad [] → (∀ l ∈ linesOf (4096 * tc) (4 * m * n), clean l) →
        let a := c.accumulate c tc m n v bad
        e = b ∧ d = { c with tile := a.tile, ovc := a.ovc, poison := a.poison, badLine := a.badLine
                             nctl := flagged, flight := d.flight, regions := d.regions }) ∧
      (∀ tc tx m scores w qs asc bad, p.eff = .softmax tc tx m scores w qs asc bad [] →
        (∀ l ∈ linesOf (4096 * tc) (4 * m * w.n) ++ linesOf (4096 * tx) (8 * m), clean l) →
        (∀ x ∈ scores, -2 ^ 31 ≤ x ∧ x < 2 ^ 31) → w.mx = false → Memory.wf c.tile = true →
        (4096 * tc + 4 * m * w.n ≤ 4096 * tx ∨ 4096 * tx + 8 * m ≤ 4096 * tc) →
        e = b ∧ d = { c with tile := d.tile, ovc := d.ovc, poison := d.poison, badLine := d.badLine
                             nctl := flagged, flight := d.flight, regions := d.regions } ∧
        ∀ r < m,
          let row := (scores.drop (w.k * r)).take w.k
          let mo := word c.tile (4096 * tx + 8 * r)
          let mn := row.foldl max mo
          let f := fun (x : Int) => if mo = -2 ^ 31 then 0 else mulPow x (mn - mo).toNat qs
          let q := row.map fun x => mulPow 127 (mn - x).toNat qs
          word d.tile (4096 * tx + 8 * r) = mn ∧
          word d.tile (4096 * tx + 8 * r + 4) = satS 32 (f (word c.tile (4096 * tx + 8 * r + 4)) + q.sum) ∧
          ∀ n < w.n, let a := 4096 * tc + 4 * (w.n * r + n)
            word d.tile a = satS 32 (f (word c.tile a) +
              (w.product false asc (fun k => q.getD k 0) (fun _ => 0) n).2)) ∧
      (∀ n differs, p.eff = .known n differs → SameMemory s t ∧ e = b ∧
        d = { c with bev := d.bev, nctl := flagged, flight := d.flight, regions := d.regions } ∧
        d.bev = c.bev ++ if differs then [{ due := p.land, issued := p.issued
                                            kind := .regionError 0x1A (BitVec.ofNat 64 n)
                                            again := p.again }] else []) ∧
      (∀ a n, p.eff = .iinv a n → SameMemory s t ∧ e = b ∧
        d = { c with nctl := flagged, flight := d.flight, regions := d.regions } ∧
        (n = 0 → (t.core i).istore = (s.core i).istore) ∧
        (n ≠ 0 → ∀ l ∈ (t.core i).istore, l.1 < 4096 → a + n ≤ lineAddr l.1 l.2 ∨ lineAddr l.1 l.2 + 64 ≤ a)) ∧
      (∀ g sat fb clip, p.eff = .xcount g sat fb clip → SameMemory s t ∧
        d = { c with nctl := flagged, flight := d.flight, regions := d.regions } ∧
        e = { b with xovc := e.xovc, xclip := b.xclip ||| clip } ∧
        bits (SMap.get e.xovc 0 g) 31 0 = min 0xFFFFFFFF (bits (SMap.get b.xovc 0 g) 31 0 + sat) ∧
        bits (SMap.get e.xovc 0 g) 47 32 = min 0xFFFF (bits (SMap.get b.xovc 0 g) 47 32 + fb) ∧
        ∀ q ≠ g, SMap.get e.xovc 0 q = SMap.get b.xovc 0 q) ∧
      (∀ r a rg, p.eff = .drift r a rg → rg.length = 4 → SameMemory s t ∧ e = b ∧
        d = { c with v := d.v, nctl := flagged, flight := d.flight, regions := d.regions } ∧
        (∀ q ≠ r, d.rv q = c.rv q) ∧ (∀ k < 4, elem 32 (d.rv r) k = wrapTo 32 (rg.getD k 0)) ∧
        (∀ k < 4, ∀ y, (b.arr a).gref = some y → y.length = 4 →
          elem 32 (d.rv r) (4 + k) = wrapTo 32 (y.getD k 0)) ∧
        (∀ k < 4, (b.arr a).gref = none → elem 32 (d.rv r) (4 + k) = 2 ^ 31)) ∧
      (∀ v slot freeze, p.eff = .trace v slot freeze → SameMemory s t ∧ e = b ∧
        d = { c with nctl := flagged, flight := d.flight, regions := d.regions } ∧
        (freeze = true → (t.core i).trace.frozen = true) ∧
        let b := (s.core i).trace
        (b.frozen = false → b.armed = none → bitAt b.kmask 7 = true →
          SMap.get? (t.core i).trace.recs b.wptr.toNat = some
            { payload := v, slot := BitVec.ofNat 3 slot, kind := 7, wcyc := BitVec.ofNat 32 s.wcyc.toNat
              ccyc := BitVec.ofNat 32 (s.cycOf i) } ∧
          (t.core i).trace.wptr = b.wptr + 1)) ∧
      p ∉ d.flight

/-- R75, R125, R126, R135 to R139, R141 to R143, R146, R147, R157, R175, R217: in its port cycle a store writes
exactly its bytes and a read delivers the bytes of the start of the cycle, to the register, tile, table, peer,
pseudo-channel or fallback that it is made for; banks in which accesses collide deliver zeros, store nothing,
and leave the collision for the next bundle boundary. Model's choices: a PULL's data is its issuer's own landing
write, of class 2 (DEDUCED, log 82); of several colliding banks any one is told (DESIGN CHOICE, log 27). -/
def Obligations.PortsServe : Prop :=
  (∀ (s : State) (i t : Nat) (a : Access), s.plain i → s.advancing i = true → s.ccycOf i = t →
    (s.ctx i).acc = [a] → a.due ≤ t → colliding [] [a] = [] → a.lost = [] → (s.core i).badWord = [] →
    bitAt s.pf.errinj 12 = false → Memory.wf (s.core i).spad = true →
    let u := s.servePorts i
    let f := (s.ctx i).flight
    let byte := fun x => s.spadByte i x
    let number := fun x n => ((List.range n).map fun k => (byte (x + k)).toNat * 2 ^ (8 * k)).sum
    let copies := fun (b : List (Nat × Byte)) (dst x n : Nat) =>
      b = (List.range n).map fun k => (dst + k, byte (x + k))
    let lands := fun (g : Pend → Prop) => ∃ p, g p ∧ SameMemory s u ∧ (u.ctx i).acc = [] ∧
      (u.ctx i).flight = f.map (fun x => if p.pairs x then { x with eff := p.eff } else x) ++ [p]
    (∀ b, a.act = .write b none → (b.map (·.1)).Nodup →
      (∀ e ∈ b, u.spadByte i e.1 = e.2) ∧ (∀ x, x ∉ b.map (·.1) → u.spadByte i x = s.spadByte i x) ∧
      (∀ x, u.tileByte i x = s.tileByte i x) ∧ (∀ j ≠ i, u.core j = s.core j) ∧ SameOutside s u ∧
      (u.ctx i).acc = []) ∧
    (∀ b r, a.act = .write b (some r) → SameMemory s u ∧ (u.ctx i).acc = []) ∧
    (∀ n x old, a.act = .ovc n x old →
      let w := ovcAdd old (bits (SMap.get (s.ctx i).ovc 0 n) 31 0) (bits (SMap.get (s.ctx i).ovc 0 n) 47 32)
      ∀ y, u.spadByte i y = if x ≤ y ∧ y < x + 8 then w.extractLsb' (8 * (y - x)) 8
        else if x ≤ y ∧ y < x + 32 then 0 else byte y) ∧
    (∀ r x n z land, a.act = .toS r x n z land → 0 < n → n ≤ 8 →
      lands fun p => p.land = land ∧ p.shadow = false ∧ ∃ v : Word, p.eff = .sreg r v ∧
        (∀ k < n, v.extractLsb' (8 * k) 8 = byte (x + k)) ∧
        ∀ k < 64, 8 * n ≤ k → v.getLsbD k = (!z && v.getLsbD (8 * n - 1))) ∧
    (∀ r lanes words land shadow, a.act = .toV r lanes words land shadow → (lanes.map (·.1)).Nodup → (∀ e ∈ lanes, e.1 < 32) →
      lands fun p => p.land = land ∧ p.shadow = shadow ∧ ∃ m v, p.eff = .vreg r m v ∧
        (∀ k < 32, elem 32 m k = if k ∈ lanes.map (·.1) then 2 ^ 32 - 1 else 0) ∧
        ∀ e ∈ lanes, elem 32 v e.1 = number e.2 4) ∧
    (∀ n x land, a.act = .toTile n x land → lands fun p => p.land = land ∧ p.shadow = false ∧
      p.eff = .tile [(4096 * n, (List.range 4096).map fun k => byte (x + k))] (tileLines n) []) ∧
    (∀ r x src m w mode z land shadow, a.act = .table r x src (laneMask m) w mode z land shadow →
      w = 16 ∨ w = 32 → lands fun p => p.land = land ∧ p.shadow = shadow ∧ ∃ v, p.eff = .vreg r (laneMask m) v ∧
        let y := fun k => tintElem (if w = 32 then fmtF32 else fmtBF16) mode z (fun o => number (x + o) 4) (elem w src k)
        (∀ k < 1024 / w, active m w k = true → elem w v k = (y k).1 % 2 ^ w) ∧ p.flags = laneFlags m w fun k => (y k).2) ∧
    (∀ x n peer dst due member, a.act = .push x n peer dst due member → SameMemory s u ∧ (u.ctx i).flight = f ∧
      ∃ q b, (u.ctx peer).acc = (if peer = i then [] else (s.ctx peer).acc) ++ [q] ∧ q.act = .write b none ∧
        copies b dst x n ∧ q.due = due ∧ q.units = unitsOf dst n ∧ q.window = none ∧
        q.cls = (if peer = i then 2 else 1) ∧ q.key = if peer = i then a.key else member) ∧
    (∀ x n issuer dst due, a.act = .pull x n issuer dst due → SameMemory s u ∧ (u.ctx i).flight = f ∧
      ∃ q b, (u.ctx issuer).acc = (if issuer = i then [] else (s.ctx issuer).acc) ++ [q] ∧ q.act = .write b none ∧
        copies b dst x n ∧ q.due = due ∧ q.units = unitsOf dst n ∧ q.window = none ∧ q.cls = 2 ∧ q.key = a.key) ∧
    (∀ x pch cmd, a.act = .toDram x pch cmd → SameMemory s u ∧
      (u.pch pch).path = (s.pch pch).path.map fun k =>
        if k.id = cmd then { k with data := (List.range 32).map fun b => byte (x + b) } else k) ∧
    (∀ x grp vd sx cols v top land, a.act = .fallback x grp vd sx cols v top land →
      let y := fun j => ((List.range v.length).map fun r => v.getD r 0 * (byte (x + r * cols + j)).toInt).sum
      ∃ l, (u.ctx i).flight = f ++ l ∧ SameMemory s u ∧ (∀ p ∈ l, p.land = land ∧ p.shadow = false) ∧
        l.length = cols / 32 + 2 ∧
        (∀ k < cols / 32, ∃ p ∈ l, ∃ w, p.eff = .vreg (vd + k) (BitVec.allOnes 1024) w ∧
          ∀ j < 32, sval 32 (elem 32 w j) = satS 32 (y (32 * k + j))) ∧
        (∃ p ∈ l, p.eff = .sreg sx (BitVec.ofNat 64 top)) ∧
        ∃ p ∈ l, p.eff = .xcount grp ((List.range cols).filter fun j => satS 32 (y j) != y j).length 1 0)) ∧
  ∀ (s : State) (i t : Nat), s.plain i → s.advancing i = true → s.ccycOf i = t → (s.core i).badWord = [] →
    bitAt s.pf.errinj 12 = false → Memory.wf (s.core i).spad = true →
    let l := (s.ctx i).acc
    (∀ a ∈ l, a.due ≤ t ∧ a.window = none ∧ a.lost = []) →
    let coll := colliding [] l
    let u := s.servePorts i
    (∀ b, b ∈ coll ↔ ∃ x ∈ l, ∃ y ∈ l, ∃ m ∈ x.units, ∃ n ∈ y.units, m ≠ n ∧ m % 192 = b ∧ n % 192 = b) ∧
    (coll ≠ [] → (∃ b ∈ coll, (u.ctx i).bev = (s.ctx i).bev ++
        [{ due := t + 1, issued := t, kind := .collision (BitVec.ofNat 64 (b + 256 * t)) }]) ∧
      (∀ x, x / 32 % 192 ∈ coll → u.spadByte i x = s.spadByte i x) ∧
      ∀ a ∈ l, ∀ r x n z land, a.act = .toS r x n z land → 0 < n → n ≤ 8 →
        ∃ p ∈ (u.ctx i).flight, p.land = land ∧ ∃ v : Word, p.eff = .sreg r v ∧
          ∀ k < n, v.extractLsb' (8 * k) 8 = if (x + k) / 32 % 192 ∈ coll then 0 else s.spadByte i (x + k))

/-! ## Traps (R286 to R295, R303 to R305) -/

/-- R286, R288, R291 to R295: a trap that the core's handler takes, and what a trap does that none takes. -/
def Obligations.Traps : Prop :=
  (∀ (s : State) (i k : Nat) (t : Trap) (h : BitVec 54), s.cohOf i = some k →
     (s.core i).handlerPc = some h → disposition t.cause = .handled → s.plain i →
     s.afterglow i ≤ 96 → t.cause < 256 → t.rep < 256 → t.sres < 8 →
     let u := s.takeTrap i t
     let c := s.ctx i
     let x := u.ctx i
     TrapTold x t.cause t.sres t.pc t.rep t.tval ∧ bits x.tstat 27 27 = 1 ∧ x.inHandler = true ∧
     x.pc = h ∧ x.rpos = 0 ∧ x.sres = 0 ∧ x.nextIssue = s.now + 4 ∧
     x.latch = [] ∧ x.loops = [] ∧ x.stack = [] ∧
     (x.s = c.s ∧ x.v = c.v ∧ x.p = c.p ∧ x.nctl = c.nctl ∧ x.mb = c.mb ∧ x.stride = c.stride ∧
       x.tile = c.tile ∧ x.ovc = c.ovc ∧ x.acc = c.acc ∧ x.pending = c.pending) ∧
     (∃ g, x.handler = some g ∧ g.cyc = s.cycOf i ∧ g.loops = c.loops ∧ g.stack = c.stack ∧
       g.latch = if t.cause = 2 ∨ t.cause = 3 then [] else c.latch) ∧
     SameMemory s u ∧ (∀ j ≠ i, u.ctx j = s.ctx j) ∧
     ∀ d, s.coh? k = some d → d.st ≠ .ending → ∃ e, u.coh? k = some e ∧ e.holds = d.holds ++ [.trap i] ∧
       e.ccyc = d.ccyc) ∧
  (∀ (s : State) (i k : Nat) (t : Trap) (d : Cohort), s.cohOf i = some k → s.coh? k = some d →
     d.st ≠ .ending → t.cause < 256 → t.rep < 256 → t.sres < 8 →
     let u := s.takeTrap i t
     let kind := disposition t.cause
     let ends := fun (r : Option Requeue) (status : Option Nat) => ∃ e, u.coh? k = some e ∧
       e.st = .ending ∧ e.requeue = r ∧ e.status = status
     let told := fun cause tval => TrapTold (u.ctx i) cause t.sres t.pc t.rep tval
     (s.plain i → (kind = .node ∨ (kind = .handled ∧ (s.core i).handlerPc = none)) →
       ends none (some 1) ∧ told t.cause t.tval) ∧
     (s.plain i → kind = .frost → ends none (some 1) ∧ told t.cause t.tval ∧
       (u.core i).run = .frozen k) ∧
     (s.plain i → kind = .requeue →
       ends (some (if t.cause = 0x11 then .digital else .half)) none ∧ told t.cause t.tval) ∧
     ((s.ctx i).inHandler = true → kind ≠ .region → t.cause ≠ 0x1F →
       ends none (some 1) ∧ told 0x1F (BitVec.ofNat 64 t.cause)))

/-- R294, R288, R303: RFT gives back what the entry saved; what is pending of the handler stands in the cycle of
the trapped bundle. A rollback to any open region gives back the units that its undo entries and those of the
regions inside it hold, the oldest of each, and the S, V, P and tile registers and the control block that its
own preserve entries hold, with their uncorrectable marks; the regions inside it are closed, those around it
stay, and the replay starts after its RBEGIN. That the rest of a bundle keeps its mark of having issued is
log 22 (DEDUCED). -/
def Obligations.TrapReturn : Prop :=
  (∀ (c : Ctx) (h : Handler) (now : Nat), c.handler = some h →
     let r := c.return_ now
     let b := c.handBack
     (r.latch = h.latch ∧ r.loops = h.loops ∧ r.stack = h.stack ∧ bits r.tstat 27 27 = 0 ∧
       r.inHandler = false ∧ r.s = c.s ∧ r.v = c.v ∧ r.p = c.p ∧ r.flight = c.flight ∧
       bits r.tstat 23 16 = bits c.tstat 23 16) ∧
     (h.resuming = false → b.pc = c.taddr.extractLsb' 0 54 ∧ b.rpos = bits c.tstat 15 8 ∧
       b.sres = bits c.tstat 2 0 ∧ b.resumed = true ∧ b.nextIssue = h.cyc ∧
       (h.issuedAt = false → b.handler = none) ∧ b.s = c.s ∧ b.latch = c.latch ∧
       b.bev = c.bev ++ h.bev.map fun x => { x with due := h.cyc, issued := min x.issued h.cyc })) ∧
  (∀ (s : State) (i k e : Nat) (r : Region), (s.ctx i).regions[k]? = some r →
     let c := s.ctx i
     let inner := c.regions.take k
     let log := (inner.map (·.entries)).flatten ++ r.entries
     (∀ u b m, PEntry.undo u b m ∈ log → b.length = 32 ∧ ∀ w ∈ m, w / 4 = u) →
     (∀ q b m, PEntry.preserve (.t q b m) ∈ r.entries → b.length = 4096 ∧ ∀ l ∈ m, l / 16 = q) →
     let t := s.rollback i k e
     let d := t.ctx i
     let once := fun x => PEntry.preserve x ∈ r.entries ∧ ∀ y, PEntry.preserve y ∈ r.entries → y.key = x.key → y = x
     let marked := fun file q bad => (file, q) ∈ (t.core i).badReg ↔ bad = true
     (∀ l₁ l₂ u b m, log = l₁ ++ .undo u b m :: l₂ → (∀ b m, PEntry.undo u b m ∉ l₂) →
       (∀ k < 32, t.spadByte i (32 * u + k) = b.getD k 0) ∧
       ∀ w, w / 4 = u → (w ∈ (t.core i).badWord ↔ w ∈ m)) ∧
     (∀ a, (∀ b m, PEntry.undo (a / 32) b m ∉ log) → t.spadByte i a = s.spadByte i a) ∧
     (∀ q v bad, once (.s q v bad) → q ≠ 0 → d.rs q = v ∧ marked 0 q bad) ∧
     (∀ q v bad, once (.v q v bad) → d.rv q = v ∧ marked 1 q bad) ∧
     (∀ q v bad, once (.p q v bad) → q ≠ 0 → d.rp q = v ∧ marked 2 q bad) ∧
     (∀ q b m, once (.t q b m) → (∀ k < 4096, t.tileByte i (4096 * q + k) = b.getD k 0) ∧
       ∀ l, l / 16 = q → (l ∈ d.poison ↔ l ∈ m) ∧ l ∉ d.badLine) ∧
     (∀ nctl stride tshape ovc mb ly, once (.block nctl stride tshape ovc mb ly) → d.nctl = nctl ∧
       d.stride = stride ∧ d.tshape = tshape ∧ d.ovc = ovc ∧ d.mb = mb ∧ d.ly = ly) ∧
     (∀ q, (∀ v bad, PEntry.preserve (.s q v bad) ∉ r.entries) → d.rs q = c.rs q) ∧
     (∀ q, (∀ v bad, PEntry.preserve (.v q v bad) ∉ r.entries) → d.rv q = c.rv q) ∧
     (∀ q, (∀ v bad, PEntry.preserve (.p q v bad) ∉ r.entries) → d.rp q = c.rp q) ∧
     d.pc = r.next ∧ d.loops = r.snap.loops ∧ d.stack = r.snap.stack ∧ d.latch = r.snap.latch ∧
     d.matrix = r.snap.matrix ∧
     (∃ q, d.regions = q :: c.regions.drop (k + 1) ∧ q.began = r.began ∧ q.committed = r.committed ∧
       q.rollbacks = r.rollbacks + 1 ∧ ∀ x ∈ r.entries, x ∈ q.entries) ∧
     (c.regions.length < 8 → bits d.tstat 26 24 = c.regions.length - k) ∧
     (∃ x, d.replay = some x ∧ x.cyc = r.nextAt ∧ x.upTo = e ∧ x.depth = c.regions.length - k ∧
       s.now + 8 ≤ x.startWall) ∧
     ∀ j ≠ i, t.core j = s.core j)

/-! ## Events of cores and cohorts (R78, R81, R140, R184 to R187, R229, R287, R295 to R298, R309) -/

/-- R246, R286, R287, R289, R295, R303, R305: the traps that a core takes at a bundle boundary or at decode;
a region rolled back goes on in its replay unless what stays in flight overflows the afterglow buffer. That
results which the replay does not issue stay in flight is log 61 (DEDUCED). -/
def Obligations.BoundaryEvents : Prop :=
  ∀ (s : State) (i k : Nat) (d : Cohort), s.cohOf i = some k → s.coh? k = some d → d.st ≠ .ending →
    (s.ctx i).rpos < 256 → s.plain i →
    let c := s.ctx i
    let told := fun (t : State) cause tval => TrapTold (t.ctx i) cause 0 c.pc c.rpos tval
    (∀ e cause tval, (s.boundaryNow i).filter BEvent.isFirst = [e] → e.kind.trap? = some (cause, tval) →
      ∃ t, exec (.timingFault i) s = .next t ∧ told t cause tval ∧ (t.core i).run = .frozen k ∧
        ∃ x, t.coh? k = some x ∧ x.st = .ending ∧ x.requeue = none ∧ x.status = some 1) ∧
    (∀ e cause tval, firstDue ((s.boundaryNow i).filter BEvent.isRegion) = [e] →
      e.kind = .regionError cause tval → 0x18 ≤ cause → cause ≤ 0x1D →
      ∃ t, exec (.regionRollback i) s = .next t ∧
        ((∀ r ∈ c.regions, e.issued ≤ r.began) →
          told t cause tval ∧ ∃ x, t.coh? k = some x ∧ x.st = .ending ∧ x.requeue = some .any) ∧
        ∀ r l, c.regions = r :: l → r.began < e.issued → r.committed = false → r.rollbacks < 2 →
          cause ≠ 0x1D →
          let rolled := (t.ctx i).pc = r.next ∧ (t.ctx i).replay.isSome = true ∧
            bits (t.ctx i).tstat 23 16 = cause ∧
            ∃ x, t.coh? k = some x ∧ x.st = d.st ∧ HoldCause.rollback i ∈ x.holds
          (rolled ∨ (told t 0x1E 0 ∧ ∃ x, t.coh? k = some x ∧ x.st = .ending ∧ x.requeue = none ∧
            x.status = some 1)) ∧
          (s.afterglow i ≤ 96 → (∀ y ∈ s.cores, y.2.ctx.acc = []) → rolled)) ∧
    ∀ cause tval slot, (s.core i).fetchFault = some (cause, tval, slot) → disposition cause = .handled →
      s.afterglow i ≤ 96 → ∃ t, exec (.trapHandlerEntry i) s = .next t ∧ told t cause tval ∧
        (∀ h, (s.core i).handlerPc = some h → (t.ctx i).inHandler = true ∧ (t.ctx i).pc = h ∧
          (t.ctx i).nextIssue = s.now + 4) ∧
        ((s.core i).handlerPc = none → ∃ x, t.coh? k = some x ∧ x.st = .ending ∧ x.status = some 1)

/-- R140, R184 to R187, R295, R309: the events of one core site. That the latency-class trap waits for every
node with a context on the pair, whatever width it was bound with, and that a failed bus faults each of
them, is log 11 (DEDUCED). -/
def Obligations.SiteEvents : Prop :=
  ∀ (s : State) (i : Nat),
    let b := s.bank i
    (∃ t, exec (.blockLockExpire i) s = .next t ∧ SameMemory s t ∧
      ∀ l, l ∈ (t.core i).locks ↔ l ∈ (s.core i).locks ∧ s.ccycOf i ≤ l.to_) ∧
    (s.freezeDue i = true → ∃ t, exec (.traceFreeze i) s = .next t ∧ SameMemory s t ∧
      (t.core i).trace = { (s.core i).trace with frozen := true, armed := none }) ∧
    (∃ t, exec (.trcctlFrozenClear i) s = .next t ∧ SameMemory s t ∧
      (t.core i).trace.frozen = false ∧ (t.core i).trace.recs = (s.core i).trace.recs) ∧
    (s.thawDue i = true → ∃ t, exec (.thaw i) s = .next t ∧ t.core i = { s.core i with run := .free }) ∧
    (b.retraining = none → ∃ t, exec (.retrainRequest i) s = .next t ∧ SameMemory s t ∧
      (∃ n, (t.bank i).retraining = some n ∧ s.now < n ∧ n < s.now + 24000) ∧
      ∀ k c, s.cohOf i = some k → s.coh? k = some c → c.st = .running →
        ∃ d, t.coh? k = some d ∧ HoldCause.retrain i ∈ d.holds) ∧
    (∀ result, b.retraining ≠ none → ∃ t, exec (.retrainComplete i result) s = .next t ∧
      (t.bank i).retraining = none ∧ (t.bank i).retr = min 65535 (b.retr + 1) ∧
      ((t.bank i).narrow = true ↔ result = .half) ∧ (t.bank i).half = b.half ∧
      (result = .failed → SMap.get t.bam 0 i = 2) ∧
      ∀ k ∈ s.cohortsAt i, ∀ c, s.coh? k = some c →
        (result = .full → t.coh? k = some c) ∧
        (result = .half → t.coh? k = some c ∧ ∃ e ∈ ((t.core i).ctxOf k).bev, e.kind = .latencyClass) ∧
        (result = .failed → c.st ≠ .ending →
          ∃ d, t.coh? k = some d ∧ d.st = .ending ∧ d.requeue = none ∧ d.status = some 1)) ∧
    ∀ cls : BitVec 2, s.classNow i < cls.toNat →
      ∃ t, exec (.overTemperature i cls) s = .next t ∧ SameMemory s t ∧ t.classNow i = cls.toNat ∧
        t.banks = s.banks ∧
        ∀ k c, (s.core i).run = .bound k → s.coh? k = some c → c.st = .running → b.therm.toNat < cls.toNat →
          ∃ d, t.coh? k = some d ∧ d.preempt / 2 % 2 = 1

/-- R78, R81, R166, R185, R187, R229, R296 to R298, R330: the events of one cohort; a pre-empted context comes
back with its bank's width and thermal class (DEDUCED, log 11) and OWN of its image. That a start waits for a retraining
bus is log 53 (DESIGN CHOICE), what TSTAT of a context put away between repeats holds is log 37 (DEDUCED). -/
def Obligations.CohortEvents : Prop :=
  ∀ (s : State) (k : Nat) (c : Cohort), s.coh? k = some c →
    (s.startDue k = true → ∃ t, exec (.startAlignment k) s = .next t ∧
      (∃ d, t.coh? k = some d ∧ d.st = .running ∧ d.w0 = some s.now ∧ d.ccyc = 0 ∧ d.holdStart = none) ∧
      (∀ i, t.ctx i = s.ctx i) ∧
      ∀ p ∈ c.pchs, (t.pch p).mem = (s.pch p).mem ∧ (t.pch p).custody = none ∧
        ∀ b, (t.pch p).bankTime b = BankTime.reset) ∧
    (s.releaseDue k = true →
      ((∀ i ∈ c.members, (s.ctx i).mustResume = false) → ∃ t, exec (.holdRelease k) s = .next t ∧
        (∃ d, t.coh? k = some d ∧ d.holdStart = none ∧ d.releaseAt = none ∧ d.ccyc = c.ccyc ∧
          d.relCcyc = c.ccyc) ∧
        (∀ p ∈ c.pchs, (t.pch p).custody = none) ∧ SameMemory s t) ∧
      ((∃ i ∈ c.members, (s.ctx i).mustResume = true) → ∃ t, exec (.holdRelease k) s = .next t ∧
        (∃ d, t.coh? k = some d ∧ d.holdStart = c.holdStart ∧ d.releaseAt = some (s.now + 1)) ∧
        (∀ i ∈ c.members, (s.ctx i).mustResume = true →
          (t.ctx i).pc = (s.ctx i).taddr.extractLsb' 0 54 ∧ (t.ctx i).resumed = true) ∧
        SameMemory s t)) ∧
    (∀ site, s.latencyDue k = some site → (∃ i ∈ c.members, (s.ctx i).halted = false) →
      ∃ t, exec (.latencyClass k) s = .next t ∧
        (∃ d, t.coh? k = some d ∧ d.st = .ending ∧ d.requeue = some .half) ∧
        ∀ i ∈ c.members, (s.ctx i).halted = false →
          bits (t.ctx i).tstat 23 16 = 0x12 ∧ (t.ctx i).tval = BitVec.ofNat 64 site) ∧
    (s.preemptDue k = true → (∀ i ∈ c.members, s.afterglow i ≤ 96) → c.members.Nodup →
      ∃ t, exec (.preempt k) s = .next t ∧
        (∃ d, t.coh? k = some d ∧ d.st = .preempted ∧ d.ccyc = c.ccyc) ∧
        (∀ i ∈ c.members, (t.core i).run = .free ∧ (t.core i).spad = (s.core i).spad ∧
          ∃ x l, (t.core i).shadow = x :: l ∧ x.coh = k ∧ x.ctx = (s.ctx i).shelve ∧ x.cid = (s.core i).cid ∧
            x.locks = (s.core i).locks ∧ x.handlerPc = (s.core i).handlerPc ∧ x.entryPc = (s.core i).entryPc ∧
            x.half = (s.bank i).half ∧ x.therm = (s.bank i).therm) ∧
        (∀ p ∈ c.pchs, (t.pch p).custody.isSome = true) ∧
        ∀ i, i ∉ c.members → t.core i = s.core i) ∧
    (s.resumeDue k = true → c.members.Nodup → ∃ t, exec (.resume k) s = .next t ∧
      (∃ d, t.coh? k = some d ∧ d.st = .running ∧ d.ccyc = c.ccyc ∧ d.preempt = 0) ∧
      ∀ i ∈ c.members, (t.core i).run = .bound k ∧
        ∃ x l, (s.core i).shadow = x :: l ∧ (t.core i).ctx = x.ctx ∧ (t.core i).shadow = l ∧
          (t.core i).cid = x.cid ∧ (t.core i).locks = x.locks ∧ (t.core i).handlerPc = x.handlerPc ∧
          (t.core i).entryPc = x.entryPc ∧ (t.bank i).half = x.half ∧ (t.bank i).therm = x.therm ∧
          ∀ m g, SMap.get? (s.part c.part).images c.img = some m → g < 64 → grpValid ((s.bank i).grp g) = true →
            (grpOwn ((t.bank i).grp g) = true ↔ ∃ r ∈ m.groups, r.grp = g ∧ r.owns = true))

/-! ## Images, launches, nodes (R208, R209, R272 to R283, R306, R329, R330) -/

/-- R208, R209, R272, R273, R275, R276, R283: start words, queues, images and shards. That an unload ends at
once with BUSY 0 is log 32 (DESIGN CHOICE); the digest is log 21's function of the device. -/
def Obligations.LaunchEvents : Prop :=
  ∀ (s : State) (p q : Nat) (v : Word),
    let x := s.part p
    let y := x.queue q
    let h := bits v 23 16
    let image := ∃ m, SMap.get? x.images h = some m ∧ m.hasSet (bits v 27 24) = true
    let now := fun (t : State) => (t.part p).queue q
    let there := s.vfPresent p = true ∧ x.rst = false
    (there → y.en = true → y.words.length < 64 → bits v 63 56 = 0 → image →
      ∃ t, exec (.launchWrite p q true v) s = .next t ∧ SameMemory s t ∧
        (now t).words = y.words ++ [{ hseq := bits v 15 0, img := h, eset := bits v 27 24, arg := bits v 55 28 }] ∧
        (now t).lastHseq = bits v 15 0 ∧ (t.part p).records = x.records) ∧
    (∀ full, there → (full = false ∨ y.en = false ∨ 64 ≤ y.words.length ∨ bits v 63 56 ≠ 0 ∨ ¬ image) →
      ∃ t r, exec (.launchWrite p q full v) s = .next t ∧ (now t).words = y.words ∧ (now t).err = true ∧
        (t.part p).records = x.records ++ [r] ∧ bits r.w0 7 0 = 2 ∧
        bits r.w0 15 8 = if full = false then 6 else if y.en = false then 7
          else if 64 ≤ y.words.length then 8 else 6) ∧
    (there → ∃ t, exec (.qctlErrClear p q) s = .next t ∧ now t = { y with err := false }) ∧
    (there → y.launch = none → ∃ t, exec (.qctlAbort p q) s = .next t ∧ (now t).words = [] ∧
      (t.part p).records.length = x.records.length + y.words.length) ∧
    (∀ l, there → y.launch = some l → x.recorded q = false → ∃ t, exec (.qctlAbort p q) s = .next t ∧
      (∃ m, (now t).launch = some m ∧ m.ending = some 9) ∧
      ∀ k c, s.coh? k = some c → c.part = p → c.queue = q → ∃ d, t.coh? k = some d ∧ d.st = .ending) ∧
    (¬ there → ∀ full, exec (.launchWrite p q full v) s = .next s ∧ exec (.qctlErrClear p q) s = .next s ∧
      exec (.qctlAbort p q) s = .next s ∧ exec (.imgloadLoad p v) s = .next s ∧
      exec (.imgloadUnload p v) s = .next s) ∧
    (there → x.imgJob = none → x.usesImage (bits v 7 0) = false →
      (∃ t n, exec (.imgloadLoad p v) s = .next t ∧ s.now < n ∧
        (t.part p).imgJob = some (bits v 7 0, bits v 53 12 * 4096, n) ∧ bitAt (t.part p).imgstat 8 = true ∧
        SMap.get? (t.part p).images (bits v 7 0) = none) ∧
      ∃ t, exec (.imgloadUnload p v) s = .next t ∧ SMap.get? (t.part p).images (bits v 7 0) = none ∧
        bitAt (t.part p).imgstat 8 = false ∧ bits (t.part p).imgstat 23 16 = 0) ∧
    (∀ n b a, x.imgJob = some (n, b, a) → a ≤ s.now → n < 256 → x.dying = false →
      (parseImage b (fun off n => s.readPart p (b + off) n) = none →
        ∃ t, exec (.imageLoadComplete p) s = .next t ∧ (t.part p).imgJob = none ∧
          (t.part p).images = x.images ∧ bits (t.part p).imgstat 23 16 = 5) ∧
      ∀ m, parseImage b (fun off n => s.readPart p (b + off) n) = some m → s.rowsInUse p m = false →
        ∃ t, exec (.imageLoadComplete p) s = .next t ∧ (t.part p).imgJob = none ∧
          SMap.get? (t.part p).images n = some m ∧ bits (t.part p).imgstat 23 16 = 0) ∧
    ∀ n k m w g, SMap.get? x.images n = some m → k ∈ m.unprogrammed → m.shards[k]? = some w →
      m.groups.find? (·.grp == w.grp) = some g → m.fetchable s.now k = true →
      (∀ i ∈ x.sites, s.mayProgram i g w = true) →
      ((∀ b, s.readPart p w.va w.len = some b → Config.sha384 b ≠ w.digest) →
        ∃ t r, exec (.shardProgram p n k) s = .next t ∧ SMap.get? (t.part p).images n = some r ∧
          (SMap.get? m.refetch k = none → (∃ a, SMap.get? r.refetch k = some a ∧ s.now < a) ∧
            r.unprogrammed = m.unprogrammed ∧ r.rejected = m.rejected ∧ t.banks = s.banks) ∧
          ((SMap.get? m.refetch k).isSome = true → g.grp ∈ r.rejected ∧
            bits (t.part p).imgstat 23 16 = 2)) ∧
      ∀ b, s.readPart p w.va w.len = some b → Config.sha384 b = w.digest →
        ∃ t, exec (.shardProgram p n k) s = .next t ∧
          ∀ i ∈ x.sites, SMap.get? (t.bank i).tags g.grp = some w.tag

/-- R277, R278, R280, R306: a node is bound, retires, is requeued, runs out of time. That S and V keep their
values at node entry is log 13 (DEDUCED), that the context is prepared at the bind log 14 (DEDUCED). -/
def Obligations.NodeEvents : Prop :=
  (∀ (s : State) (p q n var num : Nat) (l : Launch) (m : Image) (sh : Shape) (sites : List Nat),
    s.mayBind p = true → (s.part p).binding q = some (l, m) → n ∈ l.ready m →
    s.choose p l m noCoh n = some (var, sh, sites) →
    ((List.range 16).find? fun j => (s.coh? (16 * p + j)).isNone) = some num →
    let k := 16 * p + num
    ∃ t c y, exec (.nodeBind p q n) s = .next t ∧ t.coh? k = some c ∧ c.st = .starting ∧
      c.members = sites ∧ c.node = n ∧ c.queue = q ∧ c.w0 = none ∧
      s.now + 1000 ≤ c.wstart ∧ c.wstart ≤ s.now + 3000 ∧
      ((t.part p).queue q).launch = some y ∧ y.node n = .bound ∧ SameMemory s t ∧
      ∀ i ∈ sites, (t.core i).run = .bound k ∧ (t.ctx i).latch = [] ∧ (t.ctx i).loops = [] ∧
        (t.ctx i).s = (s.ctx i).s ∧ (t.ctx i).v = (s.ctx i).v ∧ (t.ctx i).regions = [] ∧
        (t.ctx i).pc = (t.core i).entryPc) ∧
  ∀ (s : State) (k : Nat) (c : Cohort) (l : Launch), s.coh? k = some c →
    ((s.part c.part).queue c.queue).launch = some l →
    let after := fun (t : State) => ((t.part c.part).queue c.queue).launch
    let freed := fun (t : State) => t.coh? k = none ∧
      ∀ i ∈ c.members, (s.core i).run = .bound k → (t.core i).run = .free
    (s.retireDue k = true → c.requeue = none → ∃ t y, exec (.nodeRetire k) s = .next t ∧ freed t ∧
      SameMemory s t ∧ after t = some y ∧ y.node c.node = .retired ∧
      (c.st = .running → y.ending = l.ending) ∧ (c.st = .ending → y.ending.isSome = true)) ∧
    (∀ r, s.retireDue k = true → c.requeue = some r → ∃ t y, exec (.nodeRequeue k) s = .next t ∧ freed t ∧
      after t = some y ∧
      (s.requeues c = true → y.node c.node = .waiting ∧ SMap.get? y.rule c.node = some r ∧
        y.freq = l.freq + 1) ∧
      (s.requeues c = false → y.node c.node = .retired ∧ y.ending = some (l.ending.getD 1))) ∧
    (s.wdogDue k = true → ∃ t d, exec (.wdogTimeout k) s = .next t ∧ t.coh? k = some d ∧
      d.st = .ending ∧ d.requeue = none ∧ d.status = some 10)

/-! ## Partitions (R18, R19, R269, R285) -/

/-- R18, R19, R269, R285: partitions are created, resized, released and reset, and what they give up is
reclaimed; a record that is not legal ends with BADREQ and one that asks for more than is free with NORES, and
neither changes a partition. Model's choices: the record is read when the request is carried out (DESIGN CHOICE,
log 87); a release is carried out whatever its other fields hold (DEDUCED, log 86). A reset of a function that
is not there (log 73, DESIGN CHOICE) does nothing. -/
def Obligations.PartitionEvents : Prop :=
  ∀ (s : State) (p : Nat),
    let r := s.pmReq
    let x := s.part r.part
    let done := fun (t : State) status => t.pf.pmBusy = none ∧ t.pf.pmStatus = status
    let refused := fun (i : Instr) status => ∃ t, exec i s = .next t ∧ done t status ∧ t.parts = s.parts
    let addr := bits s.pf.pmaddr 51 3 * 8
    let word : Word := BitVec.ofNat 64 (hostWord s.host addr 8)
    let legal := bits word 3 2 = 0 ∧ bits word 15 15 = 0 ∧ bits word 23 23 = 0 ∧ bits word 63 34 = 0 ∧
      (∀ c ∈ r.pchs, c % 64 ≠ 63) ∧ 1 ≤ r.pairs ∧ r.pairs ≤ 120 ∧ 1 ≤ r.share ∧ r.share ≤ 64 ∧ 1 ≤ r.gran
    let live := fun (i : Nat) => SMap.get s.bam 0 i == 0
    let room := fun (more extra but : Nat) => more ≤ s.freeSites.length ∧ (∀ c ∈ r.pchs, s.pchTaken c but = false) ∧
      extra ≤ (s.freeGran 0).length + (s.freeGran 1).length ∧ s.sharesBut r.part + r.share ≤ 64
    let gone := fun (t : State) (p : Nat) => (t.part p).queues = [] ∧ (t.part p).images = [] ∧
      (t.part p).retries = [] ∧ (∀ e ∈ t.tlb, e.part ≠ p) ∧
      (∃ n, (t.part p).reclaim = some n ∧ s.now < n) ∧
      ∀ k c, s.coh? k = some c → c.part = p → ∃ d, t.coh? k = some d ∧ d.st = .ending
    (r.op = bits word 1 0 ∧ r.part = bits word 7 4 ∧ r.pairs = bits word 14 8 ∧ r.share = bits word 22 16 ∧
      r.gran = bits word 33 24 ∧
      (∀ c, c ∈ r.pchs ↔ c < 512 ∧ (memGet s.host (addr + 8 + c / 8)).getLsbD (c % 8) = true) ∧
      (r.bad = false ↔ legal)) ∧
    (x.present = true ∨ r.bad = true → refused .partitionCreate 13) ∧
    (x.present = false ∨ r.bad = true → refused .partitionResize 13) ∧
    (x.present = false → refused .partitionRelease 13) ∧
    (s.pf.stage = 5 → s.pmDue = some 3 → done s.refusePm 13 ∧ s.refusePm.parts = s.parts) ∧
    (x.present = false → r.bad = false →
      (room r.pairs r.gran 16 → ∃ t, exec .partitionCreate s = .next t ∧ done t 0 ∧
        let y := t.part r.part
        y.present = true ∧ y.sites = s.freeSites.take r.pairs ∧ y.pchs = r.pchs ∧ y.share = r.share ∧
        y.gran = r.gran ∧ y.granAt.length = r.gran ∧
        (∀ g ∈ y.granAt, ∀ a < 4096, memGet t.sync (granBase g + a) = 0) ∧
        ∀ i ∈ y.sites, (t.bank i).xgrp = [] ∧
          ∀ a, ((t.bank i).arr a).sealed_ = true ∧ ((t.bank i).arr a).status ≠ .calibrated) ∧
      (¬ room r.pairs r.gran 16 → refused .partitionCreate 11)) ∧
    (x.present = true → r.bad = false →
      (x.busy = true → refused .partitionResize 12) ∧
      (x.busy = false → ¬ room (r.pairs - (x.sites.filter live).length) (r.gran - x.granAt.length) r.part →
        refused .partitionResize 11) ∧
      (x.busy = false → room (r.pairs - (x.sites.filter live).length) (r.gran - x.granAt.length) r.part →
        ∃ t, exec .partitionResize s = .next t ∧ done t 0 ∧
          let y := t.part r.part
          y.sites.length = r.pairs ∧ y.pchs = r.pchs ∧ y.share = r.share ∧
          (∀ i ∈ (x.sites.filter live).take r.pairs, i ∈ y.sites) ∧ (∀ i ∈ y.sites, live i = true) ∧
          ∀ i, i ∈ y.reclaimPairs ↔ i ∈ x.reclaimPairs ∨ (i ∈ x.sites ∧ i ∉ y.sites))) ∧
    (x.present = true → ∃ t, exec .partitionRelease s = .next t ∧ gone t r.part ∧
      (t.part r.part).releasing = true ∧ (t.part r.part).rst = x.rst ∧
      ∀ i, i ∈ (t.part r.part).reclaimPairs ↔ i ∈ x.reclaimPairs ∨ i ∈ x.sites) ∧
    (s.vfPresent p = true → (s.part p).rst = false →
      ∃ t, exec (.functionLevelReset p) s = .next t ∧ gone t p ∧ (t.part p).rst = true ∧
        (t.part p).sites = (s.part p).sites ∧
        ∀ i, i ∈ (t.part p).reclaimPairs ↔ i ∈ (s.part p).reclaimPairs ∨ i ∈ (s.part p).sites) ∧
    (s.vfPresent p = false → exec (.functionLevelReset p) s = .next s) ∧
    (s.reclaimDue p = true → ∃ t, exec (.reclamationComplete p) s = .next t ∧
      (∀ i ∈ (s.part p).reclaimPairs, (t.core i).spad = [] ∧ (t.ctx i).s = [] ∧ (t.ctx i).tile = [] ∧
        ∀ a, ((t.bank i).arr a).sealed_ = true) ∧
      (∀ c ∈ (s.part p).reclaimPchs, ∀ a, t.dramByte c a = 0) ∧
      (∀ g ∈ (s.part p).reclaimGran, (∀ a < 4096, memGet t.sync (granBase g + a) = 0) ∧
        ∀ u ∈ t.syncBad, 4 * u < granBase g ∨ granBase g + 4096 ≤ 4 * u) ∧
      (t.part p).reclaim = none ∧
      ((s.part p).releasing = true → t.part p = Part.reset ∧ done t 0)) ∧
    ((s.part p).present = true → (s.part p).rst = true → (s.part p).releasing = false → (s.part p).reclaim = none →
      ∃ t, exec (.flrComplete p) s = .next t ∧ (t.part p).present = true ∧ (t.part p).rst = false ∧
        (t.part p).sites = (s.part p).sites ∧ (t.part p).pchs = (s.part p).pchs ∧
        (t.part p).ptroot = 0 ∧ (t.part p).queues = [] ∧ (t.part p).irq2 = (s.part p).irq2 + 1)

/-! ## Rings, windows, the physical function (R258 to R261, R268 to R271, R281, R282, R307 to R319) -/

/-- R260, R268, R270, R271, R281, R282, R285: the event ring, its registers, the sync window, register writes
and reads; a window of an absent function, and one during a reset, takes no write. A function is there while
its partition exists and VF enable is set, which is 1 from power-on (DESIGN CHOICE, log 73). -/
def Obligations.WindowEvents : Prop :=
  ∀ (s : State) (p : Nat) (v : Word),
    let x := s.part p
    let there := s.vfPresent p = true ∧ x.rst = false
    (∀ r l, x.records = r :: l → x.recordDue = true →
      let n := x.evw.toNat
      let a := bits x.evbase 51 12 * 4096 + 32 * (n % evSize x)
      let w := wordBytes [r.w0.toNat, s.wcyc.toNat, (r.w2 + (x.dseq + 1).zeroExtend 64).toNat,
        (r.w3 + BitVec.ofNat 64 (ringPhase n (evSize x))).toNat]
      ∃ t, exec (.eventRecordWrite p) s = .next t ∧ (t.part p).records = l ∧ (t.part p).evw = x.evw + 1 ∧
        (t.part p).dseq = x.dseq + 1 ∧
        (∀ k, memGet t.host k = if a ≤ k ∧ k < a + 32 then w.getD (k - a) 0 else memGet s.host k) ∧
        (bits r.w0 7 0 = 1 → ((t.part p).queue (bits r.w0 18 16)).launch = none)) ∧
    (s.coalDue p = true → ∃ t, exec (.evcoalTimeout p) s = .next t ∧ (t.part p).irq0 = x.irq0 + 1 ∧
      (t.part p).pendingRec = 0) ∧
    (there → ∃ t, exec (.evbaseWrite p v) s = .next t ∧ (x.active = true → t.part p = x) ∧
      (x.active = false → (t.part p).evw = 0 ∧ (t.part p).evr = 0 ∧
        bits (t.part p).evbase 51 12 = bits v 51 12)) ∧
    (there → ∃ t, exec (.evtailWrite p v) s = .next t ∧ (t.part p).evr = v.extractLsb' 0 32) ∧
    (∀ off size, there → size = 4 ∨ size = 8 → off % size = 0 →
      off / 4096 < x.gran →
      let a := granBase (x.granAt.getD (off / 4096) (0, 0)) + off % 4096
      (∀ u ∈ syncWords a size, u ∉ s.syncBad) →
      (Memory.wf s.sync = true → ∃ t d, exec (.syncwinRead p off size) s = .next t ∧ t.rdata = some d ∧
        SameMemory s t ∧ (∀ k < size, d.extractLsb' (8 * k) 8 = memGet s.sync (a + k)) ∧
        d.toNat < 2 ^ (8 * size)) ∧
      ∃ t, exec (.syncwinWrite p off size v) s = .next t ∧ t.host = s.host ∧
        ∀ b, memGet t.sync b = if a ≤ b ∧ b < a + size then v.extractLsb' (8 * (b - a)) 8
          else memGet s.sync b) ∧
    (∀ off size, s.vfPresent p = false → (∃ t, exec (.syncwinRead p off size) s = .next t ∧ t.rdata = none) ∧
      (s.barRead (p + 1) off size).rdata = none) ∧
    (¬ there → ∀ off size, exec (.registerWrite (p + 1) off v) s = .next s ∧
      exec (.syncwinWrite p off size v) s = .next s ∧ exec (.evbaseWrite p v) s = .next s ∧
      exec (.evtailWrite p v) s = .next s) ∧
    (∀ off size, off < 0x10000 → size ≠ 8 ∨ off % 8 ≠ 0 →
      ¬ (inBam off = true ∧ (size = 2 ∨ size = 4) ∧ off % size = 0) →
      (s.barRead (p + 1) off size).rdata = none) ∧
    (there → ∃ t, exec (.registerWrite (p + 1) 0x0040 v) s = .next t ∧
      t.windowRead (p + 1) 0x0040 = some (v &&& 0xFFFFFFFF)) ∧
    (∃ t, exec (.registerWrite 0 0x0000 v) s = .next t ∧
      t.windowRead 0 0x0000 = some (v &&& 0xFFFFFFFFFFFF8)) ∧
    ∃ t, exec (.registerWrite 0 0x0040 v) s = .next t ∧
      t.windowRead 0 0x0040 = some (v &&& 0xFFFFFFFFFF000)

/-- R307 to R319: copies to host memory, the attestation, injected and fatal errors, boot, power. That ERRINJ
with another KIND stores SITE and KIND and leaves ARM 0 is log 26 (DEDUCED); one stage per boot step and the
parts of the firmware image are log 20 (DESIGN CHOICE); the report's functions are log 21, a sample's rounding
log 23 (DESIGN CHOICE). -/
def Obligations.DeviceEvents : Prop :=
  ∀ (s : State) (v : Word) (r : PowerReading),
    let f := s.pf
    let page := bits v 51 12 * 4096
    let starts := fun (i : Instr) (until_ : Pf → Option Nat) => until_ f = none → ∃ t n,
      exec i s = .next t ∧ until_ t.pf = some n ∧ s.now < n ∧ SameMemory s t
    let ends := fun (i : Instr) (until_ : Pf → Option Nat) (a n : Nat) => ∀ m, until_ f = some m → m ≤ s.now →
      ∃ t, exec i s = .next t ∧ until_ t.pf = none ∧ t.sync = s.sync ∧
        ∀ k, k < a ∨ a + n ≤ k → memGet t.host k = memGet s.host k
    let records := (s.core (bits f.trccopy 6 0)).trace.recs
    starts (.trccopyWrite v) (·.trcUntil) ∧ starts (.qtrcopyWrite v) (·.qtrUntil) ∧
    starts (.attreqWrite v) (·.attUntil) ∧
    ((∀ e ∈ records, e.1 < 4096) → ends .trccopyComplete (·.trcUntil) (pageAddr f.trccopy) 65536) ∧
    (f.trcUntil = some s.now → (∀ e ∈ records, e.1 < 4096) → (records.map (·.1)).Nodup →
      ∃ t, exec .trccopyComplete s = .next t ∧ ∀ e ∈ records, ∀ k < 16,
        memGet t.host (pageAddr f.trccopy + 16 * e.1 + k) = e.2.bytes.getD k 0) ∧
    ends .attestationReport (·.attUntil) (pageAddr f.attreq) 4096 ∧
    (f.qtrUntil = some s.now → ∃ t, exec .qtrcopyComplete s = .next t ∧ t.pf.qtrUntil = none ∧
      t.sync = s.sync ∧ ∀ k, k < pageAddr f.qtrcopy → memGet t.host k = memGet s.host k) ∧
    (∀ cause, ∃ t, exec (.fatalError cause) s = .next t ∧ t.fatal = some cause ∧
      (pageAddr f.dumpbase = 0 → SameMemory s t) ∧ step t = .fault (.heldInReset cause)) ∧
    (∃ t, exec .dumpcmdGo s = .next t ∧ t.fatal = some .dumpCommand) ∧
    (∃ t, exec (.errinjWrite v) s = .next t ∧ SameMemory s t ∧ bits t.pf.errinj 6 0 = bits v 6 0 ∧
      bits t.pf.errinj 11 8 = bits v 11 8 ∧
      (bitAt t.pf.errinj 12 = true ↔ bitAt v 12 = true ∧ 1 ≤ bits v 11 8 ∧ bits v 11 8 ≤ 3)) ∧
    (∃ t, exec (.bootaddrWrite v) s = .next t ∧ t = { s with pf := { f with bootaddr := BitVec.ofNat 64 page } }) ∧
    (∃ t, exec (.pwrcapWrite v) s = .next t ∧ t.pf.pwrcap =
      if 600 ≤ bits v 15 0 ∧ bits v 15 0 ≤ 1400 then bits v 15 0 else f.pwrcap) ∧
    (s.sampleDue = true →
      ((∀ e ∈ r.bankTemp, e.2 < 230) → (∀ e ∈ r.stackTemp, e.2 < 95) →
        ∃ t, exec (.powerSample r) s = .next t ∧ t.fatal = s.fatal ∧ t.pf.pwr = r.pwr % 65536 ∧
          t.pf.tmax = hottestBank r ∧ t.pf.capNow = f.pwrcap ∧ t.pf.sampleAt = s.now + 20000) ∧
      ((∃ e ∈ r.bankTemp, 230 ≤ e.2) ∨ (∃ e ∈ r.stackTemp, 95 ≤ e.2) →
        ∃ t, exec (.powerSample r) s = .next t ∧ t.fatal = some .temperature)) ∧
    (s.sampleDue = false → exec (.powerSample r) s = .next s) ∧
    (f.err = 0 → f.stage < 5 → (f.stage = 1 → bits f.bootaddr 51 12 ≠ 0) →
      ∃ t, exec .boot s = .next t ∧ t.pf.stage = f.stage + 1 ∧
        (f.stage = 0 → t.pf.err = 0) ∧
        (f.stage = 1 → t.pf.firmware = memBytes s.host (pageAddr f.bootaddr) Config.firmwareSize ∧
          t.pf.err = keyErr t.pf.firmware) ∧
        (f.stage = 2 → t.pf.err = signErr f.firmware) ∧
        (f.stage = 3 → (t.pf.err = 0 ∧ 120 ≤ t.livePairs) ∨ t.pf.err = 4) ∧
        (f.stage = 4 → t.wcyc = 0 ∧ t.pf.err = 0)) ∧
    (f.stage = 1 → bits f.bootaddr 51 12 = 0 → exec .boot s = .next s)

/-! ## Encoding, steps and invariants of the whole device -/

/-- Words of the spec's worked examples decode to the instructions that they stand for. -/
def Obligations.WordsDecode : Prop :=
  decodeSyl false 0x80003400 = .ok (.tmpl 3 0b010000) ∧
  decodeSyl false 0x08080000 = .ok (.scope 4) ∧
  decodeSyl false 0x90F1020C = .ok (.divu ⟨0, 4, 2, 3⟩) ∧
  decodeSyl false 0x915145E0 = .ok (.andi ⟨0, 5, 5, 0xE0⟩) ∧
  decodeSyl false 0x93D400C8 = .ok (.loopm 0 1 3 2) ∧
  decodeSyl true 0x000C03C0D800A80C = .ok (.vadd ⟨0, false, 42, 12, 15, 4, true, 0⟩) ∧
  decodeSyl true 0x12000540DB205003 = .ok (.vbfpq ⟨0, false, 20, 3, 21, 0, false, 0⟩ 4 2) ∧
  decodeSyl true 0x016330C0E9016850 = .ok (.xmv ⟨0, false, 90, 80, 3, 3, 6, 11⟩) ∧
  decodeSyl false 0xB1010502 = .ok (.push ⟨0, false, 4⟩ 5 1 0) ∧
  decodeSyl false 0xB172CE14 = .ok (.redSt ⟨0, false, 11, false, true⟩ 14) ∧
  decodeSyl true 0x00000001F0028000 = .ok (.mact ⟨1, false, 10⟩)

/-- R40 to R43: for every well-formed instruction that has an encoding, decoding what the encoder writes,
in either class and with either stop bit, gives the instruction back; so do its bytes. -/
def Obligations.EncodeThenDecode : Prop :=
  ∀ (i : Instr) (second stop : Bool), legal i = none →
    ∃ x, encode second stop i = some x ∧ stopOf x.w = stop ∧ wideOf x.w = x.wide ∧
      decodeSyl x.wide x.w = .ok i ∧ ∀ rest, decodeBytes (x.toBytes ++ rest) = .ok (i, rest)

/-- R309, R313, R314, R192, R193, R195, R319: the device at power-on. Registers that the spec gives no
value for hold 0 (DESIGN CHOICE, log 1), memories read 0 (DESIGN CHOICE, log 2), and the boot begins as an
item of the inbox (DESIGN CHOICE, log 7): the model's choices. -/
def Obligations.ResetState : Prop :=
  let s := State.reset
  s.MemoriesWf ∧ (∀ i a, s.spadByte i a = 0 ∧ s.tileByte i a = 0) ∧ s.fatal = none ∧ s.pf.stage = 0 ∧
  s.pf.err = 0 ∧ s.pf.pwrcap = 1400 ∧ s.cohorts = [] ∧ s.inbox = [(0, .act .boot)] ∧
  (∀ p, (s.part p).present = false) ∧
  (∀ i, (s.core i).run = .free ∧ (s.core i).trace.kmask = 0x1FB6 ∧ (s.bank i).xvthr = 16 ∧
    (s.bank i).xdthr = 0x01000008 ∧
    ∀ a, ((s.bank i).arr a).status = .offline ∧ ((s.bank i).arr a).sealed_ = true) ∧
  ∀ i r, (s.ctx i).rs r = 0 ∧ (s.ctx i).rv r = 0 ∧ (s.ctx i).rp r = (if r = 0 then BitVec.allOnes 32 else 0)

/-- No step breaks the canonical form of a memory: the scratchpads, the tile files with those of saved
contexts, the rows and staging lines of every pseudo-channel, the sync SRAMs, host memory. -/
def Obligations.StepsKeepMemoriesCanonical : Prop :=
  ∀ s t : State, s.MemoriesWf → step s = .next t → t.MemoriesWf

/-- R72, R73: for every cohort that has started, the wall cycle of its W0, its count CCYC and the cycles
it has spent in hold or in pre-emption add up to the present wall cycle; no step breaks this. -/
def Obligations.CohortClocksAddUp : Prop :=
  let inv := fun (s : State) => ∀ e ∈ s.cohorts,
    (e.2.st = .starting → e.2.w0 = none ∧ e.2.held = 0) ∧ ∀ w, e.2.w0 = some w → w + e.2.ccyc + e.2.held = s.now
  inv State.reset ∧ ∀ s t : State, inv s → step s = .next t → inv t

/-- R312, R72; DESIGN CHOICE, log 4: what a step is: the end of a device that took a fatal error; an item of the inbox;
the bundle of the next core to issue; the event that is due; else the end of a phase, of which the last
ends the wall cycle. -/
def Obligations.StepsAreEventsOrPhases : Prop :=
  ∀ s : State,
    (∀ c, s.fatal = some c → step s = .fault (.heldInReset c)) ∧
    (s.fatal = none →
      (∀ i, s.event = some i → step s = exec i s) ∧
      (∀ e, s.phase = .inbox → s.arrived = some e → step s = s.receive e) ∧
      (s.event = none → (s.phase = .inbox → s.arrived = none) → (s.phase = .issue → s.issuer = none) →
        step s = .next s.endPhase)) ∧
    ∀ t, step s = .next t →
      (s.phase ≠ .finish → t.now = s.now ∧ (t.phase = s.phase ∨ t.phase = s.endPhase.phase)) ∧
      (s.phase = .finish → t.now = s.now + 1 ∧ t.phase = .inbox ∧
        t.wcyc = if s.pf.stage = 5 then s.wcyc + 1 else s.wcyc)

/-- A step runs the decoded instruction: where the line at the program counter holds a syllable that ends
its bundle and decodes to i, the step of the issuing core executes i in the slot of its class, keeps the
slot's latch, and closes the bundle (R48, R51, R57). -/
def Obligations.StepRunsTheInstruction : Prop :=
  ∀ (s : State) (i n : Nat) (x : Syl) (ins : Instr) (line : ILine),
    let c := s.core i
    let pc := c.ctx.pc.toNat
    let w := line.data.toNat / 2 ^ (8 * (pc % 64))
    s.fatal = none → s.phase = .issue → s.issuer = some i → c.ctx.replay = none →
    SMap.get? c.istore (slotOfLine (pc / 64 * 64)) = some line → line.tag = tagOfLine (pc / 64 * 64) →
    line.st = .valid → line.bad = false → pc % 4 = 0 → pc % 64 + n ≤ 64 → n = x.bytes →
    x.w = w % 2 ^ (8 * n) → wideOf x.w = x.wide → stopOf x.w = true → decodeSyl x.wide x.w = .ok ins →
    let next := c.ctx.pc + BitVec.ofNat 54 n
    let u := s.openBundle i [x] next
    let op : Op := { slot := slotOf x.cls, instr := some ins, raw := sylHeader x, ext := none, latch := none }
    let v := u.prepare op
    2 ≤ x.cls → x.cls ≤ 7 → c.ctx.sres ≤ slotOf x.cls → step s = andThen (exec ins v) fun t =>
      .next ((t.settle op ins (v.readError (op.slot == 2 || op.slot == 3) ins)).closeBundle)

/-- R43: an operation whose guard is false does nothing but give its latch an address, and a vector
operation without an active lane likewise; the loops skip their body and VRED lands its identity
(stated with them). -/
def Obligations.FalseGuardActsNot : Prop :=
  (∀ s : State, s.guarded 0 = true ∧ s.guarded 0b10000 = false) ∧
  ∀ (s : State) (i : Instr) (g : Guard) (f : Nat), guardOf i = some g → encodeFields i = some f →
    s.carries i → (∀ h n k m, i ≠ .loop h n k m) → (∀ h n k m, i ≠ .loopm h n k m) → (∀ o op, i ≠ .vred o op) →
    (clsOf f ≠ 3 → s.guarded g = false → ∃ e, exec i s = .next { s with cur := { s.cur with ea := e } }) ∧
    (clsOf f = 3 → s.cx.mask g = 0 → ∃ e, exec i s = .next { s with cur := { s.cur with ea := e } })

/-- The frame of every syllable at its issue (R43, R74, R94): without a trap, memory, clocks and every
register of every core stand; results are in flight. Prefixes touch the bundle's context only; scalar
operations that are not control operations, and all vector operations, only the pipelines; operations of
the first six classes only their own core, its cohort's holds and the trace of its members; of the banks,
those of the sixth change their own core's at issue, the others none. -/
def Obligations.IssueFrame : Prop :=
  ∀ (i : Instr) (s t : State) (f : Nat), encodeFields i = some f → exec i s = .next t → t.cur.trapped = false →
    let cls := clsOf f
    (SameMemory s t ∧ t.now = s.now ∧ t.wcyc = s.wcyc ∧ t.phase = s.phase ∧ t.inbox = s.inbox ∧
      t.pf = s.pf ∧ t.bam = s.bam ∧ t.parts = s.parts ∧ t.sync = s.sync ∧ t.host = s.host ∧
      t.rdata = s.rdata ∧ t.tlb = s.tlb ∧ t.fatal = s.fatal) ∧
    (∀ j, let c := s.ctx j
      let d := t.ctx j
      d.s = c.s ∧ d.v = c.v ∧ d.p = c.p ∧ d.mb = c.mb ∧ d.nctl = c.nctl ∧ d.stride = c.stride ∧
      d.tshape = c.tshape ∧ d.ovc = c.ovc ∧ d.taddr = c.taddr ∧ d.tval = c.tval ∧ d.xdone = c.xdone ∧
      d.ly = c.ly ∧ d.tile = c.tile ∧ d.poison = c.poison ∧ d.pc = c.pc ∧ d.inHandler = c.inHandler ∧
      setBits d.tstat 26 24 0 = setBits c.tstat 26 24 0) ∧
    (cls ≤ 1 → ∃ u, t = { s with cur := u }) ∧
    (cls = 3 ∨ (cls = 2 ∧ controlOp (opOf f) = false) → OnlyInFlight s t) ∧
    (cls ≤ 4 → t.banks = s.banks) ∧
    (cls = 5 → ∀ j, j ≠ s.cur.site → t.bank j = s.bank j) ∧
    (cls ≤ 5 → t.pchs = s.pchs ∧
      (∀ j, j ≠ s.cur.site → { t.core j with trace := (s.core j).trace } = s.core j) ∧
      let unheld := fun (c : Cohort) =>
        { c with holds := [], holdStart := none, holdCode := 0, holdSaid := false, resuming := false, releaseAt := none }
      ∀ k, (t.coh? k).map unheld = (s.coh? k).map unheld)
end

