-- ==== Sys2Proof/Laws/Maps.lean ====
section
/-! SUPPORT. Laws of the sparse tables and of the byte memories: what a read after a write gives, and
that every memory operation keeps the canonical form. -/

namespace Sys2Proof.Laws

open Sys2Proof Sys2Proof.Machine

/-! ## Tables -/

@[simp] theorem get?_set_same (m : SMap α) (k : Nat) (v : α) : SMap.get? (SMap.set m k v) k = some v := by
  induction m with
  | nil => simp [SMap.set, SMap.get?]
  | cons e l ih =>
    obtain ⟨j, w⟩ := e
    simp only [SMap.set]
    split
    · simp [SMap.get?]
    · split
      · simp [SMap.get?]
      · simp_all [SMap.get?]

theorem get?_set_other (m : SMap α) {j k : Nat} (v : α) (h : j ≠ k) :
    SMap.get? (SMap.set m k v) j = SMap.get? m j := by
  induction m with
  | nil => simp [SMap.set, SMap.get?, h]
  | cons e l ih =>
    obtain ⟨i, w⟩ := e
    simp only [SMap.set]
    split
    · simp [SMap.get?, h]
    · split
      · subst_vars; simp [SMap.get?, h]
      · simp only [SMap.get?, ih]

@[simp] theorem get?_del_same (m : SMap α) (k : Nat) : SMap.get? (SMap.del m k) k = none := by
  induction m with
  | nil => rfl
  | cons e l ih =>
    obtain ⟨j, w⟩ := e
    by_cases h : k = j <;> simp [SMap.del, SMap.get?, h, ih]
    exact h ▸ ih

theorem get?_del_other (m : SMap α) {j k : Nat} (h : j ≠ k) :
    SMap.get? (SMap.del m k) j = SMap.get? m j := by
  induction m with
  | nil => rfl
  | cons e l ih =>
    obtain ⟨i, w⟩ := e
    by_cases hk : k = i
    · simp [SMap.del, SMap.get?, hk ▸ h, ← hk, ih]
      exact fun a => absurd a h
    · simp [SMap.del, SMap.get?, hk, ih]

@[simp] theorem get_set_same (m : SMap α) (d v : α) (k : Nat) : SMap.get (SMap.set m k v) d k = v := by
  simp [SMap.get]

theorem get_set_other (m : SMap α) (d v : α) {j k : Nat} (h : j ≠ k) :
    SMap.get (SMap.set m k v) d j = SMap.get m d j := by
  simp [SMap.get, get?_set_other _ _ h]

@[simp] theorem get_put_same [DecidableEq α] (m : SMap α) (d v : α) (k : Nat) :
    SMap.get (SMap.put m d k v) d k = v := by
  unfold SMap.put
  split <;> simp_all [SMap.get]

theorem get_put_other [DecidableEq α] (m : SMap α) (d v : α) {j k : Nat} (h : j ≠ k) :
    SMap.get (SMap.put m d k v) d j = SMap.get m d j := by
  unfold SMap.put
  split <;> simp [SMap.get, get?_set_other _ _ h, get?_del_other _ h]

/-! ## Memories: reads -/

@[simp] theorem memGet_del_same (m : List Host.Cell) (a : Nat) : memGet (memDel m a) a = blankByte := by
  induction m with
  | nil => rfl
  | cons e l ih =>
    obtain ⟨j, b⟩ := e
    by_cases h : a = j <;> simp [memDel, memGet, h, ih]
    exact h ▸ ih

theorem memGet_del_other (m : List Host.Cell) {a b : Nat} (h : b ≠ a) :
    memGet (memDel m a) b = memGet m b := by
  induction m with
  | nil => rfl
  | cons e l ih =>
    obtain ⟨j, x⟩ := e
    by_cases hk : a = j
    · simp [memDel, memGet, ← hk, h, ih]
    · simp [memDel, memGet, hk, ih]

@[simp] theorem memGet_ins_same (m : List Host.Cell) (a : Nat) (v : Byte) :
    memGet (memIns m a v) a = v := by
  induction m with
  | nil => simp [memIns, memGet]
  | cons e l ih =>
    obtain ⟨j, w⟩ := e
    simp only [memIns]
    split
    · simp [memGet]
    · split
      · simp [memGet]
      · simp_all [memGet]

theorem memGet_ins_other (m : List Host.Cell) {a b : Nat} (v : Byte) (h : b ≠ a) :
    memGet (memIns m a v) b = memGet m b := by
  induction m with
  | nil => simp [memIns, memGet, h]
  | cons e l ih =>
    obtain ⟨i, w⟩ := e
    simp only [memIns]
    split
    · simp [memGet, h]
    · split
      · subst_vars; simp [memGet, h]
      · simp only [memGet, ih]

/-- A byte reads as it was last written. -/
@[simp] theorem memGet_set_same (m : List Host.Cell) (a : Nat) (v : Byte) :
    memGet (memSet m a v) a = v := by
  unfold memSet
  split <;> simp_all

/-- A write leaves every other byte alone. -/
theorem memGet_set_other (m : List Host.Cell) {a b : Nat} (v : Byte) (h : b ≠ a) :
    memGet (memSet m a v) b = memGet m b := by
  unfold memSet
  split <;> simp [memGet_del_other _ h, memGet_ins_other _ _ h]

/-- Consecutive bytes read as written, and every other byte as before. -/
theorem memGet_put (l : List Byte) (m : List Host.Cell) (a b : Nat) :
    memGet (memPut m a l) b =
      if a ≤ b ∧ b < a + l.length then l.getD (b - a) blankByte else memGet m b := by
  induction l generalizing m a with
  | nil => simp [memPut]
  | cons x r ih =>
    simp only [memPut, ih, List.length_cons]
    by_cases h : b = a
    · subst h; simp
    · rw [memGet_set_other _ _ h]
      by_cases h2 : a + 1 ≤ b ∧ b < a + 1 + r.length
      · rw [if_pos h2, if_pos (by omega)]
        obtain ⟨n, hn⟩ : ∃ n, b - a = n + 1 := ⟨b - a - 1, by omega⟩
        have : b - (a + 1) = n := by omega
        rw [hn, this]
        simp
      · rw [if_neg h2, if_neg (by omega)]

/-- Pairs written in order leave every other byte alone. -/
theorem memGet_puts_other (l : List (Nat × Byte)) (m : List Host.Cell) {b : Nat}
    (h : ∀ e ∈ l, e.1 ≠ b) : memGet (memPuts m l) b = memGet m b := by
  induction l generalizing m with
  | nil => rfl
  | cons e r ih =>
    obtain ⟨a, x⟩ := e
    have h1 : b ≠ a := fun q => h (a, x) (by simp) q.symm
    simp only [memPuts]
    rw [ih _ (fun e he => h e (by simp [he])), memGet_set_other _ _ h1]

/-- Cleared bytes are blank, and every other byte is as before. -/
theorem memGet_clear (m : List Host.Cell) (a n b : Nat) :
    memGet (memClear m a n) b = if a ≤ b ∧ b < a + n then blankByte else memGet m b := by
  induction m with
  | nil => simp [memClear, memGet]
  | cons e l ih =>
    obtain ⟨j, x⟩ := e
    by_cases h : a ≤ j ∧ j < a + n
    · simp only [memClear, h, and_self, if_true, ih, memGet]
      by_cases hb : a ≤ b ∧ b < a + n
      · simp [hb]
      · have : b ≠ j := fun q => hb (q ▸ h)
        simp [hb, this]
    · simp only [memClear, h, if_false, memGet, ih]
      by_cases hj : b = j
      · subst hj; simp [h]
      · simp [hj]

/-! ## Memories: the canonical form -/

theorem memFrom_mono {lo hi : Nat} {m : List Host.Cell} (h : hi ≤ lo) (w : memFrom lo m = true) :
    memFrom hi m = true := by
  cases m with
  | nil => rfl
  | cons e l =>
    obtain ⟨j, b⟩ := e
    simp only [memFrom, Bool.and_eq_true, decide_eq_true_eq] at w ⊢
    exact ⟨⟨by omega, w.1.2⟩, w.2⟩

theorem memFrom_del {lo : Nat} {m : List Host.Cell} (a : Nat) (w : memFrom lo m = true) :
    memFrom lo (memDel m a) = true := by
  induction m generalizing lo with
  | nil => rfl
  | cons e l ih =>
    obtain ⟨j, b⟩ := e
    simp only [memFrom, Bool.and_eq_true, decide_eq_true_eq] at w
    simp only [memDel]
    split
    · exact memFrom_mono (by omega) (ih w.2)
    · simp [memFrom, w.1.1, w.1.2, ih w.2]

theorem memFrom_ins {lo : Nat} {m : List Host.Cell} {a : Nat} {v : Byte} (ha : lo ≤ a)
    (hv : v ≠ blankByte) (w : memFrom lo m = true) : memFrom lo (memIns m a v) = true := by
  induction m generalizing lo with
  | nil => simp [memIns, memFrom, ha, hv]
  | cons e l ih =>
    obtain ⟨j, b⟩ := e
    simp only [memFrom, Bool.and_eq_true, decide_eq_true_eq] at w
    simp only [memIns]
    split
    · simp only [memFrom, Bool.and_eq_true, decide_eq_true_eq]
      exact ⟨⟨ha, by simpa using hv⟩, ⟨by omega, w.1.2⟩, w.2⟩
    · split
      · simp only [memFrom, Bool.and_eq_true, decide_eq_true_eq]
        exact ⟨⟨ha, by simpa using hv⟩, by subst_vars; exact w.2⟩
      · simp only [memFrom, Bool.and_eq_true, decide_eq_true_eq]
        exact ⟨w.1, ih (by omega) w.2⟩

theorem wf_set {m : List Host.Cell} (a : Nat) (v : Byte) (w : Memory.wf m = true) :
    Memory.wf (memSet m a v) = true := by
  unfold memSet
  split
  · exact memFrom_del a w
  · exact memFrom_ins (Nat.zero_le a) ‹_› w

theorem wf_put {m : List Host.Cell} (a : Nat) (l : List Byte) (w : Memory.wf m = true) :
    Memory.wf (memPut m a l) = true := by
  induction l generalizing m a with
  | nil => exact w
  | cons b l ih => exact ih (a + 1) (wf_set a b w)

theorem wf_puts {m : List Host.Cell} (l : List (Nat × Byte)) (w : Memory.wf m = true) :
    Memory.wf (memPuts m l) = true := by
  induction l generalizing m with
  | nil => exact w
  | cons e l ih => exact ih (wf_set e.1 e.2 w)

theorem memFrom_clear {lo : Nat} {m : List Host.Cell} (a n : Nat) (w : memFrom lo m = true) :
    memFrom lo (memClear m a n) = true := by
  induction m generalizing lo with
  | nil => rfl
  | cons e l ih =>
    obtain ⟨j, b⟩ := e
    simp only [memFrom, Bool.and_eq_true, decide_eq_true_eq] at w
    simp only [memClear]
    split
    · exact memFrom_mono (by omega) (ih w.2)
    · simp [memFrom, w.1.1, w.1.2, ih w.2]

theorem wf_clear {m : List Host.Cell} (a n : Nat) (w : Memory.wf m = true) :
    Memory.wf (memClear m a n) = true := memFrom_clear a n w

/-! ## Runs of bytes -/

@[simp] theorem memTake_length (n a : Nat) (m : List Host.Cell) : (memTake n a m).length = n := by
  induction n generalizing a m with
  | zero => rfl
  | succ n ih =>
    cases m with
    | nil => simp [memTake, ih]
    | cons e l =>
      obtain ⟨j, b⟩ := e
      simp only [memTake]
      split <;> simp [ih]

@[simp] theorem memBytes_length (m : List Host.Cell) (a n : Nat) : (memBytes m a n).length = n :=
  memTake_length n a _

theorem memGet_below {lo a : Nat} {m : List Host.Cell} (h : a < lo) (w : memFrom lo m = true) :
    memGet m a = blankByte := by
  induction m generalizing lo with
  | nil => rfl
  | cons e l ih =>
    obtain ⟨j, b⟩ := e
    simp only [memFrom, Bool.and_eq_true, decide_eq_true_eq] at w
    have : a ≠ j := by omega
    simp [memGet, this, ih (by omega) w.2]

theorem memTake_getD {lo : Nat} {m : List Host.Cell} (n a k : Nat) (h : lo ≥ a) (hk : k < n)
    (w : memFrom lo m = true) : (memTake n a m).getD k blankByte = memGet m (a + k) := by
  induction n generalizing a k m lo with
  | zero => omega
  | succ n ih =>
    cases m with
    | nil =>
      cases k with
      | zero => simp [memTake, memGet]
      | succ k =>
        have := ih (lo := a + 1) (m := []) (a + 1) k (Nat.le_refl _) (by omega) rfl
        simp [memTake, memGet] at this ⊢
        simpa using this
    | cons e l =>
      obtain ⟨j, b⟩ := e
      simp only [memFrom, Bool.and_eq_true, decide_eq_true_eq] at w
      simp only [memTake]
      split
      · rename_i hj
        obtain rfl : a = j := hj.symm
        cases k with
        | zero => simp [memGet]
        | succ k =>
          have := ih (lo := a + 1) (a + 1) k (Nat.le_refl _) (by omega) (by simpa using w.2)
          have h2 : a + (k + 1) ≠ a := by omega
          simp [memGet, h2] at this ⊢
          rw [this]; congr 1; omega
      · cases k with
        | zero =>
          have h2 : a ≠ j := fun q => ‹¬j = a› q.symm
          have h3 : memGet l a = blankByte := memGet_below (by omega) w.2
          simp [memGet, h2, h3]
        | succ k =>
          have h4 : a + 1 ≤ j := by have := w.1.1; omega
          have := ih (lo := j) (m := (j, b) :: l) (a + 1) k (by omega) (by omega)
            (by simp [memFrom, w.1.2, w.2])
          simp only [List.getD_cons_succ] at this ⊢
          rw [this]; congr 1; omega

theorem memFrom_skip {lo : Nat} {a : Nat} {m : List Host.Cell} (w : memFrom lo m = true) :
    memFrom (max lo a) (memSkip a m) = true := by
  induction m generalizing lo with
  | nil => rfl
  | cons e l ih =>
    obtain ⟨j, b⟩ := e
    simp only [memFrom, Bool.and_eq_true, decide_eq_true_eq] at w
    simp only [memSkip]
    split
    · exact memFrom_mono (by omega) (ih w.2)
    · simp only [memFrom, Bool.and_eq_true, decide_eq_true_eq]
      exact ⟨⟨by omega, w.1.2⟩, w.2⟩

theorem memGet_skip {a b : Nat} (m : List Host.Cell) (h : a ≤ b) :
    memGet (memSkip a m) b = memGet m b := by
  induction m with
  | nil => rfl
  | cons e l ih =>
    obtain ⟨j, x⟩ := e
    simp only [memSkip]
    split
    · have : b ≠ j := by omega
      simp [memGet, this, ih]
    · rfl

/-- A run of bytes of a memory in canonical form is its bytes one by one. -/
theorem memBytes_getD {m : List Host.Cell} (a n k : Nat) (hk : k < n) (w : Memory.wf m = true) :
    (memBytes m a n).getD k blankByte = memGet m (a + k) := by
  unfold memBytes
  rw [memTake_getD n a k (Nat.le_max_right 0 a) hk (memFrom_skip w), memGet_skip _ (by omega)]

end Sys2Proof.Laws
end

