-- ==== Sys2Proof/Laws/State.lean ====
section
/-! SUPPORT. Laws of the state's updates: what each update leaves of every field, and what the readers
of the parts give after it. -/

namespace Sys2Proof.Laws

open Sys2Proof Sys2Proof.Machine

/-! ## Fields that an update leaves -/

section
variable (s : State) (i : Nat) (x : Core)
@[simp] theorem setCore_now : (s.setCore i x).now = s.now := rfl
@[simp] theorem setCore_phase : (s.setCore i x).phase = s.phase := rfl
@[simp] theorem setCore_cur : (s.setCore i x).cur = s.cur := rfl
@[simp] theorem setCore_fresh : (s.setCore i x).fresh = s.fresh := rfl
@[simp] theorem setCore_inbox : (s.setCore i x).inbox = s.inbox := rfl
@[simp] theorem setCore_wcyc : (s.setCore i x).wcyc = s.wcyc := rfl
@[simp] theorem setCore_pf : (s.setCore i x).pf = s.pf := rfl
@[simp] theorem setCore_bam : (s.setCore i x).bam = s.bam := rfl
@[simp] theorem setCore_parts : (s.setCore i x).parts = s.parts := rfl
@[simp] theorem setCore_cohorts : (s.setCore i x).cohorts = s.cohorts := rfl
@[simp] theorem setCore_banks : (s.setCore i x).banks = s.banks := rfl
@[simp] theorem setCore_pchs : (s.setCore i x).pchs = s.pchs := rfl
@[simp] theorem setCore_sync : (s.setCore i x).sync = s.sync := rfl
@[simp] theorem setCore_syncBad : (s.setCore i x).syncBad = s.syncBad := rfl
@[simp] theorem setCore_host : (s.setCore i x).host = s.host := rfl
@[simp] theorem setCore_rdata : (s.setCore i x).rdata = s.rdata := rfl
@[simp] theorem setCore_tlb : (s.setCore i x).tlb = s.tlb := rfl
@[simp] theorem setCore_fatal : (s.setCore i x).fatal = s.fatal := rfl
end

section
variable (s : State) (i : Nat) (f : Core → Core)
@[simp] theorem modCore_now : (s.modCore i f).now = s.now := rfl
@[simp] theorem modCore_phase : (s.modCore i f).phase = s.phase := rfl
@[simp] theorem modCore_cur : (s.modCore i f).cur = s.cur := rfl
@[simp] theorem modCore_fresh : (s.modCore i f).fresh = s.fresh := rfl
@[simp] theorem modCore_inbox : (s.modCore i f).inbox = s.inbox := rfl
@[simp] theorem modCore_wcyc : (s.modCore i f).wcyc = s.wcyc := rfl
@[simp] theorem modCore_pf : (s.modCore i f).pf = s.pf := rfl
@[simp] theorem modCore_bam : (s.modCore i f).bam = s.bam := rfl
@[simp] theorem modCore_parts : (s.modCore i f).parts = s.parts := rfl
@[simp] theorem modCore_cohorts : (s.modCore i f).cohorts = s.cohorts := rfl
@[simp] theorem modCore_banks : (s.modCore i f).banks = s.banks := rfl
@[simp] theorem modCore_pchs : (s.modCore i f).pchs = s.pchs := rfl
@[simp] theorem modCore_sync : (s.modCore i f).sync = s.sync := rfl
@[simp] theorem modCore_syncBad : (s.modCore i f).syncBad = s.syncBad := rfl
@[simp] theorem modCore_host : (s.modCore i f).host = s.host := rfl
@[simp] theorem modCore_rdata : (s.modCore i f).rdata = s.rdata := rfl
@[simp] theorem modCore_tlb : (s.modCore i f).tlb = s.tlb := rfl
@[simp] theorem modCore_fatal : (s.modCore i f).fatal = s.fatal := rfl
end

section
variable (s : State) (i : Nat) (x : Ctx)
@[simp] theorem setCtx_now : (s.setCtx i x).now = s.now := rfl
@[simp] theorem setCtx_phase : (s.setCtx i x).phase = s.phase := rfl
@[simp] theorem setCtx_cur : (s.setCtx i x).cur = s.cur := rfl
@[simp] theorem setCtx_fresh : (s.setCtx i x).fresh = s.fresh := rfl
@[simp] theorem setCtx_inbox : (s.setCtx i x).inbox = s.inbox := rfl
@[simp] theorem setCtx_wcyc : (s.setCtx i x).wcyc = s.wcyc := rfl
@[simp] theorem setCtx_pf : (s.setCtx i x).pf = s.pf := rfl
@[simp] theorem setCtx_bam : (s.setCtx i x).bam = s.bam := rfl
@[simp] theorem setCtx_parts : (s.setCtx i x).parts = s.parts := rfl
@[simp] theorem setCtx_cohorts : (s.setCtx i x).cohorts = s.cohorts := rfl
@[simp] theorem setCtx_banks : (s.setCtx i x).banks = s.banks := rfl
@[simp] theorem setCtx_pchs : (s.setCtx i x).pchs = s.pchs := rfl
@[simp] theorem setCtx_sync : (s.setCtx i x).sync = s.sync := rfl
@[simp] theorem setCtx_syncBad : (s.setCtx i x).syncBad = s.syncBad := rfl
@[simp] theorem setCtx_host : (s.setCtx i x).host = s.host := rfl
@[simp] theorem setCtx_rdata : (s.setCtx i x).rdata = s.rdata := rfl
@[simp] theorem setCtx_tlb : (s.setCtx i x).tlb = s.tlb := rfl
@[simp] theorem setCtx_fatal : (s.setCtx i x).fatal = s.fatal := rfl
end

section
variable (s : State) (i : Nat) (f : Ctx → Ctx)
@[simp] theorem modCtx_now : (s.modCtx i f).now = s.now := rfl
@[simp] theorem modCtx_phase : (s.modCtx i f).phase = s.phase := rfl
@[simp] theorem modCtx_cur : (s.modCtx i f).cur = s.cur := rfl
@[simp] theorem modCtx_fresh : (s.modCtx i f).fresh = s.fresh := rfl
@[simp] theorem modCtx_inbox : (s.modCtx i f).inbox = s.inbox := rfl
@[simp] theorem modCtx_wcyc : (s.modCtx i f).wcyc = s.wcyc := rfl
@[simp] theorem modCtx_pf : (s.modCtx i f).pf = s.pf := rfl
@[simp] theorem modCtx_bam : (s.modCtx i f).bam = s.bam := rfl
@[simp] theorem modCtx_parts : (s.modCtx i f).parts = s.parts := rfl
@[simp] theorem modCtx_cohorts : (s.modCtx i f).cohorts = s.cohorts := rfl
@[simp] theorem modCtx_banks : (s.modCtx i f).banks = s.banks := rfl
@[simp] theorem modCtx_pchs : (s.modCtx i f).pchs = s.pchs := rfl
@[simp] theorem modCtx_sync : (s.modCtx i f).sync = s.sync := rfl
@[simp] theorem modCtx_syncBad : (s.modCtx i f).syncBad = s.syncBad := rfl
@[simp] theorem modCtx_host : (s.modCtx i f).host = s.host := rfl
@[simp] theorem modCtx_rdata : (s.modCtx i f).rdata = s.rdata := rfl
@[simp] theorem modCtx_tlb : (s.modCtx i f).tlb = s.tlb := rfl
@[simp] theorem modCtx_fatal : (s.modCtx i f).fatal = s.fatal := rfl
end

section
variable (s : State) (i : Nat) (x : Bank)
@[simp] theorem setBank_now : (s.setBank i x).now = s.now := rfl
@[simp] theorem setBank_phase : (s.setBank i x).phase = s.phase := rfl
@[simp] theorem setBank_cur : (s.setBank i x).cur = s.cur := rfl
@[simp] theorem setBank_fresh : (s.setBank i x).fresh = s.fresh := rfl
@[simp] theorem setBank_inbox : (s.setBank i x).inbox = s.inbox := rfl
@[simp] theorem setBank_wcyc : (s.setBank i x).wcyc = s.wcyc := rfl
@[simp] theorem setBank_pf : (s.setBank i x).pf = s.pf := rfl
@[simp] theorem setBank_bam : (s.setBank i x).bam = s.bam := rfl
@[simp] theorem setBank_parts : (s.setBank i x).parts = s.parts := rfl
@[simp] theorem setBank_cohorts : (s.setBank i x).cohorts = s.cohorts := rfl
@[simp] theorem setBank_cores : (s.setBank i x).cores = s.cores := rfl
@[simp] theorem setBank_pchs : (s.setBank i x).pchs = s.pchs := rfl
@[simp] theorem setBank_sync : (s.setBank i x).sync = s.sync := rfl
@[simp] theorem setBank_syncBad : (s.setBank i x).syncBad = s.syncBad := rfl
@[simp] theorem setBank_host : (s.setBank i x).host = s.host := rfl
@[simp] theorem setBank_rdata : (s.setBank i x).rdata = s.rdata := rfl
@[simp] theorem setBank_tlb : (s.setBank i x).tlb = s.tlb := rfl
@[simp] theorem setBank_fatal : (s.setBank i x).fatal = s.fatal := rfl
end

section
variable (s : State) (i : Nat) (f : Bank → Bank)
@[simp] theorem modBank_now : (s.modBank i f).now = s.now := rfl
@[simp] theorem modBank_phase : (s.modBank i f).phase = s.phase := rfl
@[simp] theorem modBank_cur : (s.modBank i f).cur = s.cur := rfl
@[simp] theorem modBank_fresh : (s.modBank i f).fresh = s.fresh := rfl
@[simp] theorem modBank_inbox : (s.modBank i f).inbox = s.inbox := rfl
@[simp] theorem modBank_wcyc : (s.modBank i f).wcyc = s.wcyc := rfl
@[simp] theorem modBank_pf : (s.modBank i f).pf = s.pf := rfl
@[simp] theorem modBank_bam : (s.modBank i f).bam = s.bam := rfl
@[simp] theorem modBank_parts : (s.modBank i f).parts = s.parts := rfl
@[simp] theorem modBank_cohorts : (s.modBank i f).cohorts = s.cohorts := rfl
@[simp] theorem modBank_cores : (s.modBank i f).cores = s.cores := rfl
@[simp] theorem modBank_pchs : (s.modBank i f).pchs = s.pchs := rfl
@[simp] theorem modBank_sync : (s.modBank i f).sync = s.sync := rfl
@[simp] theorem modBank_syncBad : (s.modBank i f).syncBad = s.syncBad := rfl
@[simp] theorem modBank_host : (s.modBank i f).host = s.host := rfl
@[simp] theorem modBank_rdata : (s.modBank i f).rdata = s.rdata := rfl
@[simp] theorem modBank_tlb : (s.modBank i f).tlb = s.tlb := rfl
@[simp] theorem modBank_fatal : (s.modBank i f).fatal = s.fatal := rfl
end

section
variable (s : State) (i : Nat) (x : Pch)
@[simp] theorem setPch_now : (s.setPch i x).now = s.now := rfl
@[simp] theorem setPch_phase : (s.setPch i x).phase = s.phase := rfl
@[simp] theorem setPch_cur : (s.setPch i x).cur = s.cur := rfl
@[simp] theorem setPch_fresh : (s.setPch i x).fresh = s.fresh := rfl
@[simp] theorem setPch_inbox : (s.setPch i x).inbox = s.inbox := rfl
@[simp] theorem setPch_wcyc : (s.setPch i x).wcyc = s.wcyc := rfl
@[simp] theorem setPch_pf : (s.setPch i x).pf = s.pf := rfl
@[simp] theorem setPch_bam : (s.setPch i x).bam = s.bam := rfl
@[simp] theorem setPch_parts : (s.setPch i x).parts = s.parts := rfl
@[simp] theorem setPch_cohorts : (s.setPch i x).cohorts = s.cohorts := rfl
@[simp] theorem setPch_cores : (s.setPch i x).cores = s.cores := rfl
@[simp] theorem setPch_banks : (s.setPch i x).banks = s.banks := rfl
@[simp] theorem setPch_sync : (s.setPch i x).sync = s.sync := rfl
@[simp] theorem setPch_syncBad : (s.setPch i x).syncBad = s.syncBad := rfl
@[simp] theorem setPch_host : (s.setPch i x).host = s.host := rfl
@[simp] theorem setPch_rdata : (s.setPch i x).rdata = s.rdata := rfl
@[simp] theorem setPch_tlb : (s.setPch i x).tlb = s.tlb := rfl
@[simp] theorem setPch_fatal : (s.setPch i x).fatal = s.fatal := rfl
end

section
variable (s : State) (i : Nat) (f : Pch → Pch)
@[simp] theorem modPch_now : (s.modPch i f).now = s.now := rfl
@[simp] theorem modPch_phase : (s.modPch i f).phase = s.phase := rfl
@[simp] theorem modPch_cur : (s.modPch i f).cur = s.cur := rfl
@[simp] theorem modPch_fresh : (s.modPch i f).fresh = s.fresh := rfl
@[simp] theorem modPch_inbox : (s.modPch i f).inbox = s.inbox := rfl
@[simp] theorem modPch_wcyc : (s.modPch i f).wcyc = s.wcyc := rfl
@[simp] theorem modPch_pf : (s.modPch i f).pf = s.pf := rfl
@[simp] theorem modPch_bam : (s.modPch i f).bam = s.bam := rfl
@[simp] theorem modPch_parts : (s.modPch i f).parts = s.parts := rfl
@[simp] theorem modPch_cohorts : (s.modPch i f).cohorts = s.cohorts := rfl
@[simp] theorem modPch_cores : (s.modPch i f).cores = s.cores := rfl
@[simp] theorem modPch_banks : (s.modPch i f).banks = s.banks := rfl
@[simp] theorem modPch_sync : (s.modPch i f).sync = s.sync := rfl
@[simp] theorem modPch_syncBad : (s.modPch i f).syncBad = s.syncBad := rfl
@[simp] theorem modPch_host : (s.modPch i f).host = s.host := rfl
@[simp] theorem modPch_rdata : (s.modPch i f).rdata = s.rdata := rfl
@[simp] theorem modPch_tlb : (s.modPch i f).tlb = s.tlb := rfl
@[simp] theorem modPch_fatal : (s.modPch i f).fatal = s.fatal := rfl
end

section
variable (s : State) (i : Nat) (x : Part)
@[simp] theorem setPart_now : (s.setPart i x).now = s.now := rfl
@[simp] theorem setPart_phase : (s.setPart i x).phase = s.phase := rfl
@[simp] theorem setPart_cur : (s.setPart i x).cur = s.cur := rfl
@[simp] theorem setPart_fresh : (s.setPart i x).fresh = s.fresh := rfl
@[simp] theorem setPart_inbox : (s.setPart i x).inbox = s.inbox := rfl
@[simp] theorem setPart_wcyc : (s.setPart i x).wcyc = s.wcyc := rfl
@[simp] theorem setPart_pf : (s.setPart i x).pf = s.pf := rfl
@[simp] theorem setPart_bam : (s.setPart i x).bam = s.bam := rfl
@[simp] theorem setPart_cohorts : (s.setPart i x).cohorts = s.cohorts := rfl
@[simp] theorem setPart_cores : (s.setPart i x).cores = s.cores := rfl
@[simp] theorem setPart_banks : (s.setPart i x).banks = s.banks := rfl
@[simp] theorem setPart_pchs : (s.setPart i x).pchs = s.pchs := rfl
@[simp] theorem setPart_sync : (s.setPart i x).sync = s.sync := rfl
@[simp] theorem setPart_syncBad : (s.setPart i x).syncBad = s.syncBad := rfl
@[simp] theorem setPart_host : (s.setPart i x).host = s.host := rfl
@[simp] theorem setPart_rdata : (s.setPart i x).rdata = s.rdata := rfl
@[simp] theorem setPart_tlb : (s.setPart i x).tlb = s.tlb := rfl
@[simp] theorem setPart_fatal : (s.setPart i x).fatal = s.fatal := rfl
end

section
variable (s : State) (i : Nat) (f : Part → Part)
@[simp] theorem modPart_now : (s.modPart i f).now = s.now := rfl
@[simp] theorem modPart_phase : (s.modPart i f).phase = s.phase := rfl
@[simp] theorem modPart_cur : (s.modPart i f).cur = s.cur := rfl
@[simp] theorem modPart_fresh : (s.modPart i f).fresh = s.fresh := rfl
@[simp] theorem modPart_inbox : (s.modPart i f).inbox = s.inbox := rfl
@[simp] theorem modPart_wcyc : (s.modPart i f).wcyc = s.wcyc := rfl
@[simp] theorem modPart_pf : (s.modPart i f).pf = s.pf := rfl
@[simp] theorem modPart_bam : (s.modPart i f).bam = s.bam := rfl
@[simp] theorem modPart_cohorts : (s.modPart i f).cohorts = s.cohorts := rfl
@[simp] theorem modPart_cores : (s.modPart i f).cores = s.cores := rfl
@[simp] theorem modPart_banks : (s.modPart i f).banks = s.banks := rfl
@[simp] theorem modPart_pchs : (s.modPart i f).pchs = s.pchs := rfl
@[simp] theorem modPart_sync : (s.modPart i f).sync = s.sync := rfl
@[simp] theorem modPart_syncBad : (s.modPart i f).syncBad = s.syncBad := rfl
@[simp] theorem modPart_host : (s.modPart i f).host = s.host := rfl
@[simp] theorem modPart_rdata : (s.modPart i f).rdata = s.rdata := rfl
@[simp] theorem modPart_tlb : (s.modPart i f).tlb = s.tlb := rfl
@[simp] theorem modPart_fatal : (s.modPart i f).fatal = s.fatal := rfl
end

section
variable (s : State) (i : Nat) (x : Cohort)
@[simp] theorem setCoh_now : (s.setCoh i x).now = s.now := rfl
@[simp] theorem setCoh_phase : (s.setCoh i x).phase = s.phase := rfl
@[simp] theorem setCoh_cur : (s.setCoh i x).cur = s.cur := rfl
@[simp] theorem setCoh_fresh : (s.setCoh i x).fresh = s.fresh := rfl
@[simp] theorem setCoh_inbox : (s.setCoh i x).inbox = s.inbox := rfl
@[simp] theorem setCoh_wcyc : (s.setCoh i x).wcyc = s.wcyc := rfl
@[simp] theorem setCoh_pf : (s.setCoh i x).pf = s.pf := rfl
@[simp] theorem setCoh_bam : (s.setCoh i x).bam = s.bam := rfl
@[simp] theorem setCoh_parts : (s.setCoh i x).parts = s.parts := rfl
@[simp] theorem setCoh_cores : (s.setCoh i x).cores = s.cores := rfl
@[simp] theorem setCoh_banks : (s.setCoh i x).banks = s.banks := rfl
@[simp] theorem setCoh_pchs : (s.setCoh i x).pchs = s.pchs := rfl
@[simp] theorem setCoh_sync : (s.setCoh i x).sync = s.sync := rfl
@[simp] theorem setCoh_syncBad : (s.setCoh i x).syncBad = s.syncBad := rfl
@[simp] theorem setCoh_host : (s.setCoh i x).host = s.host := rfl
@[simp] theorem setCoh_rdata : (s.setCoh i x).rdata = s.rdata := rfl
@[simp] theorem setCoh_tlb : (s.setCoh i x).tlb = s.tlb := rfl
@[simp] theorem setCoh_fatal : (s.setCoh i x).fatal = s.fatal := rfl
end

section
variable (s : State) (f : Pf → Pf)
@[simp] theorem modPf_now : (s.modPf f).now = s.now := rfl
@[simp] theorem modPf_phase : (s.modPf f).phase = s.phase := rfl
@[simp] theorem modPf_cur : (s.modPf f).cur = s.cur := rfl
@[simp] theorem modPf_fresh : (s.modPf f).fresh = s.fresh := rfl
@[simp] theorem modPf_inbox : (s.modPf f).inbox = s.inbox := rfl
@[simp] theorem modPf_wcyc : (s.modPf f).wcyc = s.wcyc := rfl
@[simp] theorem modPf_bam : (s.modPf f).bam = s.bam := rfl
@[simp] theorem modPf_parts : (s.modPf f).parts = s.parts := rfl
@[simp] theorem modPf_cohorts : (s.modPf f).cohorts = s.cohorts := rfl
@[simp] theorem modPf_cores : (s.modPf f).cores = s.cores := rfl
@[simp] theorem modPf_banks : (s.modPf f).banks = s.banks := rfl
@[simp] theorem modPf_pchs : (s.modPf f).pchs = s.pchs := rfl
@[simp] theorem modPf_sync : (s.modPf f).sync = s.sync := rfl
@[simp] theorem modPf_syncBad : (s.modPf f).syncBad = s.syncBad := rfl
@[simp] theorem modPf_host : (s.modPf f).host = s.host := rfl
@[simp] theorem modPf_rdata : (s.modPf f).rdata = s.rdata := rfl
@[simp] theorem modPf_tlb : (s.modPf f).tlb = s.tlb := rfl
@[simp] theorem modPf_fatal : (s.modPf f).fatal = s.fatal := rfl
end

section
variable (s : State) (a b : Int)
@[simp] theorem setEa_now : (s.setEa a b).now = s.now := rfl
@[simp] theorem setEa_phase : (s.setEa a b).phase = s.phase := rfl
@[simp] theorem setEa_fresh : (s.setEa a b).fresh = s.fresh := rfl
@[simp] theorem setEa_inbox : (s.setEa a b).inbox = s.inbox := rfl
@[simp] theorem setEa_wcyc : (s.setEa a b).wcyc = s.wcyc := rfl
@[simp] theorem setEa_pf : (s.setEa a b).pf = s.pf := rfl
@[simp] theorem setEa_bam : (s.setEa a b).bam = s.bam := rfl
@[simp] theorem setEa_parts : (s.setEa a b).parts = s.parts := rfl
@[simp] theorem setEa_cohorts : (s.setEa a b).cohorts = s.cohorts := rfl
@[simp] theorem setEa_cores : (s.setEa a b).cores = s.cores := rfl
@[simp] theorem setEa_banks : (s.setEa a b).banks = s.banks := rfl
@[simp] theorem setEa_pchs : (s.setEa a b).pchs = s.pchs := rfl
@[simp] theorem setEa_sync : (s.setEa a b).sync = s.sync := rfl
@[simp] theorem setEa_syncBad : (s.setEa a b).syncBad = s.syncBad := rfl
@[simp] theorem setEa_host : (s.setEa a b).host = s.host := rfl
@[simp] theorem setEa_rdata : (s.setEa a b).rdata = s.rdata := rfl
@[simp] theorem setEa_tlb : (s.setEa a b).tlb = s.tlb := rfl
@[simp] theorem setEa_fatal : (s.setEa a b).fatal = s.fatal := rfl
end

section
variable (s : State) (u : List Nat)
@[simp] theorem touch_now : (s.touch u).now = s.now := rfl
@[simp] theorem touch_phase : (s.touch u).phase = s.phase := rfl
@[simp] theorem touch_fresh : (s.touch u).fresh = s.fresh := rfl
@[simp] theorem touch_inbox : (s.touch u).inbox = s.inbox := rfl
@[simp] theorem touch_wcyc : (s.touch u).wcyc = s.wcyc := rfl
@[simp] theorem touch_pf : (s.touch u).pf = s.pf := rfl
@[simp] theorem touch_bam : (s.touch u).bam = s.bam := rfl
@[simp] theorem touch_parts : (s.touch u).parts = s.parts := rfl
@[simp] theorem touch_cohorts : (s.touch u).cohorts = s.cohorts := rfl
@[simp] theorem touch_cores : (s.touch u).cores = s.cores := rfl
@[simp] theorem touch_banks : (s.touch u).banks = s.banks := rfl
@[simp] theorem touch_pchs : (s.touch u).pchs = s.pchs := rfl
@[simp] theorem touch_sync : (s.touch u).sync = s.sync := rfl
@[simp] theorem touch_syncBad : (s.touch u).syncBad = s.syncBad := rfl
@[simp] theorem touch_host : (s.touch u).host = s.host := rfl
@[simp] theorem touch_rdata : (s.touch u).rdata = s.rdata := rfl
@[simp] theorem touch_tlb : (s.touch u).tlb = s.tlb := rfl
@[simp] theorem touch_fatal : (s.touch u).fatal = s.fatal := rfl
end

section
variable (s : State)
@[simp] theorem draw_now : s.draw.2.now = s.now := rfl
@[simp] theorem draw_phase : s.draw.2.phase = s.phase := rfl
@[simp] theorem draw_cur : s.draw.2.cur = s.cur := rfl
@[simp] theorem draw_inbox : s.draw.2.inbox = s.inbox := rfl
@[simp] theorem draw_wcyc : s.draw.2.wcyc = s.wcyc := rfl
@[simp] theorem draw_pf : s.draw.2.pf = s.pf := rfl
@[simp] theorem draw_bam : s.draw.2.bam = s.bam := rfl
@[simp] theorem draw_parts : s.draw.2.parts = s.parts := rfl
@[simp] theorem draw_cohorts : s.draw.2.cohorts = s.cohorts := rfl
@[simp] theorem draw_cores : s.draw.2.cores = s.cores := rfl
@[simp] theorem draw_banks : s.draw.2.banks = s.banks := rfl
@[simp] theorem draw_pchs : s.draw.2.pchs = s.pchs := rfl
@[simp] theorem draw_sync : s.draw.2.sync = s.sync := rfl
@[simp] theorem draw_syncBad : s.draw.2.syncBad = s.syncBad := rfl
@[simp] theorem draw_host : s.draw.2.host = s.host := rfl
@[simp] theorem draw_rdata : s.draw.2.rdata = s.rdata := rfl
@[simp] theorem draw_tlb : s.draw.2.tlb = s.tlb := rfl
@[simp] theorem draw_fatal : s.draw.2.fatal = s.fatal := rfl
@[simp] theorem draw_fresh : s.draw.2.fresh = s.fresh + 1 := rfl
end

section
variable (s : State) (k : Nat) (f : Cohort → Cohort)
@[simp] theorem modCoh_now : (s.modCoh k f).now = s.now := by unfold State.modCoh; split <;> rfl
@[simp] theorem modCoh_phase : (s.modCoh k f).phase = s.phase := by unfold State.modCoh; split <;> rfl
@[simp] theorem modCoh_cur : (s.modCoh k f).cur = s.cur := by unfold State.modCoh; split <;> rfl
@[simp] theorem modCoh_fresh : (s.modCoh k f).fresh = s.fresh := by unfold State.modCoh; split <;> rfl
@[simp] theorem modCoh_inbox : (s.modCoh k f).inbox = s.inbox := by unfold State.modCoh; split <;> rfl
@[simp] theorem modCoh_wcyc : (s.modCoh k f).wcyc = s.wcyc := by unfold State.modCoh; split <;> rfl
@[simp] theorem modCoh_pf : (s.modCoh k f).pf = s.pf := by unfold State.modCoh; split <;> rfl
@[simp] theorem modCoh_bam : (s.modCoh k f).bam = s.bam := by unfold State.modCoh; split <;> rfl
@[simp] theorem modCoh_parts : (s.modCoh k f).parts = s.parts := by unfold State.modCoh; split <;> rfl
@[simp] theorem modCoh_cores : (s.modCoh k f).cores = s.cores := by unfold State.modCoh; split <;> rfl
@[simp] theorem modCoh_banks : (s.modCoh k f).banks = s.banks := by unfold State.modCoh; split <;> rfl
@[simp] theorem modCoh_pchs : (s.modCoh k f).pchs = s.pchs := by unfold State.modCoh; split <;> rfl
@[simp] theorem modCoh_sync : (s.modCoh k f).sync = s.sync := by unfold State.modCoh; split <;> rfl
@[simp] theorem modCoh_syncBad : (s.modCoh k f).syncBad = s.syncBad := by unfold State.modCoh; split <;> rfl
@[simp] theorem modCoh_host : (s.modCoh k f).host = s.host := by unfold State.modCoh; split <;> rfl
@[simp] theorem modCoh_rdata : (s.modCoh k f).rdata = s.rdata := by unfold State.modCoh; split <;> rfl
@[simp] theorem modCoh_tlb : (s.modCoh k f).tlb = s.tlb := by unfold State.modCoh; split <;> rfl
@[simp] theorem modCoh_fatal : (s.modCoh k f).fatal = s.fatal := by unfold State.modCoh; split <;> rfl
end

/-! ## The parts after an update -/

@[simp] theorem core_setCore_same (s : State) (i : Nat) (x : Core) : (s.setCore i x).core i = x :=
  get_put_same _ _ _ _
theorem core_setCore_other (s : State) {i j : Nat} (x : Core) (h : j ≠ i) :
    (s.setCore i x).core j = s.core j := get_put_other _ _ _ h
theorem core_setCore (s : State) (i j : Nat) (x : Core) :
    (s.setCore i x).core j = if j = i then x else s.core j := by
  by_cases h : j = i
  · subst h; simp
  · simp [core_setCore_other s x h, h]
@[simp] theorem core_modCore_same (s : State) (i : Nat) (f : Core → Core) :
    (s.modCore i f).core i = f (s.core i) := get_put_same _ _ _ _
theorem core_modCore_other (s : State) {i j : Nat} (f : Core → Core) (h : j ≠ i) :
    (s.modCore i f).core j = s.core j := get_put_other _ _ _ h
theorem core_modCore (s : State) (i j : Nat) (f : Core → Core) :
    (s.modCore i f).core j = if j = i then f (s.core i) else s.core j := by
  by_cases h : j = i
  · subst h; simp
  · simp [core_modCore_other s f h, h]

@[simp] theorem bank_setBank_same (s : State) (i : Nat) (x : Bank) : (s.setBank i x).bank i = x :=
  get_put_same _ _ _ _
theorem bank_setBank_other (s : State) {i j : Nat} (x : Bank) (h : j ≠ i) :
    (s.setBank i x).bank j = s.bank j := get_put_other _ _ _ h
theorem bank_setBank (s : State) (i j : Nat) (x : Bank) :
    (s.setBank i x).bank j = if j = i then x else s.bank j := by
  by_cases h : j = i
  · subst h; simp
  · simp [bank_setBank_other s x h, h]
@[simp] theorem bank_modBank_same (s : State) (i : Nat) (f : Bank → Bank) :
    (s.modBank i f).bank i = f (s.bank i) := get_put_same _ _ _ _
theorem bank_modBank_other (s : State) {i j : Nat} (f : Bank → Bank) (h : j ≠ i) :
    (s.modBank i f).bank j = s.bank j := get_put_other _ _ _ h
theorem bank_modBank (s : State) (i j : Nat) (f : Bank → Bank) :
    (s.modBank i f).bank j = if j = i then f (s.bank i) else s.bank j := by
  by_cases h : j = i
  · subst h; simp
  · simp [bank_modBank_other s f h, h]

@[simp] theorem pch_setPch_same (s : State) (i : Nat) (x : Pch) : (s.setPch i x).pch i = x :=
  get_put_same _ _ _ _
theorem pch_setPch_other (s : State) {i j : Nat} (x : Pch) (h : j ≠ i) :
    (s.setPch i x).pch j = s.pch j := get_put_other _ _ _ h
theorem pch_setPch (s : State) (i j : Nat) (x : Pch) :
    (s.setPch i x).pch j = if j = i then x else s.pch j := by
  by_cases h : j = i
  · subst h; simp
  · simp [pch_setPch_other s x h, h]
@[simp] theorem pch_modPch_same (s : State) (i : Nat) (f : Pch → Pch) :
    (s.modPch i f).pch i = f (s.pch i) := get_put_same _ _ _ _
theorem pch_modPch_other (s : State) {i j : Nat} (f : Pch → Pch) (h : j ≠ i) :
    (s.modPch i f).pch j = s.pch j := get_put_other _ _ _ h
theorem pch_modPch (s : State) (i j : Nat) (f : Pch → Pch) :
    (s.modPch i f).pch j = if j = i then f (s.pch i) else s.pch j := by
  by_cases h : j = i
  · subst h; simp
  · simp [pch_modPch_other s f h, h]

@[simp] theorem part_setPart_same (s : State) (i : Nat) (x : Part) : (s.setPart i x).part i = x :=
  get_put_same _ _ _ _
theorem part_setPart_other (s : State) {i j : Nat} (x : Part) (h : j ≠ i) :
    (s.setPart i x).part j = s.part j := get_put_other _ _ _ h
theorem part_setPart (s : State) (i j : Nat) (x : Part) :
    (s.setPart i x).part j = if j = i then x else s.part j := by
  by_cases h : j = i
  · subst h; simp
  · simp [part_setPart_other s x h, h]
@[simp] theorem part_modPart_same (s : State) (i : Nat) (f : Part → Part) :
    (s.modPart i f).part i = f (s.part i) := get_put_same _ _ _ _
theorem part_modPart_other (s : State) {i j : Nat} (f : Part → Part) (h : j ≠ i) :
    (s.modPart i f).part j = s.part j := get_put_other _ _ _ h
theorem part_modPart (s : State) (i j : Nat) (f : Part → Part) :
    (s.modPart i f).part j = if j = i then f (s.part i) else s.part j := by
  by_cases h : j = i
  · subst h; simp
  · simp [part_modPart_other s f h, h]

@[simp] theorem core_setCtx_same (s : State) (i : Nat) (x : Ctx) :
    (s.setCtx i x).core i = { s.core i with ctx := x } := get_put_same _ _ _ _
theorem core_setCtx_other (s : State) {i j : Nat} (x : Ctx) (h : j ≠ i) :
    (s.setCtx i x).core j = s.core j := get_put_other _ _ _ h
@[simp] theorem core_modCtx_same (s : State) (i : Nat) (f : Ctx → Ctx) :
    (s.modCtx i f).core i = { s.core i with ctx := f (s.core i).ctx } := get_put_same _ _ _ _
theorem core_modCtx_other (s : State) {i j : Nat} (f : Ctx → Ctx) (h : j ≠ i) :
    (s.modCtx i f).core j = s.core j := get_put_other _ _ _ h
@[simp] theorem ctx_setCtx_same (s : State) (i : Nat) (x : Ctx) : (s.setCtx i x).ctx i = x := by
  simp [State.ctx]
theorem ctx_setCtx_other (s : State) {i j : Nat} (x : Ctx) (h : j ≠ i) :
    (s.setCtx i x).ctx j = s.ctx j := by simp [State.ctx, core_setCtx_other s x h]
@[simp] theorem ctx_modCtx_same (s : State) (i : Nat) (f : Ctx → Ctx) :
    (s.modCtx i f).ctx i = f (s.ctx i) := by simp [State.ctx]
theorem ctx_modCtx_other (s : State) {i j : Nat} (f : Ctx → Ctx) (h : j ≠ i) :
    (s.modCtx i f).ctx j = s.ctx j := by simp [State.ctx, core_modCtx_other s f h]

@[simp] theorem coh?_setCoh_same (s : State) (k : Nat) (c : Cohort) : (s.setCoh k c).coh? k = some c :=
  get?_set_same _ _ _
theorem coh?_setCoh_other (s : State) {j k : Nat} (c : Cohort) (h : j ≠ k) :
    (s.setCoh k c).coh? j = s.coh? j := get?_set_other _ _ h

/-! ## Readers that an update leaves -/

section
variable (s : State) (i : Nat) (x : Core) (j : Nat)
@[simp] theorem setCore_bank_read : (s.setCore i x).bank j = s.bank j := rfl
@[simp] theorem setCore_pch_read : (s.setCore i x).pch j = s.pch j := rfl
@[simp] theorem setCore_part_read : (s.setCore i x).part j = s.part j := rfl
@[simp] theorem setCore_coh_read : (s.setCore i x).coh? j = s.coh? j := rfl
end

section
variable (s : State) (i : Nat) (f : Core → Core) (j : Nat)
@[simp] theorem modCore_bank_read : (s.modCore i f).bank j = s.bank j := rfl
@[simp] theorem modCore_pch_read : (s.modCore i f).pch j = s.pch j := rfl
@[simp] theorem modCore_part_read : (s.modCore i f).part j = s.part j := rfl
@[simp] theorem modCore_coh_read : (s.modCore i f).coh? j = s.coh? j := rfl
end

section
variable (s : State) (i : Nat) (x : Ctx) (j : Nat)
@[simp] theorem setCtx_bank_read : (s.setCtx i x).bank j = s.bank j := rfl
@[simp] theorem setCtx_pch_read : (s.setCtx i x).pch j = s.pch j := rfl
@[simp] theorem setCtx_part_read : (s.setCtx i x).part j = s.part j := rfl
@[simp] theorem setCtx_coh_read : (s.setCtx i x).coh? j = s.coh? j := rfl
end

section
variable (s : State) (i : Nat) (f : Ctx → Ctx) (j : Nat)
@[simp] theorem modCtx_bank_read : (s.modCtx i f).bank j = s.bank j := rfl
@[simp] theorem modCtx_pch_read : (s.modCtx i f).pch j = s.pch j := rfl
@[simp] theorem modCtx_part_read : (s.modCtx i f).part j = s.part j := rfl
@[simp] theorem modCtx_coh_read : (s.modCtx i f).coh? j = s.coh? j := rfl
end

section
variable (s : State) (i : Nat) (x : Bank) (j : Nat)
@[simp] theorem setBank_core_read : (s.setBank i x).core j = s.core j := rfl
@[simp] theorem setBank_ctx_read : (s.setBank i x).ctx j = s.ctx j := rfl
@[simp] theorem setBank_pch_read : (s.setBank i x).pch j = s.pch j := rfl
@[simp] theorem setBank_part_read : (s.setBank i x).part j = s.part j := rfl
@[simp] theorem setBank_coh_read : (s.setBank i x).coh? j = s.coh? j := rfl
@[simp] theorem setBank_cohOf_read : (s.setBank i x).cohOf j = s.cohOf j := rfl
end

section
variable (s : State) (i : Nat) (f : Bank → Bank) (j : Nat)
@[simp] theorem modBank_core_read : (s.modBank i f).core j = s.core j := rfl
@[simp] theorem modBank_ctx_read : (s.modBank i f).ctx j = s.ctx j := rfl
@[simp] theorem modBank_pch_read : (s.modBank i f).pch j = s.pch j := rfl
@[simp] theorem modBank_part_read : (s.modBank i f).part j = s.part j := rfl
@[simp] theorem modBank_coh_read : (s.modBank i f).coh? j = s.coh? j := rfl
@[simp] theorem modBank_cohOf_read : (s.modBank i f).cohOf j = s.cohOf j := rfl
end

section
variable (s : State) (i : Nat) (x : Pch) (j : Nat)
@[simp] theorem setPch_core_read : (s.setPch i x).core j = s.core j := rfl
@[simp] theorem setPch_ctx_read : (s.setPch i x).ctx j = s.ctx j := rfl
@[simp] theorem setPch_bank_read : (s.setPch i x).bank j = s.bank j := rfl
@[simp] theorem setPch_part_read : (s.setPch i x).part j = s.part j := rfl
@[simp] theorem setPch_coh_read : (s.setPch i x).coh? j = s.coh? j := rfl
@[simp] theorem setPch_cohOf_read : (s.setPch i x).cohOf j = s.cohOf j := rfl
end

section
variable (s : State) (i : Nat) (f : Pch → Pch) (j : Nat)
@[simp] theorem modPch_core_read : (s.modPch i f).core j = s.core j := rfl
@[simp] theorem modPch_ctx_read : (s.modPch i f).ctx j = s.ctx j := rfl
@[simp] theorem modPch_bank_read : (s.modPch i f).bank j = s.bank j := rfl
@[simp] theorem modPch_part_read : (s.modPch i f).part j = s.part j := rfl
@[simp] theorem modPch_coh_read : (s.modPch i f).coh? j = s.coh? j := rfl
@[simp] theorem modPch_cohOf_read : (s.modPch i f).cohOf j = s.cohOf j := rfl
end

section
variable (s : State) (i : Nat) (x : Part) (j : Nat)
@[simp] theorem setPart_core_read : (s.setPart i x).core j = s.core j := rfl
@[simp] theorem setPart_ctx_read : (s.setPart i x).ctx j = s.ctx j := rfl
@[simp] theorem setPart_bank_read : (s.setPart i x).bank j = s.bank j := rfl
@[simp] theorem setPart_pch_read : (s.setPart i x).pch j = s.pch j := rfl
@[simp] theorem setPart_coh_read : (s.setPart i x).coh? j = s.coh? j := rfl
@[simp] theorem setPart_cohOf_read : (s.setPart i x).cohOf j = s.cohOf j := rfl
end

section
variable (s : State) (i : Nat) (f : Part → Part) (j : Nat)
@[simp] theorem modPart_core_read : (s.modPart i f).core j = s.core j := rfl
@[simp] theorem modPart_ctx_read : (s.modPart i f).ctx j = s.ctx j := rfl
@[simp] theorem modPart_bank_read : (s.modPart i f).bank j = s.bank j := rfl
@[simp] theorem modPart_pch_read : (s.modPart i f).pch j = s.pch j := rfl
@[simp] theorem modPart_coh_read : (s.modPart i f).coh? j = s.coh? j := rfl
@[simp] theorem modPart_cohOf_read : (s.modPart i f).cohOf j = s.cohOf j := rfl
end

section
variable (s : State) (i : Nat) (x : Cohort) (j : Nat)
@[simp] theorem setCoh_core_read : (s.setCoh i x).core j = s.core j := rfl
@[simp] theorem setCoh_ctx_read : (s.setCoh i x).ctx j = s.ctx j := rfl
@[simp] theorem setCoh_bank_read : (s.setCoh i x).bank j = s.bank j := rfl
@[simp] theorem setCoh_pch_read : (s.setCoh i x).pch j = s.pch j := rfl
@[simp] theorem setCoh_part_read : (s.setCoh i x).part j = s.part j := rfl
@[simp] theorem setCoh_cohOf_read : (s.setCoh i x).cohOf j = s.cohOf j := rfl
end

section
variable (s : State) (f : Pf → Pf) (j : Nat)
@[simp] theorem modPf_core_read : (s.modPf f).core j = s.core j := rfl
@[simp] theorem modPf_ctx_read : (s.modPf f).ctx j = s.ctx j := rfl
@[simp] theorem modPf_bank_read : (s.modPf f).bank j = s.bank j := rfl
@[simp] theorem modPf_pch_read : (s.modPf f).pch j = s.pch j := rfl
@[simp] theorem modPf_part_read : (s.modPf f).part j = s.part j := rfl
@[simp] theorem modPf_coh_read : (s.modPf f).coh? j = s.coh? j := rfl
@[simp] theorem modPf_cohOf_read : (s.modPf f).cohOf j = s.cohOf j := rfl
end

section
variable (s : State) (a b : Int) (j : Nat)
@[simp] theorem setEa_core_read : (s.setEa a b).core j = s.core j := rfl
@[simp] theorem setEa_ctx_read : (s.setEa a b).ctx j = s.ctx j := rfl
@[simp] theorem setEa_bank_read : (s.setEa a b).bank j = s.bank j := rfl
@[simp] theorem setEa_pch_read : (s.setEa a b).pch j = s.pch j := rfl
@[simp] theorem setEa_part_read : (s.setEa a b).part j = s.part j := rfl
@[simp] theorem setEa_coh_read : (s.setEa a b).coh? j = s.coh? j := rfl
@[simp] theorem setEa_cohOf_read : (s.setEa a b).cohOf j = s.cohOf j := rfl
end

section
variable (s : State) (u : List Nat) (j : Nat)
@[simp] theorem touch_core_read : (s.touch u).core j = s.core j := rfl
@[simp] theorem touch_ctx_read : (s.touch u).ctx j = s.ctx j := rfl
@[simp] theorem touch_bank_read : (s.touch u).bank j = s.bank j := rfl
@[simp] theorem touch_pch_read : (s.touch u).pch j = s.pch j := rfl
@[simp] theorem touch_part_read : (s.touch u).part j = s.part j := rfl
@[simp] theorem touch_coh_read : (s.touch u).coh? j = s.coh? j := rfl
@[simp] theorem touch_cohOf_read : (s.touch u).cohOf j = s.cohOf j := rfl
end

section
variable (s : State) (j : Nat)
@[simp] theorem draw_core_read : s.draw.2.core j = s.core j := rfl
@[simp] theorem draw_ctx_read : s.draw.2.ctx j = s.ctx j := rfl
@[simp] theorem draw_bank_read : s.draw.2.bank j = s.bank j := rfl
@[simp] theorem draw_pch_read : s.draw.2.pch j = s.pch j := rfl
@[simp] theorem draw_part_read : s.draw.2.part j = s.part j := rfl
@[simp] theorem draw_coh_read : s.draw.2.coh? j = s.coh? j := rfl
@[simp] theorem draw_cohOf_read : s.draw.2.cohOf j = s.cohOf j := rfl
end

section
variable (s : State) (k : Nat) (f : Cohort → Cohort) (j : Nat)
@[simp] theorem modCoh_core_read : (s.modCoh k f).core j = s.core j := by unfold State.modCoh; split <;> rfl
@[simp] theorem modCoh_ctx_read : (s.modCoh k f).ctx j = s.ctx j := by unfold State.modCoh; split <;> rfl
@[simp] theorem modCoh_bank_read : (s.modCoh k f).bank j = s.bank j := by unfold State.modCoh; split <;> rfl
@[simp] theorem modCoh_pch_read : (s.modCoh k f).pch j = s.pch j := by unfold State.modCoh; split <;> rfl
@[simp] theorem modCoh_part_read : (s.modCoh k f).part j = s.part j := by unfold State.modCoh; split <;> rfl
@[simp] theorem modCoh_cohOf_read : (s.modCoh k f).cohOf j = s.cohOf j := by unfold State.modCoh; split <;> rfl
end

@[simp] theorem cohOf_modCtx (s : State) (i j : Nat) (f : Ctx → Ctx) : (s.modCtx i f).cohOf j = s.cohOf j := by
  unfold State.cohOf
  by_cases h : j = i
  · subst h; simp
  · simp [core_modCtx_other s f h]
@[simp] theorem cohOf_setCtx (s : State) (i j : Nat) (c : Ctx) : (s.setCtx i c).cohOf j = s.cohOf j := by
  unfold State.cohOf
  by_cases h : j = i
  · subst h; simp
  · simp [core_setCtx_other s c h]

/-! ## Registers -/

/-- S0 reads 0 (R94). -/
@[simp] theorem rs_zero (c : Ctx) : c.rs 0 = 0 := rfl
/-- P0 reads all ones (R94). -/
@[simp] theorem rp_zero (c : Ctx) : c.rp 0 = 0xFFFFFFFF := rfl
@[simp] theorem rs_ws_same (c : Ctx) {r : Nat} (v : Word) (h : r ≠ 0) : (c.ws r v).rs r = v := by
  simp [Ctx.rs, Ctx.ws, h]
theorem rs_ws_other (c : Ctx) {r q : Nat} (v : Word) (h : q ≠ r) : (c.ws r v).rs q = c.rs q := by
  unfold Ctx.ws
  split
  · rfl
  · unfold Ctx.rs; split
    · rfl
    · exact get_put_other _ _ _ h
@[simp] theorem rv_wv_same (c : Ctx) (r : Nat) (v : VWord) : (c.wv r v).rv r = v := get_put_same _ _ _ _
theorem rv_wv_other (c : Ctx) {r q : Nat} (v : VWord) (h : q ≠ r) : (c.wv r v).rv q = c.rv q :=
  get_put_other _ _ _ h
@[simp] theorem rp_wp_same (c : Ctx) {r : Nat} (v : Half) (h : r ≠ 0) : (c.wp r v).rp r = v := by
  simp [Ctx.rp, Ctx.wp, h]
theorem rp_wp_other (c : Ctx) {r q : Nat} (v : Half) (h : q ≠ r) : (c.wp r v).rp q = c.rp q := by
  unfold Ctx.wp
  split
  · rfl
  · unfold Ctx.rp; split
    · rfl
    · exact get_put_other _ _ _ h

end Sys2Proof.Laws
end

