-- ==== Sys2Proof/Laws/Keeps.lean ====
section
/-! SUPPORT. What every meaning keeps: the clocks, the phase, the boot stage, and the canonical form of
the memories. One lemma per operation, in the form that a chain of operations is proved from its
parts. -/

namespace Sys2Proof.Laws

open Sys2Proof Sys2Proof.Machine

/-- From s to t neither clock nor phase has moved, no boot stage is undone, WCYC stands unless the boot
that sets it to 0 was still to end, and the memories keep their form. -/
structure Keeps (s t : State) : Prop where
  now : t.now = s.now
  phase : t.phase = s.phase
  stage : s.pf.stage ≤ t.pf.stage
  wcyc : t.wcyc = s.wcyc ∨ (s.pf.stage < 5 ∧ t.wcyc = 0)
  mem : s.MemoriesWf → t.MemoriesWf

/-- Every next state of an outcome is kept. -/
structure KeepsOut (s : State) (o : Out) : Prop where
  next : ∀ t, o = .next t → Keeps s t

@[simp] theorem Keeps.refl (s : State) : Keeps s s :=
  ⟨rfl, rfl, Nat.le_refl _, .inl rfl, id⟩

theorem Keeps.trans {s t u : State} (h : Keeps s t) (k : Keeps t u) : Keeps s u where
  now := k.now.trans h.now
  phase := k.phase.trans h.phase
  stage := Nat.le_trans h.stage k.stage
  wcyc := by
    rcases k.wcyc with e | ⟨l, e⟩
    · rcases h.wcyc with f | ⟨m, f⟩
      · exact .inl (e.trans f)
      · exact .inr ⟨m, e.trans f⟩
    · exact .inr ⟨Nat.lt_of_le_of_lt h.stage l, e⟩
  mem := k.mem ∘ h.mem

@[simp] theorem keepsOut_next (s t : State) : KeepsOut s (.next t) ↔ Keeps s t :=
  ⟨fun h => h.next t rfl, fun h => ⟨fun _ e => by injection e with e; exact e ▸ h⟩⟩

/-- A state that differs in no field that `Keeps` speaks of. -/
theorem Keeps.of_fields {s t u : State} (h : Keeps s t) (now : u.now = t.now) (phase : u.phase = t.phase)
    (pf : u.pf = t.pf) (wcyc : u.wcyc = t.wcyc) (cores : u.cores = t.cores) (pchs : u.pchs = t.pchs)
    (host : u.host = t.host) (sync : u.sync = t.sync) : Keeps s u :=
  h.trans
    { now := now, phase := phase, stage := by rw [pf], wcyc := .inl wcyc
      mem := fun m =>
        { host := host ▸ m.host, sync := sync ▸ m.sync
          core := fun i => by have := m.core i; simpa [State.core, cores] using this
          pch := fun p => by have := m.pch p; simpa [State.pch, pchs] using this } }

section
variable {s t : State} (h : Keeps s t)
include h

@[simp] theorem keeps_cur (c : Cur) : Keeps s { t with cur := c } := h.of_fields rfl rfl rfl rfl rfl rfl rfl rfl
@[simp] theorem keeps_fresh (n : Nat) : Keeps s { t with fresh := n } := h.of_fields rfl rfl rfl rfl rfl rfl rfl rfl
@[simp] theorem keeps_inbox (l : List (Nat × Input)) : Keeps s { t with inbox := l } :=
  h.of_fields rfl rfl rfl rfl rfl rfl rfl rfl
@[simp] theorem keeps_bam (l : SMap Nat) : Keeps s { t with bam := l } := h.of_fields rfl rfl rfl rfl rfl rfl rfl rfl
@[simp] theorem keeps_parts (l : SMap Part) : Keeps s { t with parts := l } :=
  h.of_fields rfl rfl rfl rfl rfl rfl rfl rfl
@[simp] theorem keeps_cohorts (l : SMap Cohort) : Keeps s { t with cohorts := l } :=
  h.of_fields rfl rfl rfl rfl rfl rfl rfl rfl
@[simp] theorem keeps_banks (l : SMap Bank) : Keeps s { t with banks := l } :=
  h.of_fields rfl rfl rfl rfl rfl rfl rfl rfl
@[simp] theorem keeps_syncBad (l : List Nat) : Keeps s { t with syncBad := l } :=
  h.of_fields rfl rfl rfl rfl rfl rfl rfl rfl
@[simp] theorem keeps_rdata (v : Option Word) : Keeps s { t with rdata := v } :=
  h.of_fields rfl rfl rfl rfl rfl rfl rfl rfl
@[simp] theorem keeps_tlb (l : List TlbEntry) : Keeps s { t with tlb := l } :=
  h.of_fields rfl rfl rfl rfl rfl rfl rfl rfl
@[simp] theorem keeps_fatal (v : Option FatalCause) : Keeps s { t with fatal := v } :=
  h.of_fields rfl rfl rfl rfl rfl rfl rfl rfl
@[simp] theorem keeps_setBank (i : Nat) (b : Bank) : Keeps s (t.setBank i b) :=
  h.of_fields rfl rfl rfl rfl rfl rfl rfl rfl
@[simp] theorem keeps_modBank (i : Nat) (f : Bank → Bank) : Keeps s (t.modBank i f) :=
  h.of_fields rfl rfl rfl rfl rfl rfl rfl rfl
@[simp] theorem keeps_setPart (i : Nat) (p : Part) : Keeps s (t.setPart i p) :=
  h.of_fields rfl rfl rfl rfl rfl rfl rfl rfl
@[simp] theorem keeps_modPart (i : Nat) (f : Part → Part) : Keeps s (t.modPart i f) :=
  h.of_fields rfl rfl rfl rfl rfl rfl rfl rfl
@[simp] theorem keeps_setCoh (k : Nat) (c : Cohort) : Keeps s (t.setCoh k c) :=
  h.of_fields rfl rfl rfl rfl rfl rfl rfl rfl
@[simp] theorem keeps_modCoh (k : Nat) (f : Cohort → Cohort) : Keeps s (t.modCoh k f) :=
  h.of_fields (by simp) (by simp) (by simp) (by simp) (by simp) (by simp) (by simp) (by simp)
@[simp] theorem keeps_draw : Keeps s t.draw.2 := h.of_fields rfl rfl rfl rfl rfl rfl rfl rfl
@[simp] theorem keeps_setEa (a b : Int) : Keeps s (t.setEa a b) := h.of_fields rfl rfl rfl rfl rfl rfl rfl rfl
@[simp] theorem keeps_touch (u : List Nat) : Keeps s (t.touch u) := h.of_fields rfl rfl rfl rfl rfl rfl rfl rfl

@[simp] theorem keeps_modPf (f : Pf → Pf) (hf : ∀ p, p.stage ≤ (f p).stage) : Keeps s (t.modPf f) :=
  h.trans
    { now := rfl, phase := rfl, stage := hf _, wcyc := .inl rfl
      mem := fun m => ⟨m.host, m.sync, m.core, m.pch⟩ }

@[simp] theorem keeps_pf (p : Pf) (hf : t.pf.stage ≤ p.stage) : Keeps s { t with pf := p } :=
  h.trans
    { now := rfl, phase := rfl, stage := hf, wcyc := .inl rfl
      mem := fun m => ⟨m.host, m.sync, m.core, m.pch⟩ }

@[simp] theorem keeps_host (m : List Host.Cell) (hm : Memory.wf t.host = true → Memory.wf m = true) :
    Keeps s { t with host := m } :=
  h.trans
    { now := rfl, phase := rfl, stage := Nat.le_refl _, wcyc := .inl rfl
      mem := fun w => ⟨hm w.host, w.sync, w.core, w.pch⟩ }

@[simp] theorem keeps_sync (m : List Host.Cell) (hm : Memory.wf t.sync = true → Memory.wf m = true) :
    Keeps s { t with sync := m } :=
  h.trans
    { now := rfl, phase := rfl, stage := Nat.le_refl _, wcyc := .inl rfl
      mem := fun w => ⟨w.host, hm w.sync, w.core, w.pch⟩ }

theorem keeps_setCore (i : Nat) (x : Core) (hx : t.MemoriesWf → x.MemoriesWf) : Keeps s (t.setCore i x) :=
  h.trans
    { now := rfl, phase := rfl, stage := Nat.le_refl _, wcyc := .inl rfl
      mem := fun w =>
        { host := w.host, sync := w.sync, pch := w.pch
          core := fun j => by
            rw [core_setCore]
            split
            · exact hx w
            · exact w.core j } }

@[simp] theorem keeps_modCore (i : Nat) (f : Core → Core) (hf : ∀ c, c.MemoriesWf → (f c).MemoriesWf) :
    Keeps s (t.modCore i f) := keeps_setCore h i _ fun w => hf _ (w.core i)

/-- A change of a context that leaves its tile file's form. -/
@[simp] theorem keeps_modCtx (i : Nat) (f : Ctx → Ctx)
    (hf : ∀ c, Memory.wf c.tile = true → Memory.wf (f c).tile = true) : Keeps s (t.modCtx i f) :=
  keeps_setCore h i _ fun w => ⟨(w.core i).spad, hf _ (w.core i).tile, (w.core i).saved⟩

@[simp] theorem keeps_setCtx (i : Nat) (c : Ctx) (hc : Memory.wf (t.ctx i).tile = true → Memory.wf c.tile = true) :
    Keeps s (t.setCtx i c) :=
  keeps_setCore h i _ fun w => ⟨(w.core i).spad, hc (w.core i).tile, (w.core i).saved⟩

@[simp] theorem keeps_setPch (i : Nat) (x : Pch) (hx : (t.pch i).MemoriesWf → x.MemoriesWf) :
    Keeps s (t.setPch i x) :=
  h.trans
    { now := rfl, phase := rfl, stage := Nat.le_refl _, wcyc := .inl rfl
      mem := fun w =>
        { host := w.host, sync := w.sync, core := w.core
          pch := fun j => by
            rw [pch_setPch]
            split
            · exact hx (w.pch i)
            · exact w.pch j } }

@[simp] theorem keeps_modPch (i : Nat) (f : Pch → Pch) (hf : ∀ p, p.MemoriesWf → (f p).MemoriesWf) :
    Keeps s (t.modPch i f) := keeps_setPch h i _ (hf _)

@[simp] theorem keeps_forAll (l : List α) (f : α → State → State) (hf : ∀ x ∈ l, ∀ u, Keeps u (f x u)) :
    Keeps s (forAll l t f) := by
  unfold forAll
  induction l generalizing t with
  | nil => exact h
  | cons x l ih =>
    exact ih (h.trans (hf x (by simp) t)) fun y hy => hf y (by simp [hy])

omit h in
@[simp] theorem keepsOut_ite (c : Prop) [Decidable c] (o q : Out) (ho : KeepsOut s o) (hq : KeepsOut s q) :
    KeepsOut s (if c then o else q) := by
  split <;> assumption

@[simp] theorem keeps_ite (c : Prop) [Decidable c] (u : State) (k : Keeps s u) : Keeps s (if c then t else u) := by
  split <;> assumption

end

/-! ## Memories of a core and of a pseudo-channel -/

@[simp] theorem coreMem_ctx {c : Core} {x : Ctx} (h : c.MemoriesWf) (hx : Memory.wf x.tile = true) :
    Core.MemoriesWf { c with ctx := x } := ⟨h.spad, hx, h.saved⟩

/-- A core that differs in none of its memories. -/
theorem coreMem_of {c d : Core} (h : c.MemoriesWf) (spad : d.spad = c.spad)
    (tile : d.ctx.tile = c.ctx.tile) (shadow : d.shadow = c.shadow) : d.MemoriesWf :=
  ⟨spad ▸ h.spad, tile ▸ h.tile, shadow ▸ h.saved⟩

theorem pchMem_of {p q : Pch} (h : p.MemoriesWf) (mem : q.mem = p.mem) (lines : q.lines = p.lines) :
    q.MemoriesWf := ⟨mem ▸ h.mem, lines ▸ h.lines⟩

end Sys2Proof.Laws
end

