-- ==== Sys2Proof/Laws/KeepsIssue.lean ====
section
/-! SUPPORT. What the operations at issue keep (see `Keeps`). -/

namespace Sys2Proof.Laws

open Sys2Proof Sys2Proof.Machine

/-! ## Access -/

@[simp] theorem tile_ws (c : Ctx) (r : Nat) (v : Word) : (Ctx.ws c r v).tile = c.tile := by
  unfold Ctx.ws
  (repeat' split) <;> simp

@[simp] theorem tile_wv (c : Ctx) (r : Nat) (v : VWord) : (Ctx.wv c r v).tile = c.tile := by
  unfold Ctx.wv
  simp

@[simp] theorem tile_wp (c : Ctx) (r : Nat) (v : Half) : (Ctx.wp c r v).tile = c.tile := by
  unfold Ctx.wp
  (repeat' split) <;> simp

@[simp] theorem tile_setLoop (c : Ctx) (n : Nat) (l : Loop) : (Ctx.setLoop c n l).tile = c.tile := by
  unfold Ctx.setLoop
  simp

@[simp] theorem tile_setPend (c : Ctx) (r : Nat) (b : Bool) : (Ctx.setPend c r b).tile = c.tile := by
  unfold Ctx.setPend
  (repeat' split) <;> simp

@[simp] theorem keeps_traceAt {s t : State} (h : Keeps s t) (i kind slot payload d : Nat) : Keeps s (t.traceAt i kind slot payload d) := by
  unfold State.traceAt
  split
  · exact h
  · exact keeps_modCore h _ _ fun c hc => coreMem_of hc rfl rfl rfl

@[simp] theorem keeps_traceEvent {s t : State} (h : Keeps s t) (i kind slot payload d : Nat) :
    Keeps s (t.traceEvent i kind slot payload d) := by
  unfold State.traceEvent
  exact keeps_modCore h _ _ fun c hc => coreMem_of hc rfl rfl rfl

@[simp] theorem keeps_traceRec {s t : State} (h : Keeps s t) (i : Nat) (kind : Nat) (slot : Nat) (payload : Nat) : Keeps s (State.traceRec t i kind slot payload) := by
  unfold State.traceRec
  try dsimp only
  simp +contextual (maxDischargeDepth := 40) [h]

@[simp] theorem keeps_qtr {s t : State} (h : Keeps s t) (p : Nat) (r : Rec4) : Keeps s (State.qtr t p r) := by
  unfold State.qtr
  try dsimp only
  simp +contextual (maxDischargeDepth := 40) [h]

@[simp] theorem keeps_qtrCoh {s t : State} (h : Keeps s t) (c : Cohort) (type : Nat) (w2 : Word) (w3 : Word) : Keeps s (State.qtrCoh t c type w2 w3) := by
  unfold State.qtrCoh
  try dsimp only
  simp +contextual (maxDischargeDepth := 40) [h]

@[simp] theorem keeps_qtrMerge {s t : State} (h : Keeps s t) (p : Nat) (key : Nat) (head : Word) (w2 : Word) (len : Nat) : Keeps s (State.qtrMerge t p key head w2 len) := by
  unfold State.qtrMerge
  try dsimp only
  simp +contextual (maxDischargeDepth := 40) [h]

@[simp] theorem keeps_qtrOften {s t : State} (h : Keeps s t) (p : Nat) (key : Nat) (r : Rec4) (len : Nat) : Keeps s (State.qtrOften t p key r len) := by
  unfold State.qtrOften
  try dsimp only
  (repeat' split) <;> simp +contextual (maxDischargeDepth := 40) [h]

@[simp] theorem keeps_qtrFlush {s t : State} (h : Keeps s t) (p : Nat) : Keeps s (State.qtrFlush t p) := by
  unfold State.qtrFlush
  try dsimp only
  simp +contextual (maxDischargeDepth := 40) [h]

@[simp] theorem tile_commitAll (c : Ctx) (t : Nat) : (Ctx.commitAll c t).tile = c.tile := by
  unfold Ctx.commitAll
  simp

@[simp] theorem tile_log (c : Ctx) (t : Nat) (e : PEntry) : (Ctx.log c t e).tile = c.tile := by
  unfold Ctx.log
  (repeat' split) <;> simp

@[simp] theorem mem_logUndo (c : Core) (t : Nat) (units : List Nat) (h : c.MemoriesWf) : (c.logUndo t units).MemoriesWf := by
  unfold Core.logUndo
  induction units generalizing c with
  | nil => exact h
  | cons u l ih =>
    rw [List.foldl_cons]
    apply ih
    split
    · exact h
    · exact coreMem_of h rfl (by simp) rfl

@[simp] theorem tile_addFlight (c : Ctx) (p : Pend) : (Ctx.addFlight c p).tile = c.tile := by
  unfold Ctx.addFlight
  (repeat' split) <;> simp

@[simp] theorem tile_addAcc (c : Ctx) (a : Access) : (Ctx.addAcc c a).tile = c.tile := by
  unfold Ctx.addAcc
  (repeat' split) <;> simp

@[simp] theorem keeps_landing {s t : State} (h : Keeps s t) (off : Nat) (flags : NFlags) (shadow : Bool) (eff : Effect) : Keeps s (State.landing t off flags shadow eff) := by
  unfold State.landing
  try dsimp only
  simp +contextual (maxDischargeDepth := 40) [h]

@[simp] theorem keeps_access {s t : State} (h : Keeps s t) (off cls : Nat) (window : Bool) (units : List Nat) (act : Port) :
    Keeps s (t.access off cls window units act) := by
  unfold State.access
  exact keeps_cur (by simp [h]) _

@[simp] theorem tile_addBev (c : Ctx) (e : BEvent) : (Ctx.addBev c e).tile = c.tile := by
  unfold Ctx.addBev
  (repeat' split) <;> simp

@[simp] theorem keeps_boundary {s t : State} (h : Keeps s t) (i : Nat) (off : Nat) (kind : BKind) : Keeps s (State.boundary t i off kind) := by
  unfold State.boundary
  try dsimp only
  simp +contextual (maxDischargeDepth := 40) [h]

@[simp] theorem keeps_addHold {s t : State} (h : Keeps s t) (k : Nat) (cause : HoldCause) (code : Nat) (first : Nat) : Keeps s (State.addHold t k cause code first) := by
  unfold State.addHold
  try dsimp only
  (repeat' split) <;> simp +contextual (maxDischargeDepth := 40) [h]

@[simp] theorem keeps_dropHold {s t : State} (h : Keeps s t) (k : Nat) (f : HoldCause → Bool) : Keeps s (State.dropHold t k f) := by
  unfold State.dropHold
  try dsimp only
  simp +contextual (maxDischargeDepth := 40) [h]

/-! ## Region -/

@[simp] theorem tile_depth (c : Ctx) : (Ctx.depth c).tile = c.tile := by
  unfold Ctx.depth
  simp

@[simp] theorem tile_openRegion (c : Ctx) (t : Nat) : (Ctx.openRegion c t).tile = c.tile := by
  unfold Ctx.openRegion
  simp

@[simp] theorem tile_regionNext (c : Ctx) (t : Nat) (pc : BitVec 54) (at_ : Nat) : (Ctx.regionNext c t pc at_).tile = c.tile := by
  unfold Ctx.regionNext
  simp

@[simp] theorem mem_restore (c : Core) (x : Preserved) (h : c.MemoriesWf) : (c.restore x).MemoriesWf := by
  unfold Core.restore Core.mark
  split
  · exact coreMem_of h rfl (by simp) rfl
  · exact coreMem_of h rfl (by simp) rfl
  · exact coreMem_of h rfl (by simp) rfl
  · exact ⟨h.spad, wf_put _ _ h.tile, h.saved⟩
  · exact coreMem_of h rfl rfl rfl

@[simp] theorem mem_undo (c : Core) (x : Nat × List Byte × List Nat) (h : c.MemoriesWf) : (c.undo x).MemoriesWf := by
  unfold Core.undo
  exact ⟨wf_put _ _ h.spad, h.tile, h.saved⟩

theorem mem_foldl (f : Core → α → Core) (hf : ∀ c x, c.MemoriesWf → (f c x).MemoriesWf) (l : List α) (c : Core)
    (h : c.MemoriesWf) : (l.foldl f c).MemoriesWf := by
  induction l generalizing c with
  | nil => exact h
  | cons x l ih => exact ih _ (hf _ _ h)

@[simp] theorem keeps_pick {s t : State} (h : Keeps s t) (l : List α) (d : α) : Keeps s (t.pick l d).2 := by
  unfold State.pick
  split <;> simp [h]

theorem keeps_lineErrors {s t : State} (h : Keeps s t) (i : Nat) (c : Ctx) (lines : List Nat) :
    Keeps s (t.lineErrors i c lines).2 := by
  unfold State.lineErrors
  dsimp only
  (repeat' split) <;> simp [h]

@[simp] theorem keeps_readLines {s t : State} (h : Keeps s t) (off : Nat) (lines : List Nat) : Keeps s (State.readLines t off lines) := by
  unfold State.readLines
  exact keeps_forAll (keeps_lineErrors h _ _ _) _ _ fun k _ u => keeps_boundary (.refl u) _ _ _

@[simp] theorem tile_closeRegion (c : Ctx) : (Ctx.closeRegion c).tile = c.tile := by
  unfold Ctx.closeRegion
  (repeat' split) <;> simp

@[simp] theorem tile_logArrival (c : Ctx) (t : Nat) (p : Pend) : (Ctx.logArrival c t p).tile = c.tile := by
  unfold Ctx.logArrival
  (repeat' split) <;> simp

@[simp] theorem keeps_rollback {s t : State} (h : Keeps s t) (i k e : Nat) : Keeps s (t.rollback i k e) := by
  unfold State.rollback
  dsimp only
  split
  · exact h
  · apply keeps_setCore h
    intro w
    exact coreMem_of (mem_foldl _ mem_restore _ _ (mem_foldl _ mem_undo _ _ (w.core i))) rfl (by simp) rfl

/-! ## Ops -/

@[simp] theorem keeps_modLaunch {s t : State} (h : Keeps s t) (p : Nat) (q : Nat) (f : Launch → Launch) : Keeps s (State.modLaunch t p q f) := by
  unfold State.modLaunch
  try dsimp only
  simp +contextual (maxDischargeDepth := 40) [h]

theorem tile_foldl (f : Ctx → α → Ctx) (hf : ∀ c x, (f c x).tile = c.tile) (l : List α) (c : Ctx) :
    (l.foldl f c).tile = c.tile := by
  induction l generalizing c with
  | nil => rfl
  | cons x l ih => exact (ih _).trans (hf _ _)

@[simp] theorem mem_dropWaiting (c : Core) (k : Nat) (h : c.MemoriesWf) : (c.dropWaiting k).MemoriesWf := by
  unfold Core.dropWaiting
  refine coreMem_of h rfl ?_ rfl
  dsimp only
  split
  · apply tile_foldl
    intro c u
    split
    · split <;> simp
    · rfl
  · rfl

theorem saved_discard (k : Nat) (l : List Saved) (h : ∀ x ∈ l, Memory.wf x.ctx.tile = true) :
    ∀ x ∈ discardSaved k l, Memory.wf x.ctx.tile = true := by
  induction l with
  | nil => exact h
  | cons y l ih =>
    unfold discardSaved
    split
    · split
      · simp
      next o r =>
        intro x hx
        rcases List.mem_cons.1 hx with rfl | hx
        · exact h o (by simp)
        · exact h x (by simp [hx])
    · intro x hx
      rcases List.mem_cons.1 hx with rfl | hx
      · exact h _ (by simp)
      · exact ih (fun z hz => h z (by simp [hz])) x hx

@[simp] theorem mem_stop (c : Core) (k : Nat) (h : c.MemoriesWf) : (c.stop k).MemoriesWf := by
  unfold Core.stop
  have d := mem_dropWaiting c k h
  dsimp only
  split
  · exact ⟨d.spad, d.tile, saved_discard _ _ d.saved⟩
  · exact coreMem_of d rfl rfl rfl

@[simp] theorem mem_fence (p : Pch) (now : Nat) (used : Bool) (h : p.MemoriesWf) :
    (Pch.fence p now used).MemoriesWf := by
  unfold Pch.fence
  exact pchMem_of h (by simp) (by simp)

@[simp] theorem keeps_traceCoh {s t : State} (h : Keeps s t) (c : Cohort) (kind payload d : Nat) :
    Keeps s (t.traceCoh c kind payload d) := by
  unfold State.traceCoh
  exact keeps_forAll h _ _ fun i _ u => keeps_modCore (.refl u) _ _ fun c hc => coreMem_of hc rfl rfl rfl

@[simp] theorem keeps_sayHold {s t : State} (h : Keeps s t) (k : Nat) : Keeps s (t.sayHold k) := by
  unfold State.sayHold
  split
  · exact h
  · split
    · exact h
    · split <;> simp [h]

@[simp] theorem keeps_sayRelease {s t : State} (h : Keeps s t) (k : Nat) : Keeps s (t.sayRelease k) := by
  unfold State.sayRelease
  split
  · exact h
  · split
    · exact h
    · dsimp only
      split
      · simp [h]
      · split
        · exact h
        · exact keeps_qtrOften (keeps_traceCoh (keeps_sayHold h k) _ _ _ _) _ _ _ _

@[simp] theorem keeps_endNode {s t : State} (h : Keeps s t) (k : Nat) (requeue : Option Requeue) (status : Option Nat) :
    Keeps s (t.endNode k requeue status) := by
  unfold State.endNode
  split
  · exact h
  · split
    · exact h
    · dsimp only
      refine keeps_forAll ?_ _ _ fun p _ u => keeps_modPch (.refl u) _ _ fun q hq => mem_fence q _ _ hq
      split
      · exact keeps_modCtx (keeps_setCoh (keeps_sayRelease h k) _ _) _ _ fun c hc => hc
      · exact keeps_forAll (keeps_setCoh (keeps_sayRelease h k) _ _) _ _ fun i _ u => keeps_modCore (.refl u) _ _ fun c hc => mem_stop c k hc

@[simp] theorem keeps_stopEnded {s t : State} (h : Keeps s t) : Keeps s t.stopEnded := by
  unfold State.stopEnded
  refine keeps_forAll h _ _ fun e _ u => ?_
  have k : Keeps u (forAll e.2.members u fun i s => s.modCore i (·.stop e.1)) :=
    keeps_forAll (.refl u) _ _ fun i _ u => keeps_modCore (.refl u) _ _ fun c hc => mem_stop c _ hc
  split
  · dsimp only
    split
    · exact keeps_forAll k _ _ fun p _ u => keeps_modPch (.refl u) _ _ fun q hq => mem_fence q _ _ hq
    · exact k
  · simp

@[simp] theorem keeps_noteCause {s t : State} (h : Keeps s t) (k cause : Nat) : Keeps s (t.noteCause k cause) := by
  unfold State.noteCause
  split <;> simp [h]

@[simp] theorem keeps_sayTrap {s t : State} (h : Keeps s t) (i : Nat) (x : Trap) : Keeps s (t.sayTrap i x) := by
  unfold State.sayTrap
  (repeat' split) <;> simp [h]

@[simp] theorem keeps_noteFault {s t : State} (h : Keeps s t) (i : Nat) (k : Nat) (cause : Nat) : Keeps s (State.noteFault t i k cause) := by
  unfold State.noteFault
  try dsimp only
  (repeat' split) <;> simp +contextual (maxDischargeDepth := 40) [h]

@[simp] theorem tile_trapRegs (c : Ctx) (t : Trap) : (Ctx.trapRegs c t).tile = c.tile := by
  unfold Ctx.trapRegs
  simp

@[simp] theorem tile_dropTrapWrites (c : Ctx) (cyc : Nat) : (Ctx.dropTrapWrites c cyc).tile = c.tile := by
  unfold Ctx.dropTrapWrites
  simp

@[simp] theorem tile_enter (c : Ctx) (t : Trap) (cyc : Nat) (now : Nat) (handler : BitVec 54) (tail : Option Tail) : (Ctx.enter c t cyc now handler tail).tile = c.tile := by
  unfold Ctx.enter
  (repeat' split) <;> simp

@[simp] theorem keeps_freeze {s t : State} (h : Keeps s t) (i k : Nat) : Keeps s (t.freeze i k) := by
  unfold State.freeze
  dsimp only
  refine keeps_modPart (keeps_modCore h _ _ ?_) _ _
  exact fun c hc => coreMem_of hc rfl rfl rfl

@[simp] theorem keeps_escalate {s t : State} (h : Keeps s t) (i : Nat) (k : Nat) (cause : Nat) : Keeps s (State.escalate t i k cause) := by
  unfold State.escalate
  try dsimp only
  simp +contextual (maxDischargeDepth := 40) [h]

@[simp] theorem keeps_overflow {s t : State} (h : Keeps s t) (i k : Nat) (x : Trap) : Keeps s (t.overflow i k x) := by
  unfold State.overflow
  try dsimp only
  simp (maxDischargeDepth := 40) [h]

@[simp] theorem keeps_regionError {s t : State} (h : Keeps s t) (i k : Nat) (x : Trap) : Keeps s (t.regionError i k x) := by
  unfold State.regionError
  dsimp only
  split
  · simp [h]
  · split
    · simp [h]
    · split
      · split <;> simp (maxDischargeDepth := 40) [h]
      · simp [h]

@[simp] theorem keeps_takeTrap {s t : State} (h : Keeps s t) (i : Nat) (x : Trap) : Keeps s (t.takeTrap i x) := by
  unfold State.takeTrap
  split
  · exact h
  · dsimp only
    split
    · (repeat' split) <;> simp (maxDischargeDepth := 40) [h]
    all_goals simp (maxDischargeDepth := 40) [h]

@[simp] theorem keeps_slotTrap {s t : State} (h : Keeps s t) (cause : Nat) (tval : Word) : Keeps s (t.slotTrap cause tval) := by
  unfold State.slotTrap
  exact keeps_cur (keeps_takeTrap h _ _) _

@[simp] theorem keeps_illegal {s t : State} (h : Keeps s t)  : Keeps s (State.illegal t) := by
  unfold State.illegal
  try dsimp only
  simp +contextual (maxDischargeDepth := 40) [h]

@[simp] theorem keeps_barred {s t : State} (h : Keeps s t) (k : Out) (hk : KeepsOut s k) : KeepsOut s (t.barred k) := by
  unfold State.barred
  split
  · simp [h]
  · exact hk

@[simp] theorem keeps_trapOut {s t : State} (h : Keeps s t) (cause : Nat) (tval : Word) : KeepsOut s (trapOut t cause tval) := by
  unfold trapOut
  try dsimp only
  simp +contextual (maxDischargeDepth := 40) [h]

@[simp] theorem keeps_decodeTrap {s t : State} (h : Keeps s t) (i : Nat) (cause : Nat) (tval : Word) (pc : BitVec 54) (rep : Nat) : Keeps s (State.decodeTrap t i cause tval pc rep) := by
  unfold State.decodeTrap
  try dsimp only
  simp +contextual (maxDischargeDepth := 40) [h]

@[simp] theorem tile_return_ (c : Ctx) (now : Nat) : (Ctx.return_ c now).tile = c.tile := by
  unfold Ctx.return_
  (repeat' split) <;> simp

@[simp] theorem tile_resume (c : Ctx) (cyc : Nat) : (Ctx.resume c cyc).tile = c.tile := by
  unfold Ctx.resume
  simp

/-! ## Flags -/

@[simp] theorem tile_orFlags (c : Ctx) (f : NFlags) : (Ctx.orFlags c f).tile = c.tile := by
  unfold Ctx.orFlags
  simp

/-! ## Operands -/

@[simp] theorem keeps_withScalar {s t : State} (h : Keeps s t) (bs : Bool) (r : BitVec 6) (k : Word → Out) (hk : ∀ v, KeepsOut s (k v)) :
    KeepsOut s (withScalar bs r t k) := by
  unfold withScalar
  (repeat' split) <;> simp [h, hk]

@[simp] theorem keeps_withB {s t : State} (h : Keeps s t) (l : List (BitVec 10)) (k : Out) (hk : KeepsOut s k) : KeepsOut s (withB l t k) := by
  unfold withB
  split <;> simp [h, hk]

/-! ## Control -/

@[simp] theorem keeps_once {s t : State} (h : Keeps s t) (f : State → State) (hf : ∀ u, Keeps s u → Keeps s (f u)) : Keeps s (t.once f) := by
  unfold State.once
  exact keeps_cur (hf _ (keeps_cur h _)) _

@[simp] theorem keeps_landS {s t : State} (h : Keeps s t) (sd : BitVec 6) (v : Word) (again : Bool) : Keeps s (t.landS sd v again) := by
  unfold State.landS
  split
  · simp [h]
  · exact keeps_once h _ fun u hu => keeps_landing hu _ _ _ _

@[simp] theorem keeps_execNop {s t : State} (h : Keeps s t) (g : Guard) : KeepsOut s (execNop g t) := by
  unfold execNop
  try dsimp only
  simp +contextual (maxDischargeDepth := 40) [h]

@[simp] theorem keeps_execHalt {s t : State} (h : Keeps s t) (g : Guard) : KeepsOut s (execHalt g t) := by
  unfold execHalt
  split
  · simp [h]
  · split
    · simp [h]
    · split
      · simp [h]
      · refine (keepsOut_next _ _).2 (keeps_cur (t := t.modCtx t.cur.site fun c => { c with loops := [], stack := [] }) ?_ _)
        exact keeps_modCtx h _ _ fun c hc => hc

@[simp] theorem keeps_execTrap {s t : State} (h : Keeps s t) (g : Guard) (code : BitVec 8) : KeepsOut s (execTrap g code t) := by
  unfold execTrap
  try dsimp only
  (repeat' split) <;> simp +contextual (maxDischargeDepth := 40) [h]

@[simp] theorem keeps_execRft {s t : State} (h : Keeps s t) (g : Guard) : KeepsOut s (execRft g t) := by
  unfold execRft
  try dsimp only
  (repeat' split) <;> simp +contextual (maxDischargeDepth := 40) [h]

@[simp] theorem tile_popLoops (c : Ctx) (t : BitVec 54) (l : List Nat) : (c.popLoops t l).tile = c.tile := by
  induction l generalizing c with
  | nil => rfl
  | cons n l ih =>
    simp only [Ctx.popLoops]
    split
    · rfl
    · rw [ih]; rfl

@[simp] theorem keeps_transfer {s t : State} (h : Keeps s t) (x : BitVec 54) (kind : Nat) (pops : Bool) : KeepsOut s (t.transfer x kind pops) := by
  unfold State.transfer
  split
  · simp [h]
  · dsimp only
    refine (keepsOut_next _ _).2 (keeps_cur ?_ _)
    split <;> simp (maxDischargeDepth := 40) [h]

@[simp] theorem keeps_execBr {s t : State} (h : Keeps s t) (g : Guard) (off : BitVec 20) : KeepsOut s (execBr g off t) := by
  unfold execBr
  try dsimp only
  (repeat' split) <;> simp +contextual (maxDischargeDepth := 40) [h]

@[simp] theorem keeps_execBrl {s t : State} (h : Keeps s t) (g : Guard) (sd : BitVec 6) (off : BitVec 14) : KeepsOut s (execBrl g sd off t) := by
  unfold execBrl
  try dsimp only
  (repeat' split) <;> simp +contextual (maxDischargeDepth := 40) [h]

@[simp] theorem keeps_execRet {s t : State} (h : Keeps s t) (g : Guard) (sa : BitVec 6) : KeepsOut s (execRet g sa t) := by
  unfold execRet
  try dsimp only
  (repeat' split) <;> simp +contextual (maxDischargeDepth := 40) [h]

@[simp] theorem keeps_execJmp {s t : State} (h : Keeps s t) (g : Guard) (sa : BitVec 6) (off : BitVec 14) : KeepsOut s (execJmp g sa off t) := by
  unfold execJmp
  try dsimp only
  (repeat' split) <;> simp +contextual (maxDischargeDepth := 40) [h]

@[simp] theorem keeps_openLoop {s t : State} (h : Keeps s t) (n blen trips : Nat) : KeepsOut s (t.openLoop n blen trips) := by
  unfold State.openLoop
  extract_lets c fin outer
  split
  · simp [h]
  · split
    · exact (keepsOut_next _ _).2 (keeps_cur h _)
    · refine (keepsOut_next _ _).2 (keeps_setCtx h _ _ ?_)
      exact fun w => w

@[simp] theorem keeps_execLoop {s t : State} (h : Keeps s t) (g : Guard) (ln : BitVec 2) (blen : BitVec 12) (cnt : BitVec 16) : KeepsOut s (execLoop g ln blen cnt t) := by
  unfold execLoop
  try dsimp only
  (repeat' split) <;> simp +contextual (maxDischargeDepth := 40) [h]

@[simp] theorem keeps_execLoopm {s t : State} (h : Keeps s t) (g : Guard) (ln : BitVec 2) (blen : BitVec 12) (mbi : BitVec 4) : KeepsOut s (execLoopm g ln blen mbi t) := by
  unfold execLoopm
  try dsimp only
  (repeat' split) <;> simp +contextual (maxDischargeDepth := 40) [h]

@[simp] theorem keeps_execAlign {s t : State} (h : Keeps s t) (tag : BitVec 8) : KeepsOut s (execAlign tag t) := by
  unfold execAlign
  refine keeps_barred h _ ?_
  dsimp only
  split
  · split <;> simp [h]
  · split
    · simp [h]
    · split
      · simp [h]
      · split
        · simp [h]
        · exact (keepsOut_next _ _).2 (keeps_setCtx h _ _ id)

@[simp] theorem keeps_barrier {s t : State} (h : Keeps s t) (k : Nat) : Keeps s (t.barrier k) := by
  unfold State.barrier
  split
  · exact h
  · refine keeps_forAll h _ _ fun i _ u => keeps_modCtx (.refl u) _ _ fun x hx => ?_
    split
    · exact hx
    · simpa using hx

@[simp] theorem keeps_execAlignBarrierComplete {s t : State} (h : Keeps s t) (coh : Nat) : KeepsOut s (execAlignBarrierComplete coh t) := by
  unfold execAlignBarrierComplete
  try dsimp only
  (repeat' split) <;> simp +contextual (maxDischargeDepth := 40) [h]

@[simp] theorem keeps_waitHold {s t : State} (h : Keeps s t) (cause : HoldCause) (code : Nat) : KeepsOut s (State.waitHold t cause code) := by
  unfold State.waitHold
  try dsimp only
  (repeat' split) <;> simp +contextual (maxDischargeDepth := 40) [h]

@[simp] theorem keeps_execWaits {s t : State} (h : Keeps s t) (g : Guard) (sa : BitVec 6) : KeepsOut s (execWaits g sa t) := by
  unfold execWaits
  try dsimp only
  (repeat' split) <;> simp +contextual (maxDischargeDepth := 40) [h]

@[simp] theorem keeps_execWaitx {s t : State} (h : Keeps s t) (g : Guard) (ch : BitVec 2) (sa : BitVec 6) : KeepsOut s (execWaitx g ch sa t) := by
  unfold execWaitx
  try dsimp only
  (repeat' split) <;> simp +contextual (maxDischargeDepth := 40) [h]

@[simp] theorem keeps_execCycW {s t : State} (h : Keeps s t) (g : Guard) (sd : BitVec 6) : KeepsOut s (execCycW g sd t) := by
  unfold execCycW
  try dsimp only
  (repeat' split) <;> simp +contextual (maxDischargeDepth := 40) [h]

@[simp] theorem keeps_execCycC {s t : State} (h : Keeps s t) (g : Guard) (sd : BitVec 6) (se : BitVec 6) : KeepsOut s (execCycC g sd se t) := by
  unfold execCycC
  try dsimp only
  (repeat' split) <;> simp +contextual (maxDischargeDepth := 40) [h]

@[simp] theorem keeps_execRbegin {s t : State} (h : Keeps s t)  : KeepsOut s (execRbegin t) := by
  unfold execRbegin
  try dsimp only
  (repeat' split) <;> simp +contextual (maxDischargeDepth := 40) [h]

@[simp] theorem keeps_preserve {s t : State} (h : Keeps s t) (kind : Nat) (regs : List Nat) :
    Keeps s (t.preserve kind regs) := by
  unfold State.preserve
  exact keeps_forAll h _ _ fun r _ u => keeps_modCtx (.refl u) _ _ fun c hc => by simpa using hc

@[simp] theorem keeps_execRpres {s t : State} (h : Keeps s t) (kind : BitVec 3) (first : BitVec 10) (cnt : BitVec 7) :
    KeepsOut s (execRpres kind first cnt t) := by
  unfold execRpres
  refine keeps_barred h _ ?_
  split
  · simp [h]
  · dsimp only
    refine (keepsOut_next _ _).2 (keeps_preserve ?_ _ _)
    split <;> simp [h]

@[simp] theorem keeps_execRend {s t : State} (h : Keeps s t) (sd : BitVec 6) : KeepsOut s (execRend sd t) := by
  unfold execRend
  try dsimp only
  (repeat' split) <;> simp +contextual (maxDischargeDepth := 40) [h]

@[simp] theorem keeps_execRfail {s t : State} (h : Keeps s t) (g : Guard) : KeepsOut s (execRfail g t) := by
  unfold execRfail
  try dsimp only
  (repeat' split) <;> simp +contextual (maxDischargeDepth := 40) [h]

@[simp] theorem keeps_addUop {s t : State} (h : Keeps s t) (scope : Nat) (kind : UKind) : Keeps s (t.addUop scope kind) := by
  unfold State.addUop
  exact keeps_modCore h _ _ fun c hc => coreMem_of hc rfl rfl rfl

@[simp] theorem keeps_execFence {s t : State} (h : Keeps s t) (g : Guard) (scp : BitVec 3) : KeepsOut s (execFence g scp t) := by
  unfold execFence
  try dsimp only
  (repeat' split) <;> simp +contextual (maxDischargeDepth := 40) [h]

@[simp] theorem keeps_execIinv {s t : State} (h : Keeps s t) (g : Guard) (sa : BitVec 6) (sb : BitVec 6) : KeepsOut s (execIinv g sa sb t) := by
  unfold execIinv
  try dsimp only
  (repeat' split) <;> simp +contextual (maxDischargeDepth := 40) [h]

@[simp] theorem keeps_execIsync {s t : State} (h : Keeps s t) (g : Guard) : KeepsOut s (execIsync g t) := by
  unfold execIsync
  try dsimp only
  (repeat' split) <;> simp +contextual (maxDischargeDepth := 40) [h]

/-! ## Csr -/

@[simp] theorem keeps_setCsr {s t : State} (h : Keeps s t) (i : Nat) (n : Nat) (v : Word) : Keeps s (State.setCsr t i n v) := by
  unfold State.setCsr
  try dsimp only
  (repeat' split) <;> simp +contextual (maxDischargeDepth := 40) [h]

@[simp] theorem keeps_execCsrr {s t : State} (h : Keeps s t) (g : Guard) (sd : BitVec 6) (csr : BitVec 12) : KeepsOut s (execCsrr g sd csr t) := by
  unfold execCsrr
  try dsimp only
  (repeat' split) <;> simp +contextual (maxDischargeDepth := 40) [h]

@[simp] theorem keeps_execCsrw {s t : State} (h : Keeps s t) (g : Guard) (sa : BitVec 6) (csr : BitVec 12) : KeepsOut s (execCsrw g sa csr t) := by
  unfold execCsrw
  try dsimp only
  (repeat' split) <;> simp +contextual (maxDischargeDepth := 40) [h]

@[simp] theorem keeps_execMbr {s t : State} (h : Keeps s t) (g : Guard) (sd : BitVec 6) (mbi : BitVec 4) : KeepsOut s (execMbr g sd mbi t) := by
  unfold execMbr
  try dsimp only
  (repeat' split) <;> simp +contextual (maxDischargeDepth := 40) [h]

@[simp] theorem keeps_execMbw {s t : State} (h : Keeps s t) (g : Guard) (sa : BitVec 6) (mbi : BitVec 4) : KeepsOut s (execMbw g sa mbi t) := by
  unfold execMbw
  try dsimp only
  (repeat' split) <;> simp +contextual (maxDischargeDepth := 40) [h]

/-! ## Scalar -/

@[simp] theorem keeps_execTmpl {s t : State} (h : Keeps s t) (rpt : BitVec 8) (stk : BitVec 6) : KeepsOut s (execTmpl rpt stk t) := by
  unfold execTmpl
  try dsimp only
  simp +contextual (maxDischargeDepth := 40) [h]

@[simp] theorem keeps_execScope {s t : State} (h : Keeps s t) (scp : BitVec 3) : KeepsOut s (execScope scp t) := by
  unfold execScope
  try dsimp only
  simp +contextual (maxDischargeDepth := 40) [h]

@[simp] theorem keeps_execBlock {s t : State} (h : Keeps s t) (len : BitVec 8) : KeepsOut s (execBlock len t) := by
  unfold execBlock
  try dsimp only
  simp +contextual (maxDischargeDepth := 40) [h]

@[simp] theorem keeps_execXimm {s t : State} (h : Keeps s t) (tgt : BitVec 3) (x : BitVec 32) : KeepsOut s (execXimm tgt x t) := by
  unfold execXimm
  try dsimp only
  simp +contextual (maxDischargeDepth := 40) [h]

@[simp] theorem keeps_scalarOp {s t : State} (h : Keeps s t) (g : Guard) (sd : BitVec 6) (off : Nat) (f : Ctx → Word × NFlags) : KeepsOut s (scalarOp g sd off f t) := by
  unfold scalarOp
  try dsimp only
  (repeat' split) <;> simp +contextual (maxDischargeDepth := 40) [h]

@[simp] theorem keeps_predOp {s t : State} (h : Keeps s t) (g : Guard) (pd : Nat) (f : Ctx → Half) : KeepsOut s (predOp g pd f t) := by
  unfold predOp
  try dsimp only
  (repeat' split) <;> simp +contextual (maxDischargeDepth := 40) [h]

@[simp] theorem keeps_opRR {s t : State} (h : Keeps s t) (o : ScRR) (off : Nat) (f : Word → Word → Word × NFlags) : KeepsOut s (opRR o off f t) := by
  unfold opRR
  try dsimp only
  simp +contextual (maxDischargeDepth := 40) [h]

@[simp] theorem keeps_opRI {s t : State} (h : Keeps s t) (o : ScRI) (f : Word → Int → Word × NFlags) : KeepsOut s (opRI o f t) := by
  unfold opRI
  try dsimp only
  simp +contextual (maxDischargeDepth := 40) [h]

@[simp] theorem keeps_opRS {s t : State} (h : Keeps s t) (o : ScRS) (f : Word → Nat → Word) : KeepsOut s (opRS o f t) := by
  unfold opRS
  try dsimp only
  simp +contextual (maxDischargeDepth := 40) [h]

@[simp] theorem keeps_opRU {s t : State} (h : Keeps s t) (o : ScRU) (f : Word → Word) : KeepsOut s (opRU o f t) := by
  unfold opRU
  try dsimp only
  simp +contextual (maxDischargeDepth := 40) [h]

@[simp] theorem keeps_execAdd {s t : State} (h : Keeps s t) (sat : Bool) (o : ScRR) : KeepsOut s (execAdd sat o t) := by
  unfold execAdd
  try dsimp only
  simp +contextual (maxDischargeDepth := 40) [h]

@[simp] theorem keeps_execSub {s t : State} (h : Keeps s t) (sat : Bool) (o : ScRR) : KeepsOut s (execSub sat o t) := by
  unfold execSub
  try dsimp only
  simp +contextual (maxDischargeDepth := 40) [h]

@[simp] theorem keeps_execAddi {s t : State} (h : Keeps s t) (sat : Bool) (o : ScRI) : KeepsOut s (execAddi sat o t) := by
  unfold execAddi
  try dsimp only
  simp +contextual (maxDischargeDepth := 40) [h]

@[simp] theorem keeps_execMul {s t : State} (h : Keeps s t) (sat : Bool) (o : ScRR) : KeepsOut s (execMul sat o t) := by
  unfold execMul
  try dsimp only
  simp +contextual (maxDischargeDepth := 40) [h]

@[simp] theorem keeps_execMulh {s t : State} (h : Keeps s t) (o : ScRR) : KeepsOut s (execMulh o t) := by
  unfold execMulh
  try dsimp only
  simp +contextual (maxDischargeDepth := 40) [h]

@[simp] theorem keeps_execMulhu {s t : State} (h : Keeps s t) (o : ScRR) : KeepsOut s (execMulhu o t) := by
  unfold execMulhu
  try dsimp only
  simp +contextual (maxDischargeDepth := 40) [h]

@[simp] theorem keeps_execDiv {s t : State} (h : Keeps s t) (o : ScRR) : KeepsOut s (execDiv o t) := by
  unfold execDiv
  try dsimp only
  simp +contextual (maxDischargeDepth := 40) [h]

@[simp] theorem keeps_execDivu {s t : State} (h : Keeps s t) (o : ScRR) : KeepsOut s (execDivu o t) := by
  unfold execDivu
  try dsimp only
  simp +contextual (maxDischargeDepth := 40) [h]

@[simp] theorem keeps_execRem {s t : State} (h : Keeps s t) (o : ScRR) : KeepsOut s (execRem o t) := by
  unfold execRem
  try dsimp only
  simp +contextual (maxDischargeDepth := 40) [h]

@[simp] theorem keeps_execRemu {s t : State} (h : Keeps s t) (o : ScRR) : KeepsOut s (execRemu o t) := by
  unfold execRemu
  try dsimp only
  simp +contextual (maxDischargeDepth := 40) [h]

@[simp] theorem keeps_execAnd {s t : State} (h : Keeps s t) (o : ScRR) : KeepsOut s (execAnd o t) := by
  unfold execAnd
  try dsimp only
  simp +contextual (maxDischargeDepth := 40) [h]

@[simp] theorem keeps_execOr {s t : State} (h : Keeps s t) (o : ScRR) : KeepsOut s (execOr o t) := by
  unfold execOr
  try dsimp only
  simp +contextual (maxDischargeDepth := 40) [h]

@[simp] theorem keeps_execXor {s t : State} (h : Keeps s t) (o : ScRR) : KeepsOut s (execXor o t) := by
  unfold execXor
  try dsimp only
  simp +contextual (maxDischargeDepth := 40) [h]

@[simp] theorem keeps_execAndi {s t : State} (h : Keeps s t) (o : ScRI) : KeepsOut s (execAndi o t) := by
  unfold execAndi
  try dsimp only
  simp +contextual (maxDischargeDepth := 40) [h]

@[simp] theorem keeps_execOri {s t : State} (h : Keeps s t) (o : ScRI) : KeepsOut s (execOri o t) := by
  unfold execOri
  try dsimp only
  simp +contextual (maxDischargeDepth := 40) [h]

@[simp] theorem keeps_execXori {s t : State} (h : Keeps s t) (o : ScRI) : KeepsOut s (execXori o t) := by
  unfold execXori
  try dsimp only
  simp +contextual (maxDischargeDepth := 40) [h]

@[simp] theorem keeps_execShl {s t : State} (h : Keeps s t) (o : ScRR) : KeepsOut s (execShl o t) := by
  unfold execShl
  try dsimp only
  simp +contextual (maxDischargeDepth := 40) [h]

@[simp] theorem keeps_execShr {s t : State} (h : Keeps s t) (o : ScRR) : KeepsOut s (execShr o t) := by
  unfold execShr
  try dsimp only
  simp +contextual (maxDischargeDepth := 40) [h]

@[simp] theorem keeps_execSra {s t : State} (h : Keeps s t) (o : ScRR) : KeepsOut s (execSra o t) := by
  unfold execSra
  try dsimp only
  simp +contextual (maxDischargeDepth := 40) [h]

@[simp] theorem keeps_execShli {s t : State} (h : Keeps s t) (o : ScRS) : KeepsOut s (execShli o t) := by
  unfold execShli
  try dsimp only
  simp +contextual (maxDischargeDepth := 40) [h]

@[simp] theorem keeps_execShri {s t : State} (h : Keeps s t) (o : ScRS) : KeepsOut s (execShri o t) := by
  unfold execShri
  try dsimp only
  simp +contextual (maxDischargeDepth := 40) [h]

@[simp] theorem keeps_execSrai {s t : State} (h : Keeps s t) (o : ScRS) : KeepsOut s (execSrai o t) := by
  unfold execSrai
  try dsimp only
  simp +contextual (maxDischargeDepth := 40) [h]

@[simp] theorem keeps_execMin {s t : State} (h : Keeps s t) (o : ScRR) : KeepsOut s (execMin o t) := by
  unfold execMin
  try dsimp only
  simp +contextual (maxDischargeDepth := 40) [h]

@[simp] theorem keeps_execMax {s t : State} (h : Keeps s t) (o : ScRR) : KeepsOut s (execMax o t) := by
  unfold execMax
  try dsimp only
  simp +contextual (maxDischargeDepth := 40) [h]

@[simp] theorem keeps_execMinu {s t : State} (h : Keeps s t) (o : ScRR) : KeepsOut s (execMinu o t) := by
  unfold execMinu
  try dsimp only
  simp +contextual (maxDischargeDepth := 40) [h]

@[simp] theorem keeps_execMaxu {s t : State} (h : Keeps s t) (o : ScRR) : KeepsOut s (execMaxu o t) := by
  unfold execMaxu
  try dsimp only
  simp +contextual (maxDischargeDepth := 40) [h]

@[simp] theorem keeps_execClz {s t : State} (h : Keeps s t) (o : ScRU) : KeepsOut s (execClz o t) := by
  unfold execClz
  try dsimp only
  simp +contextual (maxDischargeDepth := 40) [h]

@[simp] theorem keeps_execPopc {s t : State} (h : Keeps s t) (o : ScRU) : KeepsOut s (execPopc o t) := by
  unfold execPopc
  try dsimp only
  simp +contextual (maxDischargeDepth := 40) [h]

@[simp] theorem keeps_execLi {s t : State} (h : Keeps s t) (g : Guard) (sd : BitVec 6) (imm : BitVec 14) : KeepsOut s (execLi g sd imm t) := by
  unfold execLi
  try dsimp only
  simp +contextual (maxDischargeDepth := 40) [h]

@[simp] theorem keeps_execMov {s t : State} (h : Keeps s t) (o : ScRU) : KeepsOut s (execMov o t) := by
  unfold execMov
  try dsimp only
  simp +contextual (maxDischargeDepth := 40) [h]

@[simp] theorem keeps_execSel {s t : State} (h : Keeps s t) (pc : BitVec 4) (o : ScRR) : KeepsOut s (execSel pc o t) := by
  unfold execSel
  try dsimp only
  simp +contextual (maxDischargeDepth := 40) [h]

@[simp] theorem keeps_execCmp {s t : State} (h : Keeps s t) (o : ScCmp) : KeepsOut s (execCmp o t) := by
  unfold execCmp
  try dsimp only
  simp +contextual (maxDischargeDepth := 40) [h]

@[simp] theorem keeps_execCmpi {s t : State} (h : Keeps s t) (o : ScCmp) : KeepsOut s (execCmpi o t) := by
  unfold execCmpi
  try dsimp only
  simp +contextual (maxDischargeDepth := 40) [h]

@[simp] theorem keeps_opPP {s t : State} (h : Keeps s t) (o : ScPP) (f : Half → Half → Half) : KeepsOut s (opPP o f t) := by
  unfold opPP
  try dsimp only
  simp +contextual (maxDischargeDepth := 40) [h]

@[simp] theorem keeps_execPand {s t : State} (h : Keeps s t) (o : ScPP) : KeepsOut s (execPand o t) := by
  unfold execPand
  try dsimp only
  simp +contextual (maxDischargeDepth := 40) [h]

@[simp] theorem keeps_execPor {s t : State} (h : Keeps s t) (o : ScPP) : KeepsOut s (execPor o t) := by
  unfold execPor
  try dsimp only
  simp +contextual (maxDischargeDepth := 40) [h]

@[simp] theorem keeps_execPxor {s t : State} (h : Keeps s t) (o : ScPP) : KeepsOut s (execPxor o t) := by
  unfold execPxor
  try dsimp only
  simp +contextual (maxDischargeDepth := 40) [h]

@[simp] theorem keeps_execPandn {s t : State} (h : Keeps s t) (o : ScPP) : KeepsOut s (execPandn o t) := by
  unfold execPandn
  try dsimp only
  simp +contextual (maxDischargeDepth := 40) [h]

@[simp] theorem keeps_execPmovPP {s t : State} (h : Keeps s t) (g : Guard) (dst : BitVec 6) (src : BitVec 6) : KeepsOut s (execPmovPP g dst src t) := by
  unfold execPmovPP
  try dsimp only
  simp +contextual (maxDischargeDepth := 40) [h]

@[simp] theorem keeps_execPmovPS {s t : State} (h : Keeps s t) (g : Guard) (dst : BitVec 6) (src : BitVec 6) : KeepsOut s (execPmovPS g dst src t) := by
  unfold execPmovPS
  try dsimp only
  simp +contextual (maxDischargeDepth := 40) [h]

@[simp] theorem keeps_execPmovSP {s t : State} (h : Keeps s t) (g : Guard) (dst : BitVec 6) (src : BitVec 6) : KeepsOut s (execPmovSP g dst src t) := by
  unfold execPmovSP
  try dsimp only
  simp +contextual (maxDischargeDepth := 40) [h]

/-! ## Vector -/

@[simp] theorem keeps_landV {s t : State} (h : Keeps s t) (o : VOp) (off : Nat) (r : Nat) (mask : VWord) (v : VWord) (flags : NFlags) : Keeps s (State.landV t o off r mask v flags) := by
  unfold State.landV
  try dsimp only
  (repeat' split) <;> simp +contextual (maxDischargeDepth := 40) [h]

@[simp] theorem keeps_vecOut {s t : State} (h : Keeps s t) (o : VOp) (off : Nat) (w : Nat) (f : Nat → Nat × NFlags) : KeepsOut s (vecOut o off w f t) := by
  unfold vecOut
  try dsimp only
  (repeat' split) <;> simp +contextual (maxDischargeDepth := 40) [h]

@[simp] theorem keeps_vecBits {s t : State} (h : Keeps s t) (o : VOp) (off : Nat) (v : VWord) : KeepsOut s (vecBits o off v t) := by
  unfold vecBits
  try dsimp only
  (repeat' split) <;> simp +contextual (maxDischargeDepth := 40) [h]

@[simp] theorem keeps_vecBin {s t : State} (h : Keeps s t) (o : VOp) (offF : Nat) (offI : Nat) (ff : Fmt → FV → FV → Nat × NFlags) (fi : Nat → Nat → Nat → Nat × NFlags) : KeepsOut s (vecBin o offF offI ff fi t) := by
  unfold vecBin
  try dsimp only
  (repeat' split) <;> simp +contextual (maxDischargeDepth := 40) [h]

@[simp] theorem keeps_vecUn {s t : State} (h : Keeps s t) (o : VOp) (off : Nat) (f : Nat → Nat → Nat × NFlags) : KeepsOut s (vecUn o off f t) := by
  unfold vecUn
  try dsimp only
  simp +contextual (maxDischargeDepth := 40) [h]

@[simp] theorem keeps_execVadd {s t : State} (h : Keeps s t) (o : VOp) : KeepsOut s (execVadd o t) := by
  unfold execVadd
  try dsimp only
  simp +contextual (maxDischargeDepth := 40) [h]

@[simp] theorem keeps_execVsub {s t : State} (h : Keeps s t) (o : VOp) : KeepsOut s (execVsub o t) := by
  unfold execVsub
  try dsimp only
  simp +contextual (maxDischargeDepth := 40) [h]

@[simp] theorem keeps_execVmul {s t : State} (h : Keeps s t) (o : VOp) : KeepsOut s (execVmul o t) := by
  unfold execVmul
  try dsimp only
  simp +contextual (maxDischargeDepth := 40) [h]

@[simp] theorem keeps_execVmulh {s t : State} (h : Keeps s t) (o : VOp) (u : Bool) : KeepsOut s (execVmulh o u t) := by
  unfold execVmulh
  try dsimp only
  (repeat' split) <;> simp +contextual (maxDischargeDepth := 40) [h]

@[simp] theorem keeps_vecFused {s t : State} (h : Keeps s t) (o : VOp) (f : FV → FV → FV → FV × FV × FV) : KeepsOut s (vecFused o f t) := by
  unfold vecFused
  try dsimp only
  simp +contextual (maxDischargeDepth := 40) [h]

@[simp] theorem keeps_execVfma {s t : State} (h : Keeps s t) (o : VOp) : KeepsOut s (execVfma o t) := by
  unfold execVfma
  try dsimp only
  simp +contextual (maxDischargeDepth := 40) [h]

@[simp] theorem keeps_execVfms {s t : State} (h : Keeps s t) (o : VOp) : KeepsOut s (execVfms o t) := by
  unfold execVfms
  try dsimp only
  simp +contextual (maxDischargeDepth := 40) [h]

@[simp] theorem keeps_execVfnma {s t : State} (h : Keeps s t) (o : VOp) : KeepsOut s (execVfnma o t) := by
  unfold execVfnma
  try dsimp only
  simp +contextual (maxDischargeDepth := 40) [h]

@[simp] theorem keeps_execVmac {s t : State} (h : Keeps s t) (o : VOp) : KeepsOut s (execVmac o t) := by
  unfold execVmac
  try dsimp only
  (repeat' split) <;> simp +contextual (maxDischargeDepth := 40) [h]

@[simp] theorem keeps_execVmin {s t : State} (h : Keeps s t) (o : VOp) : KeepsOut s (execVmin o t) := by
  unfold execVmin
  try dsimp only
  simp +contextual (maxDischargeDepth := 40) [h]

@[simp] theorem keeps_execVmax {s t : State} (h : Keeps s t) (o : VOp) : KeepsOut s (execVmax o t) := by
  unfold execVmax
  try dsimp only
  simp +contextual (maxDischargeDepth := 40) [h]

@[simp] theorem keeps_execVminu {s t : State} (h : Keeps s t) (o : VOp) : KeepsOut s (execVminu o t) := by
  unfold execVminu
  try dsimp only
  simp +contextual (maxDischargeDepth := 40) [h]

@[simp] theorem keeps_execVmaxu {s t : State} (h : Keeps s t) (o : VOp) : KeepsOut s (execVmaxu o t) := by
  unfold execVmaxu
  try dsimp only
  simp +contextual (maxDischargeDepth := 40) [h]

@[simp] theorem keeps_execVabs {s t : State} (h : Keeps s t) (o : VOp) : KeepsOut s (execVabs o t) := by
  unfold execVabs
  try dsimp only
  (repeat' split) <;> simp +contextual (maxDischargeDepth := 40) [h]

@[simp] theorem keeps_execVneg {s t : State} (h : Keeps s t) (o : VOp) : KeepsOut s (execVneg o t) := by
  unfold execVneg
  try dsimp only
  (repeat' split) <;> simp +contextual (maxDischargeDepth := 40) [h]

@[simp] theorem keeps_vecLogic {s t : State} (h : Keeps s t) (o : VOp) (f : VWord → VWord → VWord) : KeepsOut s (vecLogic o f t) := by
  unfold vecLogic
  try dsimp only
  simp +contextual (maxDischargeDepth := 40) [h]

@[simp] theorem keeps_execVand {s t : State} (h : Keeps s t) (o : VOp) : KeepsOut s (execVand o t) := by
  unfold execVand
  try dsimp only
  simp +contextual (maxDischargeDepth := 40) [h]

@[simp] theorem keeps_execVor {s t : State} (h : Keeps s t) (o : VOp) : KeepsOut s (execVor o t) := by
  unfold execVor
  try dsimp only
  simp +contextual (maxDischargeDepth := 40) [h]

@[simp] theorem keeps_execVxor {s t : State} (h : Keeps s t) (o : VOp) : KeepsOut s (execVxor o t) := by
  unfold execVxor
  try dsimp only
  simp +contextual (maxDischargeDepth := 40) [h]

@[simp] theorem keeps_execVandn {s t : State} (h : Keeps s t) (o : VOp) : KeepsOut s (execVandn o t) := by
  unfold execVandn
  try dsimp only
  simp +contextual (maxDischargeDepth := 40) [h]

@[simp] theorem keeps_vecShift {s t : State} (h : Keeps s t) (o : VOp) (f : Nat → Nat → Nat → Nat) : KeepsOut s (vecShift o f t) := by
  unfold vecShift
  try dsimp only
  simp +contextual (maxDischargeDepth := 40) [h]

@[simp] theorem keeps_vecShiftImm {s t : State} (h : Keeps s t) (o : VOp) (k : BitVec 5) (f : Nat → Nat → Nat → Nat) : KeepsOut s (vecShiftImm o k f t) := by
  unfold vecShiftImm
  try dsimp only
  simp +contextual (maxDischargeDepth := 40) [h]

@[simp] theorem keeps_execVshl {s t : State} (h : Keeps s t) (o : VOp) : KeepsOut s (execVshl o t) := by
  unfold execVshl
  try dsimp only
  simp +contextual (maxDischargeDepth := 40) [h]

@[simp] theorem keeps_execVshlImm {s t : State} (h : Keeps s t) (o : VOp) (k : BitVec 5) : KeepsOut s (execVshlImm o k t) := by
  unfold execVshlImm
  try dsimp only
  simp +contextual (maxDischargeDepth := 40) [h]

@[simp] theorem keeps_execVshr {s t : State} (h : Keeps s t) (o : VOp) : KeepsOut s (execVshr o t) := by
  unfold execVshr
  try dsimp only
  simp +contextual (maxDischargeDepth := 40) [h]

@[simp] theorem keeps_execVshrImm {s t : State} (h : Keeps s t) (o : VOp) (k : BitVec 5) : KeepsOut s (execVshrImm o k t) := by
  unfold execVshrImm
  try dsimp only
  simp +contextual (maxDischargeDepth := 40) [h]

@[simp] theorem keeps_execVsra {s t : State} (h : Keeps s t) (o : VOp) : KeepsOut s (execVsra o t) := by
  unfold execVsra
  try dsimp only
  simp +contextual (maxDischargeDepth := 40) [h]

@[simp] theorem keeps_execVsraImm {s t : State} (h : Keeps s t) (o : VOp) (k : BitVec 5) : KeepsOut s (execVsraImm o k t) := by
  unfold execVsraImm
  try dsimp only
  simp +contextual (maxDischargeDepth := 40) [h]

@[simp] theorem keeps_execVcmp {s t : State} (h : Keeps s t) (o : VOp) (cc : BitVec 4) : KeepsOut s (execVcmp o cc t) := by
  unfold execVcmp
  try dsimp only
  simp +contextual (maxDischargeDepth := 40) [h]

@[simp] theorem keeps_execVcmpP {s t : State} (h : Keeps s t) (o : VOp) (cc : BitVec 4) : KeepsOut s (execVcmpP o cc t) := by
  unfold execVcmpP
  try dsimp only
  (repeat' split) <;> simp +contextual (maxDischargeDepth := 40) [h]

@[simp] theorem keeps_execVsel {s t : State} (h : Keeps s t) (o : VOp) (ps : BitVec 4) : KeepsOut s (execVsel o ps t) := by
  unfold execVsel
  try dsimp only
  simp +contextual (maxDischargeDepth := 40) [h]

@[simp] theorem keeps_execVmov {s t : State} (h : Keeps s t) (o : VOp) : KeepsOut s (execVmov o t) := by
  unfold execVmov
  try dsimp only
  simp +contextual (maxDischargeDepth := 40) [h]

@[simp] theorem keeps_execVbc {s t : State} (h : Keeps s t) (o : VOp) (idx : BitVec 7) : KeepsOut s (execVbc o idx t) := by
  unfold execVbc
  try dsimp only
  simp +contextual (maxDischargeDepth := 40) [h]

@[simp] theorem keeps_execVbcImm {s t : State} (h : Keeps s t) (o : VOp) (imm : BitVec 8) : KeepsOut s (execVbcImm o imm t) := by
  unfold execVbcImm
  try dsimp only
  simp +contextual (maxDischargeDepth := 40) [h]

@[simp] theorem keeps_execVred {s t : State} (h : Keeps s t) (o : VOp) (op : BitVec 3) : KeepsOut s (execVred o op t) := by
  unfold execVred
  try dsimp only
  (repeat' split) <;> simp +contextual (maxDischargeDepth := 40) [h]

@[simp] theorem keeps_execVperm {s t : State} (h : Keeps s t) (o : VOp) : KeepsOut s (execVperm o t) := by
  unfold execVperm
  try dsimp only
  simp +contextual (maxDischargeDepth := 40) [h]

@[simp] theorem keeps_execVrot {s t : State} (h : Keeps s t) (o : VOp) (k : BitVec 7) : KeepsOut s (execVrot o k t) := by
  unfold execVrot
  try dsimp only
  simp +contextual (maxDischargeDepth := 40) [h]

@[simp] theorem keeps_execVslideDn {s t : State} (h : Keeps s t) (o : VOp) (k : BitVec 7) : KeepsOut s (execVslideDn o k t) := by
  unfold execVslideDn
  try dsimp only
  simp +contextual (maxDischargeDepth := 40) [h]

@[simp] theorem keeps_execVslideUp {s t : State} (h : Keeps s t) (o : VOp) (k : BitVec 7) : KeepsOut s (execVslideUp o k t) := by
  unfold execVslideUp
  try dsimp only
  simp +contextual (maxDischargeDepth := 40) [h]

/-! ## VectorConv -/

@[simp] theorem keeps_execVcvt {s t : State} (h : Keeps s t) (o : VOp) (dst : BitVec 4) (src : BitVec 4) : KeepsOut s (execVcvt o dst src t) := by
  unfold execVcvt
  try dsimp only
  (repeat' split) <;> simp +contextual (maxDischargeDepth := 40) [h]

@[simp] theorem keeps_execVtint {s t : State} (h : Keeps s t) (o : VOp) : KeepsOut s (execVtint o t) := by
  unfold execVtint
  try dsimp only
  (repeat' split) <;> simp +contextual (maxDischargeDepth := 40) [h]

@[simp] theorem keeps_vecFun {s t : State} (h : Keeps s t) (o : VOp) (f : Fmt → Nat → Bool → FV → Nat × NFlags) : KeepsOut s (vecFun o f t) := by
  unfold vecFun
  try dsimp only
  simp +contextual (maxDischargeDepth := 40) [h]

@[simp] theorem keeps_execVrcp {s t : State} (h : Keeps s t) (o : VOp) : KeepsOut s (execVrcp o t) := by
  unfold execVrcp
  try dsimp only
  simp +contextual (maxDischargeDepth := 40) [h]

@[simp] theorem keeps_execVrsq {s t : State} (h : Keeps s t) (o : VOp) : KeepsOut s (execVrsq o t) := by
  unfold execVrsq
  try dsimp only
  simp +contextual (maxDischargeDepth := 40) [h]

@[simp] theorem keeps_execVexp2 {s t : State} (h : Keeps s t) (o : VOp) : KeepsOut s (execVexp2 o t) := by
  unfold execVexp2
  try dsimp only
  simp +contextual (maxDischargeDepth := 40) [h]

@[simp] theorem keeps_execVlog2 {s t : State} (h : Keeps s t) (o : VOp) : KeepsOut s (execVlog2 o t) := by
  unfold execVlog2
  try dsimp only
  simp +contextual (maxDischargeDepth := 40) [h]

@[simp] theorem keeps_execVscl {s t : State} (h : Keeps s t) (o : VOp) : KeepsOut s (execVscl o t) := by
  unfold execVscl
  try dsimp only
  (repeat' split) <;> simp +contextual (maxDischargeDepth := 40) [h]

@[simp] theorem keeps_quantise {s t : State} (h : Keeps s t) (o : VOp) (q : Nat) (n : Nat) (width : Nat) (bias : Int) (steps : Int) (lo : Int) (hi : Int) : KeepsOut s (quantise o q n width bias steps lo hi t) := by
  unfold quantise
  try dsimp only
  (repeat' split) <;> simp +contextual (maxDischargeDepth := 40) [h]

@[simp] theorem keeps_execVmxq {s t : State} (h : Keeps s t) (o : VOp) (q : BitVec 2) : KeepsOut s (execVmxq o q t) := by
  unfold execVmxq
  try dsimp only
  simp +contextual (maxDischargeDepth := 40) [h]

@[simp] theorem keeps_execVbfpq {s t : State} (h : Keeps s t) (o : VOp) (n : BitVec 4) (q : BitVec 4) : KeepsOut s (execVbfpq o n q t) := by
  unfold execVbfpq
  try dsimp only
  simp +contextual (maxDischargeDepth := 40) [h]

@[simp] theorem keeps_execVdqg {s t : State} (h : Keeps s t) (o : VOp) (gs : BitVec 3) (eb : Bool) (nm : BitVec 3) (hh : Bool) : KeepsOut s (execVdqg o gs eb nm hh t) := by
  unfold execVdqg
  try dsimp only
  (repeat' split) <;> simp +contextual (maxDischargeDepth := 40) [h]

/-! ## Scratch -/

@[simp] theorem keeps_addrTrap {s t : State} (h : Keeps s t) (addr : Int) : KeepsOut s (addrTrap t addr) := by
  unfold addrTrap
  try dsimp only
  simp +contextual (maxDischargeDepth := 40) [h]

@[simp] theorem keeps_scalarMem {s t : State} (h : Keeps s t) (o : ScMem) (k : Nat → Nat → State → State)
    (hk : ∀ n a u, Keeps s u → Keeps s (k n a u)) : KeepsOut s (scalarMem o t k) := by
  unfold scalarMem addrTrap
  dsimp only
  (repeat' split) <;> simp (maxDischargeDepth := 40) [h, hk]

@[simp] theorem keeps_execLds {s t : State} (h : Keeps s t) (o : ScMem) (u : Bool) : KeepsOut s (execLds o u t) := by
  unfold execLds
  try dsimp only
  simp +contextual (maxDischargeDepth := 40) [h]

@[simp] theorem keeps_execSts {s t : State} (h : Keeps s t) (o : ScMem) : KeepsOut s (execSts o t) := by
  unfold execSts
  try dsimp only
  simp +contextual (maxDischargeDepth := 40) [h]

@[simp] theorem keeps_vecMem {s t : State} (h : Keeps s t) (o : VMem) (k : Int → Half → State → Out)
    (hk : ∀ a m u, Keeps s u → KeepsOut s (k a m u)) : KeepsOut s (vecMem o t k) := by
  unfold vecMem
  dsimp only
  split <;> simp (maxDischargeDepth := 40) [h, hk]

@[simp] theorem keeps_shadowLoad {s t : State} (h : Keeps s t) (o : VMem) (off : Nat) (m : Half) : KeepsOut s (shadowLoad o off m t) := by
  unfold shadowLoad
  try dsimp only
  simp +contextual (maxDischargeDepth := 40) [h]

@[simp] theorem keeps_shadowStore {s t : State} (h : Keeps s t) (o : VMem) (off : Nat) (l : List (Nat × Int)) :
    KeepsOut s (shadowStore o off l t) := by
  unfold shadowStore
  try dsimp only
  simp +contextual (maxDischargeDepth := 40) [h]

@[simp] theorem keeps_execVld {s t : State} (h : Keeps s t) (o : VMem) : KeepsOut s (execVld o t) := by
  unfold execVld
  try dsimp only
  (repeat' split) <;> simp +contextual (maxDischargeDepth := 40) [h]

@[simp] theorem keeps_execVst {s t : State} (h : Keeps s t) (o : VMem) : KeepsOut s (execVst o t) := by
  unfold execVst
  try dsimp only
  (repeat' split) <;> simp +contextual (maxDischargeDepth := 40) [h]

@[simp] theorem keeps_checked {s t : State} (h : Keeps s t) (rows : Nat) (l : List (Nat × Int)) (k : List (Nat × Nat) → State → Out)
    (hk : ∀ l, KeepsOut s (k l t)) : KeepsOut s (checked rows l t k) := by
  unfold checked
  dsimp only
  (repeat' split) <;> simp [h, hk]

@[simp] theorem keeps_execVlds {s t : State} (h : Keeps s t) (o : VMem) : KeepsOut s (execVlds o t) := by
  unfold execVlds
  try dsimp only
  (repeat' split) <;> simp +contextual (maxDischargeDepth := 40) [h]

@[simp] theorem keeps_execVgth {s t : State} (h : Keeps s t) (o : VMem) : KeepsOut s (execVgth o t) := by
  unfold execVgth
  try dsimp only
  (repeat' split) <;> simp +contextual (maxDischargeDepth := 40) [h]

@[simp] theorem keeps_execVsct {s t : State} (h : Keeps s t) (o : VMem) : KeepsOut s (execVsct o t) := by
  unfold execVsct
  try dsimp only
  (repeat' split) <;> simp +contextual (maxDischargeDepth := 40) [h]

/-! ## Fabric -/

@[simp] theorem keeps_irrevocable {s t : State} (h : Keeps s t)  : Keeps s (State.irrevocable t) := by
  unfold State.irrevocable
  try dsimp only
  simp +contextual (maxDischargeDepth := 40) [h]

@[simp] theorem keeps_place {s t : State} (h : Keeps s t) (site : Nat) (a : Access) : Keeps s (State.place t site a) := by
  unfold State.place
  try dsimp only
  simp +contextual (maxDischargeDepth := 40) [h]

@[simp] theorem keeps_fabric {s t : State} (h : Keeps s t) (o : DOp) (sr : BitVec 6) (peer : BitVec 7) (sz : BitVec 2)
    (k : Nat → Nat → Nat → Nat → Nat × Bool → Cohort → State → State)
    (hk : ∀ n a b i x c u, Keeps s u → Keeps s (k n a b i x c u)) : KeepsOut s (fabric o sr peer sz t k) := by
  unfold fabric
  refine keeps_withScalar h _ _ _ fun v => ?_
  dsimp only
  split
  · simp [h]
  · refine keeps_barred (keeps_setEa h _ _) _ ?_
    (repeat' split) <;> simp (maxDischargeDepth := 40) [h, hk]

@[simp] theorem keeps_execPush {s t : State} (h : Keeps s t) (o : DOp) (sr : BitVec 6) (peer : BitVec 7) (sz : BitVec 2) : KeepsOut s (execPush o sr peer sz t) := by
  unfold execPush
  try dsimp only
  simp +contextual (maxDischargeDepth := 40) [h]

@[simp] theorem keeps_execPull {s t : State} (h : Keeps s t) (o : DOp) (sr : BitVec 6) (peer : BitVec 7) (sz : BitVec 2) : KeepsOut s (execPull o sr peer sz t) := by
  unfold execPull
  try dsimp only
  simp +contextual (maxDischargeDepth := 40) [h]

/-! ## Crossbar -/

@[simp] theorem keeps_modMyBank {s t : State} (h : Keeps s t) (f : Bank → Bank) : Keeps s (State.modMyBank t f) := by
  unfold State.modMyBank
  try dsimp only
  simp +contextual (maxDischargeDepth := 40) [h]

@[simp] theorem keeps_occupy {s t : State} (h : Keeps s t) (w : List (Nat × Nat × Nat)) : Keeps s (State.occupy t w) := by
  unfold State.occupy
  try dsimp only
  simp +contextual (maxDischargeDepth := 40) [h]

@[simp] theorem keeps_landXmv {s t : State} (h : Keeps s t) (off : Nat) (vd : Nat) (sx : Nat) (grp : Nat) (top : Nat) (out : List Int) (sat : Nat) (fb : Nat) (clip : BitVec 256) : Keeps s (State.landXmv t off vd sx grp top out sat fb clip) := by
  unfold State.landXmv
  try dsimp only
  simp +contextual (maxDischargeDepth := 40) [h]

@[simp] theorem keeps_startXmv {s t : State} (h : Keeps s t) (o : XmvOp) (w : Word) (n : Nat) (copy : Int) (fit : Bool) (nan : Bool) : Keeps s (State.startXmv t o w n copy fit nan) := by
  unfold State.startXmv
  try dsimp only
  (repeat' split) <;> simp +contextual (maxDischargeDepth := 40) [h]

@[simp] theorem keeps_execXmv {s t : State} (h : Keeps s t) (o : XmvOp) : KeepsOut s (execXmv o t) := by
  unfold execXmv
  try dsimp only
  (repeat' split) <;> simp +contextual (maxDischargeDepth := 40) [h]

@[simp] theorem keeps_execXmvFallbackEnd {s t : State} (h : Keeps s t) (coh : Nat) : KeepsOut s (execXmvFallbackEnd coh t) := by
  unfold execXmvFallbackEnd
  try dsimp only
  simp +contextual (maxDischargeDepth := 40) [h]

@[simp] theorem keeps_execXswap {s t : State} (h : Keeps s t) (g : Guard) (grp : BitVec 6) : KeepsOut s (execXswap g grp t) := by
  unfold execXswap
  try dsimp only
  (repeat' split) <;> simp +contextual (maxDischargeDepth := 40) [h]

@[simp] theorem keeps_execXstat {s t : State} (h : Keeps s t) (g : Guard) (sd : BitVec 6) (idx : BitVec 7) : KeepsOut s (execXstat g sd idx t) := by
  unfold execXstat
  try dsimp only
  (repeat' split) <;> simp +contextual (maxDischargeDepth := 40) [h]

@[simp] theorem keeps_execXstatA {s t : State} (h : Keeps s t) (g : Guard) (sd : BitVec 6) (idx : BitVec 7) : KeepsOut s (execXstatA g sd idx t) := by
  unfold execXstatA
  try dsimp only
  (repeat' split) <;> simp +contextual (maxDischargeDepth := 40) [h]

/-! ## Calib -/

@[simp] theorem keeps_calib {s t : State} (h : Keeps s t) (o : XOp) (k : Nat → Nat → State → Out)
    (hk : ∀ a b u, Keeps s u → KeepsOut s (k a b u)) : KeepsOut s (calib o t k) := by
  unfold calib
  refine keeps_withScalar h _ _ _ fun v => ?_
  dsimp only
  split <;> simp (maxDischargeDepth := 40) [h, hk]

@[simp] theorem keeps_configTrap {s t : State} (h : Keeps s t) (a : Nat) (reason : Nat) : KeepsOut s (configTrap t a reason) := by
  unfold configTrap
  try dsimp only
  simp +contextual (maxDischargeDepth := 40) [h]

@[simp] theorem keeps_calibCheck {s t : State} (h : Keeps s t) (a : Nat) (writes reads thermal : Bool) (w : List (Nat × Nat × Nat))
    (k : State → Out) (hk : ∀ u, Keeps s u → KeepsOut s (k u)) :
    KeepsOut s (t.calibCheck a writes reads thermal w k) := by
  unfold State.calibCheck configTrap
  dsimp only
  (repeat' split) <;> simp (maxDischargeDepth := 40) [h, hk]

@[simp] theorem keeps_bankLater {s t : State} (h : Keeps s t) (off : Nat) (e : BankEffect) : Keeps s (State.bankLater t off e) := by
  unfold State.bankLater
  try dsimp only
  simp +contextual (maxDischargeDepth := 40) [h]

@[simp] theorem keeps_writeOp {s t : State} (h : Keeps s t) (a : Nat) (commit : Bool) : Keeps s (State.writeOp t a commit) := by
  unfold State.writeOp
  try dsimp only
  simp +contextual (maxDischargeDepth := 40) [h]

@[simp] theorem keeps_xprog {s t : State} (h : Keeps s t) (reset : Bool) (o : XOp) (vm : BitVec 10) (win : BitVec 3) (amp : BitVec 4) : KeepsOut s (xprog reset o vm win amp t) := by
  unfold xprog
  try dsimp only
  (repeat' split) <;> simp +contextual (maxDischargeDepth := 40) [h]

@[simp] theorem keeps_execXprogSet {s t : State} (h : Keeps s t) (o : XOp) (vm : BitVec 10) (win : BitVec 3) (amp : BitVec 4) : KeepsOut s (execXprogSet o vm win amp t) := by
  unfold execXprogSet
  try dsimp only
  simp +contextual (maxDischargeDepth := 40) [h]

@[simp] theorem keeps_execXprogRst {s t : State} (h : Keeps s t) (o : XOp) (vm : BitVec 10) (win : BitVec 3) (amp : BitVec 4) : KeepsOut s (execXprogRst o vm win amp t) := by
  unfold execXprogRst
  try dsimp only
  simp +contextual (maxDischargeDepth := 40) [h]

@[simp] theorem keeps_xerase {s t : State} (h : Keeps s t) (all : Bool) (o : XOp) : KeepsOut s (xerase all o t) := by
  unfold xerase
  try dsimp only
  (repeat' split) <;> simp +contextual (maxDischargeDepth := 40) [h]

@[simp] theorem keeps_execXerase {s t : State} (h : Keeps s t) (o : XOp) : KeepsOut s (execXerase o t) := by
  unfold execXerase
  try dsimp only
  simp +contextual (maxDischargeDepth := 40) [h]

@[simp] theorem keeps_execXeraseAll {s t : State} (h : Keeps s t) (o : XOp) : KeepsOut s (execXeraseAll o t) := by
  unfold execXeraseAll
  try dsimp only
  simp +contextual (maxDischargeDepth := 40) [h]

@[simp] theorem keeps_execXread {s t : State} (h : Keeps s t) (o : XOp) (vd : BitVec 10) (win : BitVec 3) : KeepsOut s (execXread o vd win t) := by
  unfold execXread
  try dsimp only
  simp +contextual (maxDischargeDepth := 40) [h]

@[simp] theorem keeps_execXreadE {s t : State} (h : Keeps s t) (o : XOp) (vd : BitVec 10) (ve : BitVec 10) (rs : BitVec 3) (win : BitVec 3) : KeepsOut s (execXreadE o vd ve rs win t) := by
  unfold execXreadE
  try dsimp only
  simp +contextual (maxDischargeDepth := 40) [h]

@[simp] theorem keeps_execXremap {s t : State} (h : Keeps s t) (o : XOp) (spr : BitVec 4) : KeepsOut s (execXremap o spr t) := by
  unfold execXremap
  try dsimp only
  simp +contextual (maxDischargeDepth := 40) [h]

@[simp] theorem keeps_execXdrift {s t : State} (h : Keeps s t) (o : XOp) (vd : BitVec 10) : KeepsOut s (execXdrift o vd t) := by
  unfold execXdrift
  refine keeps_calib h _ _ fun a b u hu => keeps_calibCheck hu _ _ _ _ _ _ fun v hv => ?_
  refine (keepsOut_next _ _).2 (keeps_once ?_ _ fun w hw => keeps_landing hw _ _ _ _)
  exact keeps_bankLater (keeps_modMyBank (keeps_fresh hv _) _) _ _

@[simp] theorem keeps_execXcalO {s t : State} (h : Keeps s t) (o : XOp) (vs : BitVec 10) : KeepsOut s (execXcalO o vs t) := by
  unfold execXcalO
  try dsimp only
  simp +contextual (maxDischargeDepth := 40) [h]

@[simp] theorem keeps_execXcalG {s t : State} (h : Keeps s t) (o : XOp) (vs : BitVec 10) : KeepsOut s (execXcalG o vs t) := by
  unfold execXcalG
  try dsimp only
  simp +contextual (maxDischargeDepth := 40) [h]

@[simp] theorem keeps_execXcalGC {s t : State} (h : Keeps s t) (o : XOp) (vs : BitVec 10) (rs : BitVec 3) : KeepsOut s (execXcalGC o vs rs t) := by
  unfold execXcalGC
  try dsimp only
  simp +contextual (maxDischargeDepth := 40) [h]

@[simp] theorem keeps_execXwear {s t : State} (h : Keeps s t) (o : XOp) (sd : BitVec 6) : KeepsOut s (execXwear o sd t) := by
  unfold execXwear
  try dsimp only
  simp +contextual (maxDischargeDepth := 40) [h]

@[simp] theorem keeps_bankLand {s t : State} (h : Keeps s t) (i : Nat) (p : BankPend) : Keeps s (t.bankLand i p) := by
  unfold State.bankLand
  refine keeps_modBank (h.trans ?_) _ _
  exact ⟨rfl, rfl, Nat.le_refl _, .inl rfl, fun m => ⟨m.host, m.sync, m.core, m.pch⟩⟩

@[simp] theorem keeps_landBank {s t : State} (h : Keeps s t) (i : Nat) (f : BankEffect → Bool) : Keeps s (State.landBank t i f) := by
  unfold State.landBank
  try dsimp only
  simp +contextual (maxDischargeDepth := 40) [h]

@[simp] theorem keeps_execCommitSweepComplete {s t : State} (h : Keeps s t) (site : Nat) (arr : Nat) : KeepsOut s (execCommitSweepComplete site arr t) := by
  unfold execCommitSweepComplete
  try dsimp only
  simp +contextual (maxDischargeDepth := 40) [h]

@[simp] theorem keeps_execPulseSettle {s t : State} (h : Keeps s t) (site : Nat) (arr : Nat) : KeepsOut s (execPulseSettle site arr t) := by
  unfold execPulseSettle
  try dsimp only
  simp +contextual (maxDischargeDepth := 40) [h]

@[simp] theorem keeps_execGlintEvaluation {s t : State} (h : Keeps s t) (site arr : Nat) : KeepsOut s (execGlintEvaluation site arr t) := by
  unfold execGlintEvaluation
  split
  · exact (keepsOut_next _ _).2 (keeps_modBank (keeps_fresh h _) _ _)
  · simp [h]

/-! ## Tile -/

@[simp] theorem keeps_tileCheck {s t : State} (h : Keeps s t) (l : List (Nat × Nat)) (k : Out) (hk : KeepsOut s k) : KeepsOut s (tileCheck l t k) := by
  unfold tileCheck
  split <;> simp [h, hk]

@[simp] theorem keeps_tileOp {s t : State} (h : Keeps s t) (g : Guard) (k : Out) (hk : KeepsOut s k) : KeepsOut s (tileOp g t k) := by
  unfold tileOp
  split <;> simp [h, hk]

@[simp] theorem keeps_tileMem {s t : State} (h : Keeps s t) (o : TMem) (n : Nat) (k : Nat → State → State)
    (hk : ∀ a u, Keeps s u → Keeps s (k a u)) : KeepsOut s (tileMem o n t k) := by
  unfold tileMem addrTrap
  refine keeps_withScalar h _ _ _ fun v => ?_
  dsimp only
  split
  · simp [h]
  · refine keeps_barred (keeps_setEa h _ _) _ ?_
    split <;> simp (maxDischargeDepth := 40) [h, hk]

@[simp] theorem keeps_execTld {s t : State} (h : Keeps s t) (o : TMem) : KeepsOut s (execTld o t) := by
  unfold execTld
  try dsimp only
  simp +contextual (maxDischargeDepth := 40) [h]

@[simp] theorem keeps_storeTile {s t : State} (h : Keeps s t) (tt : Nat) (a : Nat) : Keeps s (State.storeTile t tt a) := by
  unfold State.storeTile
  try dsimp only
  simp +contextual (maxDischargeDepth := 40) [h]

@[simp] theorem keeps_execTst {s t : State} (h : Keeps s t) (o : TMem) : KeepsOut s (execTst o t) := by
  unfold execTst
  try dsimp only
  simp +contextual (maxDischargeDepth := 40) [h]

@[simp] theorem keeps_execTstOV {s t : State} (h : Keeps s t) (o : TMem) : KeepsOut s (execTstOV o t) := by
  unfold execTstOV
  try dsimp only
  simp +contextual (maxDischargeDepth := 40) [h]

@[simp] theorem keeps_execTzero {s t : State} (h : Keeps s t) (g : Guard) (td : BitVec 5) : KeepsOut s (execTzero g td t) := by
  unfold execTzero
  try dsimp only
  simp +contextual (maxDischargeDepth := 40) [h]

@[simp] theorem keeps_execTmov {s t : State} (h : Keeps s t) (g : Guard) (td : BitVec 5) (ts : BitVec 5) : KeepsOut s (execTmov g td ts t) := by
  unfold execTmov
  try dsimp only
  simp +contextual (maxDischargeDepth := 40) [h]

@[simp] theorem keeps_execTtrn {s t : State} (h : Keeps s t) (g : Guard) (td : BitVec 5) (ts : BitVec 5) : KeepsOut s (execTtrn g td ts t) := by
  unfold execTtrn
  try dsimp only
  (repeat' split) <;> simp +contextual (maxDischargeDepth := 40) [h]

@[simp] theorem keeps_twl {s t : State} (h : Keeps s t) (mx : Bool) (g : Guard) (tw : BitVec 5) (tsc : BitVec 5) : KeepsOut s (twl mx g tw tsc t) := by
  unfold twl
  try dsimp only
  (repeat' split) <;> simp +contextual (maxDischargeDepth := 40) [h]

@[simp] theorem keeps_execTwl {s t : State} (h : Keeps s t) (g : Guard) (tw : BitVec 5) : KeepsOut s (execTwl g tw t) := by
  unfold execTwl
  try dsimp only
  simp +contextual (maxDischargeDepth := 40) [h]

@[simp] theorem keeps_execTwlMx {s t : State} (h : Keeps s t) (g : Guard) (tw : BitVec 5) (tsc : BitVec 5) : KeepsOut s (execTwlMx g tw tsc t) := by
  unfold execTwlMx
  try dsimp only
  simp +contextual (maxDischargeDepth := 40) [h]

@[simp] theorem keeps_multiply {s t : State} (h : Keeps s t) (g : Guard) (tc ta ew : Nat) (side : Option Nat) (k : Weights → Nat → State → Out)
    (hk : ∀ w n u, Keeps s u → KeepsOut s (k w n u)) : KeepsOut s (multiply g tc ta ew side t k) := by
  unfold multiply
  refine keeps_tileOp h _ _ ?_
  dsimp only
  generalize t.cx.matrix.at _ = w
  cases w with
  | none => exact keeps_tileCheck h _ _ (by simp [h])
  | some w =>
    refine keeps_tileCheck h _ _ ?_
    split
    · simp [h]
    · exact hk _ _ _ (by simp [h])

@[simp] theorem keeps_tmma {s t : State} (h : Keeps s t) (fmt : Bool) (g : Guard) (tc : BitVec 5) (ta : BitVec 5) (tsc : BitVec 5) (asc : BitVec 6) : KeepsOut s (tmma fmt g tc ta tsc asc t) := by
  unfold tmma
  try dsimp only
  simp +contextual (maxDischargeDepth := 40) [h]

@[simp] theorem keeps_execTmma {s t : State} (h : Keeps s t) (g : Guard) (tc : BitVec 5) (ta : BitVec 5) (asc : BitVec 6) : KeepsOut s (execTmma g tc ta asc t) := by
  unfold execTmma
  try dsimp only
  simp +contextual (maxDischargeDepth := 40) [h]

@[simp] theorem keeps_execTmmaMx {s t : State} (h : Keeps s t) (g : Guard) (tc : BitVec 5) (ta : BitVec 5) (tsc : BitVec 5) (asc : BitVec 6) : KeepsOut s (execTmmaMx g tc ta tsc asc t) := by
  unfold execTmmaMx
  try dsimp only
  simp +contextual (maxDischargeDepth := 40) [h]

@[simp] theorem keeps_katt {s t : State} (h : Keeps s t) (fmt : Bool) (g : Guard) (tr : BitVec 5) (ta : BitVec 5) (tsc : BitVec 5) (asc : BitVec 6) : KeepsOut s (katt fmt g tr ta tsc asc t) := by
  unfold katt
  try dsimp only
  simp +contextual (maxDischargeDepth := 40) [h]

@[simp] theorem keeps_execKatt {s t : State} (h : Keeps s t) (g : Guard) (tc : BitVec 5) (ta : BitVec 5) (asc : BitVec 6) : KeepsOut s (execKatt g tc ta asc t) := by
  unfold execKatt
  try dsimp only
  simp +contextual (maxDischargeDepth := 40) [h]

@[simp] theorem keeps_execKattMx {s t : State} (h : Keeps s t) (g : Guard) (tc : BitVec 5) (ta : BitVec 5) (tsc : BitVec 5) (asc : BitVec 6) : KeepsOut s (execKattMx g tc ta tsc asc t) := by
  unfold execKattMx
  try dsimp only
  simp +contextual (maxDischargeDepth := 40) [h]

@[simp] theorem keeps_execTmmaSmx {s t : State} (h : Keeps s t) (g : Guard) (tc : BitVec 5) (ta : BitVec 5) (tx : BitVec 5) (qs : BitVec 5) (asc : BitVec 6) : KeepsOut s (execTmmaSmx g tc ta tx qs asc t) := by
  unfold execTmmaSmx
  try dsimp only
  simp +contextual (maxDischargeDepth := 40) [h]

@[simp] theorem keeps_execTsmxInit {s t : State} (h : Keeps s t) (g : Guard) (tx : BitVec 5) : KeepsOut s (execTsmxInit g tx t) := by
  unfold execTsmxInit
  try dsimp only
  (repeat' split) <;> simp +contextual (maxDischargeDepth := 40) [h]

@[simp] theorem keeps_execTsmxNorm {s t : State} (h : Keeps s t) (g : Guard) (tc : BitVec 5) (tx : BitVec 5) (ns : BitVec 5) : KeepsOut s (execTsmxNorm g tc tx ns t) := by
  unfold execTsmxNorm
  try dsimp only
  (repeat' split) <;> simp +contextual (maxDischargeDepth := 40) [h]

@[simp] theorem tile_countOvc (c : Ctx) (t : Nat) (sat : Nat) (nan : Nat) : (Ctx.countOvc c t sat nan).tile = c.tile := by
  unfold Ctx.countOvc
  simp

@[simp] theorem wf_putTile (c : Ctx) (l : List (Nat × List Byte)) (a b : List Nat) (h : Memory.wf c.tile = true) :
    Memory.wf (c.putTile l a b).tile = true := by
  show Memory.wf (l.foldl (fun m (x : Nat × List Byte) => memPut m x.1 x.2) c.tile) = true
  generalize c.tile = m at h
  induction l generalizing m with
  | nil => exact h
  | cons x l ih => exact ih _ (wf_put _ _ h)

@[simp] theorem wf_accumulate (c was : Ctx) (t m n : Nat) (v : List (Bool × Int)) (bad : List Nat)
    (h : Memory.wf c.tile = true) : Memory.wf (c.accumulate was t m n v bad).tile = true := by
  unfold Ctx.accumulate
  simp [h]

@[simp] theorem wf_softmax (c was : Ctx) (t tx m : Nat) (scores : List Int) (w : Weights) (qs : Nat) (asc : Int)
    (bad : List Nat) (h : Memory.wf c.tile = true) : Memory.wf (c.softmax was t tx m scores w qs asc bad).tile = true := by
  unfold Ctx.softmax
  simp [h]

@[simp] theorem wf_parity (c : Ctx) (t m n e : Nat) (h : Memory.wf c.tile = true) :
    Memory.wf (c.parity t m n e).tile = true := wf_put _ _ h

/-! ## Dram -/

@[simp] theorem keeps_sendCmd {s t : State} (h : Keeps s t) (c : Cohort) (x : DramOp) (a b : Int) : Keeps s (t.sendCmd c x a b) := by
  unfold State.sendCmd
  extract_lets i t0 p me q k s1 s2 s3
  have k1 : Keeps s s1 := by
    refine keeps_setPch h _ _ ?_
    exact fun w => ⟨w.mem, w.lines⟩
  have k2 : Keeps s s2 := keeps_traceRec k1 _ _ _ _
  have k3 : Keeps s s3 := by
    unfold s3
    split
    · exact keeps_irrevocable k2
    · exact k2
  split
  · exact keeps_once k3 _ fun u hu => keeps_access hu _ _ _ _ _
  · split
    · exact keeps_touch k3 _
    · exact k3

@[simp] theorem keeps_dram {s t : State} (h : Keeps s t) (x : DramOp) (o : DOp) (sb : BitVec 6) : KeepsOut s (dram x o sb t) := by
  unfold dram addrTrap
  refine keeps_withScalar h _ _ _ fun v => ?_
  dsimp only
  repeat' first
    | with_reducible exact h
    | with_reducible exact Keeps.refl _
    | with_reducible exact fun _ w => w
    | with_reducible exact fun w => w
    | exact fun _ w => coreMem_of w rfl rfl rfl
    | exact fun _ w => pchMem_of w rfl rfl
    | exact fun w => pchMem_of w rfl rfl
    | with_reducible refine (keepsOut_next _ _).2 ?_
    | with_reducible apply keeps_trapOut
    | with_reducible apply keeps_barred
    | with_reducible apply keeps_sendCmd
    | with_reducible apply keeps_illegal
    | with_reducible apply keeps_setEa
    | with_reducible apply keeps_pick
    | with_reducible apply keeps_setCtx
    | with_reducible apply keeps_cur
    | with_reducible apply keeps_irrevocable
    | with_reducible apply keeps_addUop
    | with_reducible apply keeps_traceRec
    | with_reducible apply keeps_access
    | with_reducible apply keeps_once
    | with_reducible apply keeps_setPch
    | with_reducible apply keeps_modPch
    | with_reducible apply keeps_modCore
    | with_reducible apply keeps_modCtx
    | with_reducible apply keeps_touch
    | split

@[simp] theorem keeps_execMact {s t : State} (h : Keeps s t) (o : DOp) : KeepsOut s (execMact o t) := by
  unfold execMact
  try dsimp only
  simp +contextual (maxDischargeDepth := 40) [h]

@[simp] theorem keeps_execMpre {s t : State} (h : Keeps s t) (o : DOp) : KeepsOut s (execMpre o t) := by
  unfold execMpre
  try dsimp only
  simp +contextual (maxDischargeDepth := 40) [h]

@[simp] theorem keeps_execMprea {s t : State} (h : Keeps s t) (o : DOp) : KeepsOut s (execMprea o t) := by
  unfold execMprea
  try dsimp only
  simp +contextual (maxDischargeDepth := 40) [h]

@[simp] theorem keeps_execMrd {s t : State} (h : Keeps s t) (o : DOp) (sb : BitVec 6) : KeepsOut s (execMrd o sb t) := by
  unfold execMrd
  try dsimp only
  simp +contextual (maxDischargeDepth := 40) [h]

@[simp] theorem keeps_execMrda {s t : State} (h : Keeps s t) (o : DOp) (sb : BitVec 6) : KeepsOut s (execMrda o sb t) := by
  unfold execMrda
  try dsimp only
  simp +contextual (maxDischargeDepth := 40) [h]

@[simp] theorem keeps_execMwr {s t : State} (h : Keeps s t) (o : DOp) (sb : BitVec 6) : KeepsOut s (execMwr o sb t) := by
  unfold execMwr
  try dsimp only
  simp +contextual (maxDischargeDepth := 40) [h]

@[simp] theorem keeps_execMwra {s t : State} (h : Keeps s t) (o : DOp) (sb : BitVec 6) : KeepsOut s (execMwra o sb t) := by
  unfold execMwra
  try dsimp only
  simp +contextual (maxDischargeDepth := 40) [h]

@[simp] theorem keeps_execMref {s t : State} (h : Keeps s t) (o : DOp) : KeepsOut s (execMref o t) := by
  unfold execMref
  try dsimp only
  simp +contextual (maxDischargeDepth := 40) [h]

@[simp] theorem keeps_execMrefp {s t : State} (h : Keeps s t) (o : DOp) : KeepsOut s (execMrefp o t) := by
  unfold execMrefp
  try dsimp only
  simp +contextual (maxDischargeDepth := 40) [h]

@[simp] theorem keeps_execMrcp {s t : State} (h : Keeps s t) (o : DOp) (sb : BitVec 6) : KeepsOut s (execMrcp o sb t) := by
  unfold execMrcp
  try dsimp only
  simp +contextual (maxDischargeDepth := 40) [h]

@[simp] theorem keeps_execMrcbLd {s t : State} (h : Keeps s t) (o : DOp) (line : BitVec 5) : KeepsOut s (execMrcbLd o line t) := by
  unfold execMrcbLd
  try dsimp only
  simp +contextual (maxDischargeDepth := 40) [h]

@[simp] theorem keeps_execMrcbSt {s t : State} (h : Keeps s t) (o : DOp) (line : BitVec 5) : KeepsOut s (execMrcbSt o line t) := by
  unfold execMrcbSt
  try dsimp only
  simp +contextual (maxDischargeDepth := 40) [h]

@[simp] theorem keeps_execMrcbInv {s t : State} (h : Keeps s t) (o : DOp) (line : BitVec 5) : KeepsOut s (execMrcbInv o line t) := by
  unfold execMrcbInv
  try dsimp only
  simp +contextual (maxDischargeDepth := 40) [h]

@[simp] theorem keeps_execMzro {s t : State} (h : Keeps s t) (o : DOp) : KeepsOut s (execMzro o t) := by
  unfold execMzro
  try dsimp only
  simp +contextual (maxDischargeDepth := 40) [h]

/-! ## Copy -/

@[simp] theorem keeps_copyOp {s t : State} (h : Keeps s t) (o : DOp) (k : Word → Out) (hk : ∀ v, KeepsOut s (k v)) : KeepsOut s (copyOp o t k) := by
  unfold copyOp
  refine keeps_withScalar h _ _ _ fun v => ?_
  split <;> simp [h, hk]

@[simp] theorem keeps_execLayout {s t : State} (h : Keeps s t) (o : DOp) (lyn : BitVec 4) : KeepsOut s (execLayout o lyn t) := by
  unfold execLayout
  try dsimp only
  simp +contextual (maxDischargeDepth := 40) [h]

@[simp] theorem keeps_xfr {s t : State} (h : Keeps s t) (get : Bool) (o : DOp) (sv : BitVec 6) (lyn : BitVec 4) (ch : BitVec 2) (st : BitVec 6) :
    KeepsOut s (xfr get o sv lyn ch st t) := by
  unfold xfr addrTrap
  refine keeps_withScalar h _ _ _ fun v => ?_
  extract_lets sa va s1
  have k : Keeps s s1 := keeps_setEa h _ _
  split
  · simp [k]
  · refine keeps_barred k _ ?_
    extract_lets
    (repeat' split) <;> first
      | exact keeps_trapOut k _ _
      | exact keeps_trapOut (keeps_pick k _ _) _ _
      | (refine (keepsOut_next _ _).2 (keeps_irrevocable (keeps_addUop (keeps_modCtx k _ _ ?_) _ _))
         exact fun c hc => hc)

@[simp] theorem keeps_execXfrG {s t : State} (h : Keeps s t) (o : DOp) (sv : BitVec 6) (lyn : BitVec 4) (ch : BitVec 2) (st : BitVec 6) : KeepsOut s (execXfrG o sv lyn ch st t) := by
  unfold execXfrG
  try dsimp only
  simp +contextual (maxDischargeDepth := 40) [h]

@[simp] theorem keeps_execXfrP {s t : State} (h : Keeps s t) (o : DOp) (sv : BitVec 6) (lyn : BitVec 4) (ch : BitVec 2) (st : BitVec 6) : KeepsOut s (execXfrP o sv lyn ch st t) := by
  unfold execXfrP
  try dsimp only
  simp +contextual (maxDischargeDepth := 40) [h]

@[simp] theorem keeps_execIstage {s t : State} (h : Keeps s t) (o : DOp) (nl : BitVec 6) : KeepsOut s (execIstage o nl t) := by
  unfold execIstage
  refine keeps_withScalar h _ _ _ fun v => ?_
  extract_lets a s1
  have k : Keeps s s1 := keeps_setEa h _ _
  split
  · simp [k]
  · split
    · exact keeps_trapOut k _ _
    · refine (keepsOut_next _ _).2 (keeps_addUop (keeps_modCore k _ _ ?_) _ _)
      exact fun c hc => coreMem_of hc rfl rfl rfl

@[simp] theorem keeps_trc {s t : State} (h : Keeps s t) (freeze : Bool) (o : DOp) (tag : BitVec 8) : KeepsOut s (trc freeze o tag t) := by
  unfold trc
  try dsimp only
  simp +contextual (maxDischargeDepth := 40) [h]

@[simp] theorem keeps_execTrc {s t : State} (h : Keeps s t) (o : DOp) (tag : BitVec 8) : KeepsOut s (execTrc o tag t) := by
  unfold execTrc
  try dsimp only
  simp +contextual (maxDischargeDepth := 40) [h]

@[simp] theorem keeps_execTrcFrz {s t : State} (h : Keeps s t) (o : DOp) (tag : BitVec 8) : KeepsOut s (execTrcFrz o tag t) := by
  unfold execTrcFrz
  try dsimp only
  simp +contextual (maxDischargeDepth := 40) [h]

/-! ## Sync -/

@[simp] theorem keeps_atomic {s t : State} (h : Keeps s t) (ret : Bool) (op : AtomOp) (o : AOp) (sb : BitVec 6) (sc : BitVec 6) (sd : BitVec 6) : KeepsOut s (atomic ret op o sb sc sd t) := by
  unfold atomic
  try dsimp only
  (repeat' split) <;> simp +contextual (maxDischargeDepth := 40) [h]

@[simp] theorem keeps_execAtomAdd {s t : State} (h : Keeps s t) (o : AOp) (sb : BitVec 6) (sd : BitVec 6) : KeepsOut s (execAtomAdd o sb sd t) := by
  unfold execAtomAdd
  try dsimp only
  simp +contextual (maxDischargeDepth := 40) [h]

@[simp] theorem keeps_execAtomSwap {s t : State} (h : Keeps s t) (o : AOp) (sb : BitVec 6) (sd : BitVec 6) : KeepsOut s (execAtomSwap o sb sd t) := by
  unfold execAtomSwap
  try dsimp only
  simp +contextual (maxDischargeDepth := 40) [h]

@[simp] theorem keeps_execAtomCas {s t : State} (h : Keeps s t) (o : AOp) (sb : BitVec 6) (sc : BitVec 6) (sd : BitVec 6) : KeepsOut s (execAtomCas o sb sc sd t) := by
  unfold execAtomCas
  try dsimp only
  simp +contextual (maxDischargeDepth := 40) [h]

@[simp] theorem keeps_execAtomAnd {s t : State} (h : Keeps s t) (o : AOp) (sb : BitVec 6) (sd : BitVec 6) : KeepsOut s (execAtomAnd o sb sd t) := by
  unfold execAtomAnd
  try dsimp only
  simp +contextual (maxDischargeDepth := 40) [h]

@[simp] theorem keeps_execAtomOr {s t : State} (h : Keeps s t) (o : AOp) (sb : BitVec 6) (sd : BitVec 6) : KeepsOut s (execAtomOr o sb sd t) := by
  unfold execAtomOr
  try dsimp only
  simp +contextual (maxDischargeDepth := 40) [h]

@[simp] theorem keeps_execAtomXor {s t : State} (h : Keeps s t) (o : AOp) (sb : BitVec 6) (sd : BitVec 6) : KeepsOut s (execAtomXor o sb sd t) := by
  unfold execAtomXor
  try dsimp only
  simp +contextual (maxDischargeDepth := 40) [h]

@[simp] theorem keeps_execAtomMin {s t : State} (h : Keeps s t) (o : AOp) (sb : BitVec 6) (sd : BitVec 6) : KeepsOut s (execAtomMin o sb sd t) := by
  unfold execAtomMin
  try dsimp only
  simp +contextual (maxDischargeDepth := 40) [h]

@[simp] theorem keeps_execAtomMax {s t : State} (h : Keeps s t) (o : AOp) (sb : BitVec 6) (sd : BitVec 6) : KeepsOut s (execAtomMax o sb sd t) := by
  unfold execAtomMax
  try dsimp only
  simp +contextual (maxDischargeDepth := 40) [h]

@[simp] theorem keeps_execAtomMinu {s t : State} (h : Keeps s t) (o : AOp) (sb : BitVec 6) (sd : BitVec 6) : KeepsOut s (execAtomMinu o sb sd t) := by
  unfold execAtomMinu
  try dsimp only
  simp +contextual (maxDischargeDepth := 40) [h]

@[simp] theorem keeps_execAtomMaxu {s t : State} (h : Keeps s t) (o : AOp) (sb : BitVec 6) (sd : BitVec 6) : KeepsOut s (execAtomMaxu o sb sd t) := by
  unfold execAtomMaxu
  try dsimp only
  simp +contextual (maxDischargeDepth := 40) [h]

@[simp] theorem keeps_execAtomFadd {s t : State} (h : Keeps s t) (o : AOp) (sb : BitVec 6) (sd : BitVec 6) : KeepsOut s (execAtomFadd o sb sd t) := by
  unfold execAtomFadd
  try dsimp only
  simp +contextual (maxDischargeDepth := 40) [h]

@[simp] theorem keeps_execAtomLd {s t : State} (h : Keeps s t) (o : AOp) (sd : BitVec 6) : KeepsOut s (execAtomLd o sd t) := by
  unfold execAtomLd
  try dsimp only
  simp +contextual (maxDischargeDepth := 40) [h]

@[simp] theorem keeps_execRedAdd {s t : State} (h : Keeps s t) (o : AOp) (sb : BitVec 6) : KeepsOut s (execRedAdd o sb t) := by
  unfold execRedAdd
  try dsimp only
  simp +contextual (maxDischargeDepth := 40) [h]

@[simp] theorem keeps_execRedSt {s t : State} (h : Keeps s t) (o : AOp) (sb : BitVec 6) : KeepsOut s (execRedSt o sb t) := by
  unfold execRedSt
  try dsimp only
  simp +contextual (maxDischargeDepth := 40) [h]

@[simp] theorem keeps_execRedAnd {s t : State} (h : Keeps s t) (o : AOp) (sb : BitVec 6) : KeepsOut s (execRedAnd o sb t) := by
  unfold execRedAnd
  try dsimp only
  simp +contextual (maxDischargeDepth := 40) [h]

@[simp] theorem keeps_execRedOr {s t : State} (h : Keeps s t) (o : AOp) (sb : BitVec 6) : KeepsOut s (execRedOr o sb t) := by
  unfold execRedOr
  try dsimp only
  simp +contextual (maxDischargeDepth := 40) [h]

@[simp] theorem keeps_execRedXor {s t : State} (h : Keeps s t) (o : AOp) (sb : BitVec 6) : KeepsOut s (execRedXor o sb t) := by
  unfold execRedXor
  try dsimp only
  simp +contextual (maxDischargeDepth := 40) [h]

@[simp] theorem keeps_execRedMin {s t : State} (h : Keeps s t) (o : AOp) (sb : BitVec 6) : KeepsOut s (execRedMin o sb t) := by
  unfold execRedMin
  try dsimp only
  simp +contextual (maxDischargeDepth := 40) [h]

@[simp] theorem keeps_execRedMax {s t : State} (h : Keeps s t) (o : AOp) (sb : BitVec 6) : KeepsOut s (execRedMax o sb t) := by
  unfold execRedMax
  try dsimp only
  simp +contextual (maxDischargeDepth := 40) [h]

@[simp] theorem keeps_execRedMinu {s t : State} (h : Keeps s t) (o : AOp) (sb : BitVec 6) : KeepsOut s (execRedMinu o sb t) := by
  unfold execRedMinu
  try dsimp only
  simp +contextual (maxDischargeDepth := 40) [h]

@[simp] theorem keeps_execRedMaxu {s t : State} (h : Keeps s t) (o : AOp) (sb : BitVec 6) : KeepsOut s (execRedMaxu o sb t) := by
  unfold execRedMaxu
  try dsimp only
  simp +contextual (maxDischargeDepth := 40) [h]

@[simp] theorem keeps_execRedFadd {s t : State} (h : Keeps s t) (o : AOp) (sb : BitVec 6) : KeepsOut s (execRedFadd o sb t) := by
  unfold execRedFadd
  try dsimp only
  simp +contextual (maxDischargeDepth := 40) [h]

end Sys2Proof.Laws
end

