-- ==== Sys2Proof/Laws/PerInstr.lean ====
section
/-! SUPPORT. One lemma per constructor of Instr: an instruction that is legal has an encoding (R40 to
R62). The events of the device have none, and are no legal syllable. -/

namespace Sys2Proof.Laws

/-- A legal instruction has an encoding, for either class and stop bit. -/
def Encodable.Statement (i : Instr) : Prop :=
  legal i = none → ∀ second stop, ∃ x, encode second stop i = some x

theorem Encodable.of_fields {i : Instr} (h : (encodeFields i).isSome = true) : Encodable.Statement i := by
  intro _ second stop
  obtain ⟨f, e⟩ := Option.isSome_iff_exists.mp h
  unfold encode
  rw [e]
  exact ⟨_, rfl⟩

theorem Encodable.of_illegal {i : Instr} (h : (legal i).isSome = true) : Encodable.Statement i := by
  intro e
  simp [e] at h

theorem Encodable.tmpl (rpt : BitVec 8) (stk : BitVec 6) : Encodable.Statement (.tmpl rpt stk) :=
  Encodable.of_fields rfl
theorem Encodable.scope (scp : BitVec 3) : Encodable.Statement (.scope scp) :=
  Encodable.of_fields rfl
theorem Encodable.block (len : BitVec 8) : Encodable.Statement (.block len) :=
  Encodable.of_fields rfl
theorem Encodable.blockLockExpire (site : Nat) : Encodable.Statement (.blockLockExpire site) :=
  Encodable.of_illegal rfl
theorem Encodable.ximm (tgt : BitVec 3) (x : BitVec 32) : Encodable.Statement (.ximm tgt x) :=
  Encodable.of_fields rfl
theorem Encodable.nop (g : Guard) : Encodable.Statement (.nop g) :=
  Encodable.of_fields rfl
theorem Encodable.halt (g : Guard) : Encodable.Statement (.halt g) :=
  Encodable.of_fields rfl
theorem Encodable.trap (g : Guard) (code : BitVec 8) : Encodable.Statement (.trap g code) :=
  Encodable.of_fields rfl
theorem Encodable.rft (g : Guard) : Encodable.Statement (.rft g) :=
  Encodable.of_fields rfl
theorem Encodable.add (sat : Bool) (o : ScRR) : Encodable.Statement (.add sat o) :=
  Encodable.of_fields rfl
theorem Encodable.sub (sat : Bool) (o : ScRR) : Encodable.Statement (.sub sat o) :=
  Encodable.of_fields rfl
theorem Encodable.addi (sat : Bool) (o : ScRI) : Encodable.Statement (.addi sat o) :=
  Encodable.of_fields rfl
theorem Encodable.mul (sat : Bool) (o : ScRR) : Encodable.Statement (.mul sat o) :=
  Encodable.of_fields rfl
theorem Encodable.mulh (o : ScRR) : Encodable.Statement (.mulh o) :=
  Encodable.of_fields rfl
theorem Encodable.mulhu (o : ScRR) : Encodable.Statement (.mulhu o) :=
  Encodable.of_fields rfl
theorem Encodable.div (o : ScRR) : Encodable.Statement (.div o) :=
  Encodable.of_fields rfl
theorem Encodable.divu (o : ScRR) : Encodable.Statement (.divu o) :=
  Encodable.of_fields rfl
theorem Encodable.rem (o : ScRR) : Encodable.Statement (.rem o) :=
  Encodable.of_fields rfl
theorem Encodable.remu (o : ScRR) : Encodable.Statement (.remu o) :=
  Encodable.of_fields rfl
theorem Encodable.and (o : ScRR) : Encodable.Statement (.and o) :=
  Encodable.of_fields rfl
theorem Encodable.or (o : ScRR) : Encodable.Statement (.or o) :=
  Encodable.of_fields rfl
theorem Encodable.xor (o : ScRR) : Encodable.Statement (.xor o) :=
  Encodable.of_fields rfl
theorem Encodable.andi (o : ScRI) : Encodable.Statement (.andi o) :=
  Encodable.of_fields rfl
theorem Encodable.ori (o : ScRI) : Encodable.Statement (.ori o) :=
  Encodable.of_fields rfl
theorem Encodable.xori (o : ScRI) : Encodable.Statement (.xori o) :=
  Encodable.of_fields rfl
theorem Encodable.shl (o : ScRR) : Encodable.Statement (.shl o) :=
  Encodable.of_fields rfl
theorem Encodable.shr (o : ScRR) : Encodable.Statement (.shr o) :=
  Encodable.of_fields rfl
theorem Encodable.sra (o : ScRR) : Encodable.Statement (.sra o) :=
  Encodable.of_fields rfl
theorem Encodable.shli (o : ScRS) : Encodable.Statement (.shli o) :=
  Encodable.of_fields rfl
theorem Encodable.shri (o : ScRS) : Encodable.Statement (.shri o) :=
  Encodable.of_fields rfl
theorem Encodable.srai (o : ScRS) : Encodable.Statement (.srai o) :=
  Encodable.of_fields rfl
theorem Encodable.min (o : ScRR) : Encodable.Statement (.min o) :=
  Encodable.of_fields rfl
theorem Encodable.max (o : ScRR) : Encodable.Statement (.max o) :=
  Encodable.of_fields rfl
theorem Encodable.minu (o : ScRR) : Encodable.Statement (.minu o) :=
  Encodable.of_fields rfl
theorem Encodable.maxu (o : ScRR) : Encodable.Statement (.maxu o) :=
  Encodable.of_fields rfl
theorem Encodable.clz (o : ScRU) : Encodable.Statement (.clz o) :=
  Encodable.of_fields rfl
theorem Encodable.popc (o : ScRU) : Encodable.Statement (.popc o) :=
  Encodable.of_fields rfl
theorem Encodable.li (g : Guard) (sd : BitVec 6) (imm : BitVec 14) :
    Encodable.Statement (.li g sd imm) :=
  Encodable.of_fields rfl
theorem Encodable.mov (o : ScRU) : Encodable.Statement (.mov o) :=
  Encodable.of_fields rfl
theorem Encodable.sel (pc : BitVec 4) (o : ScRR) : Encodable.Statement (.sel pc o) :=
  Encodable.of_fields rfl
theorem Encodable.cmp (o : ScCmp) : Encodable.Statement (.cmp o) :=
  Encodable.of_fields rfl
theorem Encodable.cmpi (o : ScCmp) : Encodable.Statement (.cmpi o) :=
  Encodable.of_fields rfl
theorem Encodable.pand (o : ScPP) : Encodable.Statement (.pand o) :=
  Encodable.of_fields rfl
theorem Encodable.por (o : ScPP) : Encodable.Statement (.por o) :=
  Encodable.of_fields rfl
theorem Encodable.pxor (o : ScPP) : Encodable.Statement (.pxor o) :=
  Encodable.of_fields rfl
theorem Encodable.pandn (o : ScPP) : Encodable.Statement (.pandn o) :=
  Encodable.of_fields rfl
theorem Encodable.pmovPP (g : Guard) (dst src : BitVec 6) :
    Encodable.Statement (.pmovPP g dst src) :=
  Encodable.of_fields rfl
theorem Encodable.pmovPS (g : Guard) (dst src : BitVec 6) :
    Encodable.Statement (.pmovPS g dst src) :=
  Encodable.of_fields rfl
theorem Encodable.pmovSP (g : Guard) (dst src : BitVec 6) :
    Encodable.Statement (.pmovSP g dst src) :=
  Encodable.of_fields rfl
theorem Encodable.lds (o : ScMem) (u : Bool) : Encodable.Statement (.lds o u) :=
  Encodable.of_fields rfl
theorem Encodable.sts (o : ScMem) : Encodable.Statement (.sts o) :=
  Encodable.of_fields rfl
theorem Encodable.br (g : Guard) (off : BitVec 20) : Encodable.Statement (.br g off) :=
  Encodable.of_fields rfl
theorem Encodable.brl (g : Guard) (sd : BitVec 6) (off : BitVec 14) :
    Encodable.Statement (.brl g sd off) :=
  Encodable.of_fields rfl
theorem Encodable.ret (g : Guard) (sa : BitVec 6) : Encodable.Statement (.ret g sa) :=
  Encodable.of_fields rfl
theorem Encodable.jmp (g : Guard) (sa : BitVec 6) (off : BitVec 14) :
    Encodable.Statement (.jmp g sa off) :=
  Encodable.of_fields rfl
theorem Encodable.loop (g : Guard) (ln : BitVec 2) (blen : BitVec 12) (cnt : BitVec 16) :
    Encodable.Statement (.loop g ln blen cnt) :=
  Encodable.of_fields rfl
theorem Encodable.loopm (g : Guard) (ln : BitVec 2) (blen : BitVec 12) (mbi : BitVec 4) :
    Encodable.Statement (.loopm g ln blen mbi) :=
  Encodable.of_fields rfl
theorem Encodable.align (tag : BitVec 8) : Encodable.Statement (.align tag) :=
  Encodable.of_fields rfl
theorem Encodable.alignBarrierComplete (coh : Nat) :
    Encodable.Statement (.alignBarrierComplete coh) :=
  Encodable.of_illegal rfl
theorem Encodable.startAlignment (coh : Nat) : Encodable.Statement (.startAlignment coh) :=
  Encodable.of_illegal rfl
theorem Encodable.waits (g : Guard) (sa : BitVec 6) : Encodable.Statement (.waits g sa) :=
  Encodable.of_fields rfl
theorem Encodable.waitx (g : Guard) (ch : BitVec 2) (sa : BitVec 6) :
    Encodable.Statement (.waitx g ch sa) :=
  Encodable.of_fields rfl
theorem Encodable.cycW (g : Guard) (sd : BitVec 6) : Encodable.Statement (.cycW g sd) :=
  Encodable.of_fields rfl
theorem Encodable.cycC (g : Guard) (sd se : BitVec 6) : Encodable.Statement (.cycC g sd se) :=
  Encodable.of_fields rfl
theorem Encodable.csrr (g : Guard) (sd : BitVec 6) (csr : BitVec 12) :
    Encodable.Statement (.csrr g sd csr) :=
  Encodable.of_fields rfl
theorem Encodable.csrw (g : Guard) (sa : BitVec 6) (csr : BitVec 12) :
    Encodable.Statement (.csrw g sa csr) :=
  Encodable.of_fields rfl
theorem Encodable.mbr (g : Guard) (sd : BitVec 6) (mbi : BitVec 4) :
    Encodable.Statement (.mbr g sd mbi) :=
  Encodable.of_fields rfl
theorem Encodable.mbw (g : Guard) (sa : BitVec 6) (mbi : BitVec 4) :
    Encodable.Statement (.mbw g sa mbi) :=
  Encodable.of_fields rfl
theorem Encodable.rbegin : Encodable.Statement (.rbegin) :=
  Encodable.of_fields rfl
theorem Encodable.rpres (kind : BitVec 3) (first : BitVec 10) (cnt : BitVec 7) :
    Encodable.Statement (.rpres kind first cnt) :=
  Encodable.of_fields rfl
theorem Encodable.rend (sd : BitVec 6) : Encodable.Statement (.rend sd) :=
  Encodable.of_fields rfl
theorem Encodable.rfail (g : Guard) : Encodable.Statement (.rfail g) :=
  Encodable.of_fields rfl
theorem Encodable.fence (g : Guard) (scp : BitVec 3) : Encodable.Statement (.fence g scp) :=
  Encodable.of_fields rfl
theorem Encodable.iinv (g : Guard) (sa sb : BitVec 6) : Encodable.Statement (.iinv g sa sb) :=
  Encodable.of_fields rfl
theorem Encodable.isync (g : Guard) : Encodable.Statement (.isync g) :=
  Encodable.of_fields rfl
theorem Encodable.vadd (o : VOp) : Encodable.Statement (.vadd o) :=
  Encodable.of_fields rfl
theorem Encodable.vsub (o : VOp) : Encodable.Statement (.vsub o) :=
  Encodable.of_fields rfl
theorem Encodable.vmul (o : VOp) : Encodable.Statement (.vmul o) :=
  Encodable.of_fields rfl
theorem Encodable.vmulh (o : VOp) (u : Bool) : Encodable.Statement (.vmulh o u) :=
  Encodable.of_fields rfl
theorem Encodable.vfma (o : VOp) : Encodable.Statement (.vfma o) :=
  Encodable.of_fields rfl
theorem Encodable.vfms (o : VOp) : Encodable.Statement (.vfms o) :=
  Encodable.of_fields rfl
theorem Encodable.vfnma (o : VOp) : Encodable.Statement (.vfnma o) :=
  Encodable.of_fields rfl
theorem Encodable.vmac (o : VOp) : Encodable.Statement (.vmac o) :=
  Encodable.of_fields rfl
theorem Encodable.vmin (o : VOp) : Encodable.Statement (.vmin o) :=
  Encodable.of_fields rfl
theorem Encodable.vmax (o : VOp) : Encodable.Statement (.vmax o) :=
  Encodable.of_fields rfl
theorem Encodable.vminu (o : VOp) : Encodable.Statement (.vminu o) :=
  Encodable.of_fields rfl
theorem Encodable.vmaxu (o : VOp) : Encodable.Statement (.vmaxu o) :=
  Encodable.of_fields rfl
theorem Encodable.vabs (o : VOp) : Encodable.Statement (.vabs o) :=
  Encodable.of_fields rfl
theorem Encodable.vneg (o : VOp) : Encodable.Statement (.vneg o) :=
  Encodable.of_fields rfl
theorem Encodable.vand (o : VOp) : Encodable.Statement (.vand o) :=
  Encodable.of_fields rfl
theorem Encodable.vor (o : VOp) : Encodable.Statement (.vor o) :=
  Encodable.of_fields rfl
theorem Encodable.vxor (o : VOp) : Encodable.Statement (.vxor o) :=
  Encodable.of_fields rfl
theorem Encodable.vandn (o : VOp) : Encodable.Statement (.vandn o) :=
  Encodable.of_fields rfl
theorem Encodable.vshl (o : VOp) : Encodable.Statement (.vshl o) :=
  Encodable.of_fields rfl
theorem Encodable.vshlImm (o : VOp) (k : BitVec 5) : Encodable.Statement (.vshlImm o k) :=
  Encodable.of_fields rfl
theorem Encodable.vshr (o : VOp) : Encodable.Statement (.vshr o) :=
  Encodable.of_fields rfl
theorem Encodable.vshrImm (o : VOp) (k : BitVec 5) : Encodable.Statement (.vshrImm o k) :=
  Encodable.of_fields rfl
theorem Encodable.vsra (o : VOp) : Encodable.Statement (.vsra o) :=
  Encodable.of_fields rfl
theorem Encodable.vsraImm (o : VOp) (k : BitVec 5) : Encodable.Statement (.vsraImm o k) :=
  Encodable.of_fields rfl
theorem Encodable.vcmp (o : VOp) (cc : BitVec 4) : Encodable.Statement (.vcmp o cc) :=
  Encodable.of_fields rfl
theorem Encodable.vcmpP (o : VOp) (cc : BitVec 4) : Encodable.Statement (.vcmpP o cc) :=
  Encodable.of_fields rfl
theorem Encodable.vsel (o : VOp) (ps : BitVec 4) : Encodable.Statement (.vsel o ps) :=
  Encodable.of_fields rfl
theorem Encodable.vmov (o : VOp) : Encodable.Statement (.vmov o) :=
  Encodable.of_fields rfl
theorem Encodable.vbc (o : VOp) (idx : BitVec 7) : Encodable.Statement (.vbc o idx) :=
  Encodable.of_fields rfl
theorem Encodable.vbcImm (o : VOp) (imm : BitVec 8) : Encodable.Statement (.vbcImm o imm) :=
  Encodable.of_fields rfl
theorem Encodable.vcvt (o : VOp) (dst src : BitVec 4) : Encodable.Statement (.vcvt o dst src) :=
  Encodable.of_fields rfl
theorem Encodable.vred (o : VOp) (op : BitVec 3) : Encodable.Statement (.vred o op) :=
  Encodable.of_fields rfl
theorem Encodable.vperm (o : VOp) : Encodable.Statement (.vperm o) :=
  Encodable.of_fields rfl
theorem Encodable.vrot (o : VOp) (k : BitVec 7) : Encodable.Statement (.vrot o k) :=
  Encodable.of_fields rfl
theorem Encodable.vslideDn (o : VOp) (k : BitVec 7) : Encodable.Statement (.vslideDn o k) :=
  Encodable.of_fields rfl
theorem Encodable.vslideUp (o : VOp) (k : BitVec 7) : Encodable.Statement (.vslideUp o k) :=
  Encodable.of_fields rfl
theorem Encodable.vtint (o : VOp) : Encodable.Statement (.vtint o) :=
  Encodable.of_fields rfl
theorem Encodable.vrcp (o : VOp) : Encodable.Statement (.vrcp o) :=
  Encodable.of_fields rfl
theorem Encodable.vrsq (o : VOp) : Encodable.Statement (.vrsq o) :=
  Encodable.of_fields rfl
theorem Encodable.vexp2 (o : VOp) : Encodable.Statement (.vexp2 o) :=
  Encodable.of_fields rfl
theorem Encodable.vlog2 (o : VOp) : Encodable.Statement (.vlog2 o) :=
  Encodable.of_fields rfl
theorem Encodable.vscl (o : VOp) : Encodable.Statement (.vscl o) :=
  Encodable.of_fields rfl
theorem Encodable.vmxq (o : VOp) (q : BitVec 2) : Encodable.Statement (.vmxq o q) :=
  Encodable.of_fields rfl
theorem Encodable.vbfpq (o : VOp) (n q : BitVec 4) : Encodable.Statement (.vbfpq o n q) :=
  Encodable.of_fields rfl
theorem Encodable.vdqg (o : VOp) (gs : BitVec 3) (eb : Bool) (nm : BitVec 3) (h : Bool) :
    Encodable.Statement (.vdqg o gs eb nm h) :=
  Encodable.of_fields rfl
theorem Encodable.vld (o : VMem) : Encodable.Statement (.vld o) :=
  Encodable.of_fields rfl
theorem Encodable.vst (o : VMem) : Encodable.Statement (.vst o) :=
  Encodable.of_fields rfl
theorem Encodable.vlds (o : VMem) : Encodable.Statement (.vlds o) :=
  Encodable.of_fields rfl
theorem Encodable.vgth (o : VMem) : Encodable.Statement (.vgth o) :=
  Encodable.of_fields rfl
theorem Encodable.vsct (o : VMem) : Encodable.Statement (.vsct o) :=
  Encodable.of_fields rfl
theorem Encodable.tld (o : TMem) : Encodable.Statement (.tld o) :=
  Encodable.of_fields rfl
theorem Encodable.tst (o : TMem) : Encodable.Statement (.tst o) :=
  Encodable.of_fields rfl
theorem Encodable.tstOV (o : TMem) : Encodable.Statement (.tstOV o) :=
  Encodable.of_fields rfl
theorem Encodable.twl (g : Guard) (tw : BitVec 5) : Encodable.Statement (.twl g tw) :=
  Encodable.of_fields rfl
theorem Encodable.twlMx (g : Guard) (tw tsc : BitVec 5) : Encodable.Statement (.twlMx g tw tsc) :=
  Encodable.of_fields rfl
theorem Encodable.tmma (g : Guard) (tc ta : BitVec 5) (asc : BitVec 6) :
    Encodable.Statement (.tmma g tc ta asc) :=
  Encodable.of_fields rfl
theorem Encodable.tmmaMx (g : Guard) (tc ta tsc : BitVec 5) (asc : BitVec 6) :
    Encodable.Statement (.tmmaMx g tc ta tsc asc) :=
  Encodable.of_fields rfl
theorem Encodable.katt (g : Guard) (tc ta : BitVec 5) (asc : BitVec 6) :
    Encodable.Statement (.katt g tc ta asc) :=
  Encodable.of_fields rfl
theorem Encodable.kattMx (g : Guard) (tc ta tsc : BitVec 5) (asc : BitVec 6) :
    Encodable.Statement (.kattMx g tc ta tsc asc) :=
  Encodable.of_fields rfl
theorem Encodable.tmmaSmx (g : Guard) (tc ta tx qs : BitVec 5) (asc : BitVec 6) :
    Encodable.Statement (.tmmaSmx g tc ta tx qs asc) :=
  Encodable.of_fields rfl
theorem Encodable.tsmxInit (g : Guard) (tx : BitVec 5) : Encodable.Statement (.tsmxInit g tx) :=
  Encodable.of_fields rfl
theorem Encodable.tsmxNorm (g : Guard) (tc tx ns : BitVec 5) :
    Encodable.Statement (.tsmxNorm g tc tx ns) :=
  Encodable.of_fields rfl
theorem Encodable.tzero (g : Guard) (td : BitVec 5) : Encodable.Statement (.tzero g td) :=
  Encodable.of_fields rfl
theorem Encodable.tmov (g : Guard) (td ts : BitVec 5) : Encodable.Statement (.tmov g td ts) :=
  Encodable.of_fields rfl
theorem Encodable.ttrn (g : Guard) (td ts : BitVec 5) : Encodable.Statement (.ttrn g td ts) :=
  Encodable.of_fields rfl
theorem Encodable.xmv (o : XmvOp) : Encodable.Statement (.xmv o) :=
  Encodable.of_fields rfl
theorem Encodable.xmvFallbackEnd (coh : Nat) : Encodable.Statement (.xmvFallbackEnd coh) :=
  Encodable.of_illegal rfl
theorem Encodable.xswap (g : Guard) (grp : BitVec 6) : Encodable.Statement (.xswap g grp) :=
  Encodable.of_fields rfl
theorem Encodable.xstat (g : Guard) (sd : BitVec 6) (idx : BitVec 7) :
    Encodable.Statement (.xstat g sd idx) :=
  Encodable.of_fields rfl
theorem Encodable.xstatA (g : Guard) (sd : BitVec 6) (idx : BitVec 7) :
    Encodable.Statement (.xstatA g sd idx) :=
  Encodable.of_fields rfl
theorem Encodable.xprogSet (o : XOp) (vm : BitVec 10) (win : BitVec 3) (amp : BitVec 4) :
    Encodable.Statement (.xprogSet o vm win amp) :=
  Encodable.of_fields rfl
theorem Encodable.xprogRst (o : XOp) (vm : BitVec 10) (win : BitVec 3) (amp : BitVec 4) :
    Encodable.Statement (.xprogRst o vm win amp) :=
  Encodable.of_fields rfl
theorem Encodable.xerase (o : XOp) : Encodable.Statement (.xerase o) :=
  Encodable.of_fields rfl
theorem Encodable.xeraseAll (o : XOp) : Encodable.Statement (.xeraseAll o) :=
  Encodable.of_fields rfl
theorem Encodable.xread (o : XOp) (vd : BitVec 10) (win : BitVec 3) :
    Encodable.Statement (.xread o vd win) :=
  Encodable.of_fields rfl
theorem Encodable.xreadE (o : XOp) (vd ve : BitVec 10) (rs win : BitVec 3) :
    Encodable.Statement (.xreadE o vd ve rs win) :=
  Encodable.of_fields rfl
theorem Encodable.xremap (o : XOp) (spr : BitVec 4) : Encodable.Statement (.xremap o spr) :=
  Encodable.of_fields rfl
theorem Encodable.xdrift (o : XOp) (vd : BitVec 10) : Encodable.Statement (.xdrift o vd) :=
  Encodable.of_fields rfl
theorem Encodable.xcalO (o : XOp) (vs : BitVec 10) : Encodable.Statement (.xcalO o vs) :=
  Encodable.of_fields rfl
theorem Encodable.xcalG (o : XOp) (vs : BitVec 10) : Encodable.Statement (.xcalG o vs) :=
  Encodable.of_fields rfl
theorem Encodable.xcalGC (o : XOp) (vs : BitVec 10) (rs : BitVec 3) :
    Encodable.Statement (.xcalGC o vs rs) :=
  Encodable.of_fields rfl
theorem Encodable.commitSweepComplete (site : Nat) (arr : Nat) :
    Encodable.Statement (.commitSweepComplete site arr) :=
  Encodable.of_illegal rfl
theorem Encodable.xwear (o : XOp) (sd : BitVec 6) : Encodable.Statement (.xwear o sd) :=
  Encodable.of_fields rfl
theorem Encodable.pulseSettle (site : Nat) (arr : Nat) :
    Encodable.Statement (.pulseSettle site arr) :=
  Encodable.of_illegal rfl
theorem Encodable.mact (o : DOp) : Encodable.Statement (.mact o) :=
  Encodable.of_fields rfl
theorem Encodable.mpre (o : DOp) : Encodable.Statement (.mpre o) :=
  Encodable.of_fields rfl
theorem Encodable.mprea (o : DOp) : Encodable.Statement (.mprea o) :=
  Encodable.of_fields rfl
theorem Encodable.mrd (o : DOp) (sb : BitVec 6) : Encodable.Statement (.mrd o sb) :=
  Encodable.of_fields rfl
theorem Encodable.mrda (o : DOp) (sb : BitVec 6) : Encodable.Statement (.mrda o sb) :=
  Encodable.of_fields rfl
theorem Encodable.mwr (o : DOp) (sb : BitVec 6) : Encodable.Statement (.mwr o sb) :=
  Encodable.of_fields rfl
theorem Encodable.mwra (o : DOp) (sb : BitVec 6) : Encodable.Statement (.mwra o sb) :=
  Encodable.of_fields rfl
theorem Encodable.mref (o : DOp) : Encodable.Statement (.mref o) :=
  Encodable.of_fields rfl
theorem Encodable.mrefp (o : DOp) : Encodable.Statement (.mrefp o) :=
  Encodable.of_fields rfl
theorem Encodable.mrcp (o : DOp) (sb : BitVec 6) : Encodable.Statement (.mrcp o sb) :=
  Encodable.of_fields rfl
theorem Encodable.mrcbLd (o : DOp) (line : BitVec 5) : Encodable.Statement (.mrcbLd o line) :=
  Encodable.of_fields rfl
theorem Encodable.mrcbSt (o : DOp) (line : BitVec 5) : Encodable.Statement (.mrcbSt o line) :=
  Encodable.of_fields rfl
theorem Encodable.mrcbInv (o : DOp) (line : BitVec 5) : Encodable.Statement (.mrcbInv o line) :=
  Encodable.of_fields rfl
theorem Encodable.mzro (o : DOp) : Encodable.Statement (.mzro o) :=
  Encodable.of_fields rfl
theorem Encodable.guardCommandDrive (pch : Nat) : Encodable.Statement (.guardCommandDrive pch) :=
  Encodable.of_illegal rfl
theorem Encodable.timingFault (site : Nat) : Encodable.Statement (.timingFault site) :=
  Encodable.of_illegal rfl
theorem Encodable.autoPrecharge (pch : Nat) (bank : Nat) :
    Encodable.Statement (.autoPrecharge pch bank) :=
  Encodable.of_illegal rfl
theorem Encodable.dramOperationComplete (pch : Nat) (bank : Nat) :
    Encodable.Statement (.dramOperationComplete pch bank) :=
  Encodable.of_illegal rfl
theorem Encodable.dramReadLanding (pch : Nat) : Encodable.Statement (.dramReadLanding pch) :=
  Encodable.of_illegal rfl
theorem Encodable.refreshFrameBoundary (pch : Nat) :
    Encodable.Statement (.refreshFrameBoundary pch) :=
  Encodable.of_illegal rfl
theorem Encodable.custodialRefresh (pch : Nat) : Encodable.Statement (.custodialRefresh pch) :=
  Encodable.of_illegal rfl
theorem Encodable.idleRefresh (pch : Nat) : Encodable.Statement (.idleRefresh pch) :=
  Encodable.of_illegal rfl
theorem Encodable.push (o : DOp) (sr : BitVec 6) (peer : BitVec 7) (sz : BitVec 2) :
    Encodable.Statement (.push o sr peer sz) :=
  Encodable.of_fields rfl
theorem Encodable.pull (o : DOp) (sr : BitVec 6) (peer : BitVec 7) (sz : BitVec 2) :
    Encodable.Statement (.pull o sr peer sz) :=
  Encodable.of_fields rfl
theorem Encodable.layout (o : DOp) (lyn : BitVec 4) : Encodable.Statement (.layout o lyn) :=
  Encodable.of_fields rfl
theorem Encodable.xfrG (o : DOp) (sv : BitVec 6) (lyn : BitVec 4) (ch : BitVec 2) (st : BitVec 6) :
    Encodable.Statement (.xfrG o sv lyn ch st) :=
  Encodable.of_fields rfl
theorem Encodable.xfrP (o : DOp) (sv : BitVec 6) (lyn : BitVec 4) (ch : BitVec 2) (st : BitVec 6) :
    Encodable.Statement (.xfrP o sv lyn ch st) :=
  Encodable.of_fields rfl
theorem Encodable.xfrBegin (site : Nat) (ch id : Nat) :
    Encodable.Statement (.xfrBegin site ch id) :=
  Encodable.of_illegal rfl
theorem Encodable.xfrComplete (site : Nat) (ch id : Nat) :
    Encodable.Statement (.xfrComplete site ch id) :=
  Encodable.of_illegal rfl
theorem Encodable.untimedPortAccess (site : Nat) (ch id : Nat) :
    Encodable.Statement (.untimedPortAccess site ch id) :=
  Encodable.of_illegal rfl
theorem Encodable.istage (o : DOp) (nl : BitVec 6) : Encodable.Statement (.istage o nl) :=
  Encodable.of_fields rfl
theorem Encodable.demandStaging (site : Nat) (line : Nat) :
    Encodable.Statement (.demandStaging site line) :=
  Encodable.of_illegal rfl
theorem Encodable.lineStagingComplete (site : Nat) (slot : Nat) :
    Encodable.Statement (.lineStagingComplete site slot) :=
  Encodable.of_illegal rfl
theorem Encodable.retryEntryWrite (part : Nat) : Encodable.Statement (.retryEntryWrite part) :=
  Encodable.of_illegal rfl
theorem Encodable.tlbinvComplete (part : Nat) : Encodable.Statement (.tlbinvComplete part) :=
  Encodable.of_illegal rfl
theorem Encodable.atomAdd (o : AOp) (sb sd : BitVec 6) : Encodable.Statement (.atomAdd o sb sd) :=
  Encodable.of_fields rfl
theorem Encodable.atomSwap (o : AOp) (sb sd : BitVec 6) :
    Encodable.Statement (.atomSwap o sb sd) :=
  Encodable.of_fields rfl
theorem Encodable.atomCas (o : AOp) (sb sc sd : BitVec 6) :
    Encodable.Statement (.atomCas o sb sc sd) :=
  Encodable.of_fields rfl
theorem Encodable.atomAnd (o : AOp) (sb sd : BitVec 6) : Encodable.Statement (.atomAnd o sb sd) :=
  Encodable.of_fields rfl
theorem Encodable.atomOr (o : AOp) (sb sd : BitVec 6) : Encodable.Statement (.atomOr o sb sd) :=
  Encodable.of_fields rfl
theorem Encodable.atomXor (o : AOp) (sb sd : BitVec 6) : Encodable.Statement (.atomXor o sb sd) :=
  Encodable.of_fields rfl
theorem Encodable.atomMin (o : AOp) (sb sd : BitVec 6) : Encodable.Statement (.atomMin o sb sd) :=
  Encodable.of_fields rfl
theorem Encodable.atomMax (o : AOp) (sb sd : BitVec 6) : Encodable.Statement (.atomMax o sb sd) :=
  Encodable.of_fields rfl
theorem Encodable.atomMinu (o : AOp) (sb sd : BitVec 6) :
    Encodable.Statement (.atomMinu o sb sd) :=
  Encodable.of_fields rfl
theorem Encodable.atomMaxu (o : AOp) (sb sd : BitVec 6) :
    Encodable.Statement (.atomMaxu o sb sd) :=
  Encodable.of_fields rfl
theorem Encodable.atomFadd (o : AOp) (sb sd : BitVec 6) :
    Encodable.Statement (.atomFadd o sb sd) :=
  Encodable.of_fields rfl
theorem Encodable.atomLd (o : AOp) (sd : BitVec 6) : Encodable.Statement (.atomLd o sd) :=
  Encodable.of_fields rfl
theorem Encodable.redAdd (o : AOp) (sb : BitVec 6) : Encodable.Statement (.redAdd o sb) :=
  Encodable.of_fields rfl
theorem Encodable.redSt (o : AOp) (sb : BitVec 6) : Encodable.Statement (.redSt o sb) :=
  Encodable.of_fields rfl
theorem Encodable.redAnd (o : AOp) (sb : BitVec 6) : Encodable.Statement (.redAnd o sb) :=
  Encodable.of_fields rfl
theorem Encodable.redOr (o : AOp) (sb : BitVec 6) : Encodable.Statement (.redOr o sb) :=
  Encodable.of_fields rfl
theorem Encodable.redXor (o : AOp) (sb : BitVec 6) : Encodable.Statement (.redXor o sb) :=
  Encodable.of_fields rfl
theorem Encodable.redMin (o : AOp) (sb : BitVec 6) : Encodable.Statement (.redMin o sb) :=
  Encodable.of_fields rfl
theorem Encodable.redMax (o : AOp) (sb : BitVec 6) : Encodable.Statement (.redMax o sb) :=
  Encodable.of_fields rfl
theorem Encodable.redMinu (o : AOp) (sb : BitVec 6) : Encodable.Statement (.redMinu o sb) :=
  Encodable.of_fields rfl
theorem Encodable.redMaxu (o : AOp) (sb : BitVec 6) : Encodable.Statement (.redMaxu o sb) :=
  Encodable.of_fields rfl
theorem Encodable.redFadd (o : AOp) (sb : BitVec 6) : Encodable.Statement (.redFadd o sb) :=
  Encodable.of_fields rfl
theorem Encodable.atomicPerform (site : Nat) (n : Nat) :
    Encodable.Statement (.atomicPerform site n) :=
  Encodable.of_illegal rfl
theorem Encodable.atomReturn (site : Nat) (n : Nat) : Encodable.Statement (.atomReturn site n) :=
  Encodable.of_illegal rfl
theorem Encodable.trc (o : DOp) (tag : BitVec 8) : Encodable.Statement (.trc o tag) :=
  Encodable.of_fields rfl
theorem Encodable.trcFrz (o : DOp) (tag : BitVec 8) : Encodable.Statement (.trcFrz o tag) :=
  Encodable.of_fields rfl
theorem Encodable.traceFreeze (site : Nat) : Encodable.Statement (.traceFreeze site) :=
  Encodable.of_illegal rfl
theorem Encodable.resultLanding (site : Nat) : Encodable.Statement (.resultLanding site) :=
  Encodable.of_illegal rfl
theorem Encodable.holdRelease (coh : Nat) : Encodable.Statement (.holdRelease coh) :=
  Encodable.of_illegal rfl
theorem Encodable.trapHandlerEntry (site : Nat) : Encodable.Statement (.trapHandlerEntry site) :=
  Encodable.of_illegal rfl
theorem Encodable.thaw (site : Nat) : Encodable.Statement (.thaw site) :=
  Encodable.of_illegal rfl
theorem Encodable.regionRollback (site : Nat) : Encodable.Statement (.regionRollback site) :=
  Encodable.of_illegal rfl
theorem Encodable.latencyClass (coh : Nat) : Encodable.Statement (.latencyClass coh) :=
  Encodable.of_illegal rfl
theorem Encodable.retrainComplete (site : Nat) (result : Retrain) :
    Encodable.Statement (.retrainComplete site result) :=
  Encodable.of_illegal rfl
theorem Encodable.preempt (coh : Nat) : Encodable.Statement (.preempt coh) :=
  Encodable.of_illegal rfl
theorem Encodable.resume (coh : Nat) : Encodable.Statement (.resume coh) :=
  Encodable.of_illegal rfl
theorem Encodable.nodeBind (part : Nat) (queue node : Nat) :
    Encodable.Statement (.nodeBind part queue node) :=
  Encodable.of_illegal rfl
theorem Encodable.nodeRetire (coh : Nat) : Encodable.Statement (.nodeRetire coh) :=
  Encodable.of_illegal rfl
theorem Encodable.nodeRequeue (coh : Nat) : Encodable.Statement (.nodeRequeue coh) :=
  Encodable.of_illegal rfl
theorem Encodable.wdogTimeout (coh : Nat) : Encodable.Statement (.wdogTimeout coh) :=
  Encodable.of_illegal rfl
theorem Encodable.eventRecordWrite (part : Nat) : Encodable.Statement (.eventRecordWrite part) :=
  Encodable.of_illegal rfl
theorem Encodable.evcoalTimeout (part : Nat) : Encodable.Statement (.evcoalTimeout part) :=
  Encodable.of_illegal rfl
theorem Encodable.imageLoadComplete (part : Nat) :
    Encodable.Statement (.imageLoadComplete part) :=
  Encodable.of_illegal rfl
theorem Encodable.shardProgram (part : Nat) (handle idx : Nat) :
    Encodable.Statement (.shardProgram part handle idx) :=
  Encodable.of_illegal rfl
theorem Encodable.reclamationComplete (part : Nat) :
    Encodable.Statement (.reclamationComplete part) :=
  Encodable.of_illegal rfl
theorem Encodable.flrComplete (part : Nat) : Encodable.Statement (.flrComplete part) :=
  Encodable.of_illegal rfl
theorem Encodable.glintEvaluation (site : Nat) (arr : Nat) :
    Encodable.Statement (.glintEvaluation site arr) :=
  Encodable.of_illegal rfl
theorem Encodable.rrrespRetry (part : Nat) (tag : Nat) :
    Encodable.Statement (.rrrespRetry part tag) :=
  Encodable.of_illegal rfl
theorem Encodable.rrrespAbort (part : Nat) (tag : Nat) :
    Encodable.Statement (.rrrespAbort part tag) :=
  Encodable.of_illegal rfl
theorem Encodable.rrcntWrite (part : Nat) (v : Word) : Encodable.Statement (.rrcntWrite part v) :=
  Encodable.of_illegal rfl
theorem Encodable.ptrootWrite (part : Nat) (v : Word) :
    Encodable.Statement (.ptrootWrite part v) :=
  Encodable.of_illegal rfl
theorem Encodable.tlbinvWrite (part : Nat) (v : Word) :
    Encodable.Statement (.tlbinvWrite part v) :=
  Encodable.of_illegal rfl
theorem Encodable.retrainRequest (site : Nat) : Encodable.Statement (.retrainRequest site) :=
  Encodable.of_illegal rfl
theorem Encodable.overTemperature (site : Nat) (cls : BitVec 2) :
    Encodable.Statement (.overTemperature site cls) :=
  Encodable.of_illegal rfl
theorem Encodable.launchWrite (part : Nat) (queue : Nat) (full : Bool) (v : Word) :
    Encodable.Statement (.launchWrite part queue full v) :=
  Encodable.of_illegal rfl
theorem Encodable.qctlAbort (part : Nat) (queue : Nat) :
    Encodable.Statement (.qctlAbort part queue) :=
  Encodable.of_illegal rfl
theorem Encodable.qctlErrClear (part : Nat) (queue : Nat) :
    Encodable.Statement (.qctlErrClear part queue) :=
  Encodable.of_illegal rfl
theorem Encodable.imgloadLoad (part : Nat) (v : Word) :
    Encodable.Statement (.imgloadLoad part v) :=
  Encodable.of_illegal rfl
theorem Encodable.imgloadUnload (part : Nat) (v : Word) :
    Encodable.Statement (.imgloadUnload part v) :=
  Encodable.of_illegal rfl
theorem Encodable.partitionCreate : Encodable.Statement (.partitionCreate) :=
  Encodable.of_illegal rfl
theorem Encodable.partitionResize : Encodable.Statement (.partitionResize) :=
  Encodable.of_illegal rfl
theorem Encodable.partitionRelease : Encodable.Statement (.partitionRelease) :=
  Encodable.of_illegal rfl
theorem Encodable.functionLevelReset (part : Nat) :
    Encodable.Statement (.functionLevelReset part) :=
  Encodable.of_illegal rfl
theorem Encodable.rrbaseWrite (part : Nat) (v : Word) :
    Encodable.Statement (.rrbaseWrite part v) :=
  Encodable.of_illegal rfl
theorem Encodable.evbaseWrite (part : Nat) (v : Word) :
    Encodable.Statement (.evbaseWrite part v) :=
  Encodable.of_illegal rfl
theorem Encodable.evtailWrite (part : Nat) (v : Word) :
    Encodable.Statement (.evtailWrite part v) :=
  Encodable.of_illegal rfl
theorem Encodable.syncwinRead (part : Nat) (off size : Nat) :
    Encodable.Statement (.syncwinRead part off size) :=
  Encodable.of_illegal rfl
theorem Encodable.syncwinWrite (part : Nat) (off size : Nat) (v : Word) :
    Encodable.Statement (.syncwinWrite part off size v) :=
  Encodable.of_illegal rfl
theorem Encodable.registerWrite (fn off : Nat) (v : Word) :
    Encodable.Statement (.registerWrite fn off v) :=
  Encodable.of_illegal rfl
theorem Encodable.trcctlFrozenClear (site : Nat) :
    Encodable.Statement (.trcctlFrozenClear site) :=
  Encodable.of_illegal rfl
theorem Encodable.trccopyWrite (v : Word) : Encodable.Statement (.trccopyWrite v) :=
  Encodable.of_illegal rfl
theorem Encodable.trccopyComplete : Encodable.Statement (.trccopyComplete) :=
  Encodable.of_illegal rfl
theorem Encodable.qtrcopyWrite (v : Word) : Encodable.Statement (.qtrcopyWrite v) :=
  Encodable.of_illegal rfl
theorem Encodable.qtrcopyComplete : Encodable.Statement (.qtrcopyComplete) :=
  Encodable.of_illegal rfl
theorem Encodable.attreqWrite (v : Word) : Encodable.Statement (.attreqWrite v) :=
  Encodable.of_illegal rfl
theorem Encodable.attestationReport : Encodable.Statement (.attestationReport) :=
  Encodable.of_illegal rfl
theorem Encodable.dumpcmdGo : Encodable.Statement (.dumpcmdGo) :=
  Encodable.of_illegal rfl
theorem Encodable.fatalError (cause : FatalCause) : Encodable.Statement (.fatalError cause) :=
  Encodable.of_illegal rfl
theorem Encodable.errinjWrite (v : Word) : Encodable.Statement (.errinjWrite v) :=
  Encodable.of_illegal rfl
theorem Encodable.boot : Encodable.Statement (.boot) :=
  Encodable.of_illegal rfl
theorem Encodable.bootaddrWrite (v : Word) : Encodable.Statement (.bootaddrWrite v) :=
  Encodable.of_illegal rfl
theorem Encodable.pwrcapWrite (v : Word) : Encodable.Statement (.pwrcapWrite v) :=
  Encodable.of_illegal rfl
theorem Encodable.powerSample (r : PowerReading) : Encodable.Statement (.powerSample r) :=
  Encodable.of_illegal rfl

end Sys2Proof.Laws
end

