-- ==== Sys2Proof/Laws/Vector.lean ====
section
/-! SUPPORT. Elements of vector registers, lane masks, and what the shared vector operations land. -/

namespace Sys2Proof.Laws

open Sys2Proof Sys2Proof.Machine

/-- The number that `packElems` makes of a list. -/
def packed (w : Nat) (l : List Nat) : Nat := l.foldr (fun x a => a * 2 ^ w + x % 2 ^ w) 0

theorem packed_lt (w : Nat) (l : List Nat) : packed w l < 2 ^ (w * l.length) := by
  induction l with
  | nil => simp [packed]
  | cons x l ih =>
    have hx : x % 2 ^ w < 2 ^ w := Nat.mod_lt _ (by positivity)
    have : packed w (x :: l) = packed w l * 2 ^ w + x % 2 ^ w := rfl
    rw [this, List.length_cons, Nat.mul_succ, pow_add]
    nlinarith [Nat.succ_le_of_lt ih]

theorem packed_get (w : Nat) (l : List Nat) (k : Nat) (h : k < l.length) :
    packed w l / 2 ^ (w * k) % 2 ^ w = l[k] % 2 ^ w := by
  induction l generalizing k with
  | nil => simp at h
  | cons x l ih =>
    have e : packed w (x :: l) = packed w l * 2 ^ w + x % 2 ^ w := rfl
    have hx : x % 2 ^ w < 2 ^ w := Nat.mod_lt _ (by positivity)
    cases k with
    | zero => simp [e]
    | succ k =>
      have : 2 ^ (w * (k + 1)) = 2 ^ w * 2 ^ (w * k) := by rw [← pow_add]; ring_nf
      rw [e, this, ← Nat.div_div_eq_div_mul, Nat.add_comm, Nat.add_mul_div_right _ _ (by positivity),
        Nat.div_eq_of_lt hx, Nat.zero_add]
      exact ih k (by simpa using h)

/-- Element k of a packed register. -/
theorem elem_packElems (w : Nat) (l : List Nat) (k : Nat) (h : k < l.length) (hw : w * l.length ≤ 1024) :
    elem w (packElems w l) k = l[k] % 2 ^ w := by
  have : (packElems w l).toNat = packed w l := by
    simp only [packElems, BitVec.toNat_ofNat]
    exact Nat.mod_eq_of_lt (Nat.lt_of_lt_of_le (packed_lt w l) (Nat.pow_le_pow_right (by omega) hw))
  rw [elem, this, packed_get w l k h]

theorem elem_lt (w : Nat) (v : VWord) (k : Nat) : elem w v k < 2 ^ w := Nat.mod_lt _ (by positivity)

theorem tyWidth_pos (ty : BitVec 3) : 0 < tyWidth ty := by
  unfold tyWidth; split <;> decide

/-- An elementwise result lands its elements in active lanes, with their flags. -/
theorem vecOut_lands (o : VOp) (off w : Nat) (f : Nat → Nat × NFlags) (s : State) (hm : s.cx.mask o.g ≠ 0) :
    ∃ t, vecOut o off w f s = .next t ∧
      LandsV s t o off w (fun k => (f k).1) (laneFlags (s.cx.mask o.g) w fun k => (f k).2) := by
  refine ⟨_, by rw [vecOut]; exact if_neg hm, packElems w (((List.range (1024 / w)).map fun i =>
    if active (s.cx.mask o.g) w i then f i else (0, fNone)).map (·.1)), ?_, ?_⟩
  · congr 2
    simp only [List.map_map]
    apply List.map_congr_left
    intro k _
    simp only [Function.comp]
    split <;> rfl
  · intro k hk ha
    rw [elem_packElems]
    · simp [ha]
    · simpa using hk
    · simp only [List.length_map, List.length_range]
      exact Nat.mul_div_le 1024 w

/-- The same for a repeated element. -/
theorem elem_splat (w x k : Nat) (h : k < 1024 / w) : elem w (splat w x) k = x % 2 ^ w := by
  rw [splat, elem_packElems]
  · rw [List.getElem_replicate]
  · simpa using h
  · simp only [List.length_replicate]
    exact Nat.mul_div_le 1024 w

/-- A vector operation whose sources are readable runs. -/
theorem withB_readable (l : List (BitVec 10)) (s : State) (k : Out) (h : s.readable l) : withB l s k = k := by
  unfold withB
  rw [if_neg]
  simp only [Bool.and_eq_true, List.contains_iff_mem, Option.isNone_iff_eq_none]
  exact fun e => h e.1 e.2

/-- Elements and flags may be put in another form. -/
theorem LandsV.congr {s t : State} {o : VOp} {off w : Nat} {x y : Nat → Nat} {f g : Nat → NFlags}
    (h : LandsV s t o off w x (laneFlags (s.cx.mask o.g) w f))
    (hx : ∀ k < 1024 / w, x k % 2 ^ w = y k % 2 ^ w) (hf : ∀ k < 1024 / w, f k = g k) :
    LandsV s t o off w y (laneFlags (s.cx.mask o.g) w g) := by
  obtain ⟨v, e, hv⟩ := h
  refine ⟨v, ?_, fun k hk ha => (hv k hk ha).trans (hx k hk)⟩
  rw [e]
  congr 1
  simp only [laneFlags]
  congr 1
  apply List.map_congr_left
  intro k hk
  rw [hf k (by simpa using hk)]

/-- A two-source operation on integers. -/
theorem vecBin_int (o : VOp) (offF offI : Nat) (ff : Fmt → FV → FV → Nat × NFlags)
    (fi : Nat → Nat → Nat → Nat × NFlags) (s : State) (hf : isFloat o.ty = false)
    (hm : s.cx.mask o.g ≠ 0) (hr : s.readable [o.va, o.vb]) :
    let w := tyWidth o.ty
    let r := fun k => fi w (elem w (s.srcV w o.va) k) (elem w (s.srcV w o.vb) k)
    ∃ t, vecBin o offF offI ff fi s = .next t ∧
      LandsV s t o offI w (fun k => (r k).1) (laneFlags (s.cx.mask o.g) w fun k => (r k).2) := by
  rw [vecBin, withB_readable _ _ _ hr]
  simp only [hf, Bool.false_eq_true, if_false]
  exact vecOut_lands o offI _ _ s hm

/-- A two-source operation on floating values. -/
theorem vecBin_float (o : VOp) (offF offI : Nat) (ff : Fmt → FV → FV → Nat × NFlags)
    (fi : Nat → Nat → Nat → Nat × NFlags) (s : State) (hf : isFloat o.ty = true)
    (hm : s.cx.mask o.g ≠ 0) (hr : s.readable [o.va, o.vb]) :
    let w := tyWidth o.ty
    let d := fun v k => fdec (fmtOf o.ty) s.cx.ftz (elem w v k)
    let r := fun k => ff (fmtOf o.ty) (d (s.srcV w o.va) k) (d (s.srcV w o.vb) k)
    ∃ t, vecBin o offF offI ff fi s = .next t ∧
      LandsV s t o offF w (fun k => (r k).1) (laneFlags (s.cx.mask o.g) w fun k => (r k).2) := by
  rw [vecBin, withB_readable _ _ _ hr]
  simp only [hf, if_true]
  exact vecOut_lands o offF _ _ s hm

/-- A one-source operation. -/
theorem vecUn_lands (o : VOp) (off : Nat) (f : Nat → Nat → Nat × NFlags) (s : State)
    (hm : s.cx.mask o.g ≠ 0) (hr : s.readable [o.va]) :
    let w := tyWidth o.ty
    let r := fun k => f w (elem w (s.srcV w o.va) k)
    ∃ t, vecUn o off f s = .next t ∧
      LandsV s t o off w (fun k => (r k).1) (laneFlags (s.cx.mask o.g) w fun k => (r k).2) := by
  rw [vecUn, withB_readable _ _ _ hr]
  exact vecOut_lands o off _ _ s hm

/-- Fewer sources are readable too. -/
theorem State.readable.sub {s : State} {l k : List (BitVec 10)} (h : s.readable l) (hk : ∀ r ∈ k, r ∈ l) :
    s.readable k := fun e => h (hk _ e)

/-- No element sets a flag. -/
theorem laneFlags_none (m : Half) (w : Nat) : laneFlags m w (fun _ => fNone) = fNone := by
  simp only [laneFlags, ite_self, orAll]
  generalize List.range (1024 / w) = l
  induction l with
  | nil => rfl
  | cons x l ih => simpa [fNone] using ih

end Sys2Proof.Laws
end

