-- ==== Sys2Proof/Tests/Slice0.lean ====
section
/-! SUPPORT. Tests: ill-formed instructions that the checks refuse, words of the spec that decode to
their instructions, one step on small states, and witnesses for the hypotheses of the statements. -/

namespace Sys2Proof.Tests

open Sys2Proof Sys2Proof.Machine

set_option Elab.async false

/-! ## What WellFormed refuses -/

/-- A vector operation on VD = V1, VA = V2, VB = V3 of one type. -/
def vop (ty : BitVec 3) : VOp :=
  { g := 0, sh := false, vd := 1, va := 2, vb := 3, ty := ty, sat := false, rms := 0 }

theorem test_ill_scope : wellFormed (.scope 5) = false ∧ wellFormed (.scope 4) = true := by decide
theorem test_ill_block : wellFormed (.block 0) = false ∧ wellFormed (.block 1) = true := by decide
theorem test_ill_ximm : wellFormed (.ximm 1 7) = false ∧ wellFormed (.ximm 2 7) = true := by decide
theorem test_ill_condition : wellFormed (.cmp ⟨0, 1, 12, 2, 3⟩) = false ∧
    wellFormed (.cmpi ⟨0, 1, 15, 2, 3⟩) = false ∧ wellFormed (.cmp ⟨0, 1, 11, 2, 3⟩) = true := by decide
theorem test_ill_pmov : wellFormed (.pmovPP 0 16 1) = false ∧ wellFormed (.pmovPP 0 1 16) = false ∧
    wellFormed (.pmovPS 0 16 1) = false ∧ wellFormed (.pmovSP 0 1 16) = false ∧
    wellFormed (.pmovPS 0 15 63) = true := by decide
theorem test_ill_loop : wellFormed (.loop 0 1 0 5) = false ∧ wellFormed (.loopm 0 1 0 5) = false ∧
    wellFormed (.loop 0 3 4095 0) = true := by decide
theorem test_ill_counters : wellFormed (.cycC 0 4 4) = false ∧ wellFormed (.cycC 0 4 5) = true := by decide
theorem test_ill_control_register : wellFormed (.csrr 0 1 0x000) = false ∧
    wellFormed (.csrw 0 1 0x003) = false ∧ wellFormed (.csrr 0 1 0x003) = true := by decide
theorem test_ill_preserve : wellFormed (.rpres 5 0 0) = false ∧ wellFormed (.rpres 4 1 0) = false ∧
    wellFormed (.rpres 0 63 1) = false ∧ wellFormed (.rpres 1 639 0) = true := by decide
theorem test_ill_fence : wellFormed (.fence 0 5) = false ∧ wellFormed (.fence 0 4) = true := by decide
theorem test_ill_vector_type : wellFormed (.vadd (vop 6)) = false ∧ wellFormed (.vfma (vop 5)) = false ∧
    wellFormed (.vadd (vop 5)) = true := by decide
theorem test_ill_vector_register : wellFormed (.vadd { vop 4 with vd := 640 }) = false ∧
    wellFormed (.vadd { vop 4 with va := 641 }) = false ∧ wellFormed (.vadd { vop 4 with va := 0x3FF }) = true ∧
    wellFormed (.vadd { vop 4 with vd := 0x3FF }) = false := by decide
theorem test_ill_rounding : wellFormed (.vadd { vop 0 with rms := 1 }) = false ∧
    wellFormed (.vadd { vop 4 with rms := 5 }) = false ∧ wellFormed (.vadd { vop 0 with rms := 5 }) = true := by
  decide
theorem test_ill_saturation : wellFormed (.vadd { vop 0 with sat := true }) = false ∧
    wellFormed (.vmin { vop 4 with sat := true }) = false ∧ wellFormed (.vadd { vop 4 with sat := true }) = true := by
  decide
theorem test_ill_reserved_source : wellFormed (.vneg (vop 4)) = false ∧
    wellFormed (.vneg { vop 4 with vb := 0 }) = true ∧ wellFormed (.vbcImm { vop 4 with vb := 0 } 1) = false := by
  decide
theorem test_ill_element : wellFormed (.vshlImm { vop 3 with vb := 0 } 8) = false ∧
    wellFormed (.vrot { vop 5 with vb := 0 } 32) = false ∧ wellFormed (.vbc { vop 4 with vb := 0 } 64) = false ∧
    wellFormed (.vrot { vop 5 with vb := 0 } 31) = true := by decide
theorem test_ill_vector_condition : wellFormed (.vcmp (vop 0) 4) = false ∧ wellFormed (.vcmp (vop 4) 10) = false ∧
    wellFormed (.vcmpP { vop 4 with vd := 16 } 0) = false ∧ wellFormed (.vcmp (vop 4) 4) = true := by decide
theorem test_ill_conversion : wellFormed (.vcvt { vop 0 with vb := 0 } 1 1) = false ∧
    wellFormed (.vcvt { vop 2 with vb := 0 } 1 0) = false ∧ wellFormed (.vcvt { vop 1 with vb := 0 } 1 0) = true := by
  decide
theorem test_ill_reduction : wellFormed (.vred { vop 4 with vb := 0 } 5) = false ∧
    wellFormed (.vred { vop 0 with vb := 0 } 3) = false ∧ wellFormed (.vred { vop 4 with vb := 0 } 3) = true := by
  decide
theorem test_ill_table : wellFormed (.vtint (vop 0)) = false ∧
    wellFormed (.vtint { vop 0 with vb := 0x3FF }) = true := by decide
theorem test_ill_quantise : wellFormed (.vbfpq (vop 0) 9 0) = false ∧ wellFormed (.vbfpq (vop 0) 8 4) = false ∧
    wellFormed (.vmxq (vop 1) 1) = false ∧ wellFormed (.vbfpq (vop 0) 8 3) = true := by decide
theorem test_ill_dequantise : wellFormed (.vdqg (vop 0) 6 false 0 false) = false ∧
    wellFormed (.vdqg (vop 0) 5 false 1 false) = false ∧ wellFormed (.vdqg (vop 0) 5 false 0 true) = false ∧
    wellFormed (.vdqg (vop 0) 5 true 7 false) = true := by decide
theorem test_ill_vector_memory : wellFormed (.vld ⟨0, false, 640, 1, 0, 0⟩) = false ∧
    wellFormed (.vld ⟨0, false, 1, 1, 1, 0⟩) = false ∧ wellFormed (.vgth ⟨0, false, 1, 1, 700, 0⟩) = false ∧
    wellFormed (.vst ⟨0, false, 0x3FF, 1, 0, 0⟩) = true := by decide
theorem test_ill_atomic : wellFormed (.atomMin ⟨0, false, 1, true, false⟩ 2 3) = false ∧
    wellFormed (.redFadd ⟨0, false, 1, true, true⟩ 2) = false ∧
    wellFormed (.atomAdd ⟨0, false, 1, true, false⟩ 2 3) = true := by decide
theorem test_ill_event : wellFormed (.resultLanding 128) = false ∧ wellFormed (.glintEvaluation 1 128) = false ∧
    wellFormed (.lineStagingComplete 128 0) = false ∧ wellFormed (.startAlignment 256) = false ∧
    wellFormed (.guardCommandDrive 512) = false ∧ wellFormed (.autoPrecharge 1 16) = false ∧
    wellFormed (.ptrootWrite 16 0) = false ∧ wellFormed (.nodeBind 1 8 0) = false ∧
    wellFormed (.shardProgram 1 256 0) = false ∧ wellFormed (.registerWrite 17 0 0) = false ∧
    wellFormed (.resultLanding 127) = true := by decide

/-! ## Words of the spec's worked examples -/

theorem test_word_tmpl : decodeSyl false 0x80003400 = .ok (.tmpl 3 0b010000) := by decide
theorem test_word_scope : decodeSyl false 0x08080000 = .ok (.scope 4) := by decide
theorem test_word_nop : decodeSyl false 0x90000000 = .ok (.nop 0) := by decide
theorem test_word_align : decodeSyl false 0x93E00000 = .ok (.align 0) := by decide
theorem test_word_li : decodeSyl false 0x12414100 = .ok (.li 0 5 256) := by decide
theorem test_word_divu : decodeSyl false 0x90F1020C = .ok (.divu ⟨0, 4, 2, 3⟩) := by decide
theorem test_word_addi : decodeSyl false 0x90A10005 = .ok (.addi false ⟨0, 4, 0, 5⟩) := by decide
theorem test_word_add : decodeSyl false 0x90814410 = .ok (.add false ⟨0, 5, 4, 4⟩) := by decide
theorem test_word_mul : decodeSyl false 0x90B1030C = .ok (.mul false ⟨0, 4, 3, 3⟩) := by decide
theorem test_word_mov : decodeSyl false 0x92518400 = .ok (.mov ⟨0, 6, 4⟩) := by decide
theorem test_word_andi : decodeSyl false 0x915145E0 = .ok (.andi ⟨0, 5, 5, 0xE0⟩) := by decide
theorem test_word_rft : decodeSyl false 0x90300000 = .ok (.rft 0) := by decide
theorem test_word_loopm : decodeSyl false 0x93D00B00 = .ok (.loopm 0 0 44 0) ∧
    decodeSyl false 0x93D400C8 = .ok (.loopm 0 1 3 2) := by decide
theorem test_word_waitx : decodeSyl false 0x94100000 = .ok (.waitx 0 0 0) := by decide
theorem test_word_regions : decodeSyl false 0x94800000 = .ok .rbegin ∧
    decodeSyl false 0x94920A00 = .ok (.rpres 1 20 0) ∧ decodeSyl false 0x94A24000 = .ok (.rend 9) := by decide
theorem test_word_vadd : decodeSyl true 0x000C03C0D800A80C =
    .ok (.vadd ⟨0, false, 42, 12, 15, 4, true, 0⟩) := by decide
theorem test_word_vbc : decodeSyl true 0x8104000059B05400 =
    .ok (.vbcImm ⟨0, false, 21, 0, 0, 4, false, 0⟩ 2) := by decide
theorem test_word_vslide : decodeSyl true 0x008407805A202C01 =
    .ok (.vslideDn ⟨0, false, 11, 1, 30, 4, false, 0⟩ 1) := by decide
theorem test_word_vbfpq : decodeSyl true 0x12000540DB205003 =
    .ok (.vbfpq ⟨0, false, 20, 3, 21, 0, false, 0⟩ 4 2) := by decide
theorem test_word_push : decodeSyl false 0xB1010502 = .ok (.push ⟨0, false, 4⟩ 5 1 0) := by decide
theorem test_word_dram : decodeSyl false 0xB0A34000 = .ok (.mrcbLd ⟨0, false, 13⟩ 0) ∧
    decodeSyl false 0xB0B28000 = .ok (.mzro ⟨0, false, 10⟩) ∧
    decodeSyl false 0xB0728000 = .ok (.mref ⟨0, false, 10⟩) ∧
    decodeSyl true 0x00000001F0028000 = .ok (.mact ⟨1, false, 10⟩) := by decide
theorem test_word_trc : decodeSyl false 0xB19242A8 = .ok (.trcFrz ⟨0, false, 9⟩ 0x2A) := by decide
theorem test_word_red : decodeSyl false 0xB172CE14 = .ok (.redSt ⟨0, false, 11, false, true⟩ 14) := by decide
theorem test_word_xmv : decodeSyl true 0x016330C0E9016850 =
    .ok (.xmv ⟨0, false, 90, 80, 3, 3, 6, 11⟩) := by decide
theorem test_word_calibration : decodeSyl false 0xA940F490 = .ok (.xread ⟨0, false, 9⟩ 61 0) ∧
    decodeSyl true 0x00001800E9310090 = .ok (.xprogSet ⟨0, false, 9⟩ 64 0 6) ∧
    decodeSyl true 0x00000001E9500160 = .ok (.xremap ⟨1, false, 22⟩ 0) ∧
    decodeSyl true 0x00000040E98124A0 = .ok (.xcalGC ⟨0, false, 10⟩ 73 0) := by decide

theorem test_word_matrix : decodeSyl false 0xA8240000 = .ok (.twl 0 8) ∧
    decodeSyl false 0xA8401020 = .ok (.tmmaSmx 0 0 4 1 0 0) ∧
    decodeSyl true 0x00000200E8500600 = .ok (.tsmxNorm 0 0 1 8) := by decide

/-- R46: reserved bits, an unassigned opcode, a width that is not permitted. -/
theorem test_word_reserved_refused : decodeSyl false 0x80003401 = .error .reserved ∧
    decodeSyl false 0x80100000 = .error .unassigned ∧ decodeSyl false 0x58000000 = .error .width := by decide

/-! ## Placing and running one instruction -/

/-- The next state of an outcome. -/
def after (o : Out) : State :=
  match o with
  | .next t => t
  | _ => State.reset

/-- The outcome is a next state. -/
def goesOn (o : Out) : Bool :=
  match o with
  | .next _ => true
  | _ => false

/-- What is in flight in core 0 after an outcome: landing cycle, flags and effect. -/
def flying (o : Out) : List (Nat × NFlags × Effect) :=
  ((after o).ctx 0).flight.map fun p => (p.land, p.flags, p.eff)

/-- The cause of the trap that core 0 has taken. -/
def cause (o : Out) : Nat := bits ((after o).ctx 0).tstat 23 16

/-- Core 0 in its cohort's cycle 0, with scalar registers of the given values. -/
def bench (r : SMap Word) : State := (State.reset.bench 0).modCtx 0 fun c => { c with s := r }

/-- ADDI S4, S0, 5 (R104): the first step runs it, it lands at c + 1, and the next bundle is at 4. -/
theorem test_step_runs_addi :
    flying (step (State.reset.withFetchWord 32 0x10A10005)) = [(1, fNone, .sreg 4 5)] ∧
    ((after (step (State.reset.withFetchWord 32 0x10A10005))).ctx 0).pc = 4 := by decide +kernel

/-- A 64-bit syllable (R42): VBC of 2 to the 16-bit elements of V21. -/
theorem test_step_runs_vbc :
    ((after (step (State.reset.withFetchWord 64 0x8104000059B05400))).ctx 0).pc = 8 := by decide +kernel

/-- The word of an instruction that does not exist traps at its slot (R46). -/
theorem test_step_illegal : cause (step (State.reset.withFetchWord 32 0x17F00000)) = 2 := by decide +kernel

theorem test_table_word : decodeTableWord 32 0x10A10005 = some (.addi false ⟨0, 4, 0, 5⟩) := by decide

/-! ## Scalar operations (R104 to R109) -/

theorem test_add_wraps : flying (exec (.add false ⟨0, 4, 2, 3⟩) (bench [(2, 0xFFFFFFFFFFFFFFFF), (3, 2)])) =
    [(1, fNone, .sreg 4 1)] := by decide
theorem test_add_saturates : flying (exec (.add true ⟨0, 4, 2, 3⟩)
    (bench [(2, 0x7FFFFFFFFFFFFFFF), (3, 1)])) = [(1, fSQ, .sreg 4 0x7FFFFFFFFFFFFFFF)] := by decide
theorem test_sub_below_zero : flying (exec (.sub false ⟨0, 4, 2, 3⟩) (bench [(2, 1), (3, 2)])) =
    [(1, fNone, .sreg 4 0xFFFFFFFFFFFFFFFF)] := by decide
theorem test_addi_negative : flying (exec (.addi false ⟨0, 4, 2, 0xFF⟩) (bench [(2, 5)])) =
    [(1, fNone, .sreg 4 4)] := by decide
theorem test_mul_lands_at_3 : flying (exec (.mul false ⟨0, 4, 3, 3⟩) (bench [(3, 7)])) =
    [(3, fNone, .sreg 4 49)] := by decide
theorem test_mulh_signed : flying (exec (.mulh ⟨0, 4, 2, 3⟩) (bench [(2, 0xFFFFFFFFFFFFFFFF), (3, 2)])) =
    [(3, fNone, .sreg 4 0xFFFFFFFFFFFFFFFF)] := by decide
theorem test_mulhu : flying (exec (.mulhu ⟨0, 4, 2, 3⟩) (bench [(2, 0xFFFFFFFFFFFFFFFF), (3, 2)])) =
    [(3, fNone, .sreg 4 1)] := by decide
theorem test_div_truncates : flying (exec (.div ⟨0, 4, 2, 3⟩) (bench [(2, 0xFFFFFFFFFFFFFFF9), (3, 2)])) =
    [(12, fNone, .sreg 4 0xFFFFFFFFFFFFFFFD)] := by decide
theorem test_div_overflow : flying (exec (.div ⟨0, 4, 2, 3⟩)
    (bench [(2, 0x8000000000000000), (3, 0xFFFFFFFFFFFFFFFF)])) = [(12, fNone, .sreg 4 0x8000000000000000)] := by
  decide
theorem test_divu_by_zero : flying (exec (.divu ⟨0, 4, 2, 3⟩) (bench [(2, 5)])) =
    [(12, fNone, .sreg 4 0xFFFFFFFFFFFFFFFF)] := by decide
theorem test_rem_sign : flying (exec (.rem ⟨0, 4, 2, 3⟩) (bench [(2, 0xFFFFFFFFFFFFFFF9), (3, 2)])) =
    [(12, fNone, .sreg 4 0xFFFFFFFFFFFFFFFF)] := by decide
theorem test_remu_by_zero : flying (exec (.remu ⟨0, 4, 2, 3⟩) (bench [(2, 5)])) =
    [(12, fNone, .sreg 4 5)] := by decide
theorem test_shift_count_modulo : flying (exec (.shl ⟨0, 4, 2, 3⟩) (bench [(2, 3), (3, 65)])) =
    [(1, fNone, .sreg 4 6)] := by decide
theorem test_sra : flying (exec (.sra ⟨0, 4, 2, 3⟩) (bench [(2, 0x8000000000000000), (3, 63)])) =
    [(1, fNone, .sreg 4 0xFFFFFFFFFFFFFFFF)] := by decide
theorem test_andi_sign_extends : flying (exec (.andi ⟨0, 5, 5, 0xE0⟩) (bench [(5, 0x1003F)])) =
    [(1, fNone, .sreg 5 0x10020)] := by decide
theorem test_min_signed : flying (exec (.min ⟨0, 4, 2, 3⟩) (bench [(2, 0xFFFFFFFFFFFFFFFF), (3, 2)])) =
    [(1, fNone, .sreg 4 0xFFFFFFFFFFFFFFFF)] := by decide
theorem test_minu_unsigned : flying (exec (.minu ⟨0, 4, 2, 3⟩) (bench [(2, 0xFFFFFFFFFFFFFFFF), (3, 2)])) =
    [(1, fNone, .sreg 4 2)] := by decide
theorem test_clz_of_zero : flying (exec (.clz ⟨0, 4, 2⟩) (bench [])) = [(1, fNone, .sreg 4 64)] := by
  decide
theorem test_popc : flying (exec (.popc ⟨0, 4, 2⟩) (bench [(2, 0x8000000000000003)])) =
    [(1, fNone, .sreg 4 3)] := by decide
theorem test_li : flying (exec (.li 0 5 0x3FFF) (bench [])) = [(1, fNone, .sreg 5 0xFFFFFFFFFFFFFFFF)] := by
  decide
theorem test_cmp_signed : flying (exec (.cmp ⟨0, 1, 2, 2, 3⟩) (bench [(2, 0xFFFFFFFFFFFFFFFF), (3, 2)])) =
    [(1, fNone, .preg 1 0xFFFFFFFF 0xFFFFFFFF)] := by decide
theorem test_cmp_unsigned : flying (exec (.cmp ⟨0, 1, 4, 2, 3⟩) (bench [(2, 0xFFFFFFFFFFFFFFFF), (3, 2)])) =
    [(1, fNone, .preg 1 0xFFFFFFFF 0)] := by decide
theorem test_guard_false : flying (exec (.add false ⟨0b10000, 4, 2, 3⟩) (bench [])) = [] := by decide
theorem test_pmov_from_predicate_0 : flying (exec (.pmovSP 0 4 0) (bench [])) =
    [(1, fNone, .sreg 4 0xFFFFFFFF)] := by decide
theorem test_s0_reads_zero : flying (exec (.mov ⟨0, 4, 0⟩) (bench [(0, 5)])) = [(1, fNone, .sreg 4 0)] := by
  decide

/-! ## Control (R86 to R93), scratchpad, traps (R286) -/

theorem test_br_target : (after (exec (.br 0 3) (bench []))).cur.jump = some (12, 2) := by decide
theorem test_jmp_misaligned : cause (exec (.jmp 0 2 0) (bench [(2, 6)])) = 4 := by decide
theorem test_loop_opens : ((after (exec (.loop 0 1 3 5) (bench []))).ctx 0).stack = [1] ∧
    (((after (exec (.loop 0 1 3 5) (bench []))).ctx 0).loop 1).fin = 12 := by decide
theorem test_loop_zero_skips : (after (exec (.loop 0 1 3 0) (bench []))).cur.jump = some (12, 1) := by
  decide
theorem test_lds_misaligned : cause (exec (.lds ⟨0, 4, 2, 3, 0⟩ true) (bench [(2, 4)])) = 9 := by decide
theorem test_lds_port : (((after (exec (.lds ⟨0, 4, 2, 3, 1⟩ true) (bench [(2, 8)]))).ctx 0).acc.map (·.act)) =
    [.toS 4 16 8 true 4] := by decide
theorem test_sts_little_endian : (((after (exec (.sts ⟨0, 4, 2, 1, 0⟩) (bench [(2, 8), (4, 0x1234)]))).ctx 0).acc.map
    (·.act)) = [.write [(8, 0x34), (9, 0x12)] none] := by decide
theorem test_rft_outside_handler : cause (exec (.rft 0) (bench [])) = 2 := by decide
theorem test_rbegin : ((after (exec .rbegin (bench []))).ctx 0).regions.length = 1 := by decide
theorem test_csrw_refuses_tstat : cause (exec (.csrw 0 2 1) (bench [(2, 7)])) = 2 := by decide
theorem test_halt : (after (exec (.halt 0) (bench []))).cur.halt = true := by decide

/-! ## Vectors, tiles, crossbars -/

/-- What core 0 has in flight for a vector register: its elements of one width. -/
def vector (w : Nat) (o : Out) : List (Nat × NFlags × Nat × List Nat) :=
  (flying o).filterMap fun e => match e.2.2 with
    | .vreg r _ v => some (e.1, e.2.1, r, (List.range 3).map (elem w v))
    | _ => none

/-- Core 0 with vector registers of the given values. -/
def vbench (v : SMap VWord) : State := (bench []).modCtx 0 fun c => { c with v := v }

theorem test_vadd_bytes_wrap : vector 8 (exec (.vadd (vop 3)) (vbench [(2, 0x01FF), (3, 0x0102)])) =
    [(2, fNone, 1, [1, 2, 0])] := by decide +kernel
theorem test_vadd_saturates : vector 8 (exec (.vadd { vop 3 with sat := true }) (vbench [(2, 0x7F), (3, 1)])) =
    [(2, fSQ, 1, [127, 0, 0])] := by decide +kernel
theorem test_vadd_f32 : vector 32 (exec (.vadd (vop 0)) (vbench [(2, 0x3F800000), (3, 0x40000000)])) =
    [(4, fNone, 1, [0x40400000, 0, 0])] := by decide +kernel
theorem test_vmul_f32_overflow : vector 32 (exec (.vmul (vop 0)) (vbench [(2, 0x7F000000), (3, 0x7F000000)])) =
    [(4, fOV ||| fIX, 1, [0x7F800000, 0, 0])] := by decide +kernel
theorem test_vslide : vector 16 (exec (.vslideDn (vop 4) 1) (vbench [(2, 0x000300020001), (3, 9)])) =
    [(3, fNone, 1, [2, 3, 0])] := by decide +kernel
theorem test_vbc : vector 16 (exec (.vbcImm { vop 4 with va := 0, vb := 0 } 2) (vbench [])) =
    [(2, fNone, 1, [2, 2, 2])] := by decide +kernel
theorem test_vred_adds : vector 32 (exec (.vred { vop 5 with vb := 0 } 0) (vbench [(2, 0x0000000700000005)])) =
    [(6, fNone, 1, [12, 0, 0])] := by decide +kernel
theorem test_vcvt_widens : vector 16 (exec (.vcvt { vop 0 with vb := 0 } 4 3) (vbench [(2, 0x80FF)])) =
    [(3, fNone, 1, [0xFFFF, 0xFF80, 0])] := by decide +kernel
theorem test_vld_misaligned : cause (exec (.vld ⟨0, false, 1, 2, 0, 0⟩) (bench [(2, 16)])) = 9 := by decide
theorem test_tzero_invalid_shape : cause (exec (.tzero 0 3) (bench [])) = 13 := by decide
theorem test_xmv_invalid_group : cause (exec (.xmv ⟨0, false, 90, 80, 3, 3, 6, 11⟩) (bench [])) = 15 := by
  decide
theorem test_xwear_of_reset : flying (exec (.xwear ⟨0, false, 2⟩ 4) (bench [])) = [(2, fNone, .sreg 4 0)] := by
  decide
theorem test_mact_not_granted : cause (exec (.mact ⟨0, false, 2⟩) (bench [])) = 19 := by decide
theorem test_atom_misaligned : cause (exec (.atomAdd ⟨0, false, 2, true, true⟩ 3 4) (bench [(2, 4)])) = 23 := by
  decide
theorem test_atom_marks_pending : ((after (exec (.atomAdd ⟨0, false, 2, true, false⟩ 3 4) (bench [(2, 8)]))).ctx
    0).pending = 16 := by decide

/-! ## Events -/

theorem test_boot_waits_for_address :
    (after (exec .boot { State.reset with pf := { Pf.reset with stage := 1 } })).pf.stage = 1 := by decide
theorem test_power_cap : (after (exec (.pwrcapWrite 700) State.reset)).pf.pwrcap = 700 ∧
    (after (exec (.pwrcapWrite 599) State.reset)).pf.pwrcap = 1400 := by decide
theorem test_fatal_holds_reset :
    step (after (exec .dumpcmdGo State.reset)) = .fault (.heldInReset .dumpCommand) := rfl
theorem test_inject_refused_kind : bitAt (after (exec (.errinjWrite 0x1400) State.reset)).pf.errinj 12 = false ∧
    bitAt (after (exec (.errinjWrite 0x1200) State.reset)).pf.errinj 12 = true := by decide
theorem test_sync_window_absent : (after (exec (.syncwinRead 0 0 8) State.reset)).rdata = none := by decide
theorem test_event_head : ((after (exec (.evtailWrite 0 5) (State.reset.setPart 0 { Part.reset with present := true }))).part
    0).evr = 5 := by decide

/-! ## Witnesses: states and operands that meet the hypotheses of the statements -/

/-- The first operation's slot state, at an address given by S2. -/
def at2 (v : Word) : State := bench [(2, v)]

theorem witness_ScalarArithmetic : (bench []).guarded 0 = true ∧ (bench []).guarded 0b10000 = false := by decide

/-- An XIMM that targets SC, and a shift by an immediate. -/
def extendedShift : List Syl := [⟨true, 0x48240000⟩, ⟨false, 0x91B00000⟩]

theorem witness_ScalarLogicAndShifts : (bench []).guarded 0 = true ∧
    (encode false true (.shli ⟨0, 1, 2, 3⟩)).isSome = true ∧ (encode false true (.popc ⟨0, 1, 2⟩)).isSome = true ∧
    slotSyl extendedShift 1 = some ⟨false, 0x91B00000⟩ ∧ opOf 0x91B00000 = 0x1B ∧
    (1, 0) ∈ ximms extendedShift := by decide

theorem witness_ScalarMoves : (bench []).guarded 0 = true ∧ (1 : BitVec 6) ≠ 0 ∧ (bench []).cx.replay = none := by
  decide

theorem witness_ScalarCompare : (bench []).guarded 0 = true ∧
    clsOf 0x1280C000 = 2 ∧ opOf 0x1280C000 = 0x28 ∧ 0x1280C000 / 2 ^ 12 % 16 = 12 ∧
    opOf 0x1290F000 = 0x29 ∧ 0x1290F000 / 2 ^ 12 % 16 = 15 ∧
    (⟨1, none, 0, none, none⟩ : Op).instr = none := by decide

theorem witness_PredicateLogic : (bench []).guarded 0 = true ∧
    (encode false true (.pand ⟨0, 1, 2, 3⟩)).isSome = true := by decide

theorem witness_PredicateMoves : (bench []).guarded 0 = true ∧
    clsOf 0x12E10000 = 2 ∧ opOf 0x12E10000 = 0x2E ∧ 0x12E10000 / 2 ^ 18 % 4 = 0 ∧ 0x12E10000 / 2 ^ 12 % 64 = 16 ∧
    0x12E00400 / 2 ^ 6 % 64 = 16 ∧ 0x12E50000 / 2 ^ 18 % 4 = 1 ∧ 0x12E50000 / 2 ^ 12 % 64 = 16 ∧
    0x12E80400 / 2 ^ 18 % 4 = 2 ∧ 0x12E80400 / 2 ^ 6 % 64 = 16 ∧ 0x12EC0000 / 2 ^ 18 % 4 = 3 := by decide

/-- The effective address of a scalar access with OFF = 0. -/
def eaAt (v : Word) : Int := (at2 v).ea1 (((at2 v).cx.rs 2).toInt + immOf (0 : BitVec 5) (at2 v).cur.ext * 8)

theorem witness_ScalarScratchpadAccess : (at2 0).guarded 0 = true ∧ eaAt 0 = 0 ∧ eaAt 786424 + 8 = 786432 ∧
    eaAt 0xFFFFFFFFFFFFFFF8 < 0 ∧ eaAt 4 % 8 ≠ 0 ∧ 786432 < eaAt 786432 + 8 := by decide

/-- A handler that was entered at the start of its bundle. -/
def handler0 : Handler :=
  { cyc := 0, issuedAt := true, flight := [], acc := [], bev := [], latch := [], loops := [], stack := [], tail := none
    entered := 0, served := [], was := [], returned := none, resuming := false }

/-- The first syllables of the first line. -/
def line0 (l : List Syl) : ILine :=
  { benchLine 0 with data := (l.zipIdx.map fun e => BitVec.ofNat 512 (e.1.w * 2 ^ (32 * e.2))).foldl (· ||| ·) 0 }

/-- Core 0 about to issue the bundle of 32-bit syllables that stands at 0, in the context that `f` gives. -/
def placed (l : List Syl) (f : Ctx → Ctx) : State :=
  (bench []).modCore 0 fun c => { c with istore := [(0, line0 l)], ctx := f c.ctx }

/-- The words of an instruction that ends its bundle. -/
def last (i : Instr) : Syl := (encode false true i).getD ⟨false, 0⟩

def beforeSlots (s : State) (l : List Syl) (next : BitVec 54) : Out :=
  issueAll State.prefixOp (l.filter fun x => decide (x.cls ≤ 1)) (s.openBundle 0 l next)

def beforeClose (s : State) (l : List Syl) (next : BitVec 54) : Out :=
  issueAll (State.issueSlot l) ([1, 2, 3, 4, 5, 6].filter fun k => decide ((s.ctx 0).sres ≤ k))
    (after (beforeSlots s l next))

/-- Core 0 issues these syllables, whose prefixes and slots leave a next state. -/
def taken (s : State) (l : List Syl) (next : BitVec 54) : Bool :=
  s.fatal == none && s.phase == .issue && s.issuer == some 0 && (s.core 0).fetch == .bundle l next &&
    goesOn (beforeSlots s l next) && goesOn (beforeClose s l next) &&
    (after (beforeClose s l next)).cur.site == 0

theorem next_of_goesOn {o : Out} (h : goesOn o = true) : o = .next (after o) := by
  cases o <;> simp_all [goesOn, after]

theorem taken_issues {s : State} {l : List Syl} {next : BitVec 54} (h : taken s l next = true) :
    s.Issues 0 l next ∧ s.SlotsLeave 0 l next (after (beforeClose s l next)) := by
  simp only [taken, Bool.and_eq_true, beq_iff_eq] at h
  obtain ⟨⟨⟨⟨⟨⟨a, b⟩, c⟩, d⟩, e⟩, f⟩, g⟩ := h
  exact ⟨⟨a, b, c, d⟩, ⟨_, next_of_goesOn e, next_of_goesOn f, g⟩⟩

/-- What the slots of core 0's bundle leave for its close. -/
def closing (s : State) (l : List Syl) (next : BitVec 54) : Cur := (after (beforeClose s l next)).cur

theorem witness_TransfersAndRepeats : (bench [(2, 8)]).guarded 0 = true ∧
    ((at2 8).cur.pc + BitVec.ofInt 54 (4 * immOf (3 : BitVec 20) none)).toNat % 4 = 0 ∧
    (((at2 8).cx.rs 2).extractLsb' 0 54).toNat % 4 = 0 ∧ (((at2 6).cx.rs 2).extractLsb' 0 54).toNat % 4 ≠ 0 ∧
    (BitVec.ofInt 54 (((at2 6).cx.rs 2).toNat + 4 * immOf (0 : BitVec 14) none)).toNat % 4 ≠ 0 := by decide

/-- A bundle that only issues, the first of three repeats, a transfer, a halt and a return, a loop that goes round. -/
theorem witness_TransfersAndRepeats_close :
    let nop := [last (.nop 0)]
    let rep := [⟨false, 0x00003400⟩, last (.nop 0)]
    let br := [last (.br 0 2)]
    let halt := [last (.halt 0)]
    let rft := [last (.rft 0)]
    let round := fun c : Ctx => { (c.setLoop 1 { count := 2, act := true, start := 0, fin := 4 }) with stack := [1] }
    let handler := fun c : Ctx => { c with handler := some handler0 }
    let laying := fun c : Ctx => { c with lyPend := [{ issued := 0, slot := 6, left := 1, n := 3, v := 5 }] }
    let plain := fun c : Ctx => c
    (taken (placed nop laying) nop 4 = true ∧ (closing (placed nop laying) nop 4).trapped = false ∧
      (closing (placed nop laying) nop 4).rpt = (closing (placed nop laying) nop 4).rep ∧
      ((placed nop laying).ctx 0).handler = none ∧ ((placed nop laying).ctx 0).replay = none) ∧
    (taken (placed rep plain) rep 8 = true ∧ (closing (placed rep plain) rep 8).rep < (closing (placed rep plain) rep 8).rpt) ∧
    (taken (placed br plain) br 4 = true ∧ (closing (placed br plain) br 4).jump = some (8, 2)) ∧
    (taken (placed halt plain) halt 4 = true ∧ (closing (placed halt plain) halt 4).halt = true) ∧
    (taken (placed rft handler) rft 4 = true ∧ (closing (placed rft handler) rft 4).rft = true) ∧
    (taken (placed nop round) nop 4 = true ∧ ((placed nop round).ctx 0).stack = [1] ∧
      (((placed nop round).ctx 0).loop 1).fin = (closing (placed nop round) nop 4).next) := by decide +kernel

/-- TRAP alone in its bundle, with a handler at 64, as the statement takes it. -/
theorem witness_TransfersAndRepeats_trap :
    let x := last (.trap 0 5)
    let s := (placed [x] id).modCore 0 fun c => { c with handlerPc := some 64 }
    taken s [x] 4 = true ∧ x.cls = 2 ∧ decodeSyl x.wide x.w = .ok (.trap 0 5) ∧
    (s.openBundle 0 [x] 4).guarded 0 = true ∧ (s.ctx 0).handler = none ∧ (s.ctx 0).replay = none ∧
    (s.ctx 0).sres ≤ 1 ∧ (s.ctx 0).rpos < 256 ∧ s.cohOf 0 = some 0 ∧ (s.core 0).handlerPc = some 64 ∧
    s.afterglow 0 ≤ 96 := by decide +kernel

/-- The latch of slot 1 holds an LDS at 16. -/
def latch0 (i : Instr) : Latch := { op := i, raw := 0, ext := none, ea := 16, ea2 := 8 }

/-- Syllables, latches and re-issued operations of each kind of address. -/
theorem witness_TransfersAndRepeats_latches :
    let rep := [(⟨false, 0x00003400⟩ : Syl), last (.mact ⟨0, false, 2⟩)]
    let again := (placed rep fun c => { c with rpos := 1, latch := [(2, latch0 (.vadd (vop 4)))] })
    let x : Syl := last (.nop 0)
    let l : ScMem := { g := 0, sr := 1, sa := 2, sz := 3, off := 0 }
    let runs := fun (i : Instr) => goesOn (exec i ((bench []).prepare ⟨1, some i, 0, none, some (latch0 i)⟩)) = true
    (bench []).cur.trapped = false ∧ (slotSyl [x] 1 = some x ∧ (tmplOf [x]).2 1 = false ∧ decodeSyl x.wide x.w = .ok (.nop 0)) ∧
    (tmplOf rep).2 2 = true ∧ slotSyl [x] 3 = none ∧ (tmplOf [x]).2 3 = false ∧
    (SMap.get? (again.ctx 0).latch 2).isSome = true ∧ again.replaying = false ∧
    addrKind (.nop 0) = .none ∧ addrKind (.lds l false) = .plain 20 1 ∧ addrKind (.push ⟨0, false, 2⟩ 3 0 0) = .pair 20 20 ∧
    addrKind (.mact ⟨0, false, 2⟩) = .row ∧ addrKind (.mrcp ⟨0, false, 2⟩ 3) = .rows ∧
    addrKind (.mrd ⟨0, false, 2⟩ 3) = .column ∧ runs (.nop 0) ∧ runs (.lds l false) ∧
    leavesNoLatch (.nop 0) = false ∧ leavesNoLatch (.halt 0) = true := by decide +kernel

/-- Loop 1 in progress, its body the bundles at 4 and 8, with `n` trips left. -/
def looping (n : Half) : State := (bench [(2, 5)]).modCtx 0 fun c =>
  { (c.setLoop 1 { count := n, act := true, start := 4, fin := 12 }) with stack := [1] }

theorem witness_Loops : (3 : BitVec 12) ≠ 0 ∧ ((bench []).cx.loop 1).act = false ∧ (bench []).cx.stack = [] ∧
    ((looping 2).cx.loop 0).act = false ∧ (looping 2).cx.stack.head? = some 1 ∧
    (looping 2).cur.next + BitVec.ofNat 54 (4 * 3) ≤ ((looping 2).cx.loop 1).fin ∧
    ((looping 2).cx.loop 1).fin = 12 ∧ 1 < ((looping 2).cx.loop 1).count.toNat ∧
    ((looping 1).cx.loop 1).count.toNat ≤ 1 ∧ ((looping 2).cx.loop 1).fin ≠ 8 ∧
    (looping 2).cx.stack.Nodup ∧ (bench []).guarded 0b10000 = false := by decide

/-- A second core in core 0's cohort. -/
def pair : State :=
  let s := (bench []).setCore 1 { (bench []).core 0 with run := .bound 0 }
  s.setCoh 0 { benchCohort 0 with members := [0, 1] }

/-- A member waits at ALIGN with a tag since cycle 3. -/
def waits (s : State) (i tag : Nat) : State := s.modCtx i fun c => { c with waiting := some (tag, 3) }

theorem witness_Waiting : (bench []).cx.inHandler = false ∧ (bench []).myCoh = some (benchCohort 0) ∧
    (bench []).cur.pc = ((bench []).core 0).entryPc ∧ (bench []).timeOf 0 = 0 ∧ pair.cx.replay = none ∧
    (pair.ctx 1).waiting = none ∧ (pair.ctx 1).halted = false ∧ ((waits pair 1 7).ctx 1).waiting = some (7, 3) ∧
    (waits (waits pair 1 7) 0 7).barrierDue 0 = true ∧ (bench []).cohOf 0 = some 0 ∧
    ((bench []).modCtx 0 fun c => { c with pending := 2 }).cx.pending.getLsbD 1 = true ∧
    (bench []).cx.pending = 0 ∧ ((bench []).core 0).uops = [] ∧
    (((SMap.get (bench []).cx.xnext 0 0).extractLsb' 0 32 : Half) - ((bench []).cx.rs 2).extractLsb' 0 32).toInt ≤ 0 := by
  decide

/-- A get of channel 0 with identifier j that is to begin at cohort cycle t, or a fence. -/
def queued (n : Nat) (kind : UKind) : UOp :=
  { n := n, coh := 0, scope := 3, kind := kind, stage := .waiting, ready := 0, todo := [], pages := [], walk := false
    units := [], held := [], failed := false, old := 0, bad := false }

/-- ALIGN 0 elsewhere than at the entry, after a partner has halted; WAITX for a transfer that begins at cycle 1,
and for one behind a fence that waits for it. -/
theorem witness_Waiting_refused : ¬ ({ bench [] with cur := { Cur.reset with pc := 4 } } : State).cur.pc = ((bench []).core 0).entryPc ∧
    ((bench []).modCtx 0 fun c => { c with resumed := true }).cx.resumed = true ∧
    ((pair.modCtx 1 fun c => { c with halted := true }).ctx 1).halted = true ∧
    (let e := queued 0 (.xfr true 0 0 1 0 4096 4)
     let f := queued 1 (.fence)
     let u := queued 2 (.xfr true 0 1 0 0 4096 4)
     e.stage = .waiting ∧ (bench []).cycOf 0 < 1 ∧ holdsBack [e, f, u] e u = true ∧
       0 ≤ (BitVec.ofNat 32 1 - (0 : Half)).toInt ∧ 0 ≤ ((1 : Half) - BitVec.ofNat 32 1).toInt) := by decide

/-- Channel 0 with two transfers issued and `d` done. -/
def issued (d : Word) : State := (bench []).modCtx 0 fun c => { c with xnext := [(0, 2)], xdone := [(0, d)] }

theorem witness_Waiting_for_transfer :
    0 < (((SMap.get (issued 1).cx.xnext 0 0).extractLsb' 0 32 : Half) - ((issued 1).cx.rs 2).extractLsb' 0 32).toInt ∧
    0 < (((SMap.get (issued 1).cx.xdone 0 0).extractLsb' 0 32 : Half) - ((issued 1).cx.rs 2).extractLsb' 0 32).toInt ∧
    ¬ 0 < (((SMap.get (issued 0).cx.xdone 0 0).extractLsb' 0 32 : Half) -
      ((issued 0).cx.rs 2).extractLsb' 0 32).toInt := by decide

/-- Core 0 in its handler. -/
def handling : State := (bench []).modCtx 0 fun c =>
  { c with handler := some handler0 }

theorem witness_BundleControl : (bench []).guarded 0 = true ∧ (bench []).cx.regions = [] ∧
    (bench []).myCoh = some (benchCohort 0) ∧ (∀ i ∈ (benchCohort 0).members, i ≠ (bench []).cur.site → False) ∧
    ({ bench [] with cohorts := [] } : State).myCoh = none ∧ (bench []).cx.inHandler = false ∧
    handling.guarded 0 = true ∧ handling.cx.inHandler = true := by decide

/-- Core 0 with `n` open regions. -/
def inRegion : Nat → State
  | 0 => bench []
  | n + 1 => (inRegion n).modCtx 0 (·.openRegion n)

theorem witness_RegionOperations : (bench []).cx.inHandler = false ∧ (bench []).cx.regions = [] ∧
    (inRegion 3).cx.regions.length = 3 ∧ (inRegion 4).cx.regions.length = 4 ∧ (inRegion 1).cx.inHandler = false ∧
    (inRegion 1).cx.regions ≠ [] ∧ (bench []).guarded 0 = true ∧
    (let s := (inRegion 1).modCoh 0 fun c => { c with ccyc := 1 }
     (∀ q ∈ s.cx.regions, q.began < s.timeOf 0 ∧ q.overflowed = false) ∧ s.cx.penumbra + 4104 * 7 ≤ 32768 ∧
       (s.cx.toPreserve 3 0 6).length = 7) := by decide +kernel

theorem witness_ControlRegisterMoves : (bench []).guarded 0 = true ∧ ¬ (0x080 ≤ 0x07F) ∧
    (0x080 ≤ 0x087 ∧ 0x087 ≤ 0x087) ∧ ((at2 7).cx.rs 2).extractLsb' 0 3 = 7 ∧
    ((at2 6).cx.rs 2).extractLsb' 0 3 ≠ 7 ∧ ((at2 1).cx.rs 2).extractLsb' 0 2 ≠ 0 ∧
    ((at2 4).cx.rs 2).extractLsb' 0 2 = 0 := by decide

/-! ### Vectors -/

theorem readable_two (s : State) : s.readable [2, 3] := by
  intro h
  simp at h

theorem witness_VectorIntegerArithmetic : isFloat (vop 4).ty = false ∧ (vbench []).cx.mask (vop 4).g ≠ 0 ∧
    (vbench []).readable [(vop 4).va, (vop 4).vb] := ⟨by decide, by decide, readable_two _⟩

theorem witness_VectorFloatArithmetic : isFloat (vop 0).ty = true ∧ (vbench []).cx.mask (vop 0).g ≠ 0 ∧
    (vbench []).readable [(vop 0).va, (vop 0).vb] ∧ (vop 3).ty = 3 ∧ (vop 4).ty = 4 ∧ (vop 1).ty = 1 :=
  ⟨by decide, by decide, readable_two _, rfl, rfl, rfl⟩

theorem witness_VectorElementMoves : (vbench []).cx.mask (vop 4).g ≠ 0 ∧
    (vbench []).readable [(vop 4).va, (vop 4).vb] := ⟨by decide, readable_two _⟩

theorem witness_VectorCompareAndConvert : (vbench []).cx.mask (vop 4).g ≠ 0 ∧
    (vbench []).readable [(vop 4).va, (vop 4).vb] ∧ (vbench []).readable [(vop 4).va] :=
  ⟨by decide, readable_two _, by intro h; simp [vop] at h⟩

/-- B carries an address. -/
def broadcasting (b : Word) : State := { bench [] with cur := { Cur.reset with b := some b } }

theorem witness_VectorReduceAndFunctions : (vbench []).cx.mask (vop 5).g ≠ 0 ∧
    (vbench []).readable [(vop 5).va] ∧ (vop 5).g ≠ 0b10000 ∧ isFloat (vop 5).ty = false ∧ (vop 5).sat = false ∧
    isFloat (vop 0).ty = true ∧ (broadcasting 784368).cx.mask 0 ≠ 0 ∧
    ((broadcasting 784368).cur.b.getD 0).toNat % 2 ^ 20 % 16 = 0 ∧
    ((broadcasting 784368).cur.b.getD 0).toNat % 2 ^ 20 + 2064 = 786432 ∧ (vop 0).sh = false ∧
    ((broadcasting 8).cur.b.getD 0).toNat % 2 ^ 20 % 16 ≠ 0 ∧
    786432 < ((broadcasting 784384).cur.b.getD 0).toNat % 2 ^ 20 + 2064 :=
  ⟨by decide, by intro h; simp [vop] at h, by decide, by decide, by decide, by decide, by decide, by decide, by decide,
    by decide, by decide, by decide⟩

/-- A table over whole numbers: X0 is 0, the step 1, every other word 0. -/
def wholeTab (o : Nat) : Nat := if o = 4 then 0x3F800000 else 0

/-- The place of an argument in a table, as the statement takes it. -/
def placeIn (tab : Nat → Nat) (x : Nat) : FV :=
  fdec fmtF32 false (fround fmtF32 0 false (fmulx (fsumx 0 [fdec fmtF32 false x, fneg (fdec fmtF32 false (tab 0))]).1
    (fdec fmtF32 false (tab 4))).1).1

/-- 2 lies in segment 2: 2 ≤ 2 < 3. An infinity and NaNs come first or in between. -/
theorem witness_VectorReduceAndFunctions_interpolation : fisNan (fdec fmtF32 false 0x7FC00000) = true ∧
    fisNan (fdec fmtF32 false 0x40000000) = false ∧ fisNan (placeIn (fun _ => 0x7FC00000) 0x40000000) = true ∧
    placeIn wholeTab 0x7F800000 = .inf false ∧ placeIn wholeTab 0x40000000 = .fin false (2 * 2 ^ 22) (-22) ∧
    (2 : ℚ) ≤ 1 * ((2 * 2 ^ 22 : Nat) : ℚ) * 2 ^ (-22 : Int) ∧
    1 * ((2 * 2 ^ 22 : Nat) : ℚ) * 2 ^ (-22 : Int) < 2 + 1 := by
  refine ⟨by decide +kernel, by decide +kernel, by decide +kernel, by decide +kernel, by decide +kernel, ?_, ?_⟩ <;>
    norm_num

/-- The last slots that two blocks of BF16 may take. -/
theorem witness_VectorQuantise_pairs : (vop 1).ty = 1 ∧ (2 : BitVec 2).toNat + 2 ≤ 4 ∧
    (14 : BitVec 4).toNat + 2 ≤ bfpSlots 2 ∧ (6 : BitVec 4).toNat + 2 ≤ bfpSlots 4 ∧
    (2 : BitVec 4).toNat + 2 ≤ bfpSlots 8 ∧ active 1 16 63 = false ∧ active 1 16 1 = true ∧
    ({ vop 0 with sh := true } : VOp).sh = true := by decide

theorem witness_VectorQuantise : (vop 0).ty = 0 ∧ (vbench []).cx.mask (vop 0).g ≠ 0 ∧
    (vbench []).readable [(vop 0).va] ∧ 2 ≤ (2 : BitVec 4).toNat ∧ (15 : BitVec 4).toNat < bfpSlots 2 ∧
    (8 : BitVec 4).toNat ≤ 8 ∧ (3 : BitVec 4).toNat < bfpSlots 8 ∧ (broadcasting 127).cur.b ≠ none ∧ (vop 1).ty = 1 :=
  ⟨by decide, by decide, by intro h; simp [vop] at h, by decide, by decide, by decide, by decide, by decide, rfl⟩

/-- A vector load of V1 at S2, gathering through V3. -/
def vmem : VMem := { g := 0, sh := false, vd := 1, sa := 2, vx := 3, off := 0 }

theorem readable_memory (s : State) : s.readable [vmem.vd, vmem.vx] := by
  intro h
  simp [vmem] at h

/-- Core 0 at an address with gather indices all `x`. -/
def gathering (v : Word) (x : Nat) : State := (at2 v).modCtx 0 fun c => { c with v := [(3, BitVec.ofNat 1024 x)] }

def inSpad4 (a : Int) : Bool := decide (0 ≤ a ∧ a % 4 = 0 ∧ a + 4 ≤ 786432)

/-- Core 0 acts in lane 0 only. -/
def oneLane (s : State) : State := s.modCtx 0 fun c => { c with p := [(1, 1)] }

theorem witness_VectorScratchpadAccess : (at2 0).cx.mask vmem.g ≠ 0 ∧ (at2 0).readable [vmem.vd, vmem.vx] ∧
    vmem.sh = false ∧ eaAt 786304 + 128 = 786432 ∧ eaAt 786304 % 32 = 0 ∧ eaAt 16 % 32 ≠ 0 ∧
    (∀ i < 32, inSpad4 (0 + 4 * (3 : BitVec 10).toNat * (i : Nat)) = true) ∧
    crowded 1 ((List.range 32).map fun i => 4 * 3 * i / 32) = [] ∧
    (∀ i ∈ lanesOf 1, inSpad4 (eaAt 0 + elem 32 ((gathering 0 4).srcV 32 vmem.vx) i) = true) ∧
    crowded 4 ((lanesOf 1).map fun i => (eaAt 0 + elem 32 ((gathering 0 4).srcV 32 vmem.vx) i).toNat / 32) = [] ∧
    (lanesOf 1).filter (fun i => !inSpad4 (eaAt 0 + elem 32 ((gathering 0 6).srcV 32 vmem.vx) i)) = [0] ∧
    (oneLane (at2 0)).cx.mask 1 = 1 :=
  ⟨by decide, readable_memory _, rfl, by decide, by decide, by decide, by decide, by decide +kernel, by decide +kernel,
    by decide +kernel, by decide +kernel, by decide⟩

/-- Byte addresses in five rows of bank 0 (R134). -/
def oneBank : List Nat := [0, 6144, 12288, 18432, 24576]

theorem witness_VectorScratchpadTraps : crowded 4 (oneBank.map (· / 32)) = [0] ∧
    (∀ a ∈ oneBank, inSpad4 a = true) ∧ ({ vmem with sh := true } : VMem).sh = true ∧
    inSpad4 (786428 + 4 * (3 : BitVec 10).toNat * (1 : Nat)) = false ∧
    (∀ i < 32, inSpad4 (0 + 4 * (768 : BitVec 10).toNat * (i : Nat)) = true) ∧
    crowded 1 ((List.range 32).map fun i => 4 * 768 * i / 32) ≠ [] ∧ 786432 < eaAt 786336 + 128 := by decide +kernel

/-! ### Tiles and the matrix unit -/

/-- Core 0 with tile shapes 0 and 2 a 2 × 2 tile of INT8, 1 one of INT32, and 3 with ROWS = 0. -/
def tiled : State := (at2 0).modCtx 0 fun c => { c with tshape := [(0, 0x202), (1, 0x20202), (2, 0x202), (31, 0x4040)] }

theorem witness_TileMoves : (at2 0).source false 2 = some 0 ∧ (at2 0).guarded 0 = true ∧
    (at2 0).cx.inHandler = false ∧ eaAt 782336 + 4096 = 786432 ∧ eaAt 782336 % 32 = 0 ∧
    eaAt 782304 + 4128 = 786432 ∧ eaAt 782304 % 32 = 0 ∧ 786432 < eaAt 782368 + 4096 ∧
    786432 < eaAt 782336 + 4128 ∧ eaAt 8 % 32 ≠ 0 ∧
    ¬ 1 ≤ tileRows (tiled.cx.shape 3) ∧
    (1 ≤ tileRows (tiled.cx.shape 31) ∧ tileRows (tiled.cx.shape 31) ≤ 64 ∧ tileEw (tiled.cx.shape 31) ≠ 3) ∧
    4096 * 31 + tileSize (tiled.cx.shape 31) = 131072 ∧ (∀ l ∈ tileLines 0, l ∉ tiled.cx.poison) ∧
    (tiled.modCtx 0 fun c => { c with poison := [5] }).cx.poison = [5] ∧ 5 ∈ tileLines 0 ∧ tiled.cx.badLine = [] ∧
    (tiled.modCtx 0 fun c => { c with poison := [5], badLine := [5] }).cx.badLine = [5] ∧
    Memory.wf (at2 0).cx.tile = true := by decide

/-- Two-column INT32 tiles 0 and 1. -/
def softmaxed : State := (bench []).modCtx 0 fun c => { c with tshape := [(0, 0x20202), (1, 0x20202)] }

theorem witness_TileRewrites : tiled.guarded 0 = true ∧ tiled.cx.inHandler = false ∧ tiled.cx.tileOk 0 0 ∧
    tiled.cx.tileOk 2 0 ∧ tileRows (tiled.cx.shape 0) = tileCols (tiled.cx.shape 2) ∧
    tileCols (tiled.cx.shape 0) = tileRows (tiled.cx.shape 2) ∧ tiled.cx.poison = [] ∧ softmaxed.cx.tileOk 0 2 ∧
    softmaxed.cx.tileOk 1 2 ∧ tileCols (softmaxed.cx.shape 0) = 2 ∧
    tileRows (softmaxed.cx.shape 1) = tileRows (softmaxed.cx.shape 0) := by
  unfold Ctx.tileOk
  decide

/-- Shape 31 is 64 × 64 of INT8: its tile passes the end of the file from tile 32 on, an INT16 one from 31. -/
theorem witness_TileMoves_beyond_the_file :
    131072 < 4096 * 31 + tileSize 0x14040 ∧ tileEw 0x14040 = 1 := by decide

theorem witness_WeightLoad : tiled.guarded 0 = true ∧ tiled.cx.inHandler = false ∧ tiled.cx.tileOk 0 0 ∧
    tiled.cx.matrix.lastTwl = none ∧ tiled.cx.matrix.loading.Pairwise (fun a b => a.1 < b.1) ∧
    (tiled.modCtx 0 fun c => { c with matrix := { c.matrix with lastTwl := some 0 } }).cx.matrix.lastTwl = some 0 ∧
    tiled.timeOf tiled.cur.site < 0 + 64 := by
  unfold Ctx.tileOk
  decide

/-- The latch holds 2 × 2 weights; tile 1 accumulates. -/
def loaded (ew : Word) : State := (bench []).modCtx 0 fun c =>
  { c with tshape := [(0, 0x202 + ew * 0x10000), (1, 0x20202), (2, 0x20202)]
           matrix := { c.matrix with weights := some { k := 2, n := 2, mx := false, w := [1, 2, 3, 4], scale := [] } } }

def weights22 : Weights := { k := 2, n := 2, mx := false, w := [1, 2, 3, 4], scale := [] }

theorem witness_MatrixMultiplies : MatrixReady (loaded 0) 0 1 0 0 weights22 ∧ MatrixReady (loaded 2) 0 1 0 2 weights22 ∧
    (loaded 2).cx.tileOk 2 2 ∧ tileRows ((loaded 2).cx.shape 2) = tileRows ((loaded 2).cx.shape 0) ∧
    tileCols ((loaded 2).cx.shape 2) = 2 ∧ weights22.mx = false ∧ ([1, 2, 3, 4] : List Int).length = 2 * 2 ∧
    Memory.wf (loaded 2).cx.tile = true := by
  refine ⟨⟨?_, ?_, ?_, ?_, ?_, ?_, ?_, ?_, ?_⟩, ⟨?_, ?_, ?_, ?_, ?_, ?_, ?_, ?_, ?_⟩, ?_, ?_, ?_, ?_, ?_, ?_⟩ <;>
    (try unfold Ctx.tileOk) <;> decide

/-! ### The crossbar bank -/

/-- Group 3 is valid, double-buffered, arrays 0 and 1 its sets; array 0 has a status. -/
def banked (x : ArrStatus) (f : Bank → Bank) : State :=
  (bench [(6, 0)]).setBank 0 (f { Bank.reset with
    xgrp := [(3, 0x1000180)], arrs := [(0, { Arr.reset with status := x, sealed_ := false })] })

def xmvOp (va : BitVec 10) : XmvOp :=
  { g := 0, bs := false, vd := 632, va := va, grp := 3, nm := 3, sf := 6, sx := 11 }

/-- The crossbar's windows are occupied. -/
def busyBank (b : Bank) : Bank := { b with occ := [{ coh := 0, res := 0, from_ := 0, to_ := 9 }] }

theorem witness_CrossbarMultiply : (banked .calibrated id).source false 6 = some 0 ∧
    (banked .calibrated id).guarded 0 = true ∧ (banked .calibrated id).cx.inHandler = false ∧
    (637 : BitVec 10).toNat + grpRows 0x1000180 / (32 * (1024 / bfpWidth 4)) ≤ 639 ∧
    (632 : BitVec 10).toNat + grpCols 0x1000180 / 32 - 1 = 639 ∧ (banked .calibrated id).myBank.grp 3 = 0x1000180 ∧
    grpValid 0x1000180 = true ∧
    (∀ a ∈ grpArrays 0x1000180 (grpAct 0x1000180), (banked .calibrated id).myBank.parked a = false) ∧
    (banked .calibrated id).freeAt (xmvWindows 0x1000180 false 4) = 0 ∧ (banked .calibrated id).timeOf 0 = 0 ∧
    (banked .calibrated id).myBank.fit 0x1000180 false = true ∧ (banked .drift id).myBank.fit 0x1000180 false = false ∧
    (6 : BitVec 6) ≠ 0 ∧ (0 : Int) + (grpRows 0x1000180 * grpCols 0x1000180 : Nat) ≤ 786432 := by decide +kernel

/-- Exponents: none 0xFF where the register is 0; all where every bit is set. -/
theorem witness_CrossbarMultiply_exponents :
    0xFF ∉ (banked .calibrated id).exponents 637 4 512 ∧
    0xFF ∈ ((banked .calibrated id).modCtx 0 fun c => { c with v := [(639, BitVec.allOnes 1024)] }).exponents 637 4 512 :=
  by decide +kernel

/-- The fallback's copy at the address in S6. -/
def copyAt (v : Word) : State := (banked .drift id).modCtx 0 fun c => { c with s := [(6, v)] }

theorem witness_CrossbarMultiply_fallback : (copyAt 32).source false 6 = some 32 ∧ (32 : Word) ≠ 0 ∧
    0 ≤ (32 : Word).toInt ∧ (32 : Word).toInt % 32 = 0 ∧
    (32 : Word).toInt + (grpRows 0x1000180 * grpCols 0x1000180 : Nat) ≤ 786432 ∧
    (copyAt 32).myBank.fit 0x1000180 false = false ∧ (copyAt 32).freeAt (xmvWindows 0x1000180 false 4) = 0 ∧
    (copyAt 0).source false 6 = some 0 ∧ (copyAt 8).source false 6 = some 8 ∧ (8 : Word).toInt % 32 ≠ 0 ∧
    0xFF ∉ (copyAt 32).exponents 637 4 512 := by decide +kernel

/-- R175, R325: with S[SF] = 0 there is no copy to fall back on. -/
theorem test_xmv_without_copy : cause (exec (.xmv (xmvOp 600)) (copyAt 0)) = 0x11 ∧
    cause (exec (.xmv (xmvOp 600)) (copyAt 32)) = 0 := by decide +kernel

/-- The address of array 0, row 0. -/
def calOp : XOp := { g := 0, bs := false, sa := 6 }

theorem witness_CrossbarTraps :
    ¬ ((639 : BitVec 10).toNat + grpRows 0x1000180 / (32 * (1024 / bfpWidth 4)) ≤ 639) ∧
    grpValid 0 = false ∧ (banked .calibrated fun b => { b with therm := 3 }).myBank.parked 0 = true ∧
    0 ∈ grpArrays 0x1000180 (grpAct 0x1000180) ∧
    (banked .calibrated busyBank).freeAt (xmvWindows 0x1000180 false 4) ≠ 0 ∧
    (banked .calibrated id).source false 6 = some 0 ∧
    (banked .calibrated id).writeBar 0 = 1 ∧ (banked .calibrated fun b => { b with xgrp := [] }).writeBar 0 = 0 ∧
    (banked .retired fun b => { b with xgrp := [] }).myBank.groupOf 0 = none ∧
    ((banked .retired id).myBank.arr 0).status = .retired ∧
    ((State.reset.bank 0).arr 0).sealed_ = true ∧
    (banked .calibrated fun b => { busyBank b with xgrp := [] }).freeAt [(0, 0, 0), (0, 0, 255), (128, 0, 0)] ≠ 0 := by
  decide +kernel

/-- Array 0 alone, with a status and fields of its own. -/
def alone (x : ArrStatus) (f : Arr → Arr) : State :=
  banked x fun b => { b with xgrp := [], arrs := [(0, f { Arr.reset with status := x, sealed_ := false })] }

theorem witness_CrossbarTraps_reasons :
    (banked .calibrated fun b => { b with xgrp := [(3, 0x3000100)] }).writeBar 0 = 2 ∧
    (banked .calibrated fun b => { b with xgrp := [(3, 0x3000100)] }).myBank.groupOf 0 = some (3, false) ∧
    (banked .retired fun b => { b with xgrp := [] }).writeBar 0 = 3 ∧ (alone .calibrated id).writeBar 0 = 0 ∧
    (alone .calibrated id).freeAt [(0, 0, 0)] = 0 ∧ 12 ≤ (12 : BitVec 4).toNat ∧
    SMap.get? ((alone .programming fun x => { x with spares := [(3, 5)] }).myBank.arr 0).spares 3 ≠ none ∧
    128 / 128 % 32 ≠ 0 ∧ 224 < 32768 / 128 ∧ ((alone .offline id).myBank.arr 0).status = .offline ∧
    ((alone .drift id).myBank.arr 0).fresh = none ∧
    ((alone .drift fun x => { x with fresh := some [0], stale := true }).myBank.arr 0).stale = true ∧
    (banked .calibrated fun b => { b with xgrp := [(3, 0x1000100)] }).writeBar 0 = 0 ∧
    (banked .calibrated fun b => { b with xgrp := [(3, 0x1000100)] }).myBank.groupOf 0 = some (3, false) ∧
    grpRs 0x1000100 ≠ (7 : BitVec 3).toNat := by decide +kernel

/-- The bars: a double-buffered group's active set, an XMV in flight, a group that belongs to others. -/
theorem witness_CrossbarTraps_bars :
    let s := banked .calibrated fun b => { b with xgrp := [(2, 0x1000100), (3, 0x1000180)], xmvs := [⟨0, 2, false, 0, 9⟩] }
    (grpValid 0x1000180 = true ∧ grpDb 0x1000180 = true ∧ 0 ∈ grpArrays 0x1000180 (grpAct 0x1000180)) ∧
    (∃ m ∈ s.myBank.xmvs, some m.coh = s.cohOf s.cur.site ∧ m.grp = 2 ∧ m.set = grpAct (s.myBank.grp 2) ∧
      m.from_ ≤ s.timeOf s.cur.site ∧ s.timeOf s.cur.site ≤ m.to_) ∧
    s.writeBar 0 = 1 ∧ grpShb 0x3000100 = true ∧ grpOwn 0x3000100 = false ∧
    ((banked .calibrated fun b => { b with xgrp := [(2, 0x3000100), (3, 0x1000180)] }).writeBar 0) = 1 ∧
    ((banked .calibrated fun b => { b with xgrp := [(2, 0x1000100), (3, 0x3000100)] }).writeBar 0) = 2 ∧
    (∃ g < 64, ∃ set, grpValid (s.myBank.grp g) = true ∧ 0 ∈ grpArrays (s.myBank.grp g) set ∧
      grpRs (s.myBank.grp g) ≠ (7 : BitVec 3).toNat) := by
  refine ⟨by decide, ⟨⟨0, 2, false, 0, 9⟩, by decide, by decide⟩, by decide, by decide, by decide, by decide, by decide,
    2, by decide, false, by decide⟩

/-- R178: group 3 has array 0, CALIBRATED, in its active set and array 1, OFFLINE, in the other: code 3 at bit 3;
array 1 shows OFFLINE, slot 1, in group 3, set B; array 2, in no group, OFFLINE and slot 2. -/
theorem test_xstat_words :
    (banked .calibrated id).myBank.groupWord 0x1000180 = 24 ∧
    (banked .calibrated id).myBank.arrayWord 1 = 3 + 8 + 64 + 128 + 768 ∧
    (banked .calibrated id).myBank.arrayWord 2 = 3 + 16 := by decide

theorem witness_CrossbarSwapAndStatus : (banked .calibrated id).guarded 0 = true ∧
    (banked .calibrated id).cx.inHandler = false ∧ grpValid 0x1000180 = true ∧ grpDb 0x1000180 = true ∧
    grpShb 0x1000180 = false ∧ grpDb 0x1000100 = false ∧ grpShb 0x3000180 = true ∧ grpOwn 0x3000180 = false ∧
    (63 : BitVec 7).toNat < 64 := by decide

/-- Array 0 in no group, PROGRAMMING, with the measurements of its last test. -/
def free0 : State := (banked .programming fun b =>
  { b with xgrp := [], arrs := [(0, { Arr.reset with status := .programming, sealed_ := false, fresh := some [0, 0, 0, 0] })] }).setEa 0 0

theorem witness_CalibrationOperations : free0.source false 6 = some 0 ∧ free0.guarded 0 = true ∧
    free0.cx.inHandler = false ∧ CalibReady free0 0 true false true [(0, 0, 255), free0.downWin] ∧
    CalibReady free0 0 true false false [] ∧ CalibReady free0 0 true false false [free0.downWin] ∧
    CalibReady free0 0 true false true [(0, 0, 1023), free0.downWin] ∧
    CalibReady free0 0 false true true [(0, 0, 15), free0.upWin] ∧
    CalibReady free0 0 false true true [(0, 0, 15), free0.downWin, free0.upWin] ∧
    (free0.myBank.arr 0).status = .programming ∧ (11 : BitVec 4).toNat < 12 ∧
    SMap.get? (free0.myBank.arr 0).spares 11 = none ∧ 28672 / 128 = 224 ∧ 28672 / 128 % 32 = 0 ∧
    (free0.myBank.arr 0).fresh ≠ none ∧ (free0.myBank.arr 0).stale = false ∧ free0.myBank.groupOf 0 = none := by
  refine ⟨?_, ?_, ?_, ⟨?_, ?_, ?_, ?_⟩, ⟨?_, ?_, ?_, ?_⟩, ⟨?_, ?_, ?_, ?_⟩, ⟨?_, ?_, ?_, ?_⟩, ⟨?_, ?_, ?_, ?_⟩,
    ⟨?_, ?_, ?_, ?_⟩, ?_, ?_, ?_, ?_, ?_, ?_, ?_, ?_⟩ <;> decide

/-- A bank with one pending effect. -/
def pending (e : BankEffect) : State :=
  banked .calibrated fun b => { b with pend := [{ coh := 0, due := 0, seq := 0, eff := e }] }

theorem witness_BankEvents :
    ((pending (.settle 0 [] 4)).bankDue 0).filter (fun p => !p.eff.isSweep && p.eff.array == 0) =
      [{ coh := 0, due := 0, seq := 0, eff := .settle 0 [] 4 }] ∧
    ((pending (.sweep 0 0)).bankDue 0).filter (fun p => p.eff.isSweep && p.eff.array == 0) =
      [{ coh := 0, due := 0, seq := 0, eff := .sweep 0 0 }] ∧
    ((pending (.sweep 0 0)).myBank.arr 0).status ≠ .retired ∧ ([5] : List (BitVec 12)).length = 1 ∧ SMap.get? (Arr.reset).spares 3 = none ∧
    (bench []).coh? 0 = some (benchCohort 0) ∧
    (banked .calibrated id).glintReady 0 0 = true ∧ State.reset.glintReady 0 0 = false := by decide +kernel

/-- Effects at their boundaries: the last row erased, a reading that trips by one more than the threshold, cells
inside and outside the margin, glint codes at and beyond the level. -/
theorem witness_BankEvents_effects :
    (528 * 512 - 1) / 528 = 511 ∧ bits (Bank.reset.xdthr) 9 0 = 8 ∧ 8 < ((9 : Int) - 0).natAbs ∧ ¬ 8 < ((8 : Int) - 0).natAbs ∧
    (Arr.reset).status ≠ .retired ∧ 3 ∈ Arr.reset.inUse ∧ marginFails 16 0 = false ∧ marginFails 16 1025 = true ∧
    marginFails 16 1024 = false ∧ ({ Arr.reset with status := .retired } : Arr).status = .retired ∧
    (-448 : Int) ≤ 448 ∧ ¬ ((449 : Int) ≤ 448) ∧ (∀ p ∈ Bank.reset.pend, False) := by decide +kernel

/-- An array that holds nothing passes the margin test; one bad cell in row 0 fails it. -/
theorem witness_BankEvents_margin : (∀ k, marginFails 16 (SMap.get (Arr.reset).cells 0 k) = false) ∧
    marginFails 16 (SMap.get ({ Arr.reset with cells := [(3, 2000)] } : Arr).cells 0 (528 * 0 + 3)) = true :=
  ⟨fun k => by show marginFails 16 0 = false; decide, by decide⟩

/-- The write that brings a new array's wear to its budget retires it. -/
theorem witness_BankEvents_budget : budget 0 ≤ Arr.reset.wear + budget 0 := Nat.le_add_left _ _

/-! ### DRAM, fabric, copies, atomics -/

/-- A partition with cores 0 and 1, pseudo-channel 0 and one granule of the sync SRAM, in whose cohort core 0
runs; S2 = v, S3 = w. -/
def part0 : Part := { Part.reset with present := true, sites := [0, 1], pchs := [0, 1], gran := 1, granAt := [(0, 0)] }

def owned (v w : Word) : State :=
  ((bench [(2, v), (3, w)]).setPart 0 part0).setCoh 0 { benchCohort 0 with pchs := [0], members := [0, 1] }

def coh0 : Cohort := { benchCohort 0 with pchs := [0], members := [0, 1] }

/-- The address of a DRAM operation. -/
def dawAt (v : Word) : Int := (owned v 0).ea1 ((v.toNat % 2 ^ 34 : Nat) : Int)

theorem witness_DramCommands : (owned 0 786400).source false 2 = some 0 ∧ (owned 0 786400).guarded 0 = true ∧
    (owned 0 786400).cx.inHandler = false ∧ (owned 0 786400).myCoh = some coh0 ∧
    dawPch (dawAt 1572832) = 0 ∧ 0 ∈ ((owned 0 0).part coh0.part).pchs ∧ 0 ∈ coh0.pchs ∧ 0 % 64 ≠ 63 ∧
    dawRow (dawAt 1572832) = 49151 ∧ (owned 0 786400).ea2 ((owned 0 786400).cx.rs 3).toInt + 32 = 786432 ∧
    (786400 : Int) % 32 = 0 ∧ dawRow (dawAt 32) < 49152 ∧ dawRow (dawAt 32) ≠ dawRow (dawAt 0) ∧
    dawRow (dawAt 32736) = 1023 ∧ dawRow (dawAt 32736) / 1024 = dawRow (dawAt 0) / 1024 ∧
    dawBank (dawAt 32) = dawBank (dawAt 0) := by decide

/-- The first granule holds the addresses 0 to 4,095. -/
theorem witness_IssueTraps : 128 ∉ ((owned 0 0).part 0).pchs ∧ dawPch (dawAt 0x100000000) = 128 ∧
    dawPch (dawAt 0x2000000) = 1 ∧ 1 ∈ ((owned 0 0).part 0).pchs ∧ 1 ∉ coh0.pchs ∧ dawRow (dawAt 1572864) = 49152 ∧
    786432 < (786432 : Int) + 32 ∧ (owned 0 16).ea2 ((owned 0 16).cx.rs 3).toInt % 32 ≠ 0 ∧
    lyRlen 0 = 0 ∧ lyRlen 4 = 4 ∧ lyRows 4 = 1 ∧ (owned 6 0).ea1 (6 : Word).toInt % 4 ≠ 0 ∧
    (owned 4 4).ea1 (4 : Word).toInt % 4 = 0 ∧ (4 : Int) + lyRlen 4 ≤ 786432 ∧
    (owned 0 0).timeOf 0 + 2 ^ 24 < ((owned 0 0x1000001).cx.rs 3).toNat ∧
    ((owned 0 0).modCoh 0 fun c => { c with ccyc := 9 }).timeOf 0 = 9 ∧ (3 : BitVec 6) ≠ 0 ∧
    (owned 4 0).ea1 ((4 : Nat) : Int) % 8 ≠ 0 ∧ (owned 4096 0).ea1 ((4096 : Nat) : Int) % 8 = 0 ∧
    ((owned 0 0).part ((owned 0 0).cohOf 0 |>.map partOf |>.getD 0)).gran + ((owned 0 0).part 0).ovgr = 1 ∧
    1 ≤ (4096 : Int).toNat / 4096 := by decide

/-- RSN 4 of MRCP: another row, bank or pseudo-channel, or the same row; a copy row outside; a full buffer. -/
theorem witness_IssueTraps_copies : dawBank (dawAt 0x8000) = dawBank (dawAt 0) ∧
    dawRow (dawAt 32768) / 1024 ≠ dawRow (dawAt 0) / 1024 ∧ dawPch (dawAt 0x2000000) ≠ dawPch (dawAt 0) ∧
    dawRow (dawAt 0) = dawRow (dawAt 0) ∧ ¬ ((2 : Int) ^ 54 + 4 ≤ 2 ^ 54) ∧ ¬ ((786432 : Int) + 4 ≤ 786432) ∧
    64 ≤ ((0 : Half) + 64 - 0).toInt ∧ (owned 2 0).ea1 (2 : Word).toInt % 4 ≠ 0 := by decide

/-- Core 0 in its handler, with a broadcast value. -/
def barredState : State := { handling with cur := { Cur.reset with b := some 0 } }

/-- R293: a DRAM command in a handler is a double trap. -/
theorem test_barred_in_handler : cause (exec (.mact ⟨0, false, 2⟩) barredState) = 0x1F := by decide +kernel

theorem witness_IssueTraps_barred : barredState.cx.inHandler = true ∧ barredState.cur.b ≠ none ∧
    namesB (.mact ⟨0, false, 2⟩) = false ∧ namesB (.mact ⟨0, true, 2⟩) = true ∧ namesB (.xswap 0 3) = false ∧
    barredState.guarded 0 = true ∧ guardOf (.mact ⟨0, false, 2⟩) = some 0 ∧
    (encodeFields (.mact ⟨0, false, 2⟩)).map clsOf = some 6 ∧ guardOf (.xswap 0 3) = some 0 ∧
    (encodeFields (.xswap 0 3)).map clsOf = some 5 ∧ (encodeFields (.rfail 0)).isSome = true ∧
    guardOf (.trap 0 9) = some 0 ∧ (encodeFields (.align 1)).isSome = true := by decide

theorem witness_FabricTransfers : (owned 786304 0).source false 2 = some 786304 ∧ (owned 786304 0).guarded 0 = true ∧
    (owned 786304 0).cx.inHandler = false ∧ (owned 786304 0).myCoh = some coh0 ∧ (1 : BitVec 7).toNat < coh0.members.length ∧
    (owned 786304 0).ea1 (786304 : Word).toInt + 128 = 786432 ∧ (786304 : Int) % 32 = 0 ∧
    (owned 786304 0).ea2 ((owned 786304 0).cx.rs 3).toInt = 0 ∧ coh0.members.length ≤ (2 : BitVec 7).toNat ∧
    786432 < (owned 786336 0).ea1 (786336 : Word).toInt + 128 := by decide

/-- Layout 0 is one row of 4 bytes. -/
def laidOut : State := (owned 786428 4).modCtx 0 fun c => { c with ly := [(0, 4)] }

theorem witness_CopySlotOperations : laidOut.source false 2 = some 786428 ∧ laidOut.guarded 0 = true ∧
    laidOut.cx.inHandler = false ∧ (lyRlen 4 ≠ 0 ∧ lyRlen 4 ≤ 4096 ∧ lyRlen 4 % 4 = 0) ∧ lyRlen 4096 = 4096 ∧
    SMap.get laidOut.cx.ly 0 0 = 4 ∧ laidOut.ea1 (786428 : Word).toInt % 4 = 0 ∧
    laidOut.ea2 ((laidOut.cx.rs 3).toNat : Int) % 4 = 0 ∧
    (∀ k < lyRows 4, 0 ≤ (4 : Int) + (k : Int) * lyHstr 4 ∧ (4 : Int) + (k : Int) * lyHstr 4 + 4 ≤ 2 ^ 54 ∧
      (786428 : Int) + 32 * (lySstr 4 : Int) * (k : Int) + 4 ≤ 786432) ∧
    laidOut.timeOf 0 ≤ 0 ∧ ((SMap.get laidOut.cx.xnext 0 0).truncate 32 - (SMap.get laidOut.cx.xdone 0 0).truncate 32 : Half).toInt < 64 ∧
    (owned 64 0).ea1 ((64 : Nat) : Int) % 64 = 0 := by decide

theorem witness_AtomicsIssue : (owned 4088 5).source false 2 = some 4088 ∧ (owned 4088 5).guarded 0 = true ∧
    (owned 4088 5).ea1 ((4088 : Nat) : Int) % 8 = 0 ∧
    (4088 : Int).toNat / 4096 < ((owned 0 0).part 0).gran + ((owned 0 0).part 0).ovgr := by decide

/-! ### The timing guard -/

/-- A command of core 0 on its path, driven in cycle 0. -/
def cmd (c : DCmd) (arg : Nat) : Cmd :=
  { id := 0, cmd := c, site := 0, coh := 0, member := 0, slot := 5, issued := 0, hops := 0, bank := 2, row := 7, col := 1
    arg := arg, data := List.replicate 32 1 }

/-- Bank 2 has row 7 open since cycle 0; line 3 is valid. -/
def opened : Pch :=
  { Pch.reset with banks := [(2, { BankTime.reset with st := .opened 7, act := some 0 })], valid := [3] }

theorem witness_GuardCommands : opened.refuses (cmd .rd 0) 28 = none ∧ opened.refuses (cmd .pre 0) 66 = none ∧
    Pch.reset.refuses (cmd .act 0) 0 = none ∧ Pch.reset.refuses (cmd .ref 0) 0 = none ∧
    Pch.reset.refuses (cmd .refp 0) 0 = none ∧ { opened with banks := [] }.refuses (cmd .rcbSt 3) 0 = none ∧
    opened.refuses (cmd .rd 0) 27 ≠ none ∧ (opened.bankTime 2).at 28 = .opened 7 ∧ (opened.bankTime 2).auto = none ∧
    (cmd .wr 0).data.length = 32 ∧ (opened.bankTime 2).act = some 0 ∧ (cmd .act 0).cmd = .act ∧
    (cmd .prea 0).cmd = .prea := by decide +kernel

/-- Bank 2 in a state of its own. -/
def bank2 (f : BankTime → BankTime) : Pch := { Pch.reset with banks := [(2, f BankTime.reset)] }

/-- A state for each test of R222: the bus, a busy bank, the state of the bank, a line, refreshes ahead, a
distance. -/
theorem witness_GuardCommands_refusals : ({ opened with colAt := some 28 }).colAt = some 28 ∧
    (cmd .rd 0).cmd.isColumn = true ∧ 2 ∈ (cmd .act 0).needs ∧
    ((bank2 fun b => { b with st := .busy 14 100 }).bankTime 2).at 5 = .busy 14 100 ∧
    (Pch.reset.bankTime 2).at 0 ≠ .opened 7 ∧ (3 : Nat) ∉ Pch.reset.valid ∧
    2 ∈ (cmd .refp 0).needs ∧ ((bank2 fun b => { b with owed := -4 }).bankTime 2).owed - 1 < -4 ∧
    (∃ y, (opened.bankTime 2).act = some y ∧ 27 < y + 28) ∧
    ({ opened with colAt := some 28 }).refuses (cmd .rd 0) 28 = some (3, 0) ∧
    (bank2 fun b => { b with st := .busy 14 100 }).refuses (cmd .act 0) 5 = some (2, 14) ∧
    Pch.reset.refuses (cmd .rd 0) 0 = some (1, 0) ∧
    Pch.reset.refuses (cmd .rcbSt 3) 200 = some (6, 3) ∧
    opened.refuses (cmd .rd 0) 27 = some (2, 1) := by
  refine ⟨by decide +kernel, by decide +kernel, by decide +kernel, by decide +kernel, by decide +kernel, by decide +kernel,
    by decide +kernel, by decide +kernel, ⟨0, rfl, by decide⟩, by decide +kernel, by decide +kernel, by decide +kernel,
    by decide +kernel, by decide +kernel⟩

/-- Pseudo-channel 0 in a state of its own, used by core 0's cohort, whose clock stands at c. -/
def guarded (p : Pch) (c : Nat) : State :=
  { ((owned 0 0).modCoh 0 fun k => { k with ccyc := c }).setPch 0 p with now := 4000 }

theorem arriving_one (c : DCmd) (d : Nat) (h : d = 1) : ({ Pch.reset with path := [cmd c 0] }).arriving d = [cmd c 0] := by
  subst h
  simp [Pch.arriving, cmd]

theorem witness_GuardEvents : (guarded Pch.reset 0).userOf 0 = some 0 ∧
    (guarded Pch.reset 1).coh? 0 = some { coh0 with ccyc := 1 } ∧
    Pch.reset.refuses (cmd .rd 0) 1 ≠ none ∧ Pch.reset.refuses (cmd .act 0) 1 = none ∧
    (let j : DramJob := { bank := 2, done := 4000, row := some 7, line := 0, data := [1] }
     [j].filter (fun x => x.bank == 2 && decide (x.done ≤ (guarded Pch.reset 0).now)) = [j]) ∧
    (let p := { opened with banks := [(2, { BankTime.reset with st := .opened 7, auto := some 1 })] }
     (p.bankTime 2).st = .opened 7 ∧ (p.bankTime 2).auto = some 1) ∧
    (guarded Pch.reset 0).frameDue 0 = true ∧ (∀ b < 16, (Pch.reset.bankTime b).owed ≤ 6) ∧
    (let p := { Pch.reset with banks := [(15, { BankTime.reset with owed := 7 })] }
     6 < (p.bankTime 15).owed) ∧
    (let u : Custody := { start := 0, recorded := [], nextRef := 4000, busyUntil := 0 }
     ((guarded { Pch.reset with custody := some u } 0).modCoh 0 fun k => { k with holds := [.start] }).custodialDue 0 = true) ∧
    (guarded Pch.reset 0).idleDue 5 = true := by decide +kernel

/-- Read data that enters the port of core 0. -/
def landing0 : Landing :=
  { site := 0, coh := 0, port := 1, addr := 64, data := List.replicate 32 5, issued := 0, hops := 0, bad := false, seq := 0 }

theorem witness_GuardEvents_read : (guarded { Pch.reset with landing := [landing0] } 1).coh? landing0.coh =
    some { coh0 with ccyc := 1 } ∧ landing0.port ≤ 1 ∧ landing0.bad = false := by decide

/-! ### Untimed work -/

/-- Core 0 with one untimed operation. -/
def working (u : UOp) : State := (owned 0 0).modCore 0 fun c => { c with uops := [u] }

def copy (get : Bool) (st : UStage) (todo : List (Nat × Nat × Nat)) : UOp :=
  { n := 0, coh := 0, scope := 0, kind := .xfr get 1 0 0 0 4096 4, stage := st, ready := 0, todo := todo
    pages := [⟨4096, 4096, 28672⟩], walk := false, units := [], held := [], failed := false, old := 0, bad := false }

theorem witness_TransferEvents : (31 : Nat) < 32 ∧
    (working (copy true .waiting [])).xfrWith 0 1 0 ((working (copy true .waiting [])).canBegin 0) =
      some (copy true .waiting []) ∧
    (working (copy true .running [(4096, 0, 4)])).xfrWith 0 1 0
      ((working (copy true .running [(4096, 0, 4)])).canMove 0) = some (copy true .running [(4096, 0, 4)]) ∧
    (working (copy true .running [])).xfrWith 0 1 0 ((working (copy true .running [])).canComplete 0) =
      some (copy true .running []) ∧
    (working (copy true .waiting [])).clockAt 0 0 0 = true ∧
    ((working (copy true .waiting [])).core 0).mayBegin (copy true .waiting []) = true ∧
    (working (copy true .running [(4096, 0, 4)])).canMove 0 (copy true .running [(4096, 0, 4)]) = true ∧
    (working (copy true .running [])).liveCoh 0 0 = true ∧ ((working (copy true .running [])).ctx 0).replay = none ∧
    (working (copy true .running [(4096, 0, 4)])).movable 0 (copy true .running [(4096, 0, 4)]) true = [(4096, 0, 4)] ∧
    (working (copy false .running [(4096, 0, 4)])).movable 0 (copy false .running [(4096, 0, 4)]) false = [(4096, 0, 4)] ∧
    (copy true .running [(4096, 0, 4)]).wantsPage = false ∧ (copy true .running [(8192, 0, 4)]).wantsPage = true ∧
    SMap.get? (copy false .running []).units 0 = none ∧ 0 % 32 + 4 ≤ 32 ∧
    (SMap.get? ({ copy false .running [(4096, 0, 4)] with units := [(0, List.replicate 32 0)] } : UOp).units 0).isSome = true ∧
    0 ∈ wordsOf 0 4 ∧
    0 ∈ (((working (copy false .running [(4096, 0, 4)])).modCore 0 fun c => { c with badWord := [0] }).core 0).badWord ∧
    (let u := copy true .running [(8192, 0, 4)]
     (working u).canMove 0 u = true ∧ ((working u).translate 0 u 8192 true false).1 = none ∧
       (let v := { u with walk := true }
        ((working v).translate 0 v 8192 true false).1 = some (.error 1) ∧ part0.dying = false)) ∧
    (copy true .running []).phys 4096 = some 28672 ∧ Memory.wf (owned 0 0).host = true ∧
    ((owned 0 0).core 0).badWord = [] ∧
    (working (copy true .running [])).canComplete 0 (copy true .running []) = true ∧
    (working (copy false .atCore [])).canComplete 0 (copy false .atCore []) = true ∧
    (copy true .running []).advance true = .atSys ∧ ((working (copy true .running [])).core 0).serves 0 = true ∧
    ((working (copy true .running [])).core 0).opsOf 0 = [copy true .running []] := by decide +kernel

/-- A page's misaligned row in a partition with a share of the UCIe port. -/
theorem witness_TransferEvents_turns :
    let u := copy true .running [(4097, 30, 2), (4099, 32, 1)]
    let s := ((working u).modPart 0 fun p => { p with share := 1 }).modCore 0 fun c => { c with portBusy := [bankOfUnit 1] }
    s.xfrWith 0 1 0 (s.canMove 0) = some u ∧ u.wantsPage = false ∧ (s.part (partOf u.coh)).share ≠ 0 ∧
    s.movable 0 u true = [(4097, 30, 2)] ∧ 4097 % 4 ≠ 0 ∧ 4099 / 4 = 4097 / 4 ∧ 4099 + 30 = 4097 + 32 ∧ u.phys 4097 = some 28673 := by decide +kernel

/-- Core 0's staging of the line at address 64. -/
def staging (walks : Bool) : UOp :=
  { copy true .running [] with kind := .stage 64 1, pages := [], walk := walks }

/-- Core 0's next bundle is not in its store; its line at address 64 is being staged. -/
def missing (u : UOp) : State := (owned 0 0).modCore 0 fun c =>
  { c with istore := [(slotOfLine 64, stagingLine 64 0)], uops := [u] }

/-- A page of partition 0 that the translation cache holds. -/
def cached (s : State) : State :=
  { s with tlb := [{ die := 0, part := 0, va := 0, size := 4096, pa := 8192, w := true, x := true }] }

theorem witness_TransferEvents_lines :
    let s := missing (staging false)
    let w := missing (staging true)
    let read := missing { staging false with pages := [⟨0, 4096, 8192⟩] }
    (s.core 0).fetch = .missing 0 ∧ s.cohOf 0 = some 0 ∧ s.missHolds 0 = some 0 ∧ s.coh? 0 = some coh0 ∧
    HoldCause.miss 0 ∉ coh0.holds ∧ SMap.get? (s.core 0).istore (slotOfLine 64) = some (stagingLine 64 0) ∧
    s.lineDue 0 (slotOfLine 64) (stagingLine 64 0) = true ∧ (s.core 0).uops.find? (·.n == 0) = some (staging false) ∧
    (staging false).phys (lineAddr (slotOfLine 64) (stagingLine 64 0)) = none ∧
    (s.translate 0 (staging false) 64 false true).1 = none ∧
    (w.translate 0 (staging true) 64 false true).1 = some (.error 1) ∧
    ((cached s).translate 0 (staging false) 64 false true).1 = some (.ok ⟨0, 4096, 8192⟩) ∧
    read.lineDue 0 (slotOfLine 64) (stagingLine 64 0) = true ∧
    ({ staging false with pages := [⟨0, 4096, 8192⟩] } : UOp).phys 64 = some 8256 := by decide +kernel

/-- A fault of core 0's transfer that is on the ring with tag 5, or not yet. -/
def retry (tag : Option Nat) : Retry :=
  { tag := tag, va := 4096, kind := 1, src := 1, who := { site := 0, op := 0 }, coh := 0, ch := 1, id := 0, after := false, hseq := 0 }

/-- Partition 0 with the ring at 0x10000 and one fault. -/
def faulting (tag : Option Nat) : State :=
  (working (copy true .faulted [])).setPart 0 { part0 with rrbase := 0x10000, retries := [retry tag] }

theorem witness_TranslationEvents :
    (faulting none).part 0 = { part0 with rrbase := 0x10000, retries := [retry none] } ∧
    [retry none].find? (·.tag.isNone) = some (retry none) ∧ ((faulting none).part 0).retryDue = true ∧
    [retry (some 5)].find? (·.tag == some 4) = none ∧ [retry (some 5)].find? (·.tag == some 5) = some (retry (some 5)) ∧
    ((faulting (some 5)).core 0).uops.find? (·.n == 0) = some (copy true .faulted []) ∧
    part0.active = false ∧ bitAt (0 : Word) 0 = false ∧
    (walk [(4096, 1), (4097, 32), (8192, 1), (8193, 48), (12288, 23)] 0x1001 5 true true).toOption.isSome = true ∧
    (walk [] 0x1001 5 true true).toOption = none ∧
    12 ≤ bits (0x100C : Word) 5 0 ∧ bits (0x36 : Word) 5 0 = 54 ∧ bits (0x100C : Word) 11 6 = 0 ∧
    bits (0x100C : Word) 62 54 = 0 ∧ part0.tlbinv = none ∧
    ((owned 0 0).setPart 0 { part0 with tlbinv := some (0, 4096, 0) }).invDone 0 = true ∧
    (faulting none).vfPresent 0 = true ∧ part0.rst = false ∧ (State.reset.part 0).present = false ∧
    bits (63 : Word) 5 0 = 63 ∧ bits (5 : Word) 5 0 < 12 ∧ bits (62 : Word) 5 0 = 62 ∧
    copy true .running [] ∈ ((working (copy true .running [])).core 0).uops ∧
    ((cached (working (copy true .running []))).tlbHit (0 / 64) 0 64 true false).isSome = true ∧
    (working (copy true .running [])).tlbHit (0 / 64) 0 64 true false = none := by decide +kernel

/-- An addition of 3 to the variable at byte 8, which returns its old value to S5. -/
def addition (sp : Bool) (st : UStage) : UOp :=
  { copy true st [] with kind := .atom true .add 8 sp 8 3 0 5 }

theorem witness_AtomicEvents : (0 : Nat) < 1 ∧
    ((working (addition true .running)).core 0).uops.find? (·.n == 0) = some (addition true .running) ∧
    (working (addition true .running)).canPerform 0 (addition true .running) = true ∧
    ((owned 0 0).part (partOf 0)).target true 8 = .sram 8 ∧ (∀ w ∈ (List.range 2).map (8 / 4 + ·), w ∉ (owned 0 0).syncBad) ∧
    ((owned 0 0).part (partOf 0)).target false 8 = .host 8 ∧
    (let u := addition false .running
     let v := { u with pages := [⟨0, 4096, 8192⟩] }
     (working u).canPerform 0 u = true ∧ u.phys 8 = none ∧ (working u).canPerform 0 v = true ∧
     (v.phys 8 = some 8200 ∧ (working v).canPerform 0 v = true) ∧
     ((cached (working u)).translate 0 u 8 true false).1 = some (.ok ⟨0, 4096, 8192⟩) ∧
     ((working { u with walk := true }).translate 0 { u with walk := true } 8 true false).1 = some (.error 1)) ∧
    (let u := { addition true .rewriting with held := [(8200, 1)] }
     (working u).canPerform 0 u = true ∧ u.stage = .rewriting) ∧
    (let s : State := { working (addition true .running) with syncBad := [2] }
     s.canPerform 0 (addition true .running) = true ∧ (2 ∈ (List.range 2).map (8 / 4 + ·)) ∧ 2 ∈ s.syncBad) ∧
    Memory.wf (owned 0 0).host = true ∧ fdec fmtF32 false 0x3F800000 = .fin false 8388608 (-23) ∧
    fdec fmtF32 false 0xFF800000 = .inf true ∧ fdec fmtF32 false 0x80000000 = .fin true 0 (-149) ∧
    (working (addition true .returning)).canReturn 0 (addition true .returning) = true ∧
    (working (addition true .returning)).liveCoh 0 0 = true ∧
    (working (addition true .returning)).endedOp (addition true .returning) = false ∧
    (addition true .returning).bad = false ∧ 63 < 64 := by decide

/-! ### Landings, ports, traps -/

/-- Core 0 with one result in flight, and the clock that lands it. -/
def result (e : Effect) : Pend :=
  { land := 0, seq := 0, slot := 1, issued := 0, again := true, flags := 0x11, shadow := false, eff := e }

def landingNow (e : Effect) : State := (owned 0 0).modCtx 0 fun c => { c with flight := [result e] }

theorem witness_ResultsLand : (landingNow (.sreg 63 5)).plain 0 ∧
    (landingNow (.sreg 63 5)).dueResults 0 = [result (.sreg 63 5)] ∧ (result (.sreg 63 5)).shadow = false ∧
    bitAt (landingNow (.sreg 63 5)).pf.errinj 12 = false ∧
    (landingNow (.csr 0x001 5)).dueResults 0 = [result (.csr 0x001 5)] ∧
    (landingNow (.mbox 15 5)).dueResults 0 = [result (.mbox 15 5)] ∧
    (landingNow (.preg 0 1 1)).dueResults 0 = [result (.preg 0 1 1)] := by
  unfold State.plain
  decide +kernel

/-- Results of two bundles, and of two slots, for S63, lane bits of V5 and P1. -/
def crossing : State := (owned 0 0).modCtx 0 fun c => { c with flight :=
  [{ result (.sreg 63 5) with issued := 0, slot := 5, seq := 5 }, { result (.sreg 63 6) with issued := 1, slot := 1, seq := 9 },
   { result (.vreg 5 1 1) with slot := 4, seq := 4 }, { result (.vreg 5 3 0) with slot := 3, seq := 3 }] }

theorem witness_ResultsLand_together : crossing.plain 0 ∧ bitAt crossing.pf.errinj 12 = false ∧
    (crossing.dueResults 0).length = 4 ∧
    (crossing.dueResults 0).all (fun p => !p.shadow && decide (p.slot < 8) && p.seq == 8 * p.issued + p.slot) = true := by
  unfold State.plain
  decide +kernel

/-- Two-row scores of 2, with weights of 2 columns. -/
theorem witness_ResultsLand_matrix :
    (landingNow (.softmax 0 1 2 [1, 2, 3, 4] weights22 0 0 [] [])).dueResults 0 =
      [result (.softmax 0 1 2 [1, 2, 3, 4] weights22 0 0 [] [])] ∧
    (∀ l ∈ linesOf (4096 * 0) (4 * 2 * weights22.n) ++ linesOf (4096 * 1) (8 * 2),
      l ∉ ((owned 0 0).ctx 0).poison ∧ l ∉ ((owned 0 0).ctx 0).badLine) ∧
    (∀ x ∈ ([1, 2, 3, 4] : List Int), -2 ^ 31 ≤ x ∧ x < 2 ^ 31) ∧ weights22.mx = false ∧
    Memory.wf ((owned 0 0).ctx 0).tile = true ∧ 4096 * 0 + 4 * 2 * weights22.n ≤ 4096 * 1 ∧
    (landingNow (.drift 3 0 [1, 2, 3, 4])).dueResults 0 = [result (.drift 3 0 [1, 2, 3, 4])] ∧
    (landingNow (.trace 5 1 true)).dueResults 0 = [result (.trace 5 1 true)] ∧
    ((owned 0 0).core 0).trace.frozen = false ∧ ((owned 0 0).core 0).trace.armed = none ∧
    bitAt ((owned 0 0).core 0).trace.kmask 7 = true := by decide +kernel

/-- Core 0 with one access due. -/
def porting (a : Port) (units : List Nat) : State := (owned 0 0).modCtx 0 fun c =>
  { c with acc := [{ due := 0, cls := 3, key := 0, issued := 0, again := true, window := none, units := units,
                     lost := [], act := a }] }

theorem witness_PortsServe : (porting (.write [(0, 5), (1, 6)] none) [0]).plain 0 ∧
    (porting (.write [(0, 5), (1, 6)] none) [0]).advancing 0 = true ∧
    (porting (.write [(0, 5), (1, 6)] none) [0]).ccycOf 0 = 0 ∧
    colliding [] ((porting (.write [(0, 5), (1, 6)] none) [0]).ctx 0).acc = [] ∧
    ((porting (.write [(0, 5), (1, 6)] none) [0]).core 0).badWord = [] ∧
    (([(0, 5), (1, 6)] : List (Nat × Byte)).map (·.1)).Nodup ∧
    Memory.wf ((porting (.toS 63 8 8 false 4) [0]).core 0).spad = true ∧ 0 < 8 ∧ 8 ≤ 8 := by
  unfold State.plain
  decide +kernel

/-- Deliveries of every kind: their operands as the statement takes them. -/
theorem witness_PortsServe_deliveries :
    let clear := fun (a : Port) (units : List Nat) => colliding [] ((porting a units).ctx 0).acc = [] ∧
      bitAt (porting a units).pf.errinj 12 = false
    clear (.toV 1 [(0, 8), (31, 4)] [1, 0] 5 true) [0] ∧ ([(0, 8), (31, 4)].map fun (e : Nat × Nat) => e.1).Nodup ∧
    (∀ e ∈ [(0, 8), (31, 4)], e.1 < 32) ∧ clear (.toTile 31 0 16) (unitsOf 0 4096) ∧
    clear (.table 1 0 0 (laneMask 1) 16 0 false 6 false) (unitsOf 0 2064) ∧ clear (.push 0 32 1 64 9 0) [0] ∧
    clear (.pull 0 32 0 64 9) [0] ∧ clear (.toDram 0 0 3) [0] ∧ clear (.fallback 0 0 1 2 32 [1, 2] 5 9) [] ∧
    clear (.ovc 1 0 0) [0] ∧ clear (.write [(0, 1)] (some 3)) [] := by decide +kernel

/-- Two reads of different rows of bank 0 in one port cycle. -/
theorem witness_PortsServe_collision :
    let s := (porting (.toS 1 0 8 true 4) [0]).modCtx 0 fun c => { c with acc := c.acc ++
      [{ due := 0, cls := 3, key := 1, issued := 0, again := true, window := none, units := [192], lost := [],
         act := .toS 2 6144 8 true 4 }] }
    colliding [] (s.ctx 0).acc = [0] ∧ (∀ a ∈ (s.ctx 0).acc, a.due ≤ 0 ∧ a.window = none ∧ a.lost = []) := by
  decide +kernel

/-- Core 0 has a handler at 256. -/
def handled : State := (owned 0 0).modCore 0 fun c => { c with handlerPc := some 256 }

/-- A trap at slot 7, repeat 255. -/
def trap0 (cause : Nat) : Trap :=
  { cause := cause, sres := 7, slot := 7, tval := 5, pc := 0, rep := 255, issued := true, erring := 0 }

theorem witness_Traps : (owned 0 0).cohOf 0 = some 0 ∧ (handled.core 0).handlerPc = some 256 ∧
    disposition 0x09 = .handled ∧ handled.plain 0 ∧ handled.afterglow 0 ≤ 96 ∧ (trap0 0xFF).cause < 256 ∧
    (trap0 9).rep < 256 ∧ (trap0 9).sres < 8 ∧ handled.coh? 0 = some coh0 ∧ coh0.st ≠ .ending ∧
    ((owned 0 0).core 0).handlerPc = none ∧ disposition 0x13 = .frost ∧ disposition 0x11 = .requeue ∧
    (handling.ctx 0).inHandler = true ∧ handling.cohOf 0 = some 0 := by
  unfold State.plain
  decide +kernel

/-- A handler that has returned and resumes the rest of its bundle. -/
def returning : Handler :=
  { cyc := 4, issuedAt := false, flight := [], acc := [], bev := [], latch := [], loops := [], stack := [], tail := none
    entered := 5, served := [], was := [], returned := some 9, resuming := false }

/-- A region whose entries hold unit 3, S5, V639, P15, T31 and the control block, an open region inside it that
holds unit 3 again, and one around it. -/
def region0 : Region :=
  { began := 0, next := 4, nextAt := 1, committed := false, overflowed := false, rollbacks := 0
    snap := { latch := [], loops := [], stack := [], matrix := Matrix.empty }
    entries := [.undo 3 (List.replicate 32 7) [12], .preserve (.s 5 9 true), .preserve (.v 639 1 false),
      .preserve (.p 15 1 false), .preserve (.t 31 (List.replicate 4096 3) [511]), .preserve (.block 1 [] [] [] [] [])] }

def recovering : State := (owned 0 0).modCtx 0 fun c => { c with regions := [region0] }

def nested : State := (owned 0 0).modCtx 0 fun c =>
  { c with regions := [{ region0 with entries := [.undo 3 (List.replicate 32 8) []] }, region0, region0] }

theorem witness_TrapReturn : ({ Ctx.reset with handler := some returning }).handler = some returning ∧
    returning.resuming = false ∧ returning.issuedAt = false ∧ (recovering.ctx 0).regions = [region0] ∧
    (nested.ctx 0).regions[1]? = some region0 ∧ (nested.ctx 0).regions.length < 8 ∧
    [PEntry.undo 3 (List.replicate 32 8) []] ++ region0.entries =
      [PEntry.undo 3 (List.replicate 32 8) []] ++ .undo 3 (List.replicate 32 7) [12] :: region0.entries.tail ∧
    (∀ u b m, PEntry.undo u b m ∈ region0.entries → b.length = 32 ∧ ∀ w ∈ m, w / 4 = u) ∧
    (∀ q b m, PEntry.preserve (.t q b m) ∈ region0.entries → b.length = 4096 ∧ ∀ l ∈ m, l / 16 = q) ∧
    (∀ b m, PEntry.undo 3 b m ∉ region0.entries.tail) := by
  refine ⟨rfl, rfl, rfl, by simp [recovering], by simp [nested], by simp [nested], rfl, fun u b m h => ?_,
    fun q b m h => ?_, fun b m h => ?_⟩ <;>
    simp only [region0, List.mem_cons, List.tail_cons, List.not_mem_nil, or_false, reduceCtorEq, false_or, or_self,
      PEntry.undo.injEq, PEntry.preserve.injEq, Preserved.t.injEq] at h
  · obtain ⟨rfl, rfl, rfl⟩ := h
    exact ⟨List.length_replicate, by decide⟩
  · obtain ⟨rfl, rfl, rfl⟩ := h
    exact ⟨List.length_replicate, by decide⟩

/-- The preserve entries of that region are of different registers: each is the one entry of its register. -/
theorem witness_TrapReturn_once : (region0.entries.filterMap fun e => match e with
      | .preserve x => some x.key
      | _ => none) = [(0, 5), (1, 639), (2, 15), (3, 31), (4, 0)] := rfl

/-! ### Events of cores and cohorts -/

/-- Core 0 with one boundary event. -/
def erring (k : BKind) (s : State) : State := s.modCtx 0 fun c => { c with bev := [{ due := 0, issued := 3, kind := k }] }

theorem witness_BoundaryEvents : (owned 0 0).cohOf 0 = some 0 ∧ (owned 0 0).coh? 0 = some coh0 ∧ coh0.st ≠ .ending ∧
    ((owned 0 0).ctx 0).rpos < 256 ∧ (owned 0 0).plain 0 ∧
    ((erring (.timing 7) (owned 0 0)).boundaryNow 0).filter BEvent.isFirst = [{ due := 0, issued := 3, kind := .timing 7 }] ∧
    (BKind.timing 7).trap?.isSome = true ∧
    firstDue (((erring (.regionError 0x1B 7) recovering).boundaryNow 0).filter BEvent.isRegion) =
      [{ due := 0, issued := 3, kind := .regionError 0x1B 7 }] ∧ recovering.afterglow 0 ≤ 96 ∧
    (∀ y ∈ recovering.cores, y.2.ctx.acc = []) ∧ (owned 0 0).afterglow 0 ≤ 96 ∧ region0.began < 3 ∧ region0.committed = false ∧
    region0.rollbacks < 2 ∧ 0x1B ≠ 0x1D ∧
    ((owned 0 0).modCore 0 fun c => { c with istore := [(0, line0 [⟨false, 0x98000000⟩])] }).plain 0 ∧
    (((owned 0 0).modCore 0 fun c => { c with istore := [(0, line0 [⟨false, 0x18100000⟩, ⟨false, 0x90000000⟩])] }).core
      0).fetchFault.isSome = true ∧ disposition 3 = .handled := by
  unfold State.plain
  decide +kernel

theorem witness_SiteEvents :
    ((owned 0 0).modCore 0 fun c => { c with trace := { c.trace with armed := some 0 } }).freezeDue 0 = true ∧
    ((owned 0 0).modCore 5 fun c => { c with run := .frozen 7 }).thawDue 5 = true ∧
    ((owned 0 0).bank 0).retraining = none ∧
    ((owned 0 0).setBank 0 { Bank.reset with retraining := some 9 }).bank 0 = { Bank.reset with retraining := some 9 } ∧
    (owned 0 0).cohOf 0 = some 0 ∧ (owned 0 0).coh? 0 = some coh0 ∧ coh0.st = .running ∧
    (owned 0 0).classNow 0 < (1 : BitVec 2).toNat ∧ ((owned 0 0).core 5).run = .free ∧
    ((owned 0 0).core 0).run = .bound 0 ∧ coh0.preempt = 0 ∧ ((owned 0 0).bank 0).therm.toNat < (3 : BitVec 2).toNat ∧
    0 ∈ (owned 0 0).cohortsAt 0 := by
  decide +kernel

/-- Core 0's cohort, changed. -/
def cohort (f : Cohort → Cohort) : State := (owned 0 0).setCoh 0 (f { benchCohort 0 with pchs := [0] })

/-- The cohort waits pre-empted in core 0's shadow slot. -/
def shelved : State := (cohort fun c => { c with st := .preempted }).modCore 0 fun c =>
  { c with run := .free, shadow := [{ coh := 0, ctx := Ctx.reset, cid := 0, locks := [], handlerPc := none, entryPc := 0,
                                       half := true, therm := 2, evicted := false, spad := [] }] }

theorem witness_CohortEvents : (cohort fun c => { c with st := .starting, w0 := none }).startDue 0 = true ∧
    (cohort fun c => { c with holdStart := some 0, releaseAt := some 0 }).releaseDue 0 = true ∧
    ((owned 0 0).ctx 0).mustResume = false ∧ (handling.ctx 0).mustResume = true ∧
    (erring .latencyClass (cohort id)).latencyDue 0 = some 0 ∧ ((owned 0 0).ctx 0).halted = false ∧
    (cohort fun c => { c with preempt := 1 }).preemptDue 0 = true ∧ (owned 0 0).afterglow 0 ≤ 96 ∧
    shelved.resumeDue 0 = true ∧ (benchCohort 0).members.Nodup := by decide +kernel

/-! ### Launches, nodes, partitions -/

/-- One shape of one pair whose entry is at 256, one node of that shape. -/
def shape0 : Shape :=
  { nm := 1, digital := true, lat := none, therm := none, agmax := 0, nlpc := 2, entry := 256 :: List.replicate 15 0
    handler := [0], scratch := [0], hops := [0], mhops := [127, 127], uses := [1] }

def image0 (l : List ShardRec) : Image :=
  { base := 0, len := 4096, mbname := 0, mbrel := 0, shapes := [shape0]
    nodes := [{ vars := [0], preds := [], wdog := 1, ovl := false }], places := [], relocs := []
    groups := [{ grp := 0, owns := true, xgv := 0x1000000, tag := 9 }], shards := l, keySlot := 0, data := []
    manifest := none, unprogrammed := List.range l.length, refetch := [], rejected := [] }

/-- The bank of the cohort's pair holds a group of its image. -/
theorem witness_CohortEvents_groups :
    let s := (shelved.modPart 0 fun p => { p with images := [((benchCohort 0).img, image0 [])] }).setBank 0
      { Bank.reset with xgrp := [(0, 0x1000000)] }
    s.resumeDue 0 = true ∧ (SMap.get? (s.part (benchCohort 0).part).images (benchCohort 0).img).isSome = true ∧
      grpValid ((s.bank 0).grp 0) = true := by decide +kernel

def launch0 : Launch :=
  { hseq := 1, img := 1, eset := 0, arg := 0, args := none, nodes := [], rule := [], requeues := [], ending := none
    fcause := 0, fnode := 0, fabt := 0, fxfr := 0, freq := 0 }

/-- Partition 0 with image 1 and queue 0; `l` shards, `x` its launch. -/
def launching (l : List ShardRec) (x : Option Launch) : State :=
  (owned 0 0).setPart 0 { part0 with images := [(1, image0 l)], queues := [(0, { Queue.reset with en := true, launch := x })] }

/-- Host memory that maps the first gibibyte to itself and holds a linked image of one ALIGN bundle at 0x10000. -/
def hostImage : List Host.Cell :=
  [(4096, 1), (4097, 32), (8192, 1), (8193, 48), (12288, 23), (65536, 75), (65537, 88), (65538, 73), (65539,
   77), (65540, 1), (65542, 3), (65544, 104), (65545, 1), (65560, 1), (65562, 1), (65600, 1), (65608, 160),
   (65616, 8), (65632, 2), (65640, 168), (65648, 168), (65664, 3), (65672, 80), (65673, 1), (65680, 24),
   (65698, 224), (65699, 147), (65702, 32), (65703, 144), (65704, 1), (65720, 160), (65722, 1), (65872, 1)]

/-- Image 2 is being loaded from 0x10000. -/
def loading (root : Word) : State :=
  { (owned 0 0).setPart 0 { part0 with imgJob := some (2, 65536, 0), ptroot := root } with host := hostImage }

def loadedImage (root : Word) : Option Image :=
  parseImage 65536 fun off n => (loading root).readPart 0 (65536 + off) n

theorem witness_LaunchEvents : ((launching [] none).part 0).rst = false ∧
    (((launching [] none).part 0).queue 0).en = true ∧ (((launching [] none).part 0).queue 0).words.length < 64 ∧
    SMap.get? ((launching [] none).part 0).images 1 = some (image0 []) ∧ (image0 []).hasSet 0 = true ∧
    bits (0x10000 : Word) 63 56 = 0 ∧ bits (0x10000 : Word) 23 16 = 1 ∧ bits (0x10000 : Word) 27 24 = 0 ∧
    (((launching [] none).part 0).queue 1).en = false ∧ 64 ≤ (List.replicate 64 0).length ∧
    (((launching [] none).part 0).queue 0).launch = none ∧
    (((launching [] (some launch0)).part 0).queue 0).launch = some launch0 ∧
    ((launching [] (some launch0)).part 0).recorded 0 = false ∧ ((launching [] none).part 0).imgJob = none ∧
    ((launching [] none).part 0).usesImage 255 = false ∧
    ((loading 0).part 0).imgJob = some (2, 65536, 0) ∧ 0 ≤ (loading 0).now ∧ loadedImage 0 = none ∧
    (loadedImage 0x1001).isSome = true ∧ (loadedImage 0x1001).map (·.data) = some [] ∧
    (∀ m, (loadedImage 0x1001) = some m → m.data = [] → (loading 0x1001).rowsInUse 0 m = false) ∧
    (launching [] none).vfPresent 0 = true ∧ State.reset.vfPresent 0 = false ∧ ((loading 0).part 0).dying = false := by
  refine ⟨?_, ?_, ?_, ?_, ?_, ?_, ?_, ?_, ?_, ?_, ?_, ?_, ?_, ?_, ?_, ?_, ?_, ?_, ?_, ?_, ?_, ?_, ?_, ?_⟩
  case refine_21 => intro m _ h; simp [State.rowsInUse, h]
  all_goals decide +kernel

/-- A shard of no bytes with one digest or another. -/
def shard0 (d : List Byte) : ShardRec := { grp := 0, setB := false, tag := 9, len := 0, va := 0, digest := d }

theorem witness_LaunchEvents_shards (d : List Byte) : 0 ∈ (image0 [shard0 d]).unprogrammed ∧
    (image0 [shard0 d]).shards[0]? = some (shard0 d) ∧
    (image0 [shard0 d]).groups.find? (·.grp == (shard0 d).grp) =
      some { grp := 0, owns := true, xgv := 0x1000000, tag := 9 } ∧
    ((launching [] none).setPart 0 { part0 with sites := [5] }).mayProgram 5
      { grp := 0, owns := true, xgv := 0x1000000, tag := 9 } (shard0 []) = true ∧
    (image0 [shard0 d]).fetchable 0 0 = true ∧ SMap.get? (image0 [shard0 d]).refetch 0 = none ∧
    ({ image0 [shard0 d] with refetch := [(0, 0)] } : Image).fetchable 0 0 = true ∧
    (launching [] none).readPart 0 0 0 = some [] ∧ Config.sha384 [] = (shard0 (Config.sha384 [])).digest ∧
    Config.sha384 [] ≠ (shard0 (0 :: Config.sha384 [])).digest := by
  refine ⟨by simp [image0], rfl, rfl, by decide +kernel, rfl, rfl, rfl, by decide +kernel, rfl, ?_⟩
  intro h
  have := congrArg List.length h
  simp [shard0] at this

/-- A node can be bound to core 1, which is free. -/
def binding0 : State := { launching [] (some launch0) with pf := { Pf.reset with stage := 5 } }

theorem witness_NodeEvents : (binding0.part 0).binding 0 = some (launch0, image0 []) ∧
    0 ∈ launch0.ready (image0 []) ∧ ((List.range 16).find? fun j => (binding0.coh? (16 * 0 + j)).isNone) = some 1 ∧
    (binding0.choose 0 launch0 (image0 []) noCoh 0).isSome = true ∧ binding0.mayBind 0 = true := by decide +kernel

/-- Its node runs in core 0's cohort, which has halted, or ends. -/
def ending0 (f : Cohort → Cohort) (n : Nat) : State :=
  (binding0.setCoh 0 { f { benchCohort 0 with img := 1, closeAt := some 0 } with wdogUsed := n }).modCtx 0 fun c => { c with halted := true }

theorem witness_NodeEvents_ends : (ending0 id 0).retireDue 0 = true ∧ (benchCohort 0).requeue = none ∧
    (ending0 (fun c => { c with st := .ending, requeue := some .any }) 0).retireDue 0 = true ∧
    (ending0 id 0).requeues { benchCohort 0 with img := 1 } = true ∧
    ((ending0 id 0).setPart 0 { part0 with queues := [] }).requeues (benchCohort 0) = false ∧
    (ending0 id 2001).wdogDue 0 = true ∧ (ending0 id 2000).wdogDue 0 = false := by decide +kernel

/-- A request for one pair, share 1, one granule, in partition 0; `op` 0 creates, 1 resizes, 2 releases. -/
def asking (pairs : Word) (x : Part) : State :=
  { (State.reset.setPart 0 x) with host := [(1, (pairs.toNat : Byte)), (2, 1), (3, 1)] }

theorem witness_PartitionEvents : ((asking 1 Part.reset).part 0).present = false ∧
    (asking 1 Part.reset).pmReq.bad = false ∧ (asking 1 Part.reset).pmReq.part = 0 ∧
    (asking 1 Part.reset).pmReq.pairs = 1 ∧ (asking 1 Part.reset).pmReq.pchs = [] ∧
    (asking 1 Part.reset).pmReq.gran = 1 ∧ (asking 1 Part.reset).pmReq.share = 1 ∧
    1 ≤ (asking 1 Part.reset).freeSites.length ∧
    1 ≤ ((asking 1 Part.reset).freeGran 0).length + ((asking 1 Part.reset).freeGran 1).length ∧
    (asking 1 Part.reset).sharesBut 0 + 1 ≤ 64 ∧
    ({ asking 1 Part.reset with bam := (List.range 128).map fun i => (i, 2) } : State).freeSites.length < 1 ∧
    ((asking 1 part0).part 0).present = true ∧ part0.busy = false ∧
    ({ part0 with queues := [(0, { Queue.reset with launch := some launch0 })] } : Part).busy = true ∧
    part0.rst = false ∧ (asking 1 { part0 with reclaim := some 0 }).reclaimDue 0 = true ∧
    ((asking 1 { part0 with rst := true }).part 0).rst = true ∧
    ((asking 1 { part0 with rst := true }).part 0).releasing = false ∧
    ((asking 1 { part0 with rst := true }).part 0).reclaim = none ∧
    ((asking 1 { part0 with rst := true }).part 0).present = true ∧ (asking 1 part0).vfPresent 0 = true ∧
    (asking 1 Part.reset).vfPresent 0 = false ∧
    1 - (part0.sites.filter fun i => SMap.get (asking 1 part0).bam 0 i == 0).length ≤ (asking 1 part0).freeSites.length := by
  decide +kernel

/-- A record of zeros, one of OP 3, and a resize for more than is free. -/
theorem witness_PartitionEvents_refused :
    (asking 0 Part.reset).pmReq.bad = true ∧
    (let s := { asking 1 Part.reset with host := [(0, 3), (1, 1), (2, 1), (3, 1)] }
     ({ s with pf := { s.pf with stage := 5, pmBusy := some 0 } } : State).pmDue = some 3) ∧
    (let s := (asking 1 part0).setPart 1 { part0 with sites := [], pchs := [], share := 64 }
     (s.part s.pmReq.part).present = true ∧ s.pmReq.bad = false ∧ (s.part s.pmReq.part).busy = false ∧
       ¬ s.sharesBut s.pmReq.part + s.pmReq.share ≤ 64) := by decide +kernel

/-! ### Windows and the physical function -/

theorem witness_WindowEvents :
    (let r : Rec4 := { w0 := 1, w1 := 0, w2 := 0, w3 := 0 }
     let s := State.reset.setPart 0 { part0 with records := [r], oldestRec := some 0, evcoalNow := 0x100 }
     (s.part 0).records = [r] ∧ (s.part 0).recordDue = true ∧ bits r.w0 7 0 = 1 ∧
       ({ s with now := 2000 } : State).coalDue 0 = true ∧ ({ s with now := 1999 } : State).coalDue 0 = false) ∧
    part0.active = false ∧ ({ part0 with queues := [(0, { Queue.reset with launch := some launch0 })] } : Part).active = true ∧
    part0.present = true ∧ part0.rst = false ∧ 4088 % 8 = 0 ∧ 4092 % 4 = 0 ∧ 4092 / 4096 < part0.gran ∧
    (∀ u ∈ syncWords (granBase (part0.granAt.getD 0 (0, 0))) 8, u ∉ State.reset.syncBad) ∧
    (State.reset.setPart 0 part0).vfPresent 0 = true ∧ State.reset.vfPresent 0 = false ∧ inBam 0x1FE = false ∧
    (¬ (inBam 0x201 = true ∧ ((2 : Nat) = 2 ∨ (2 : Nat) = 4) ∧ 0x201 % 2 = 0)) ∧ Memory.wf State.reset.sync = true ∧
    (State.reset.part 5).present = false := by decide +kernel

theorem witness_DeviceEvents : State.reset.pf.trcUntil = none ∧
    (∀ m, some 0 = some m → m ≤ State.reset.now) ∧
    ({ State.reset with pf := { Pf.reset with trcUntil := some 0 } } : State).pf.trcUntil = some State.reset.now ∧
    ((State.reset.core 0).trace.recs.map (·.1)).Nodup ∧ pageAddr State.reset.pf.dumpbase = 0 ∧
    bits (600 : Word) 15 0 = 600 ∧ bits (1400 : Word) 15 0 = 1400 ∧ (229 : Int) < 230 ∧ (94 : Int) < 95 ∧
    ({ State.reset with pf := { Pf.reset with stage := 5, sampleAt := 0 } } : State).sampleDue = true ∧
    State.reset.sampleDue = false ∧ State.reset.pf.err = 0 ∧
    State.reset.pf.stage < 5 ∧ ({ Pf.reset with stage := 1, bootaddr := 0x1000 } : Pf).stage = 1 ∧
    bits ({ Pf.reset with stage := 1, bootaddr := 0x1000 } : Pf).bootaddr 51 12 ≠ 0 ∧
    bits Pf.reset.bootaddr 51 12 = 0 := by
  refine ⟨rfl, fun m h => ?_, rfl, ?_⟩
  · injection h with h
    exact h ▸ Nat.le_refl 0
  · decide +kernel

/-! ### The whole device -/

theorem witness_EncodeThenDecode : legal (.vadd (vop 5)) = none ∧ legal (.ximm 7 0xFFFFFFFF) = none ∧
    legal (.atomCas ⟨0b11111, true, 63, true, true⟩ 63 63 63) = none := by decide

theorem witness_StepsKeepMemoriesCanonical : Memory.wf (loading 0x1001).host = true ∧
    ((loading 0x1001).cores.all fun e => Memory.wf e.2.spad && Memory.wf e.2.ctx.tile) = true ∧
    goesOn (step (loading 0x1001)) = true ∧ goesOn (step { State.reset with phase := .finish }) = true := by
  decide +kernel

theorem witness_CohortClocksAddUp : (owned 0 0).cohorts = [(0, coh0)] ∧ coh0.w0 = some 0 ∧ coh0.ccyc = 0 ∧
    coh0.held = 0 ∧ (owned 0 0).now = 0 ∧ coh0.st ≠ .starting := by decide

theorem witness_StepsAreEventsOrPhases : (after (exec .dumpcmdGo State.reset)).fatal = some .dumpCommand ∧
    State.reset.fatal = none ∧ State.reset.arrived = some (0, .act .boot) ∧
    ({ State.reset with phase := .release } : State).event = none ∧
    ({ State.reset with phase := .finish } : State).phase = .finish ∧
    ({ guarded Pch.reset 0 with phase := .land } : State).event = some (.refreshFrameBoundary 0) := by decide +kernel

/-- The placed ADDI of the first test, as the statement about steps takes it. -/
theorem witness_StepRunsTheInstruction :
    let s := State.reset.withFetchWord 32 0x10A10005
    let x : Syl := ⟨false, 0x90A10005⟩
    s.fatal = none ∧ s.phase = .issue ∧ s.issuer = some 0 ∧
    (s.core 0).ctx.replay = none ∧ SMap.get? (s.core 0).istore (slotOfLine 0) = some (benchLine 0x10A10005) ∧
    (benchLine 0x10A10005).tag = tagOfLine 0 ∧ (benchLine 0x10A10005).st = .valid ∧
    (benchLine 0x10A10005).bad = false ∧ 4 = x.bytes ∧ x.w = (benchLine 0x10A10005).data.toNat % 2 ^ (8 * 4) ∧
    wideOf x.w = x.wide ∧ stopOf x.w = true ∧ decodeSyl x.wide x.w = .ok (.addi false ⟨0, 4, 0, 5⟩) ∧
    2 ≤ x.cls ∧ x.cls ≤ 7 ∧ (s.core 0).ctx.sres ≤ slotOf x.cls := by decide +kernel

theorem witness_FalseGuardActsNot : guardOf (.add false ⟨16, 1, 2, 3⟩) = some 16 ∧
    (encodeFields (.add false ⟨16, 1, 2, 3⟩)).isSome = true ∧ (broadcasting 0).cur.b ≠ none ∧
    namesB (.add false ⟨16, 1, 2, 3⟩) = false ∧ namesB (.vadd { vop 4 with va := 0x3FF }) = true ∧
    (broadcasting 0).guarded 16 = false ∧ guardOf (.vadd { vop 4 with g := 16 }) = some 16 ∧
    (broadcasting 0).cx.mask 16 = 0 ∧ (encodeFields (.vadd { vop 4 with g := 16 })).isSome = true := by decide

theorem witness_IssueFrame : (encodeFields (.add false ⟨0, 1, 2, 3⟩)).isSome = true ∧
    (after (exec (.add false ⟨0, 1, 2, 3⟩) (bench []))).cur.trapped = false ∧
    (after (exec (.atomAdd ⟨0, false, 2, true, false⟩ 3 4) (bench []))).cur.trapped = false ∧
    (after (exec (.scope 4) (bench []))).cur.trapped = false := by decide

/-- A class 5 operation that changes its bank at issue. -/
theorem witness_IssueFrame_matrix : (encodeFields (.xswap 0 3)).map clsOf = some 5 ∧
    (after (exec (.xswap 0 3) (banked .calibrated id))).cur.trapped = false ∧
    grpAct ((after (exec (.xswap 0 3) (banked .calibrated id))).myBank.grp 3) = true := by decide

/-- R246: staging another line in a slot that is being staged replaces it; the first request goes on. -/
theorem test_replaced_staging :
    let m := putStaging [(0, stagingLine 0 7)] 262144 (stagingLine 262144 8)
    (SMap.get? m 0).map (·.tag) = some 1 ∧ (SMap.get? m 4096).map (lineAddr 4096 ·) = some 0 ∧
    (SMap.get? m 4096).map (·.op) = some 7 := by decide

/-- R135: a scratchpad word that an error strikes is met by the next read. -/
theorem test_upset_word :
    ((State.reset.strike (.word 3 7)).core 3).badWord = [7] ∧ (Upset.word 3 98304).ok = false ∧
    (Upset.word 3 98303).ok = true := by decide

/-- R161: of two products that land together on one element the later-issued is kept: 5 then 7 over 0
leave 7. -/
theorem test_products_together :
    let p := fun (seq : Nat) (v : Int) =>
      ({ land := 0, seq := seq, slot := 0, issued := 0, again := false, flags := fNone, shadow := false,
         eff := .accumulate 1 1 1 [(false, v)] [] [] } : Pend)
    let s := State.reset
    let was := s.ctx 0
    (((s.land1 0 0 false was (p 8 5)).land1 0 0 false was (p 16 7)).ctx 0).word32 4096 = 7 := by decide

end Sys2Proof.Tests
end

section
/-! PROOFS. Partitions (O49). -/

namespace Sys2Proof.Laws

open Sys2Proof Sys2Proof.Machine

/-- The device at power-on with a host memory that is not in canonical form: the entry of byte 8, where the
record's map of pseudo-channels begins, stands behind the entry of a higher address. -/
def unorderedRecord : State := { State.reset with host := [(1000, 1), (8, 1)] }

/-- Read by itself, the first byte of the map at PMADDR grants pseudo-channel 0. -/
theorem unorderedRecord_bit :
    (memGet unorderedRecord.host (bits unorderedRecord.pf.pmaddr 51 3 * 8 + 8)).getLsbD 0 = true := by decide

/-- Read as a run of bytes, as the request reads it, the map grants none. -/
theorem unorderedRecord_pchs : unorderedRecord.pmReq.pchs = [] := by decide +kernel

/-- Refutes O49: its clause about the map of pseudo-channels reads host memory byte by byte (`memGet`), while the
request reads runs of bytes (`hostWord`), and without `Memory.wf s.host`, which the statement does not assume, the
two differ. -/
theorem not_partitionEvents : ¬ Obligations.PartitionEvents := by
  unfold Obligations.PartitionEvents
  intro h
  obtain ⟨⟨-, -, -, -, -, pchs, -⟩, -⟩ := h unorderedRecord 0
  have zero : 0 ∈ unorderedRecord.pmReq.pchs := (pchs 0).mpr ⟨by decide, unorderedRecord_bit⟩
  simp [unorderedRecord_pchs] at zero

end Sys2Proof.Laws
end

section
/-! PROOFS. Untimed work of the copy slots and the instruction store (O37): what leaves every memory as it is, what
a translation does, and what each event of a transfer and of the staging of a line does. -/

namespace Sys2Proof.Laws

open Sys2Proof Sys2Proof.Machine

/-! ## What leaves every byte of memory as it is -/

@[simp] theorem sameMemory_refl (s : State) : SameMemory s s :=
  ⟨fun _ _ => rfl, fun _ _ => rfl, fun _ _ => rfl, fun _ _ => rfl, fun _ => rfl, fun _ => rfl⟩

theorem sameMemory_trans {s t u : State} (h : SameMemory s t) (k : SameMemory t u) : SameMemory s u where
  spad i a := (k.spad i a).trans (h.spad i a)
  tile i a := (k.tile i a).trans (h.tile i a)
  dram p a := (k.dram p a).trans (h.dram p a)
  staged p a := (k.staged p a).trans (h.staged p a)
  sync a := (k.sync a).trans (h.sync a)
  host a := (k.host a).trans (h.host a)

section
variable {s t : State} (h : SameMemory s t)
include h

/-- A state that differs in none of the fields that hold memories. -/
theorem sameMemory_of_fields {u : State} (cores : u.cores = t.cores) (pchs : u.pchs = t.pchs)
    (sync : u.sync = t.sync) (host : u.host = t.host) : SameMemory s u :=
  sameMemory_trans h
    { spad := fun i a => by simp [State.spadByte, State.core, cores]
      tile := fun i a => by simp [State.tileByte, State.ctx, State.core, cores]
      dram := fun p a => by simp [State.dramByte, State.pch, pchs]
      staged := fun p a => by simp [State.stagedByte, State.pch, pchs]
      sync := fun a => by rw [sync]
      host := fun a => by rw [host] }

/-- A change of a core that leaves its scratchpad and its tile file. -/
theorem sameMemory_modCore (i : Nat) (f : Core → Core) (spad : (f (t.core i)).spad = (t.core i).spad)
    (tile : (f (t.core i)).ctx.tile = (t.core i).ctx.tile) : SameMemory s (t.modCore i f) :=
  sameMemory_trans h
    { spad := fun j a => by simp only [State.spadByte, core_modCore]; split <;> simp_all
      tile := fun j a => by simp only [State.tileByte, State.ctx, core_modCore]; split <;> simp_all
      dram := fun _ _ => rfl, staged := fun _ _ => rfl, sync := fun _ => rfl, host := fun _ => rfl }

theorem sameMemory_modUop (i n : Nat) (f : UOp → UOp) : SameMemory s (t.modCore i (·.modUop n f)) :=
  sameMemory_modCore h i _ rfl rfl

theorem sameMemory_modPart (p : Nat) (f : Part → Part) : SameMemory s (t.modPart p f) :=
  sameMemory_of_fields h rfl rfl rfl rfl

theorem sameMemory_setCoh (k : Nat) (c : Cohort) : SameMemory s (t.setCoh k c) :=
  sameMemory_of_fields h rfl rfl rfl rfl

theorem sameMemory_draw : SameMemory s t.draw.2 := sameMemory_of_fields h rfl rfl rfl rfl

end

/-- What holds at the start of a fold of updates and what each of them keeps holds at its end. -/
theorem forAll_keeps {P : State → Prop} {l : List α} {f : α → State → State} {s : State} (h : P s)
    (hf : ∀ x ∈ l, ∀ t, P t → P (f x t)) : P (forAll l s f) := by
  unfold forAll
  induction l generalizing s with
  | nil => exact h
  | cons x l ih => exact ih (hf x (by simp) s h) fun y hy => hf y (by simp [hy])

/-! ## Untimed operations -/

/-- Operation n of core i is there, with a property. -/
def HasOp (t : State) (i n : Nat) (f : UOp → Prop) : Prop := ∃ v ∈ (t.core i).uops, v.n = n ∧ f v

/-- A wall cycle after now, and the draw that it takes. -/
@[simp] theorem later_snd (s : State) : s.later.2 = s.draw.2 := rfl

theorem now_lt_later (s : State) : s.now < s.later.1 := by
  simp only [State.later]; omega

/-- An update of operation n is found at each operation n. -/
theorem mem_modUop {c : Core} {u : UOp} (h : u ∈ c.uops) (f : UOp → UOp) : f u ∈ (c.modUop u.n f).uops := by
  have : (if u.n = u.n then f u else u) ∈ (c.modUop u.n f).uops :=
    List.mem_map_of_mem (f := fun v => if v.n = u.n then f v else v) h
  simpa using this

/-- An operation with a property leaves one with what an update makes of that property. -/
theorem HasOp.modUop {s : State} {i n : Nat} {f g : UOp → Prop} (h : HasOp s i n f) (e : UOp → UOp)
    (hn : ∀ v, (e v).n = v.n) (hg : ∀ v, f v → g (e v)) : HasOp (s.modCore i (·.modUop n e)) i n g := by
  obtain ⟨v, hv, rfl, hf⟩ := h
  exact ⟨e v, by simpa using mem_modUop hv e, hn v, hg v hf⟩

theorem hasOp_self {s : State} {i : Nat} {u : UOp} (h : u ∈ (s.core i).uops) : HasOp s i u.n (· = u) :=
  ⟨u, h, rfl, rfl⟩

/-! ## Walks (R235, R236, R238) -/

theorem leafOf_covers (e level va : Nat) :
    (leafOf e level va).va ≤ va ∧ va < (leafOf e level va).va + (leafOf e level va).size := by
  have pos : 0 < (leafOf e level va).size := by
    simp only [leafOf]; split <;> positivity
  have low : (leafOf e level va).va = va / (leafOf e level va).size * (leafOf e level va).size := rfl
  rw [low]
  have := Nat.div_add_mod' va (leafOf e level va).size
  have := Nat.mod_lt va pos
  omega

theorem walkFrom_covers {host : List Host.Cell} {va level table : Nat} {l : Leaf}
    (h : walkFrom host va level table = .ok l) : l.va ≤ va ∧ va < l.va + l.size := by
  induction level generalizing table with
  | zero =>
    simp only [walkFrom] at h
    split at h
    · cases h
    split at h
    · cases h
    split at h
    · cases h
    · cases h; exact leafOf_covers _ _ _
  | succ n ih =>
    simp only [walkFrom] at h
    split at h
    · cases h
    split at h
    · cases h
    split at h
    · cases h; exact leafOf_covers _ _ _
    · exact ih h

/-- The page that a walk finds holds the address. -/
theorem walk_covers {host : List Host.Cell} {root : Word} {va : Nat} {w x : Bool} {l : Leaf}
    (h : walk host root va w x = .ok l) : l.va ≤ va ∧ va < l.va + l.size := by
  unfold walk at h
  split at h
  · cases h
  split at h
  · cases h
  next m hm =>
    split at h
    · cases h
    split at h
    · cases h
    · cases h; exact walkFrom_covers hm

/-- Picking draws at most. -/
theorem pick_eq (s : State) (l : List α) (d : α) : ∃ n, (s.pick l d).2 = { s with fresh := n } := by
  unfold State.pick
  split
  · exact ⟨s.fresh, rfl⟩
  · exact ⟨s.fresh + 1, rfl⟩

@[simp] theorem pick_singleton (s : State) (x d : α) : s.pick [x] d = (x, s) := rfl

/-- Eviction changes the TLBs and draws, no more. -/
theorem evictTlb_eq (s : State) (die p n : Nat) : ∃ l k, s.evictTlb die p n = { s with tlb := l, fresh := k } := by
  unfold State.evictTlb
  refine forAll_keeps (P := fun t => ∃ l k, t = { s with tlb := l, fresh := k }) ⟨s.tlb, s.fresh, rfl⟩ ?_
  rintro - - t ⟨l, k, rfl⟩
  split
  · exact ⟨l, k, rfl⟩
  · next e r _ =>
    obtain ⟨m, hm⟩ := pick_eq { s with tlb := l, fresh := k } (e :: r) e
    exact ⟨_, m, by dsimp only; rw [hm]⟩

/-- Entering a page changes the TLBs and draws, no more. -/
theorem fill_eq (s : State) (die p : Nat) (g : Leaf) : ∃ l k, s.fill die p g = { s with tlb := l, fresh := k } := by
  unfold State.fill
  dsimp only
  obtain ⟨l, k, h⟩ := evictTlb_eq { s with tlb := s.tlb.filter fun e =>
    !(e.die == die && e.part == p && e.va < g.va + g.size && g.va < e.va + e.size) } die p
    (((s.part p).quotaAt die).2 - 1)
  exact ⟨_, k, by rw [h]⟩

section
variable {s : State} {i : Nat} {u : UOp} {va : Nat} {w x : Bool}

/-- A translation that is not there yet begins a walk. -/
theorem translate_none (h : (s.translate i u va w x).1 = none) :
    (s.translate i u va w x).2 =
      s.draw.2.modCore i (·.modUop u.n fun v => { v with walk := true, ready := s.later.1 }) := by
  cases hit : s.tlbHit (i / 64) (partOf u.coh) va w x with
  | some e => simp [State.translate, hit] at h
  | none =>
    by_cases hw : u.walk
    · simp only [State.translate, hit, hw, if_true] at h
      split at h <;> cases h
    · simp [State.translate, hit, hw]

/-- A translation that has come to its end gives its walk slot back; beyond that it changes the TLBs. -/
theorem translate_some {r : Except Nat Page} (h : (s.translate i u va w x).1 = some r) :
    ∃ l k, (s.translate i u va w x).2 =
      { s.modCore i (·.modUop u.n fun v => { v with walk := false }) with tlb := l, fresh := k } := by
  unfold State.translate at h ⊢
  dsimp only at h ⊢
  split
  · exact ⟨s.tlb, s.fresh, rfl⟩
  · split
    · split
      · exact ⟨s.tlb, s.fresh, rfl⟩
      · exact fill_eq _ _ _ _
    · simp_all

/-- The translated page holds the address. -/
theorem translate_has {g : Page} (h : (s.translate i u va w x).1 = some (.ok g)) : g.has va = true := by
  unfold State.translate at h
  dsimp only at h
  split at h
  next e he =>
    cases h
    have := List.find?_some he
    simp only [Bool.and_eq_true, decide_eq_true_eq] at this
    simp [Page.has, this]
  next =>
    split at h
    · split at h
      · cases h
      next l hl =>
        cases h
        simp [Page.has, walk_covers hl]
    · cases h

end

section
variable {s : State} {i : Nat} {u : UOp} {va : Nat} {w x : Bool} (hu : u ∈ (s.core i).uops)
include hu

theorem translate_waits (h : (s.translate i u va w x).1 = none) :
    SameMemory s (s.translate i u va w x).2 ∧
      HasOp (s.translate i u va w x).2 i u.n fun v => v.walk = true ∧ s.now < v.ready := by
  rw [translate_none h]
  exact ⟨sameMemory_modUop (sameMemory_draw (sameMemory_refl s)) _ _ _,
    HasOp.modUop (s := s.draw.2) (hasOp_self hu) _ (fun _ => rfl) fun _ _ => ⟨rfl, now_lt_later s⟩⟩

theorem translate_ends {r : Except Nat Page} (h : (s.translate i u va w x).1 = some r) :
    let t := (s.translate i u va w x).2
    SameMemory s t ∧ t.now = s.now ∧ (∀ p, t.part p = s.part p) ∧ (t.core i).istore = (s.core i).istore ∧
      HasOp t i u.n fun v => v.pages = u.pages ∧ v.todo = u.todo := by
  have lines : ((s.modCore i (·.modUop u.n fun v => { v with walk := false })).core i).istore =
      (s.core i).istore := by
    rw [core_modCore_same]
    rfl
  obtain ⟨l, k, e⟩ := translate_some h
  rw [e]
  refine ⟨sameMemory_of_fields (sameMemory_modUop (sameMemory_refl s) _ _ _) rfl rfl rfl rfl, rfl, fun _ => rfl,
    lines, ?_⟩
  exact HasOp.modUop (s := s) (hasOp_self hu) (fun v => { v with walk := false }) (fun _ => rfl)
    fun v hv => by subst hv; exact ⟨rfl, rfl⟩

end

/-- R239: a translation fault stops its operation and waits for its place on the ring. -/
theorem transFault_waits {s : State} {i : Nat} {u : UOp} {f : UOp → Prop} (va k src ch id : Nat)
    (h : HasOp s i u.n f) (hd : (s.part (partOf u.coh)).dying = false) :
    SameMemory s (s.transFault i u va k src ch id) ∧
      HasOp (s.transFault i u va k src ch id) i u.n (fun v => v.stage = .faulted) ∧
      ∃ y : Retry, ((s.transFault i u va k src ch id).part (partOf u.coh)).retries =
          (s.part (partOf u.coh)).retries ++ [y] ∧ y.tag = none ∧ y.va = va ∧ y.kind = k ∧ y.src = src ∧
        y.who = ⟨i, u.n⟩ ∧ y.coh = u.coh ∧ y.ch = ch ∧ y.id = id := by
  simp only [State.transFault, hd, Bool.false_eq_true, if_false]
  refine ⟨sameMemory_modPart (sameMemory_modUop (sameMemory_refl s) _ _ _) _ _, ?_, _,
    congrArg Part.retries (part_modPart_same _ _ _), rfl, rfl, rfl, rfl, rfl, rfl, rfl, rfl⟩
  exact h.modUop (fun v => { v with stage := .faulted }) (fun _ => rfl) fun _ _ => rfl

/-- R238, R239: event e of operation u of core i translates the page of an address: it begins a walk, or finds the
page and goes on with f, or meets a fault. -/
def Walks (s : State) (i : Nat) (e : Instr) (u : UOp) (va : Nat) (w x : Bool) (src ch id : Nat)
    (f : UOp → Prop) : Prop :=
  ((s.translate i u va w x).1 = none → ∃ t, exec e s = .next t ∧ SameMemory s t ∧
    HasOp t i u.n fun v => v.walk = true ∧ s.now < v.ready) ∧
  (∀ g, (s.translate i u va w x).1 = some (.ok g) → ∃ t, exec e s = .next t ∧ SameMemory s t ∧
    HasOp t i u.n fun v => v.pages = u.pages ++ [g] ∧ f v) ∧
  ∀ k, (s.translate i u va w x).1 = some (.error k) → (s.part (partOf u.coh)).dying = false →
    ∃ t, exec e s = .next t ∧ SameMemory s t ∧ (HasOp t i u.n fun v => v.stage = .faulted) ∧
      ∃ y : Retry, (t.part (partOf u.coh)).retries = (s.part (partOf u.coh)).retries ++ [y] ∧
        y.tag = none ∧ y.va = va ∧ y.kind = k ∧ y.src = src ∧ y.who = ⟨i, u.n⟩ ∧ y.coh = u.coh ∧ y.ch = ch ∧
        y.id = id

theorem walks_of_exec {s : State} {i : Nat} {e : Instr} {u : UOp} {va : Nat} {w x : Bool} {src ch id : Nat}
    {f : UOp → Prop} (hu : u ∈ (s.core i).uops)
    (waits : (s.translate i u va w x).1 = none → exec e s = .next (s.translate i u va w x).2)
    (found : ∀ g, (s.translate i u va w x).1 = some (.ok g) → ∃ t, exec e s = .next t ∧ SameMemory s t ∧
      HasOp t i u.n fun v => v.pages = u.pages ++ [g] ∧ f v)
    (faults : ∀ k, (s.translate i u va w x).1 = some (.error k) →
      exec e s = .next ((s.translate i u va w x).2.transFault i u va k src ch id)) :
    Walks s i e u va w x src ch id f := by
  refine ⟨fun h => ⟨_, waits h, translate_waits hu h⟩, found, fun k h hd => ⟨_, faults k h, ?_⟩⟩
  obtain ⟨memory, -, parts, -, op⟩ := translate_ends hu h
  obtain ⟨memory', stage, ring⟩ := transFault_waits va k src ch id op ((parts _).symm ▸ hd)
  exact ⟨sameMemory_trans memory memory', stage, by rwa [parts] at ring⟩

/-! ## Transfers (R244, R245) -/

/-- Every byte of a row lies in one of its pieces, and a piece stays in one unit and one page. -/
theorem splitRow_covers {f va sa n b : Nat} (hf : n ≤ f) (hb : b < n) :
    ∃ p ∈ splitRow f va sa n, p.1 ≤ va + b ∧ va + b < p.1 + p.2.2 ∧ p.2.1 + (va + b - p.1) = sa + b ∧
      p.2.1 % 32 + p.2.2 ≤ 32 ∧ p.1 % 4096 + p.2.2 ≤ 4096 := by
  induction f generalizing va sa n b with
  | zero => omega
  | succ f ih =>
    simp only [splitRow, if_neg (by omega : ¬ n = 0)]
    generalize hm : min n (min (32 - sa % 32) (4096 - va % 4096)) = m
    by_cases h : b < m
    · exact ⟨(va, sa, m), by simp, by simp, by simpa using h, by simp, by dsimp only; omega,
        by dsimp only; omega⟩
    · obtain ⟨p, hp, lo, hi, at_, unit, page⟩ := ih (va := va + m) (sa := sa + m) (n := n - m) (b := b - m)
        (by omega) (by omega)
      exact ⟨p, by simp [hp], by omega, by omega, by omega, unit, page⟩

theorem xfrWith_spec {s : State} {i ch id : Nat} {f : UOp → Bool} {u : UOp} (h : s.xfrWith i ch id f = some u) :
    u ∈ (s.core i).uops ∧ f u = true := by
  refine ⟨List.mem_of_find?_eq_some h, ?_⟩
  have := List.find?_some h
  split at this
  · simp_all
  · cases this

theorem exec_xfrBegin (i ch id : Nat) (s : State) : exec (.xfrBegin i ch id) s = .next (s.beginXfr i ch id) := by
  rfl

theorem exec_untimedPortAccess (i ch id : Nat) (s : State) :
    exec (.untimedPortAccess i ch id) s = .next (s.moveUnit i ch id) := by rfl

theorem exec_xfrComplete (i ch id : Nat) (s : State) :
    exec (.xfrComplete i ch id) s = .next (s.completeXfr i ch id) := by rfl

section
variable {s : State} {i ch id T sa va : Nat} {ly : Word} {get : Bool} {u : UOp}
  (hk : u.kind = .xfr get ch id T sa va ly)
include hk

theorem canBegin_iff : s.canBegin i u = true ↔ s.clockAt i u.coh T = true ∧ (s.core i).mayBegin u = true := by
  simp [State.canBegin, hk]

theorem xfrBegin_runs (hx : s.xfrWith i ch id (s.canBegin i) = some u) :
    ∃ t, exec (.xfrBegin i ch id) s = .next t ∧ SameMemory s t ∧
      HasOp t i u.n fun v => v.stage = .running ∧ v.todo = xfrPieces sa va ly ∧ s.now < v.ready := by
  have run : exec (.xfrBegin i ch id) s = .next (s.draw.2.modCore i (·.modUop u.n fun x =>
      { x with stage := .running, todo := xfrPieces sa va ly, ready := s.later.1 })) := by
    simp [exec_xfrBegin, State.beginXfr, hx, hk]
  refine ⟨_, run, sameMemory_modUop (sameMemory_draw (sameMemory_refl s)) _ _ _, ?_⟩
  exact HasOp.modUop (s := s.draw.2) (hasOp_self (xfrWith_spec hx).1) _ (fun _ => rfl)
    fun _ _ => ⟨rfl, rfl, now_lt_later s⟩

/-- R238: a transfer that wants a page translates the lowest. -/
theorem xfr_walks (hx : s.xfrWith i ch id (s.canMove i) = some u) (hw : u.wantsPage = true) :
    Walks s i (.untimedPortAccess i ch id) u (lowest u.todo) (!get) false (if get then 1 else 2) ch id
      fun v => v.todo = u.todo := by
  have run : exec (.untimedPortAccess i ch id) s = .next (s.nextPage i u get ch id) := by
    simp [exec_untimedPortAccess, State.moveUnit, hx, hk, hw]
  have hu := (xfrWith_spec hx).1
  refine walks_of_exec hu (fun h => ?_) (fun g h => ⟨_, run, ?_⟩) (fun k h => ?_)
  · simp [run, State.nextPage, h]
  · obtain ⟨memory, -, -, -, op⟩ := translate_ends hu h
    simp only [State.nextPage, h, later_snd]
    refine ⟨sameMemory_modUop (sameMemory_draw memory) _ _ _, ?_⟩
    exact HasOp.modUop (s := (State.translate ..).2.draw.2) op _ (fun _ => rfl) fun v hv => by simp [UOp.addPage, hv]
  · simp [run, State.nextPage, h]

/-- R16: a get moves a piece only while its partition's turn has bytes left. -/
theorem get_in_turn (hx : s.xfrWith i ch id (s.canMove i) = some u) (hw : u.wantsPage = false) (hg : get = true)
    (hs : (s.part (partOf u.coh)).share ≠ 0) :
    (s.part (partOf u.coh)).linkUsed s.now false < 1024 * (s.part (partOf u.coh)).share := by
  have some_piece : s.movable i u true ≠ [] := by
    have := (xfrWith_spec hx).2
    simp_all [State.canMove]
  obtain ⟨p, hp⟩ := List.exists_mem_of_ne_nil _ some_piece
  have := (List.mem_filter.mp hp).2
  split at this
  · cases this
  · simp only [if_true, State.linkOpen, Part.linkOpen, Bool.and_eq_true, Bool.or_eq_true, beq_iff_eq, hs,
      false_or] at this
    exact of_decide_eq_true this.1.2

/-- R254: a put that begins to write overlaps no write that the engine has still to deliver. -/
theorem owes_none_of_canComplete (hc : s.canComplete i u = true) (hg : get = false) (hs : u.stage = .running) :
    ∀ b ∈ u.held, (s.core i).owes u b.1 1 = false := by
  simp [State.canComplete, hk, hg, hs] at hc
  exact fun b hb => hc.2.2 b.1 b.2 hb

end

/-! ## Bytes of a piece -/

theorem placed_cons (a : Nat) (b : Byte) (l : List Byte) : placed a (b :: l) = (a, b) :: placed (a + 1) l := by
  simp only [placed, List.length_cons, List.range_succ_eq_map, List.zip_cons_cons, List.map_cons, List.zip_map_left,
    List.map_map, Nat.add_zero, List.cons.injEq, true_and]
  refine List.map_congr_left fun e _ => ?_
  simp [Nat.add_comm, Nat.add_left_comm]

theorem memPuts_placed (m : List Host.Cell) (a : Nat) (l : List Byte) : memPuts m (placed a l) = memPut m a l := by
  induction l generalizing m a with
  | nil => rfl
  | cons b l ih => rw [placed_cons]; exact ih _ _

/-- A run of bytes inside a run of bytes. -/
theorem memBytes_sub {m : List Host.Cell} (hm : Memory.wf m = true) {a n o k : Nat} (h : o + k ≤ n) :
    ((memBytes m a n).drop o).take k = memBytes m (a + o) k := by
  have len : (((memBytes m a n).drop o).take k).length = k := by simp; omega
  refine List.ext_getElem (by rw [len, memBytes_length]) fun j hj _ => ?_
  have hk : j < k := len ▸ hj
  have outer := memBytes_getD a n (o + j) (by omega) hm
  have inner := memBytes_getD (a + o) k j hk hm
  rw [List.getD_eq_getElem _ _ (by simp; omega)] at outer inner
  simp only [List.getElem_take, List.getElem_drop]
  rw [outer, inner, Nat.add_assoc]

/-- What an update of the core's scratchpad bytes by a run of them leaves. -/
theorem memGet_put_placed (c : Core) (a x : Nat) (l : List Byte) :
    memGet (c.put (placed a l)).spad x = if a ≤ x ∧ x < a + l.length then l.getD (x - a) 0 else memGet c.spad x := by
  rw [Core.put, memPuts_placed, memGet_put]
  rfl

/-- The byte that a get reads at k of a piece: the one it read ahead, or host memory's. -/
theorem sees_getD {u : UOp} {host : List Host.Cell} (hm : Memory.wf host = true) (p : Nat × Nat × Nat) (pa : Nat)
    {k : Nat} (hk : k < p.2.2) : (u.sees host p pa).getD k 0 =
      ((u.ahead.find? fun e => e.1 == p.1 + k && e.2.1 == p.2.1 + k).map (·.2.2)).getD (memGet host (pa + k)) := by
  have byte := memBytes_getD pa p.2.2 k hk hm
  rw [List.getD_eq_getElem _ _ (by simpa using hk)] at byte
  rw [List.getD_eq_getElem _ _ (by simpa [UOp.sees] using hk)]
  simp [UOp.sees, byte]

@[simp] theorem sees_length (u : UOp) (host : List Host.Cell) (p : Nat × Nat × Nat) (pa : Nat) :
    (u.sees host p pa).length = p.2.2 := by simp [UOp.sees]

/-- R253: where a piece begins inside a word, the bytes of its first and last word that lie in the other pieces of
its row are read with it. -/
theorem mem_readAhead {u : UOp} {host : List Host.Cell} {p q : Nat × Nat × Nat} {pa k : Nat} (hp : p.1 % 4 ≠ 0)
    (hq : q ∈ u.todo) (hne : q ≠ p) (row : q.1 + p.2.1 = p.1 + q.2.1) (hk : k < q.2.2)
    (word : (q.1 + k) / 4 = p.1 / 4 ∨ (q.1 + k) / 4 = (p.1 + p.2.2 - 1) / 4) :
    (q.1 + k, q.2.1 + k, memGet host (pa + q.1 + k - p.1)) ∈ (u.readAhead host p pa).ahead := by
  simp only [UOp.readAhead, hp, decide_false, Bool.false_and, Bool.false_eq_true, if_false, List.mem_append]
  refine .inr (List.mem_flatten.mpr ⟨_, List.mem_map_of_mem (List.mem_filter.mpr ⟨hq, by simp [hne, row]⟩), ?_⟩)
  exact List.mem_filterMap.mpr ⟨k, List.mem_range.mpr hk, by simp [word, Nat.add_assoc]⟩

/-! ## The untimed port (R139, R245) -/

theorem linkUsed_linkCount (x : Part) (now inb outb : Nat) (out : Bool) :
    (x.linkCount now inb outb).linkUsed now out = x.linkUsed now out + if out then outb else inb := by
  cases out <;> simp [Part.linkUsed, Part.linkCount]

theorem serves_of_liveCoh {s : State} {i k : Nat} (h : s.liveCoh i k = true) : (s.core i).serves k = true := by
  simp only [State.liveCoh, State.cohOf, beq_iff_eq] at h
  unfold Core.serves
  split at h <;> simp_all

theorem evictedAt_of_serves {c : Core} {k : Nat} (h : c.serves k = true) (a : Nat) : c.evictedAt k a = none := by
  simp [Core.evictedAt, h]

@[simp] theorem modUop_run (c : Core) (n : Nat) (f : UOp → UOp) : (c.modUop n f).run = c.run := rfl

theorem cohOf_modCore {s : State} {i : Nat} {f : Core → Core} (h : (f (s.core i)).run = (s.core i).run) (j : Nat) :
    (s.modCore i f).cohOf j = s.cohOf j := by
  have run : ((s.modCore i f).core j).run = (s.core j).run := by
    rw [core_modCore]
    split
    · next e => rw [h, e]
    · rfl
  rw [State.cohOf, run]
  rfl

/-- A delivery of a live cohort outside a replay enters the scratchpad; what is left is in the context. -/
theorem untimedWrite_live {s : State} {i k : Nat} (hl : s.liveCoh i k = true) (hr : (s.ctx i).replay = none)
    (a : Nat) (b : List Byte) :
    ∃ f, s.untimedWrite i k a b = (s.modCore i (·.put (placed a b))).modCtx i f := by
  have store : s.modCore i (·.untimedStore k a b) = s.modCore i (·.put (placed a b)) := by
    simp [State.modCore, Core.untimedStore, evictedAt_of_serves (serves_of_liveCoh hl)]
  refine ⟨fun c => (c.log (s.seenFrom i) (.delivery (s.seenFrom i) (placed a b) none none)).overwrite
    (placed a b), ?_⟩
  simp only [State.untimedWrite, hl, hr, store, Bool.not_true, Bool.false_eq_true, if_false]

/-- A piece of operation u takes the untimed port of its bank. -/
def throughPort (s : State) (i : Nat) (u : UOp) (p : Nat × Nat × Nat) : State :=
  s.modCore i fun c =>
    { c.modUop u.n (·.moved p s.now) with portBusy := bankOfUnit (p.2.1 / 32) :: c.portBusy }

section
variable {s : State} {i : Nat} {u : UOp} (p : Nat × Nat × Nat)

theorem sameMemory_throughPort : SameMemory s (throughPort s i u p) :=
  sameMemory_modCore (sameMemory_refl s) _ _ rfl rfl

theorem throughPort_busy : bankOfUnit (p.2.1 / 32) ∈ ((throughPort s i u p).core i).portBusy := by
  simp [throughPort]

theorem throughPort_op (hu : u ∈ (s.core i).uops) : HasOp (throughPort s i u p) i u.n (· = u.moved p s.now) :=
  ⟨u.moved p s.now, by simpa [throughPort] using mem_modUop hu (·.moved p s.now), rfl, rfl⟩

end

/-- The state in which a get's piece enters the scratchpad: its port is taken, what is read ahead is kept and the
traffic is counted. -/
def getPort (s : State) (i : Nat) (u : UOp) (p : Nat × Nat × Nat) (pa : Nat) : State :=
  ((throughPort s i u p).modCore i (·.modUop u.n fun x => { x with ahead := (u.readAhead s.host p pa).ahead })).link
    u.coh p.2.2 0

section
variable {s : State} {i : Nat} {u : UOp} {p : Nat × Nat × Nat} {pa : Nat}

theorem movePiece_get : s.movePiece i u true p pa =
    (getPort s i u p pa).untimedWrite i u.coh p.2.1 (u.sees s.host p pa) := rfl

theorem getPort_ctx : (getPort s i u p pa).ctx i = s.ctx i := by
  simp [getPort, throughPort, State.link, State.ctx, Core.modUop]

@[simp] theorem getPort_host : (getPort s i u p pa).host = s.host := rfl

theorem getPort_spad : ((getPort s i u p pa).core i).spad = (s.core i).spad := by
  simp [getPort, throughPort, State.link, Core.modUop]

theorem getPort_busy : bankOfUnit (p.2.1 / 32) ∈ ((getPort s i u p pa).core i).portBusy := by
  simp [getPort, throughPort, State.link, Core.modUop]

theorem getPort_cohOf : (getPort s i u p pa).cohOf i = s.cohOf i := by
  simp [getPort, throughPort, State.link, cohOf_modCore]

theorem getPort_op (hu : u ∈ (s.core i).uops) :
    HasOp (getPort s i u p pa) i u.n fun v => v.ahead = (u.readAhead s.host p pa).ahead :=
  (throughPort_op p hu).modUop (fun x => { x with ahead := (u.readAhead s.host p pa).ahead }) (fun _ => rfl)
    fun _ _ => rfl

theorem getPort_part : (getPort s i u p pa).part (partOf u.coh) =
    (s.part (partOf u.coh)).linkCount s.now p.2.2 0 := by
  simp [getPort, throughPort, State.link]

end

section
variable {s : State} {i ch id T sa va : Nat} {ly : Word} {get : Bool} {u : UOp} {p : Nat × Nat × Nat} {pa : Nat}

theorem exec_movePiece (hk : u.kind = .xfr get ch id T sa va ly) (hx : s.xfrWith i ch id (s.canMove i) = some u)
    (hw : u.wantsPage = false) (hm : s.movable i u get = [p]) (hp : u.phys p.1 = some pa) :
    exec (.untimedPortAccess i ch id) s = .next (s.movePiece i u get p pa) := by
  simp [exec_untimedPortAccess, State.moveUnit, hk, hx, hw, hm, hp]

/-- R245, R253, R16: a get moves a piece into the scratchpad. -/
theorem get_moves (hu : u ∈ (s.core i).uops) (hl : s.liveCoh i u.coh = true) (hr : (s.ctx i).replay = none)
    (hh : Memory.wf s.host = true) :
    let t := s.movePiece i u true p pa
    (∀ a, t.spadByte i a = if p.2.1 ≤ a ∧ a < p.2.1 + p.2.2 then
        ((u.ahead.find? fun e => e.1 == p.1 + (a - p.2.1) && e.2.1 == a).map (·.2.2)).getD
          (memGet s.host (pa + (a - p.2.1)))
      else s.spadByte i a) ∧
    t.host = s.host ∧ bankOfUnit (p.2.1 / 32) ∈ (t.core i).portBusy ∧
    (p.1 % 4 ≠ 0 → 0 < p.2.2 → HasOp t i u.n fun v =>
      ∀ q ∈ u.todo, q ≠ p → q.1 + p.2.1 = p.1 + q.2.1 → ∀ k < q.2.2,
        (q.1 + k) / 4 = p.1 / 4 ∨ (q.1 + k) / 4 = (p.1 + p.2.2 - 1) / 4 →
        (q.1 + k, q.2.1 + k, memGet s.host (pa + q.1 + k - p.1)) ∈ v.ahead) ∧
    ∀ dir, (t.part (partOf u.coh)).linkUsed s.now dir = (s.part (partOf u.coh)).linkUsed s.now dir +
      if dir then 0 else p.2.2 := by
  have live : (getPort s i u p pa).liveCoh i u.coh = true := by rw [State.liveCoh, getPort_cohOf]; exact hl
  obtain ⟨f, hf⟩ := untimedWrite_live live (by rw [getPort_ctx, hr]) p.2.1 (u.sees s.host p pa)
  rw [movePiece_get, hf]
  refine ⟨fun a => ?_, by simp, ?_, fun h4 _ => ?_, fun dir => ?_⟩
  · simp only [State.spadByte, core_modCtx_same, core_modCore_same, memGet_put_placed, sees_length, getPort_spad]
    split
    · next h => rw [sees_getD hh _ _ (by omega), Nat.add_sub_cancel' h.1]
    · rfl
  · simpa [Core.put] using getPort_busy
  · obtain ⟨v, hv, hn, ahead⟩ := getPort_op (p := p) (pa := pa) hu
    refine ⟨v, by simpa [Core.put] using hv, hn, fun q hq hne row k hk word => ?_⟩
    rw [ahead]
    exact mem_readAhead h4 hq hne row hk word
  · rw [modCtx_part_read, modCore_part_read, getPort_part, linkUsed_linkCount]

end

/-- Some piece of a transfer that lies in a unit touches an uncorrectable word of core i (R135, R245). -/
def MeetsBadWord (s : State) (i : Nat) (u : UOp) (unit : Nat) : Prop :=
  ∃ q ∈ u.todo, q.2.1 / 32 = unit ∧ ∃ x ∈ wordsOf q.2.1 q.2.2, x ∈ (s.core i).badWord

section
variable {s : State} {i : Nat} {u : UOp} {p : Nat × Nat × Nat} {pa : Nat}

theorem meetsBadWord_iff (hl : s.liveCoh i u.coh = true) (unit : Nat) :
    ((u.todo.filter fun q => q.2.1 / 32 == unit).any fun q =>
      (wordsOf q.2.1 q.2.2).any ((s.core i).badAt u.coh q.2.1).contains) = true ↔ MeetsBadWord s i u unit := by
  simp [MeetsBadWord, Core.badAt, evictedAt_of_serves (serves_of_liveCoh hl)]

theorem movePiece_put_kept {b : List Byte} (h : SMap.get? u.units (p.2.1 / 32) = some b) :
    s.movePiece i u false p pa = s.modCore i (·.modUop u.n fun x => (x.moved p s.now).takeFrom p pa b) := by
  simp [State.movePiece, h]

theorem movePiece_put_read (hl : s.liveCoh i u.coh = true) (h : SMap.get? u.units (p.2.1 / 32) = none)
    (hb : ¬ MeetsBadWord s i u (p.2.1 / 32)) : s.movePiece i u false p pa =
      (throughPort s i u p).modCore i (·.modUop u.n
        (·.takeFrom p pa (memBytes (s.core i).spad (32 * (p.2.1 / 32)) 32))) := by
  rw [← meetsBadWord_iff hl] at hb
  simp only [State.movePiece, h, hb, Bool.false_eq_true, if_false, Core.untimedRead,
    evictedAt_of_serves (serves_of_liveCoh hl)]
  rfl

theorem movePiece_put_bad (hl : s.liveCoh i u.coh = true) (h : SMap.get? u.units (p.2.1 / 32) = none)
    (hb : MeetsBadWord s i u (p.2.1 / 32)) : s.movePiece i u false p pa =
      (throughPort s i u p).modCore i (·.modUop u.n fun x => { x with failed := true, todo := [] }) := by
  rw [← meetsBadWord_iff hl] at hb
  simp only [State.movePiece, h, hb, Bool.false_eq_true, if_false, if_true]
  rfl

/-- R139, R245: the first piece of a unit reads it through the port. -/
theorem put_reads (hu : u ∈ (s.core i).uops) (hl : s.liveCoh i u.coh = true) (hp : p.2.1 % 32 + p.2.2 ≤ 32)
    (h : SMap.get? u.units (p.2.1 / 32) = none) (hs : Memory.wf (s.core i).spad = true)
    (hb : ¬ MeetsBadWord s i u (p.2.1 / 32)) :
    let t := s.movePiece i u false p pa
    SameMemory s t ∧ bankOfUnit (p.2.1 / 32) ∈ (t.core i).portBusy ∧
    HasOp t i u.n fun v => v.held = u.held ++ placed pa (memBytes (s.core i).spad p.2.1 p.2.2) ∧
      ((∃ q ∈ u.todo.erase p, q.2.1 / 32 = p.2.1 / 32) →
        SMap.get? v.units (p.2.1 / 32) = some (memBytes (s.core i).spad (32 * (p.2.1 / 32)) 32)) := by
  rw [movePiece_put_read hl h hb]
  refine ⟨sameMemory_modUop (sameMemory_throughPort p) _ _ _, ?_, ?_⟩
  · simpa [Core.modUop] using throughPort_busy (s := s) (i := i) (u := u) p
  · refine (throughPort_op p hu).modUop _ (fun _ => rfl) fun v hv => ?_
    subst hv
    constructor
    · simp only [UOp.takeFrom, memBytes_sub hs hp, Nat.div_add_mod]
      rfl
    · rintro ⟨q, hq, unit⟩
      have more : ((u.moved p s.now).todo.any fun q => q.2.1 / 32 == p.2.1 / 32) = true :=
        List.any_eq_true.mpr ⟨q, hq, by simp [unit]⟩
      simp [UOp.takeFrom, more]

/-- R245 (log 25): a put that meets an uncorrectable word drops what it has still to move. -/
theorem put_fails (hu : u ∈ (s.core i).uops) (hl : s.liveCoh i u.coh = true)
    (h : SMap.get? u.units (p.2.1 / 32) = none) (hb : MeetsBadWord s i u (p.2.1 / 32)) :
    let t := s.movePiece i u false p pa
    SameMemory s t ∧ HasOp t i u.n fun v => v.failed = true ∧ v.todo = [] := by
  rw [movePiece_put_bad hl h hb]
  exact ⟨sameMemory_modUop (sameMemory_throughPort p) _ _ _,
    (throughPort_op p hu).modUop (fun x => { x with failed := true, todo := [] }) (fun _ => rfl)
      fun _ _ => ⟨rfl, rfl⟩⟩

/-- R245: a further piece of a unit takes its bytes as the first one read them, without the port. -/
theorem put_takes_kept (hu : u ∈ (s.core i).uops) {b : List Byte} (h : SMap.get? u.units (p.2.1 / 32) = some b) :
    let t := s.movePiece i u false p pa
    SameMemory s t ∧ (t.core i).portBusy = (s.core i).portBusy ∧
    HasOp t i u.n fun v => v.held = u.held ++ placed pa ((b.drop (p.2.1 % 32)).take p.2.2) := by
  rw [movePiece_put_kept h]
  refine ⟨sameMemory_modUop (sameMemory_refl s) _ _ _, by simp [Core.modUop], ?_⟩
  exact (hasOp_self hu).modUop _ (fun _ => rfl) fun v hv => by subst hv; rfl

end

/-! ## Completion (R242, R254) -/

theorem completeAt_atSys {u : UOp} (h : u.stage = .atSys) (scope : Nat) : u.completeAt scope = true := by
  simp [UOp.completeAt, h]

/-- With every operation complete, DONE is NEXT. -/
theorem doneOf_of_complete {ops : List UOp} (h : ∀ v ∈ ops, v.completeAt v.scope = true) (ch : Nat)
    (done next : Half) : doneOf ops ch done next = next := by
  unfold doneOf
  dsimp only
  rw [List.filterMap_eq_nil_iff.mpr]
  intro v hv
  split
  · simp [h v hv]
  · rfl

theorem bits_low (w : Word) : bits w 31 0 = (w.truncate 32).toNat := by
  simp [bits, BitVec.toNat_setWidth]

theorem getElem_ones {k : Nat} (hk : k < 32) : (4294967295#32 : Half)[k] = true :=
  (BitVec.getElem_allOnes k hk : (BitVec.allOnes 32)[k] = true)

theorem truncate_setBits_low (w : Word) (v : Nat) : (setBits w 31 0 v).truncate 32 = BitVec.ofNat 32 v := by
  ext k hk
  simp [setBits, getElem_ones hk]

theorem truncate_setBits_high (w : Word) (v : Nat) : (setBits w 47 32 v).truncate 32 = w.truncate 32 := by
  ext k hk
  simp [setBits, getElem_ones hk]

/-- XDONE of a channel, once every operation is complete: what NEXT was. -/
theorem xdone_passDone (c : Ctx) {ops : List UOp} (h : ∀ v ∈ ops, v.completeAt v.scope = true) (ch : Nat)
    (failed : Option Nat) :
    bits (SMap.get (c.passDone ops ch failed).xdone 0 ch) 31 0 = bits (SMap.get c.xnext 0 ch) 31 0 := by
  cases failed <;>
    simp [Ctx.passDone, doneOf_of_complete h, bits_low, truncate_setBits_low, truncate_setBits_high]

theorem modLaunchOf_core (s : State) (k i : Nat) (f : Launch → Launch) : (s.modLaunchOf k f).core i = s.core i := by
  unfold State.modLaunchOf
  split <;> rfl

theorem modLaunchOf_host (s : State) (k : Nat) (f : Launch → Launch) : (s.modLaunchOf k f).host = s.host := by
  unfold State.modLaunchOf
  split <;> rfl

@[simp] theorem modOf_uops (c : Core) (k : Nat) (f : Ctx → Ctx) : (c.modOf k f).uops = c.uops := by
  unfold Core.modOf
  split <;> rfl

theorem modOf_ctx {c : Core} {k : Nat} (h : c.serves k = true) (f : Ctx → Ctx) : (c.modOf k f).ctx = f c.ctx := by
  simp [Core.modOf, h]

/-- Operation u as its next step towards completion leaves it. -/
def stepped (s : State) (u : UOp) (get : Bool) : UOp :=
  { u with stage := u.advance get, ready := s.later.1, held := if u.stage == .atCore then [] else u.held }

/-- The failed transfer that this step completes. -/
def failedBy (s : State) (u : UOp) (get : Bool) (id : Nat) : Option Nat :=
  if (stepped s u get).completeAt u.scope && !u.completeAt u.scope && u.failed then some id else none

/-- The core after the step, with XDONE of the channel brought up to date. -/
def passed (s : State) (u : UOp) (get : Bool) (ch id : Nat) (c : Core) : Core :=
  (c.modUop u.n fun _ => stepped s u get).modOf u.coh fun x =>
    x.passDone ((c.modUop u.n fun _ => stepped s u get).opsOf u.coh) ch (failedBy s u get id)

/-- The host's side of the step: what the engine holds goes out. -/
def delivered (s : State) (u : UOp) : State :=
  if u.stage == .atCore then { s.draw.2 with host := memPuts s.host u.held }.link u.coh 0 u.held.length
  else s.draw.2

theorem delivered_core (s : State) (u : UOp) (i : Nat) : (delivered s u).core i = s.core i := by
  unfold delivered
  split <;> rfl

theorem delivered_host (s : State) (u : UOp) :
    (delivered s u).host = if u.stage = .atCore then memPuts s.host u.held else s.host := by
  unfold delivered
  by_cases h : u.stage = .atCore <;> simp [h, State.link]

section
variable {s : State} {i ch id T sa va : Nat} {ly : Word} {get : Bool} {u : UOp}
  (hk : u.kind = .xfr get ch id T sa va ly) (hx : s.xfrWith i ch id (s.canComplete i) = some u)
include hk hx

theorem completeXfr_eq : s.completeXfr i ch id =
    if (failedBy s u get id).isSome then
      ((delivered s u).modCore i (passed s u get ch id)).modLaunchOf u.coh fun l => { l with fxfr := l.fxfr + 1 }
    else (delivered s u).modCore i (passed s u get ch id) := by
  unfold State.completeXfr
  rw [hx]
  dsimp only
  split
  · next e =>
    cases hk.symm.trans e
    rfl
  · next e => exact absurd hk (e _ _ _ _ _ _ _)

theorem completeXfr_core : (s.completeXfr i ch id).core i = passed s u get ch id (s.core i) := by
  rw [completeXfr_eq hk hx]
  split <;> simp [modLaunchOf_core, delivered_core]

theorem completeXfr_host : (s.completeXfr i ch id).host =
    if u.stage = .atCore then memPuts s.host u.held else s.host := by
  rw [completeXfr_eq hk hx, ← delivered_host]
  split <;> simp [modLaunchOf_host]

/-- R242, R254: a step towards completion. -/
theorem xfr_completes : ∃ t, exec (.xfrComplete i ch id) s = .next t ∧
    (HasOp t i u.n fun v => v.stage = u.advance get) ∧
    t.host = (if u.stage = .atCore then memPuts s.host u.held else s.host) ∧
    (u.advance get = .atSys → (s.core i).opsOf u.coh = [u] → (s.core i).serves u.coh = true →
      bits (SMap.get (t.ctx i).xdone 0 ch) 31 0 = bits (SMap.get (s.ctx i).xnext 0 ch) 31 0) := by
  refine ⟨_, exec_xfrComplete _ _ _ _, ?_, completeXfr_host hk hx, fun sys alone serves => ?_⟩
  · refine ⟨stepped s u get, ?_, rfl, rfl⟩
    rw [completeXfr_core hk hx, passed, modOf_uops]
    exact mem_modUop (xfrWith_spec hx).1 fun _ => stepped s u get
  · have complete : ∀ v ∈ ((s.core i).modUop u.n fun _ => stepped s u get).opsOf u.coh,
        v.completeAt v.scope = true := by
      intro v hv
      obtain ⟨hv, coh⟩ := List.mem_filter.mp hv
      obtain ⟨e, he, rfl⟩ := List.mem_map.mp hv
      by_cases hn : e.n = u.n
      · simpa [hn] using completeAt_atSys sys _
      · have own : e ∈ (s.core i).opsOf u.coh := List.mem_filter.mpr ⟨he, by simpa [hn] using coh⟩
        rw [alone, List.mem_singleton] at own
        exact absurd (own ▸ rfl) hn
    rw [State.ctx, completeXfr_core hk hx, passed, modOf_ctx (by exact serves), xdone_passDone _ complete]
    rfl

end

/-! ## Demand staging (R246) -/

theorem exec_demandStaging (i a : Nat) (s : State) :
    exec (.demandStaging i a) s = .next (if s.lacks i = some a then s.demand i a else s) := by rfl

/-- From s to t the memories read the same, and every core has the same untimed operations and lines. -/
structure SameWork (s t : State) : Prop where
  memory : SameMemory s t
  uops : ∀ j, (t.core j).uops = (s.core j).uops
  istore : ∀ j, (t.core j).istore = (s.core j).istore

theorem SameWork.refl (s : State) : SameWork s s := ⟨sameMemory_refl s, fun _ => rfl, fun _ => rfl⟩

theorem SameWork.setCoh {s t : State} (h : SameWork s t) (k : Nat) (c : Cohort) : SameWork s (t.setCoh k c) :=
  ⟨sameMemory_setCoh h.memory k c, h.uops, h.istore⟩

/-- A trace record is no work. -/
theorem SameWork.traceRec {s t : State} (h : SameWork s t) (i kind slot payload : Nat) :
    SameWork s (t.traceRec i kind slot payload) := by
  unfold State.traceRec State.traceAt State.traceEvent
  split
  · exact h
  · refine ⟨sameMemory_modCore h.memory _ _ rfl rfl, fun j => ?_, fun j => ?_⟩
    · rw [core_modCore, ← h.uops]; split <;> simp_all
    · rw [core_modCore, ← h.istore]; split <;> simp_all

theorem SameWork.addHold {s t : State} (h : SameWork s t) (k : Nat) (cause : HoldCause) (code first : Nat) :
    SameWork s (t.addHold k cause code first) := by
  unfold State.addHold
  dsimp only
  split
  · exact h
  · split
    · exact h
    · refine SameWork.setCoh ?_ _ _
      split
      · exact forAll_keeps h fun _ _ _ hu => hu.traceRec _ _ _ _
      · exact h

/-- R76, R79: the cause joins the cohort's holds; the hold starts with it where none lasts, and in the wait after a
resume. -/
theorem addHold_coh {s : State} {k : Nat} {c : Cohort} (hc : s.coh? k = some c) (hs : c.st ≠ .ending)
    (cause : HoldCause) (code first : Nat) :
    ∃ d, (s.addHold k cause code first).coh? k = some d ∧ d.holds = c.holds ++ [cause] ∧
      d.holdStart = some (if c.resuming then first else c.holdStart.getD first) := by
  simp only [State.addHold, hc, beq_iff_eq, hs, if_false]
  refine ⟨_, coh?_setCoh_same _ _ _, rfl, ?_⟩
  cases c.resuming <;> cases c.holdStart <;> rfl

theorem missHolds_some {s : State} {i k : Nat} {c : Cohort} (h : s.missHolds i = some k) (hc : s.coh? k = some c) :
    c.st = .running := by
  unfold State.missHolds at h
  split at h
  · cases h
  · split at h
    · split at h
      · next hk c' hc' hrun =>
        cases h
        cases hc.symm.trans hc'
        simp only [Bool.and_eq_true, beq_iff_eq] at hrun
        exact hrun.1.1
      · cases h
    · cases h

section
variable {s : State} {i k a : Nat}

theorem stageLine_missHolds (j : Nat) : (s.stageLine i k a).missHolds j = s.missHolds j := by
  have coh : (s.stageLine i k a).cohOf j = s.cohOf j := cohOf_modCore rfl j
  have ctx : (s.stageLine i k a).ctx j = s.ctx j := by
    simp only [State.stageLine, State.ctx, core_modCore]
    split
    · next e => rw [e]; rfl
    · rfl
  simp only [State.missHolds, coh, ctx]
  rfl

variable (hf : (s.core i).fetch = .missing a) (hk : s.cohOf i = some k)
include hf hk

/-- The line is staged, and the cohort may come to a hold. -/
theorem demand_cases : s.demand i a = s.stageLine i k a ∨
    ∃ k', s.demand i a = (s.stageLine i k a).addHold k' (.miss i) 1 s.now := by
  unfold State.demand
  rw [hf, hk]
  dsimp only
  split
  · exact .inl rfl
  · split
    · split
      · exact .inl rfl
      · exact .inr ⟨_, rfl⟩
    · exact .inl rfl

theorem demand_holds {c : Cohort} (hm : s.missHolds i = some k) (hc : s.coh? k = some c)
    (hn : HoldCause.miss i ∉ c.holds) :
    s.demand i a = (s.stageLine i k a).addHold k (.miss i) 1 s.now := by
  have coh : (s.stageLine i k a).coh? k = some c := hc
  unfold State.demand
  rw [hf, hk]
  dsimp only
  rw [stageLine_missHolds, hm]
  dsimp only
  rw [coh]
  simp [hn, State.stageLine]

theorem demand_work : SameWork (s.stageLine i k a) (s.demand i a) := by
  rcases demand_cases hf hk with h | ⟨k', h⟩ <;> rw [h]
  · exact .refl _
  · exact (SameWork.refl _).addHold _ _ _ _

/-- R246: the line is staged in its slot by an operation of the cohort, and the cohort holds. -/
theorem demand_stages : ∃ t, exec (.demandStaging i a) s = .next t ∧ SameMemory s t ∧
    (HasOp t i (s.core i).nextUop fun v => v.coh = k ∧ v.kind = .stage a 1 ∧ v.stage = .waiting) ∧
    (∃ l, SMap.get? (t.core i).istore (slotOfLine a) = some l ∧ l.st = .staging ∧ l.tag = tagOfLine a ∧
      l.op = (s.core i).nextUop) ∧
    ∀ c, s.missHolds i = some k → s.coh? k = some c → HoldCause.miss i ∉ c.holds →
      ∃ d, t.coh? k = some d ∧ d.holds = c.holds ++ [.miss i] ∧
        d.holdStart = some (if c.resuming then s.now else c.holdStart.getD s.now) := by
  have run : exec (.demandStaging i a) s = .next (s.demand i a) := by
    simp [exec_demandStaging, State.lacks, hf]
  have work := demand_work hf hk
  refine ⟨_, run, sameMemory_trans (sameMemory_modCore (sameMemory_refl s) _ _ rfl rfl) work.memory, ?_, ?_, ?_⟩
  · rw [HasOp, work.uops]
    simp only [State.stageLine, core_modCore_same, Core.pushUop]
    exact ⟨_, List.mem_append_right _ (List.mem_singleton_self _), rfl, rfl, rfl, rfl⟩
  · rw [work.istore]
    simp only [State.stageLine, core_modCore_same, putStaging]
    exact ⟨_, get?_set_same _ _ _, rfl, rfl, rfl⟩
  · intro c hm hc hn
    rw [demand_holds hf hk hm hc hn]
    exact addHold_coh (s := s.stageLine i k a) hc (by simp [missHolds_some hm hc]) _ _ _

end

/-! ## Staging of a line (R213, R238, R246) -/

theorem exec_lineStagingComplete (i key : Nat) (s : State) :
    exec (.lineStagingComplete i key) s = .next (s.lineIn i key) := by rfl

theorem mem_of_get? {m : SMap α} {k : Nat} {v : α} (h : SMap.get? m k = some v) : (k, v) ∈ m := by
  induction m with
  | nil => cases h
  | cons e l ih =>
    obtain ⟨j, w⟩ := e
    simp only [SMap.get?] at h
    split at h
    · next e => cases h; exact e ▸ List.mem_cons_self
    · exact List.mem_cons_of_mem _ (ih h)

/-- The read of a line begins. -/
def readLine (i : Nat) (e : Nat × ILine) (s : State) : State :=
  s.draw.2.modCore i fun c => { c with istore := SMap.set c.istore e.1 { e.2 with ready := s.later.1 } }

theorem beginReads_eq (s : State) (i n : Nat) (g : Page) : s.beginReads i n g =
    forAll ((s.core i).linesOf n) s fun e t => if g.has (lineAddr e.1 e.2) then readLine i e t else t := rfl

/-- The reads of an operation's lines touch neither memory nor untimed operations. -/
theorem beginReads_keeps {s : State} {i n m : Nat} {g : Page} {f : UOp → Prop} (h : HasOp s i m f) :
    SameMemory s (s.beginReads i n g) ∧ HasOp (s.beginReads i n g) i m f := by
  rw [beginReads_eq]
  refine forAll_keeps (P := fun t => SameMemory s t ∧ HasOp t i m f) ⟨sameMemory_refl s, h⟩ fun e _ t ht => ?_
  split
  · refine ⟨sameMemory_modCore (sameMemory_draw ht.1) _ _ rfl rfl, ?_⟩
    simpa [HasOp, readLine] using ht.2
  · exact ht

/-- The line under a key is read until a cycle after n. -/
def ReadsAfter (n i key : Nat) (s : State) : Prop :=
  ∃ l, SMap.get? (s.core i).istore key = some l ∧ n < l.ready

theorem readLine_self (i : Nat) (e : Nat × ILine) (s : State) : ReadsAfter s.now i e.1 (readLine i e s) :=
  ⟨{ e.2 with ready := s.later.1 }, by simp [readLine], now_lt_later s⟩

theorem readLine_keeps {i key : Nat} {s : State} (e : Nat × ILine) (h : ReadsAfter s.now i key s) :
    ReadsAfter s.now i key (readLine i e s) := by
  by_cases hk : key = e.1
  · exact hk ▸ readLine_self i e s
  · obtain ⟨l, hl, hr⟩ := h
    exact ⟨l, by simpa [readLine, get?_set_other _ _ hk] using hl, hr⟩

/-- A fold in which one of the updates makes P, under what every update keeps, and none undoes it. -/
theorem forAll_reaches {I P : State → Prop} {l : List α} {f : α → State → State} {s : State} {x : α}
    (hx : x ∈ l) (h : I s) (hI : ∀ y t, I t → I (f y t)) (hmake : ∀ t, I t → P (f x t))
    (hkeep : ∀ y t, I t → P t → P (f y t)) :
    P (forAll l s f) := by
  unfold forAll
  induction l generalizing s with
  | nil => cases hx
  | cons y l ih =>
    rcases List.mem_cons.mp hx with rfl | hx
    · exact (forAll_keeps (P := fun t => I t ∧ P t) (l := l) ⟨hI _ _ h, hmake _ h⟩
        fun y _ t ht => ⟨hI y t ht.1, hkeep y t ht.1 ht.2⟩).2
    · exact ih hx (hI _ _ h)

/-- R246: the reads of the lines on a translated page begin. -/
theorem beginReads_ready {s : State} {i n key : Nat} {g : Page} {l : ILine} (h : (key, l) ∈ (s.core i).linesOf n)
    (hg : g.has (lineAddr key l) = true) : ReadsAfter s.now i key (s.beginReads i n g) := by
  rw [beginReads_eq]
  refine forAll_reaches (I := fun t => t.now = s.now) h rfl (fun e t ht => ?_) (fun t ht => ?_) (fun e t ht hr => ?_)
  · split
    · exact ht
    · exact ht
  · rw [if_pos hg]; exact ht ▸ readLine_self i _ t
  · split
    · exact ht ▸ readLine_keeps e (ht.symm ▸ hr)
    · exact hr

section
variable {s : State} {i key : Nat} {l : ILine} {u : UOp}
  (hl : SMap.get? (s.core i).istore key = some l) (hd : s.lineDue i key l = true)
  (hu : (s.core i).uops.find? (·.n == l.op) = some u)
include hl hd hu

theorem lineIn_arrives {pa : Nat} (hp : u.phys (lineAddr key l) = some pa) :
    s.lineIn i key = (s.link u.coh 64 0).modCore i fun c =>
      { c with istore := if key ≥ 4096 then SMap.del c.istore key else SMap.set c.istore key { l with
          st := .valid, bad := false
          data := BitVec.ofNat 512 (ofBytes (s.lineBytes (partOf u.coh) (lineAddr key l) pa)) } } := by
  unfold State.lineIn
  rw [hl]
  simp [hd, hu, hp]

/-- R213, R246: a line arrives; one that left its slot is discarded (log 29). -/
theorem line_arrives {pa : Nat} (hp : u.phys (lineAddr key l) = some pa) :
    ∃ t, exec (.lineStagingComplete i key) s = .next t ∧ SameMemory s t ∧
      SMap.get? (t.core i).istore key = if key ≥ 4096 then none else some { l with
        st := .valid, bad := false
        data := BitVec.ofNat 512 (ofBytes (s.lineBytes (partOf u.coh) (lineAddr key l) pa)) } := by
  refine ⟨_, exec_lineStagingComplete _ _ _, ?_, ?_⟩ <;> rw [lineIn_arrives hl hd hu hp]
  · exact sameMemory_modCore (sameMemory_modPart (sameMemory_refl s) _ _) _ _ rfl rfl
  · rw [core_modCore_same]
    dsimp only
    split
    · exact get?_del_same _ _
    · exact get?_set_same _ _ _

variable (hp : u.phys (lineAddr key l) = none)
include hp

theorem lineIn_page {g : Page} (h : (s.translate i u (lineAddr key l) false true).1 = some (.ok g)) :
    s.lineIn i key =
      ((s.translate i u (lineAddr key l) false true).2.modCore i (·.modUop u.n (·.addPage g s.now))).beginReads
        i u.n g := by
  unfold State.lineIn
  rw [hl]
  simp [hd, hu, hp, h]

theorem line_walks :
    Walks s i (.lineStagingComplete i key) u (lineAddr key l) false true 3 0 0 fun _ => True := by
  have hmem := List.mem_of_find?_eq_some hu
  refine walks_of_exec hmem (fun h => ?_) (fun g h => ⟨_, exec_lineStagingComplete _ _ _, ?_⟩) (fun k h => ?_)
  · simp [exec_lineStagingComplete, State.lineIn, hl, hd, hu, hp, h]
  · obtain ⟨memory, -, -, -, op⟩ := translate_ends hmem h
    rw [lineIn_page hl hd hu hp h]
    obtain ⟨memory', op'⟩ := beginReads_keeps (n := u.n) (g := g) (op.modUop (·.addPage g s.now) (fun _ => rfl)
      (g := fun v => v.pages = u.pages ++ [g] ∧ True) fun v hv => by simp [UOp.addPage, hv.1])
    exact ⟨sameMemory_trans (sameMemory_modUop memory _ _ _) memory', op'⟩
  · simp [exec_lineStagingComplete, State.lineIn, hl, hd, hu, hp, h]

/-- R238, R246: once its page is translated, a line is being read. -/
theorem line_reads {g : Page} (h : (s.translate i u (lineAddr key l) false true).1 = some (.ok g)) :
    ∃ t l', exec (.lineStagingComplete i key) s = .next t ∧ SMap.get? (t.core i).istore key = some l' ∧
      s.now < l'.ready := by
  obtain ⟨-, now, -, istore, -⟩ := translate_ends (List.mem_of_find?_eq_some hu) h
  have staging : l.st = .staging ∧ l.op = u.n := by
    have := List.find?_some hu
    simp only [State.lineDue, Bool.and_eq_true, beq_iff_eq] at hd this
    exact ⟨hd.1, this.symm⟩
  have mine : (key, l) ∈ (((s.translate i u (lineAddr key l) false true).2.modCore i
      (·.modUop u.n (·.addPage g s.now))).core i).linesOf u.n := by
    rw [core_modCore_same]
    refine List.mem_filter.mpr ⟨?_, by simp [staging]⟩
    rw [show (Core.modUop _ _ _).istore = _ from istore]
    exact mem_of_get? hl
  obtain ⟨l', hl', hr⟩ := beginReads_ready mine (translate_has h)
  refine ⟨_, l', exec_lineStagingComplete _ _ _, by rw [lineIn_page hl hd hu hp h]; exact hl', ?_⟩
  rwa [modCore_now, now] at hr

end

/-- Settles O37: each clause is the lemma about its event. -/
theorem transferEvents : Obligations.TransferEvents := by
  unfold Obligations.TransferEvents
  intro s i
  refine ⟨fun va sa n b hb => splitRow_covers (Nat.le_refl n) hb, fun u get ch id T sa va ly hk => ?_,
    fun a k hf hk => demand_stages hf hk, fun key l u hl hd hu => ?_⟩
  · refine ⟨canBegin_iff hk, xfrBegin_runs hk, xfr_walks hk, fun p pa hx hw hm hp h32 live => ?_,
      get_in_turn hk, owes_none_of_canComplete hk, xfr_completes hk⟩
    have hu := (xfrWith_spec hx).1
    have run := exec_movePiece hk hx hw hm hp
    refine ⟨fun hg hr hh => ?_, fun hg h hs => ⟨fun hb => ?_, fun hb => ?_⟩, fun b hg h => ?_⟩ <;> subst hg
    · exact ⟨_, run, get_moves hu live hr hh⟩
    · exact ⟨_, run, put_reads hu live h32 h hs hb⟩
    · exact ⟨_, run, put_fails hu live h hb⟩
    · exact ⟨_, run, put_takes_kept hu h⟩
  · exact ⟨fun pa hp => line_arrives hl hd hu hp, fun hp => line_walks hl hd hu hp,
      fun g hp h => line_reads hl hd hu hp h⟩

end Sys2Proof.Laws
end

section
/-! PROOFS. Reductions, table interpolation, functions and scaling (O18). -/

namespace Sys2Proof.Laws

open Sys2Proof Sys2Proof.Machine

/-! ## The fixed tree over a wrapping sum (R37) -/

theorem orAll_eq_none {l : List NFlags} (h : ∀ x ∈ l, x = fNone) : orAll l = fNone := by
  unfold orAll
  induction l with
  | nil => rfl
  | cons x l ih =>
    rw [List.foldl_cons, h x (by simp)]
    exact ih fun y hy => h y (by simp [hy])

/-- What is present of a level, added up. -/
def presentSum (l : List (Option Nat)) : Nat := (l.map (·.getD 0)).sum

theorem treeLevel_length (f : Nat → Nat → Nat × NFlags) (l : List (Option Nat)) :
    (treeLevel f l).length = (l.length + 1) / 2 := by
  fun_induction treeLevel f l <;> simp only [List.length_cons, List.length_nil] <;> omega

section
variable {f : Nat → Nat → Nat × NFlags} {w : Nat} (hf : ∀ a b, f a b = ((a + b) % 2 ^ w, fNone))
include hf

theorem treeLevel_flags (l : List (Option Nat)) : ∀ x ∈ treeLevel f l, x.2 = fNone := by
  fun_induction treeLevel f l with
  | case1 a b l ih => simpa only [List.forall_mem_cons, hf, true_and] using ih
  | case2 a l ih => simpa only [List.forall_mem_cons, true_and] using ih
  | case3 x l ih => simpa only [List.forall_mem_cons, true_and] using ih
  | case4 x => simp
  | case5 => simp

theorem treeLevel_lt (l : List (Option Nat)) (h : ∀ x ∈ l, x.getD 0 < 2 ^ w) :
    ∀ x ∈ (treeLevel f l).map (·.1), x.getD 0 < 2 ^ w := by
  fun_induction treeLevel f l with
  | case1 a b l ih =>
    simp only [List.map_cons, List.forall_mem_cons, hf] at h ⊢
    obtain ⟨-, -, rest⟩ := h
    exact ⟨Nat.mod_lt _ (by positivity), ih rest⟩
  | case2 a l ih =>
    simp only [List.map_cons, List.forall_mem_cons] at h ⊢
    obtain ⟨ha, -, rest⟩ := h
    exact ⟨ha, ih rest⟩
  | case3 x l ih =>
    simp only [List.map_cons, List.forall_mem_cons] at h ⊢
    obtain ⟨-, hx, rest⟩ := h
    exact ⟨hx, ih rest⟩
  | case4 x => exact h
  | case5 => exact h

theorem treeLevel_sum (l : List (Option Nat)) :
    presentSum ((treeLevel f l).map (·.1)) ≡ presentSum l [MOD 2 ^ w] := by
  fun_induction treeLevel f l with
  | case1 a b l ih =>
    simp only [presentSum, hf, List.map_cons, List.sum_cons, Option.getD_some, ← Nat.add_assoc] at ih ⊢
    exact (Nat.mod_modEq _ _).add ih
  | case2 a l ih => simpa [presentSum] using ih.add_left a
  | case3 x l ih => simpa [presentSum] using ih.add_left (x.getD 0)
  | case4 x => exact Nat.ModEq.refl _
  | case5 => exact Nat.ModEq.refl _

/-- The tree over enough levels gives the sum of what is present, and no flag. -/
theorem treeReduce_sum (k : Nat) (l : List (Option Nat)) (hl : l.length ≤ 2 ^ k) (h : ∀ x ∈ l, x.getD 0 < 2 ^ w) :
    (treeReduce f k l).1.getD 0 = presentSum l % 2 ^ w ∧ (treeReduce f k l).2 = fNone := by
  induction k generalizing l with
  | zero =>
    match l, hl with
    | [], _ => simp [treeReduce, presentSum]
    | [x], _ => simp [treeReduce, presentSum, Nat.mod_eq_of_lt (h x (by simp))]
  | succ k ih =>
    have half : ((treeLevel f l).map (·.1)).length ≤ 2 ^ k := by
      rw [List.length_map, treeLevel_length]; omega
    obtain ⟨value, flags⟩ := ih _ half (treeLevel_lt hf l h)
    refine ⟨value.trans (treeLevel_sum hf l), ?_⟩
    have level : orAll ((treeLevel f l).map (·.2)) = fNone :=
      orAll_eq_none (by simpa using fun y x => treeLevel_flags hf l (x, y))
    show _ ||| _ = fNone
    rw [flags, level]
    rfl

end

theorem sval_emod (w x : Nat) : sval w x % 2 ^ w = (x : Int) % 2 ^ w := by
  unfold sval
  split
  · exact Int.sub_emod_right _ _
  · rfl

theorem toNat_ofNat_of_lt {n w v : Nat} (hw : w ≤ n) (h : v < 2 ^ w) : (BitVec.ofNat n v).toNat = v := by
  rw [BitVec.toNat_ofNat]
  exact Nat.mod_eq_of_lt (h.trans_le (Nat.pow_le_pow_right (by decide) hw))

/-- An integer node of VRED.SUM without saturation. -/
theorem redNode_sum {o : VOp} (hi : isFloat o.ty = false) (hs : o.sat = false) (s : State) (w a b : Nat) :
    redNode 0 o s w a b = ((a + b) % 2 ^ w, fNone) := by
  have : wrapTo w (sval w a + sval w b) = (a + b) % 2 ^ w := by
    rw [wrapTo, Int.add_emod, sval_emod, sval_emod, ← Int.add_emod]
    exact_mod_cast Int.toNat_natCast ((a + b) % 2 ^ w)
  simp [redNode, hi, vint, intResult, hs, this]

theorem tyWidth_elems (ty : BitVec 3) : 1024 / tyWidth ty ≤ 2 ^ 7 := by
  unfold tyWidth; split <;> decide

theorem tyWidth_le (ty : BitVec 3) : tyWidth ty ≤ 32 := by
  unfold tyWidth; split <;> decide

/-! ## VRED (R123) -/

/-- The elements that VRED reduces: those of active lanes. -/
def redInputs (o : VOp) (s : State) : List (Option Nat) :=
  let w := tyWidth o.ty
  (List.range (1024 / w)).map fun i => if active (s.cx.mask o.g) w i then some (elem w (s.srcV w o.va) i) else none

/-- The root of the tree over them, with the flags of its nodes. -/
def redRoot (o : VOp) (op : Nat) (s : State) : Option Nat × NFlags :=
  treeReduce (redNode op o s (tyWidth o.ty)) 7 (redInputs o s)

theorem presentSum_redInputs (o : VOp) (s : State) : presentSum (redInputs o s) =
    (((List.range (1024 / tyWidth o.ty)).filter (active (s.cx.mask o.g) (tyWidth o.ty))).map
      (elem (tyWidth o.ty) (s.srcV (tyWidth o.ty) o.va))).sum := by
  simp only [presentSum, redInputs, List.map_map, Function.comp_def, apply_ite (Option.getD · 0),
    Option.getD_some, Option.getD_none]
  rw [List.sum_map_ite]
  simp

theorem exec_vred (o : VOp) (op : BitVec 3) (s : State) (hr : s.readable [o.va]) :
    exec (.vred o op) s = if o.g = 0b10000 then .next s else
      .next (s.landV o 6 o.vd.toNat (BitVec.allOnes 1024)
        (BitVec.ofNat 1024 ((redRoot o op.toNat s).1.getD (redIdentity op.toNat o (tyWidth o.ty))))
        (redRoot o op.toNat s).2) := by
  show execVred o op s = _
  rw [execVred, withB_readable _ _ _ hr]
  rfl

/-- The identity of an integer sum (R37). -/
theorem redIdentity_sum {o : VOp} (hi : isFloat o.ty = false) (w : Nat) : redIdentity 0 o w = 0 := by
  unfold redIdentity
  exact (if_neg (by simp [hi])).trans rfl

/-- The root of an integer sum that wraps: the sum modulo the element's width, with no flag. -/
theorem redRoot_sum {o : VOp} (hi : isFloat o.ty = false) (hs : o.sat = false) (s : State) :
    (redRoot o 0 s).1.getD 0 = presentSum (redInputs o s) % 2 ^ tyWidth o.ty ∧ (redRoot o 0 s).2 = fNone := by
  refine treeReduce_sum (redNode_sum hi hs s _) 7 _ ?_ ?_
  · simpa [redInputs] using tyWidth_elems o.ty
  · simp only [redInputs, List.forall_mem_map]
    intro i _
    split
    · exact elem_lt _ _ _
    · exact Nat.two_pow_pos _

/-! ## Functions and scaling (R127, R128) -/

theorem vecFun_lands (o : VOp) (f : Fmt → Nat → Bool → FV → Nat × NFlags) (s : State)
    (hm : s.cx.mask o.g ≠ 0) (hr : s.readable [o.va]) :
    let w := tyWidth o.ty
    let r := fun k => f (fmtOf o.ty) (modeOf o.rms s.cx) s.cx.ftz
      (fdec (fmtOf o.ty) s.cx.ftz (elem w (s.srcV w o.va) k))
    ∃ t, vecFun o f s = .next t ∧
      LandsV s t o 6 w (fun k => (r k).1) (laneFlags (s.cx.mask o.g) w fun k => (r k).2) := by
  rw [vecFun, withB_readable _ _ _ hr]
  exact vecOut_lands o 6 _ _ s hm

/-- An integer result and its flag, by whether the operation saturates (R29). -/
theorem intResult_eq (w : Nat) (sat : Bool) (x : Int) : intResult w sat x =
    (wrapTo w (if sat then satS w x else x), if sat && satS w x != x then fSQ else fNone) := by
  cases sat with
  | false => rfl
  | true => by_cases h : satS w x = x <;> simp [intResult, h]

theorem clamp_eq (k b : Int) (hb : 0 ≤ b) : (if k > b then b else if k < -b then -b else k) = max (-b) (min b k) := by
  split_ifs <;> omega

section
variable {o : VOp} {s : State} (hm : s.cx.mask o.g ≠ 0) (hr : s.readable [o.va, o.vb])
include hm hr

theorem vscl_float (hf : isFloat o.ty = true) :
    let w := tyWidth o.ty
    let x := fun k => fdec (fmtOf o.ty) s.cx.ftz (elem w (s.srcV w o.va) k)
    let r := fun k => fround (fmtOf o.ty) (modeOf o.rms s.cx) s.cx.ftz
      (fscale (sval w (elem w (s.srcV w o.vb) k)) (x k))
    Elementwise (.vscl o) s o 3 w (fun k => (r k).1) fun k => (r k).2 ||| fsig (x k) := by
  show ∃ t, execVscl o s = _ ∧ _
  rw [execVscl, withB_readable _ _ _ hr]
  simp only [hf, if_true]
  exact vecOut_lands o 3 _ _ s hm

theorem vscl_int (hf : isFloat o.ty = false) :
    let w := tyWidth o.ty
    let x := fun k => sval w (elem w (s.srcV w o.va) k)
    let e := fun k => sval w (elem w (s.srcV w o.vb) k)
    IntegerLanes (.vscl o) s o 3 fun k =>
      (roundInt (modeOf o.rms s.cx) (x k < 0) (x k).natAbs (max (-64) (min 64 (e k)))).1 := by
  show ∃ t, execVscl o s = _ ∧ _
  rw [execVscl, withB_readable _ _ _ hr]
  simp only [hf, Bool.false_eq_true, if_false, clamp_eq _ 64 (by decide)]
  obtain ⟨t, run, lands⟩ := vecOut_lands o 3 (tyWidth o.ty) _ s hm
  refine ⟨t, run, ?_⟩
  simp only [LandsV, vint, intResult_eq] at lands ⊢
  exact lands

end

/-! ## VTINT at its issue (R125) -/

theorem exec_vtint {o : VOp} {s : State} (hm : s.cx.mask o.g ≠ 0) (hr : s.readable [o.va, o.vb]) :
    let addr := (s.cur.b.getD 0).toNat % 2 ^ 20
    exec (.vtint o) s = if addr % 16 ≠ 0 ∨ 786432 < addr + 2064 then .next (s.slotTrap 0x09 (BitVec.ofNat 64 addr))
      else if o.sh then .next (s.landing 6 fNone true (.vreg o.vd.toNat (laneMask (s.cx.mask o.g)) 0))
      else .next (s.access 0 2 false (unitsOf addr 2064)
        (.table o.vd.toNat addr (s.srcV (tyWidth o.ty) o.va) (laneMask (s.cx.mask o.g)) (tyWidth o.ty)
          (modeOf o.rms s.cx) s.cx.ftz (s.timeOf s.cur.site + 6) false)) := by
  intro addr
  have field : bits (s.cur.b.getD 0) 19 0 = addr := by simp [bits, addr]
  show execVtint o s = _
  rw [execVtint, withB_readable _ _ _ hr]
  simp only [hm, if_false, field, spadSize, gt_iff_lt]
  rfl

/-! ## Exact values of finite numbers -/

/-- The number that a finite value stands for. -/
def ratOf (n : Bool) (m : Nat) (e : Int) : ℚ := (if n then -1 else 1) * (m : ℚ) * 2 ^ e

@[simp] theorem ratOf_zero (n : Bool) (e : Int) : ratOf n 0 e = 0 := by simp [ratOf]

theorem ratOf_sign (t q : Int) : ratOf (t < 0) t.natAbs q = t * 2 ^ q := by
  have : (t.natAbs : ℚ) = |(t : ℚ)| := by rw [← Int.cast_abs, Int.abs_eq_natAbs]; rfl
  rcases lt_or_ge t 0 with h | h
  · have hq : (t : ℚ) < 0 := by exact_mod_cast h
    simp [ratOf, h, this, abs_of_neg hq]
  · have hq : (0 : ℚ) ≤ t := by exact_mod_cast h
    simp [ratOf, not_lt.mpr h, this, abs_of_nonneg hq]

theorem funits_value (n : Bool) {m : Nat} {e q : Int} (h : m ≠ 0 → q ≤ e) :
    (funits q (.fin n m e) : ℚ) * 2 ^ q = ratOf n m e := by
  rcases eq_or_ne m 0 with rfl | hm
  · simp [funits]
  · have split : (2 : ℚ) ^ e = 2 ^ (e - q).toNat * 2 ^ q := by
      rw [← zpow_natCast, Int.toNat_of_nonneg (by have := h hm; omega), ← zpow_add₀ (by norm_num)]
      ring_nf
    cases n <;> simp [funits, ratOf, split] <;> ring

theorem fleast_none {l : List FV} (h : fleast l = none) {n : Bool} {m : Nat} {e : Int}
    (hv : .fin n m e ∈ l) : m = 0 := by
  fun_induction fleast l <;> grind

theorem fleast_le {l : List FV} {q : Int} (h : fleast l = some q) {n : Bool} {m : Nat} {e : Int}
    (hv : .fin n m e ∈ l) (hm : m ≠ 0) : q ≤ e := by
  fun_induction fleast l generalizing q <;> grind [fleast_none]

/-- The exact sum of two finite values that are not both zero, over their least exponent. -/
theorem fsumx_pair_of_fleast (mode : Nat) {n n' : Bool} {m m' : Nat} {e e' q : Int}
    (h : fleast [.fin n m e, .fin n' m' e'] = some q) :
    let t := funits q (.fin n m e) + funits q (.fin n' m' e')
    (fsumx mode [.fin n m e, .fin n' m' e']).1 = if t = 0 then .fin (mode == 2) 0 0 else .fin (t < 0) t.natAbs q := by
  simp only [fsumx, fisNan, fisInf, h, List.any_cons, List.any_nil, List.map_cons, List.map_nil, List.foldl_cons,
    List.foldl_nil, Bool.or_false, Bool.false_and, Bool.false_eq_true, if_false, Int.zero_add, beq_iff_eq]
  split <;> rfl

theorem fsumx_pair_of_fleast_none (mode : Nat) {n n' : Bool} {m m' : Nat} {e e' : Int}
    (h : fleast [.fin n m e, .fin n' m' e'] = none) : ∃ z, (fsumx mode [.fin n m e, .fin n' m' e']).1 = .fin z 0 0 := by
  simp [fsumx, fisNan, fisInf, h]

/-- The exact sum of two finite values is finite, and their sum. -/
theorem fsumx_pair (mode : Nat) (n n' : Bool) (m m' : Nat) (e e' : Int) :
    ∃ n₁ m₁ e₁, (fsumx mode [.fin n m e, .fin n' m' e']).1 = .fin n₁ m₁ e₁ ∧
      ratOf n₁ m₁ e₁ = ratOf n m e + ratOf n' m' e' := by
  cases h : fleast [.fin n m e, .fin n' m' e'] with
  | none =>
    have hm : m = 0 := fleast_none h (List.mem_cons_self ..)
    have hm' : m' = 0 := fleast_none h (List.mem_cons_of_mem _ (List.mem_cons_self ..))
    obtain ⟨z, hz⟩ := fsumx_pair_of_fleast_none mode h
    exact ⟨z, 0, 0, hz, by simp [hm, hm']⟩
  | some q =>
    have value : ((funits q (.fin n m e) + funits q (.fin n' m' e') : Int) : ℚ) * 2 ^ q =
        ratOf n m e + ratOf n' m' e' := by
      rw [Int.cast_add, add_mul, funits_value n fun hm => fleast_le h (List.mem_cons_self ..) hm,
        funits_value n' fun hm => fleast_le h (List.mem_cons_of_mem _ (List.mem_cons_self ..)) hm]
    rw [fsumx_pair_of_fleast mode h]
    split
    · next zero => exact ⟨_, _, _, rfl, by rw [← value, zero]; simp⟩
    · exact ⟨_, _, _, rfl, by rw [ratOf_sign, value]⟩

theorem bitLen_le {m : Nat} (h : m ≠ 0) : 2 ^ (bitLen m - 1) ≤ m := by
  simpa [bitLen, h] using Nat.log2_self_le h

/-- Rounding down gives the floor (R23). -/
theorem roundInt_down (n : Bool) (m : Nat) (e : Int) : (roundInt 2 n m e).1 = ⌊ratOf n m e⌋ := by
  rcases le_or_gt 0 e with h | h
  · have whole : ratOf n m e = (((if n then -1 else 1) * (m * 2 ^ e.toNat : Nat) : Int) : ℚ) := by
      have : (2 : ℚ) ^ e = 2 ^ e.toNat := by rw [← zpow_natCast, Int.toNat_of_nonneg h]
      cases n <;> simp [ratOf, this]
    rw [whole, Int.floor_intCast]
    cases n <;> simp [roundInt, roundAt, h]
  · have part : ratOf n m e = (((if n then -1 else 1) * m : Int) : ℚ) / ((2 ^ (-e).toNat : Nat) : ℚ) := by
      have : (2 : ℚ) ^ e = (2 ^ (-e).toNat)⁻¹ := by
        rw [← zpow_natCast, Int.toNat_of_nonneg (by omega), zpow_neg, inv_inv]
      cases n <;> simp [ratOf, this, div_eq_mul_inv]
    rw [part, Rat.floor_intCast_div_natCast]
    have shift : (0 - e).toNat = (-e).toNat := by rw [zero_sub]
    simp only [roundInt, roundAt, not_le.mpr h, if_false, shift]
    cases n with
    | false => simp
    | true =>
      have sign : ((2 ^ (-e).toNat : Nat) : Int).sign = 1 := Int.sign_eq_one_of_pos (by positivity)
      simp only [if_true, neg_one_mul, Int.neg_ediv, sign, Int.natCast_dvd_natCast, Nat.dvd_iff_mod_eq_zero]
      by_cases r : m % 2 ^ (-e).toNat = 0
      · simp [r]
      · simp only [r, if_false, bne_iff_ne, ne_eq, not_false_eq_true, Bool.or_false, Bool.true_and, if_true]
        push_cast
        ring

/-! ## The place of an argument in a table (R126) -/

/-- u of R126: the argument's distance from the table's start in segments, rounded once to nearest. -/
def tintPlace (ftz : Bool) (tab : Nat → Nat) (v : FV) : FV :=
  fdec fmtF32 false (fround fmtF32 0 ftz
    (fmulx (fsumx 0 [v, fneg (fdec fmtF32 ftz (tab 0))]).1 (fdec fmtF32 ftz (tab 4))).1).1

/-- The segment that VTINT takes for the finite place (-1)^n · m · 2^e. -/
def tintIndex (n : Bool) (m : Nat) (e : Int) : Nat :=
  if (bitLen m : Int) + e > 20 then (if n then 0 else 255) else (min (max (roundInt 2 n m e).1 0) 255).toNat

/-- A zero of a pattern has a small exponent: VTINT takes its floor. -/
theorem fdec_zero_exponent {x : Nat} {n : Bool} {e : Int} (h : fdec fmtF32 false x = .fin n 0 e) : e ≤ 20 := by
  simp only [fdec] at h
  split at h
  · split at h <;> cases h
  · split at h
    · injection h with _ _ he
      rw [← he]; decide
    · injection h with _ hm _
      have : 0 < 2 ^ fmtF32.fb := by positivity
      omega

/-- A finite place lies in the segment of its floor, bounded to the table. -/
theorem tintIndex_eq {n : Bool} {m : Nat} {e : Int} {k : Nat} (hz : m = 0 → e ≤ 20) (hk : k ≤ 255)
    (low : k = 0 ∨ (k : ℚ) ≤ ratOf n m e) (high : k = 255 ∨ ratOf n m e < k + 1) : tintIndex n m e = k := by
  unfold tintIndex
  split
  · next far =>
    have hm : m ≠ 0 := fun h => by simp [h, bitLen] at far; have := hz h; omega
    have size : (256 : ℚ) ≤ m * 2 ^ e := by
      calc (256 : ℚ) ≤ 2 ^ (((bitLen m - 1 : Nat) : Int) + e) := by
            rw [show (256 : ℚ) = 2 ^ (8 : Int) by norm_num]
            exact zpow_le_zpow_right₀ (by norm_num) (by omega)
        _ = (2 ^ (bitLen m - 1) : Nat) * 2 ^ e := by rw [zpow_add₀ (by norm_num), zpow_natCast]; push_cast; rfl
        _ ≤ m * 2 ^ e := by
            have : ((2 ^ (bitLen m - 1) : Nat) : ℚ) ≤ m := by exact_mod_cast bitLen_le hm
            gcongr
    have hk' : (k : ℚ) ≤ 255 := by exact_mod_cast hk
    cases n with
    | false =>
      have value : ratOf false m e = m * 2 ^ e := by simp [ratOf]
      rcases high with rfl | high
      · rfl
      · linarith
    | true =>
      have value : ratOf true m e = -(m * 2 ^ e) := by simp [ratOf]
      rcases low with rfl | low
      · rfl
      · have : (0 : ℚ) ≤ k := Nat.cast_nonneg k
        linarith
  · rw [roundInt_down]
    have low' : k = 0 ∨ (k : Int) ≤ ⌊ratOf n m e⌋ := low.imp_right fun h => Int.le_floor.mpr (by exact_mod_cast h)
    have high' : k = 255 ∨ ⌊ratOf n m e⌋ < k + 1 := high.imp_right fun h => Int.floor_lt.mpr (by exact_mod_cast h)
    omega

/-! ## One element of VTINT (R126) -/

section
variable {f : Fmt} {mode : Nat} {ftz : Bool} {tab : Nat → Nat} {x : Nat}

theorem tintElem_nan (hv : fisNan (fdec f ftz x) = true) :
    tintElem f mode ftz tab x = (fnan f, fsig (fdec f ftz x)) := by
  simp [tintElem, hv]

variable (hv : fisNan (fdec f ftz x) = false)
include hv

theorem tintElem_nan_place (hu : fisNan (tintPlace ftz tab (fdec f ftz x)) = true) :
    tintElem f mode ftz tab x = (fnan f, fIV) := by
  cases h : tintPlace ftz tab (fdec f ftz x) <;> simp only [h, fisNan, Bool.false_eq_true] at hu
  unfold tintPlace at h
  simp only [tintElem, hv, h, Bool.false_eq_true, if_false]

theorem tintElem_inf {n : Bool} (hu : tintPlace ftz tab (fdec f ftz x) = .inf n) :
    let k := if n then 0 else 255
    tintElem f mode ftz tab x =
      ffmaR f mode ftz (fdec fmtF32 ftz (tab (20 + 8 * k))) (.inf n) (fdec fmtF32 ftz (tab (16 + 8 * k))) := by
  unfold tintPlace at hu
  simp only [tintElem, hv, hu, Bool.false_eq_true, if_false]
  cases n <;> rfl

theorem tintElem_fin {n : Bool} {m : Nat} {e : Int} (hu : tintPlace ftz tab (fdec f ftz x) = .fin n m e) :
    let k := tintIndex n m e
    tintElem f mode ftz tab x = ffmaR f mode ftz (fdec fmtF32 ftz (tab (20 + 8 * k)))
      (fsumx 0 [.fin n m e, .fin true k 0]).1 (fdec fmtF32 ftz (tab (16 + 8 * k))) := by
  unfold tintPlace at hu
  simp only [tintElem, hv, hu, Bool.false_eq_true, if_false]
  rfl

/-- In segment k, with t the exact distance from the segment's start. -/
theorem tintElem_segment {n : Bool} {m : Nat} {e : Int} (hu : tintPlace ftz tab (fdec f ftz x) = .fin n m e)
    {k : Nat} (hk : k ≤ 255) (low : k = 0 ∨ (k : ℚ) ≤ ratOf n m e) (high : k = 255 ∨ ratOf n m e < k + 1) :
    ∃ n' m' e', tintElem f mode ftz tab x = ffmaR f mode ftz (fdec fmtF32 ftz (tab (20 + 8 * k))) (.fin n' m' e')
        (fdec fmtF32 ftz (tab (16 + 8 * k))) ∧ ratOf n' m' e' = ratOf n m e - k := by
  have index : tintIndex n m e = k :=
    tintIndex_eq (fun h => fdec_zero_exponent (by subst h; exact hu)) hk low high
  obtain ⟨n', m', e', distance, value⟩ := fsumx_pair 0 n true m k e 0
  refine ⟨n', m', e', by rw [tintElem_fin hv hu, index, distance], ?_⟩
  rw [value, sub_eq_add_neg]
  simp [ratOf]

end

/-- Settles O18: the root of the tree, the functions, VSCL and VTINT's issue by the lemma about each operation, and
VTINT's element by where u lies. -/
theorem vectorReduceAndFunctions : Obligations.VectorReduceAndFunctions := by
  unfold Obligations.VectorReduceAndFunctions
  refine ⟨fun s o op hr => ⟨fun hg => ?_, fun hg => ?_, fun hg hi hs hop => ?_⟩,
    fun s o hm hr => ⟨?_, ?_, ?_, ?_, vscl_float hm hr, vscl_int hm hr, fun ha hb hs => ?_, fun ha hb hs => ?_,
      fun h => ?_⟩,
    fun f mode ftz tab x => ⟨tintElem_nan, fun hv => ⟨tintElem_nan_place hv, fun n hu => tintElem_inf hv hu,
      fun n m e hu k hk low high => tintElem_segment hv hu hk low high⟩⟩⟩
  · rw [exec_vred o op s hr, if_pos hg]
  · rw [exec_vred o op s hr, if_neg hg]; rfl
  · subst hop
    obtain ⟨value, flags⟩ := redRoot_sum hi hs s
    refine ⟨_, by rw [exec_vred o 0 s hr, if_neg hg, show (0 : BitVec 3).toNat = 0 from rfl, flags], ?_⟩
    rw [redIdentity_sum hi, value, presentSum_redInputs]
    exact toNat_ofNat_of_lt ((tyWidth_le o.ty).trans (by decide)) (Nat.mod_lt _ (by positivity))
  · exact vecFun_lands o frcp s hm (State.readable.sub hr (by simp))
  · exact vecFun_lands o frsq s hm (State.readable.sub hr (by simp))
  · exact vecFun_lands o fexp2 s hm (State.readable.sub hr (by simp))
  · exact vecFun_lands o flog2 s hm (State.readable.sub hr (by simp))
  · rw [exec_vtint hm hr, if_neg (by omega), if_neg (by simp [hs])]
  · rw [exec_vtint hm hr, if_neg (by omega), if_pos hs]
  · rw [exec_vtint hm hr, if_pos h]

end Sys2Proof.Laws
end

section
/-! PROOFS. Block quantisation and dequantisation (O19): numbers laid out field by field in a register. -/

namespace Sys2Proof.Laws

open Sys2Proof Sys2Proof.Machine

/-! ## Fields of numbers and of registers -/

theorem packed_cons (w x : Nat) (l : List Nat) : packed w (x :: l) = packed w l * 2 ^ w + x % 2 ^ w := rfl

/-- A field that lies within the low w bits. -/
theorem field_mod {w a n : Nat} (h : a + n ≤ w) (x : Nat) : x % 2 ^ w / 2 ^ a % 2 ^ n = x / 2 ^ a % 2 ^ n := by
  refine Nat.eq_of_testBit_eq fun i => ?_
  simp only [Nat.testBit_mod_two_pow, Nat.testBit_div_two_pow]
  by_cases hi : i < n
  · have : i + a < w := by omega
    simp [hi, this]
  · simp [hi]

theorem field_eq_elem {w a n : Nat} (h : a + n ≤ w) (v : VWord) (k : Nat) :
    v.toNat / 2 ^ (w * k + a) % 2 ^ n = elem w v k / 2 ^ a % 2 ^ n := by
  rw [elem, field_mod h, Nat.div_div_eq_div_mul, ← pow_add]

theorem getLsbD_eq_elem {w r : Nat} (h : r < w) (v : VWord) (k : Nat) :
    v.getLsbD (w * k + r) = (elem w v k).testBit r := by
  rw [elem, Nat.testBit_mod_two_pow, Nat.testBit_div_two_pow, Nat.add_comm r, BitVec.testBit_toNat]
  simp [h]

theorem elem_packElems_getD {w : Nat} {l : List Nat} (hw : w * l.length ≤ 1024) (k : Nat) :
    elem w (packElems w l) k = l.getD k 0 % 2 ^ w := by
  rcases Nat.lt_or_ge k l.length with h | h
  · rw [elem_packElems w l k h hw, List.getD_eq_getElem _ _ h]
  · have small : (packElems w l).toNat < 2 ^ (w * k) :=
      (Nat.mod_le _ _).trans_lt ((packed_lt w l).trans_le (Nat.pow_le_pow_right (by decide) (Nat.mul_le_mul_left w h)))
    rw [elem, Nat.div_eq_of_lt small, List.getD_eq_default _ _ h]

/-- The register that holds l in its elements from q on, and 0 elsewhere. -/
def shelf (w q : Nat) (l : List Nat) : VWord := packElems w (List.replicate q 0 ++ l)

theorem packed_replicate_append (w q : Nat) (l : List Nat) :
    packed w (List.replicate q 0 ++ l) = 2 ^ (w * q) * packed w l := by
  induction q with
  | zero => simp
  | succ q ih => rw [List.replicate_succ, List.cons_append, packed_cons, ih]; ring_nf; simp

theorem shelf_eq (w q : Nat) (l : List Nat) : BitVec.ofNat 1024 (2 ^ (w * q) * packed w l) = shelf w q l := by
  rw [← packed_replicate_append]; rfl

section
variable {w q : Nat} {l : List Nat} (hw : w * (q + l.length) ≤ 1024)
include hw

theorem elem_shelf (k : Nat) : elem w (shelf w q l) (q + k) = l.getD k 0 % 2 ^ w := by
  rw [shelf, elem_packElems_getD (by simpa using hw), List.getD_append_right _ _ _ _ (by simp)]
  simp

theorem elem_shelf_outside {k : Nat} (h : k < q ∨ q + l.length ≤ k) : elem w (shelf w q l) k = 0 := by
  rcases h with h | h
  · rw [shelf, elem_packElems_getD (by simpa using hw), List.getD_append _ _ _ _ (by simpa using h)]
    simp
  · obtain ⟨d, rfl⟩ := Nat.exists_eq_add_of_le h
    rw [Nat.add_assoc, elem_shelf hw, List.getD_eq_default _ _ (by omega), Nat.zero_mod]

theorem getLsbD_shelf_outside (pos : 0 < w) {p : Nat} (h : p < w * q ∨ w * (q + l.length) ≤ p) :
    (shelf w q l).getLsbD p = false := by
  rw [← Nat.div_add_mod p w, getLsbD_eq_elem (Nat.mod_lt p pos), elem_shelf_outside hw, Nat.zero_testBit]
  rwa [Nat.div_lt_iff_lt_mul pos, Nat.le_div_iff_mul_le pos, Nat.mul_comm q, Nat.mul_comm _ w]

end

/-- The elements of a shelf that is given by index. -/
theorem elem_shelf_range {w q n k : Nat} {f : Nat → Nat} (fits : w * (q + n) ≤ 1024) (h : k < n) :
    elem w (shelf w q ((List.range n).map f)) (q + k) = f k % 2 ^ w := by
  rw [elem_shelf (by simpa using fits), List.getD_eq_getElem _ _ (by simpa using h)]
  simp

/-! ## Laying fields side by side -/

/-- Values put at fields of n bits, from field k on, with the absent ones left out. -/
theorem foldl_putBits {α : Type} {f : α → Nat} {base n : Nat} {step : Nat × Nat → Option α × Nat → Nat × Nat}
    (present : ∀ x v k, step x (some v, k) = putBits x (base + n * k) n (f v)) (absent : ∀ x k, step x (none, k) = x)
    (l : List (Option α)) (k : Nat) (x : Nat × Nat) : (l.zipIdx k).foldl step x =
      (x.1 + 2 ^ (base + n * k) * packed n (l.map (·.elim 0 f)),
        x.2 + 2 ^ (base + n * k) * packed n (l.map (·.elim 0 fun _ => 2 ^ n - 1))) := by
  induction l generalizing k x with
  | nil => simp [packed]
  | cons e l ih =>
    have next : 2 ^ (base + n * (k + 1)) = 2 ^ (base + n * k) * 2 ^ n := by rw [← pow_add]; ring_nf
    have ones : (2 ^ n - 1) % 2 ^ n = 2 ^ n - 1 := Nat.mod_eq_of_lt (Nat.sub_lt (Nat.two_pow_pos n) one_pos)
    rw [List.zipIdx_cons, List.foldl_cons, ih]
    cases e with
    | none =>
      rw [absent, next]
      simp only [List.map_cons, Option.elim_none, packed_cons, Nat.zero_mod]
      ring_nf
    | some v =>
      rw [present, next]
      simp only [List.map_cons, Option.elim_some, packed_cons, ones, putBits]
      ring_nf

/-- Blocks of w bits, each put at its slot, add up to the blocks side by side. -/
theorem sum_slots {α : Type} {f : α → Nat} {g : α × Nat → Nat} {w q : Nat}
    (hg : ∀ x k, g (x, k) = 2 ^ (w * (q + k)) * f x) {l : List α} (hf : ∀ x ∈ l, f x < 2 ^ w) (k : Nat) :
    ((l.zipIdx k).map g).sum = 2 ^ (w * (q + k)) * packed w (l.map f) := by
  induction l generalizing k with
  | nil => simp [packed]
  | cons x l ih =>
    have next : 2 ^ (w * (q + (k + 1))) = 2 ^ (w * (q + k)) * 2 ^ w := by rw [← pow_add]; ring_nf
    rw [List.zipIdx_cons, List.map_cons, List.sum_cons, hg, ih (fun y hy => hf y (List.mem_cons_of_mem _ hy)),
      List.map_cons, packed_cons, Nat.mod_eq_of_lt (hf x (List.mem_cons_self ..)), next]
    ring

/-! ## One block (R33, R129) -/

/-- The elements of a block, of n bits each. -/
def blockVal (n : Nat) (l : List (Option Int)) : Nat := packed n (l.map (·.elim 0 (wrapTo n)))

/-- The bits of its slot that a block writes: its elements, and the unused bits where it has any. -/
def blockMask (n width : Nat) (l : List (Option Int)) : Nat :=
  2 ^ (32 * n) * (if l.any (·.isSome) then 2 ^ (width - 32 * n) - 1 else 0) +
    packed n (l.map (·.elim 0 fun _ => 2 ^ n - 1))

theorem layBlock_eq (base n width : Nat) (l : List (Option Int)) :
    layBlock base n width l = (2 ^ base * blockVal n l, 2 ^ base * blockMask n width l) := by
  unfold layBlock
  simp only
  rw [foldl_putBits (f := wrapTo n) (base := base) (n := n) (fun _ _ _ => rfl) (fun _ _ => rfl)]
  simp only [blockVal, blockMask, putBits]
  cases l.any (·.isSome) with
  | false => simp
  | true =>
    rcases Nat.lt_or_ge (32 * n) width with h | h
    · simp [h, pow_add]; ring
    · simp [Nat.not_lt.mpr h, Nat.sub_eq_zero_of_le h]

theorem packed_field (n : Nat) (f : Option Int → Nat) (hf : f none = 0) (l : List (Option Int)) (j : Nat) :
    packed n (l.map f) / 2 ^ (n * j) % 2 ^ n = f (l.getD j none) % 2 ^ n := by
  rcases Nat.lt_or_ge j l.length with h | h
  · rw [packed_get n _ j (by simpa using h), List.getElem_map, List.getD_eq_getElem _ _ h]
  · have small : packed n (l.map f) < 2 ^ (n * j) := (packed_lt n _).trans_le
      (Nat.pow_le_pow_right (by decide) (Nat.mul_le_mul_left n (by simpa using h)))
    rw [Nat.div_eq_of_lt small, List.getD_eq_default _ _ h, hf]

theorem blockVal_field (n : Nat) (l : List (Option Int)) (j : Nat) :
    ((blockVal n l / 2 ^ (n * j) % 2 ^ n : Nat) : Int) = (l.getD j none).getD 0 % 2 ^ n := by
  rw [blockVal, packed_field n _ rfl]
  cases l.getD j none with
  | none => simp
  | some v =>
    have : 0 ≤ v % 2 ^ n := Int.emod_nonneg _ (by positivity)
    simp [wrapTo, this]

section
variable {n width : Nat} {l : List (Option Int)} (hl : l.length = 32)
include hl

theorem packed_block_lt (f : Option Int → Nat) : packed n (l.map f) < 2 ^ (32 * n) := by
  have := packed_lt n (l.map f)
  rwa [List.length_map, hl, Nat.mul_comm] at this

theorem blockMask_field {j : Nat} (hj : j < 32) :
    blockMask n width l / 2 ^ (n * j) % 2 ^ n = if (l.getD j none).isSome then 2 ^ n - 1 else 0 := by
  have inside : n * j + n ≤ 32 * n := by nlinarith
  have ones : (2 ^ n - 1) % 2 ^ n = 2 ^ n - 1 := Nat.mod_eq_of_lt (Nat.sub_lt (Nat.two_pow_pos n) one_pos)
  rw [← field_mod inside, blockMask, Nat.mul_add_mod, Nat.mod_eq_of_lt (packed_block_lt hl _), packed_field n _ rfl]
  cases l.getD j none <;> simp [ones]

/-- Beyond its elements a block writes every bit of its slot, or none. -/
theorem blockMask_testBit {p : Nat} (h : 32 * n ≤ p) :
    (blockMask n width l).testBit p = (l.any (·.isSome) && decide (p < width)) := by
  rw [blockMask, Nat.testBit_two_pow_mul_add _ (packed_block_lt hl _), if_neg (by omega)]
  cases l.any (·.isSome) with
  | false => simp
  | true => simp only [if_true, Nat.testBit_two_pow_sub_one, Bool.true_and, decide_eq_decide]; omega

theorem blockVal_testBit {p : Nat} (h : 32 * n ≤ p) : (blockVal n l).testBit p = false :=
  Nat.testBit_lt_two_pow ((packed_block_lt hl _).trans_le (Nat.pow_le_pow_right (by decide) h))

variable (hn : 32 * n ≤ width)
include hn

theorem blockVal_lt : blockVal n l < 2 ^ width :=
  (packed_block_lt hl _).trans_le (Nat.pow_le_pow_right (by decide) hn)

theorem blockMask_lt : blockMask n width l < 2 ^ width := by
  refine Nat.lt_pow_two_of_testBit _ fun p hp => ?_
  rw [blockMask_testBit hl (hn.trans hp), decide_eq_false (Nat.not_lt.mpr hp), Bool.and_false]

end

/-! ## VMXQ and VBFPQ (R129, R130) -/

/-- The elements that a block gives are those of its active source elements. -/
theorem quantBlock_isSome (bias steps lo hi : Int) (mode : Nat) (l : List (Bool × FV)) :
    (quantBlock bias steps lo hi mode l).2.1.map (·.isSome) = l.map (·.1) := by
  unfold quantBlock
  simp only
  split <;>
  · simp only [List.map_map]
    exact List.map_congr_left fun x _ => by cases h : x.1 <;> simp [h]

/-- A block's byte of the scale register, and the bits of it that are written. -/
def scaleVal (b : Nat × List (Option Int) × NFlags) : Nat := if b.2.1.any (·.isSome) then b.1 % 256 else 0

def scaleMask (b : Nat × List (Option Int) × NFlags) : Nat := if b.2.1.any (·.isSome) then 255 else 0

/-- What VMXQ and VBFPQ land: the blocks side by side from slot q on, and their bytes likewise. -/
theorem quantise_eq {o : VOp} {s : State} {q n width blocks : Nat} {bias steps lo hi : Int} (hm : s.cx.mask o.g ≠ 0)
    (hr : s.readable [o.va]) (hn : 32 * n ≤ width) {r : Nat → Nat × List (Option Int) × NFlags}
    (hb : (quantSource o s).map (quantBlock bias steps lo hi (modeOf o.rms s.cx)) = (List.range blocks).map r)
    (hl : ∀ b, (r b).2.1.length = 32) :
    quantise o q n width bias steps lo hi s =
      .next ((s.landV o 5 o.vd.toNat (shelf width q ((List.range blocks).map fun b => blockMask n width (r b).2.1))
        (shelf width q ((List.range blocks).map fun b => blockVal n (r b).2.1))
        (orAll ((List.range blocks).map fun b => (r b).2.2))).landV o 5 o.vb.toNat
          (shelf 8 q ((List.range blocks).map fun b => scaleMask (r b)))
          (shelf 8 q ((List.range blocks).map fun b => scaleVal (r b))) fNone) := by
  have bytes (b : Nat × List (Option Int) × NFlags) : scaleVal b < 2 ^ 8 ∧ scaleMask b < 2 ^ 8 := by
    unfold scaleVal scaleMask
    split <;> omega
  have long : ∀ b ∈ (List.range blocks).map r, b.2.1.length = 32 := by simpa using fun b _ => hl b
  rw [quantise, withB_readable _ _ _ hr]
  simp only [vmode, hb, hm, if_false, layBlock_eq, List.map_map]
  rw [sum_slots (w := width) (q := q) (f := fun b => blockMask n width b.2.1) (fun _ _ => rfl)
      (fun b hb => blockMask_lt (long b hb) hn),
    sum_slots (w := width) (q := q) (f := fun b => blockVal n b.2.1) (fun _ _ => rfl)
      (fun b hb => blockVal_lt (long b hb) hn),
    sum_slots (w := 8) (q := q) (f := scaleMask) ?_ (fun b _ => (bytes b).2),
    sum_slots (w := 8) (q := q) (f := scaleVal) ?_ (fun b _ => (bytes b).1)]
  · simp only [Nat.add_zero, shelf_eq, List.map_map, Function.comp_def]
  · intro b k
    simp only [Function.comp, scaleVal]
    split <;> simp [putBits, Nat.mul_comm]
  · intro b k
    simp only [Function.comp, scaleMask]
    split <;> simp [putBits, Nat.mul_comm]

/-- A source block: which of its 32 elements are active, and their values. -/
def sourceBlock (act : Nat → Nat → Bool) (x : Nat → Nat → FV) (b : Nat) : List (Bool × FV) :=
  (List.range 32).map fun j => (act b j, x b j)

theorem quantSource_eq {o : VOp} (ho : o.ty = 0 ∨ o.ty = 1) (s : State) : quantSource o s =
    (List.range (if o.ty = 0 then 1 else 2)).map
      (sourceBlock (fun b j => active (s.cx.mask o.g) (tyWidth o.ty) (32 * b + j)) fun b j =>
        fdec (fmtOf o.ty) s.cx.ftz (elem (tyWidth o.ty) (s.srcV (tyWidth o.ty) o.va) (32 * b + j))) := by
  have blocks : (if tyWidth o.ty = 32 then 1 else 2) = if o.ty = 0 then 1 else 2 := by
    rcases ho with h | h <;> rw [h] <;> decide
  rw [quantSource, blocks]
  rfl

section
variable {bias steps lo hi : Int} {mode : Nat} {act : Nat → Nat → Bool} {x : Nat → Nat → FV} {b : Nat}

theorem sourceBlock_length : (quantBlock bias steps lo hi mode (sourceBlock act x b)).2.1.length = 32 := by
  rw [← List.length_map (f := (·.isSome)), quantBlock_isSome]
  simp [sourceBlock]

theorem sourceBlock_any :
    (quantBlock bias steps lo hi mode (sourceBlock act x b)).2.1.any (·.isSome) = true ↔ ∃ j < 32, act b j = true := by
  have same := congrArg (List.any · id) (quantBlock_isSome bias steps lo hi mode (sourceBlock act x b))
  rw [List.any_map, List.any_map] at same
  exact (Bool.eq_iff_iff.mp same).trans (by simp [sourceBlock])

theorem sourceBlock_isSome {j : Nat} (hj : j < 32) :
    ((quantBlock bias steps lo hi mode (sourceBlock act x b)).2.1.getD j none).isSome = act b j := by
  have present (l : List (Option Int)) : (l.getD j none).isSome = (l.map (·.isSome)).getD j false :=
    (List.getD_map l none Option.isSome).symm
  rw [present, quantBlock_isSome]
  simp [sourceBlock, List.getD_eq_getElem?_getD, hj]

end

/-- VMXQ and VBFPQ: every bit of the two results, whether it is written and its value. -/
theorem quantise_lands {o : VOp} {s : State} {slot n width blocks : Nat} {bias steps lo hi : Int}
    {act : Nat → Nat → Bool} {x : Nat → Nat → FV} (hm : s.cx.mask o.g ≠ 0) (hr : s.readable [o.va]) (hn0 : 0 < n)
    (hn : 32 * n ≤ width) (fits : width * (slot + blocks) ≤ 1024)
    (source : quantSource o s = (List.range blocks).map (sourceBlock act x)) :
    let r := fun b => quantBlock bias steps lo hi (modeOf o.rms s.cx) (sourceBlock act x b)
    ∃ em ev xm xv, quantise o slot n width bias steps lo hi s = .next ((s.landV o 5 o.vd.toNat em ev
        (orAll ((List.range blocks).map fun b => (r b).2.2))).landV o 5 o.vb.toNat xm xv fNone) ∧
      (∀ p, p < width * slot ∨ width * (slot + blocks) ≤ p → em.getLsbD p = false) ∧
      (∀ y, y < slot ∨ slot + blocks ≤ y → elem 8 xm y = 0) ∧
      ∀ b < blocks,
        let base := width * (slot + b)
        let any := ∃ j < 32, act b j = true
        (any → elem 8 xm (slot + b) = 255 ∧ elem 8 xv (slot + b) = (r b).1 % 256) ∧
        (¬ any → elem 8 xm (slot + b) = 0) ∧
        (∀ p, 32 * n ≤ p → p < width → (em.getLsbD (base + p) = true ↔ any) ∧ ev.getLsbD (base + p) = false) ∧
        ∀ j < 32,
          (act b j = false → em.toNat / 2 ^ (base + n * j) % 2 ^ n = 0) ∧
          (act b j = true → em.toNat / 2 ^ (base + n * j) % 2 ^ n = 2 ^ n - 1 ∧
            ((ev.toNat / 2 ^ (base + n * j) % 2 ^ n : Nat) : Int) = (((r b).2.1.getD j none).getD 0) % 2 ^ n) := by
  intro r
  have hbs : (quantSource o s).map (quantBlock bias steps lo hi (modeOf o.rms s.cx)) = (List.range blocks).map r := by
    rw [source, List.map_map]; rfl
  have fits8 : 8 * (slot + blocks) ≤ 1024 := (Nat.mul_le_mul_right _ (by omega)).trans fits
  refine ⟨_, _, _, _, quantise_eq hm hr hn hbs fun _ => sourceBlock_length, ?_, ?_, fun b hb => ?_⟩
  · intro p hp
    exact getLsbD_shelf_outside (by simpa using fits) (by omega) (by simpa using hp)
  · intro y hy
    exact elem_shelf_outside (by simpa using fits8) (by simpa using hy)
  · have mask := (elem_shelf_range (f := fun b => blockMask n width (r b).2.1) fits hb).trans
      (Nat.mod_eq_of_lt (blockMask_lt sourceBlock_length hn))
    have value := (elem_shelf_range (f := fun b => blockVal n (r b).2.1) fits hb).trans
      (Nat.mod_eq_of_lt (blockVal_lt sourceBlock_length hn))
    have any : (r b).2.1.any (·.isSome) = true ↔ ∃ j < 32, act b j = true := sourceBlock_any
    refine ⟨fun h => ?_, fun h => ?_, fun p hp hw => ?_, fun j hj => ?_⟩
    · rw [elem_shelf_range fits8 hb, elem_shelf_range fits8 hb, scaleMask, scaleVal, if_pos (any.mpr h),
        if_pos (any.mpr h)]
      exact ⟨rfl, Nat.mod_mod _ _⟩
    · rw [elem_shelf_range fits8 hb, scaleMask, if_neg (any.not.mpr h), Nat.zero_mod]
    · rw [getLsbD_eq_elem hw, getLsbD_eq_elem hw, mask, value, blockMask_testBit sourceBlock_length hp,
        blockVal_testBit sourceBlock_length hp]
      simpa [hw] using any
    · have inside : n * j + n ≤ width := by nlinarith
      rw [field_eq_elem inside, field_eq_elem inside, mask, value, blockMask_field sourceBlock_length hj,
        blockVal_field, sourceBlock_isSome hj]
      exact ⟨fun h => by simp [h], fun h => ⟨by simp [h], rfl⟩⟩

/-- The slots of BFP-n hold its 32 mantissas (R33). -/
theorem bfpSlots_hold {n : Nat} (h2 : 2 ≤ n) (h8 : n ≤ 8) : 32 * n ≤ 1024 / bfpSlots n := by
  interval_cases n <;> decide

/-! ## VDQG (R131) -/

/-- The scale of element i's group. -/
def dqgScale (o : VOp) (gs : BitVec 3) (s : State) (i : Nat) : FV :=
  fdec fmtF32 s.cx.ftz (elem 32 (s.srcV 32 o.vb) (i / 2 ^ gs.toNat))

/-- The exact product of element i, its group's scale and the block's power of two. -/
def dqgProduct (o : VOp) (gs : BitVec 3) (eb : Bool) (nm : BitVec 3) (s : State) (i : Nat) : FV × NFlags :=
  let a := sval 32 (elem 32 (s.srcV 32 o.va) i)
  fmulx (.fin (a < 0) a.natAbs 0)
    (fscale (if eb then ((s.cur.b.getD 0).toNat % 256 : Nat) - 127 - nm.toNat else 0) (dqgScale o gs s i))

/-- Element i of VDQG, with its flags. -/
def dqgElem (o : VOp) (gs : BitVec 3) (eb : Bool) (nm : BitVec 3) (s : State) (i : Nat) : Nat × NFlags :=
  if (eb && (s.cur.b.getD 0).toNat % 256 == 255) || fisNan (dqgScale o gs s i) then
    (fnan (fmtOf o.ty), fsig (dqgScale o gs s i))
  else
    let p := dqgProduct o gs eb nm s i
    let r := fround (fmtOf o.ty) (modeOf o.rms s.cx) s.cx.ftz p.1
    (r.1, r.2 ||| p.2)

theorem dqgElem_fst (o : VOp) (gs : BitVec 3) (eb : Bool) (nm : BitVec 3) (s : State) (i : Nat) :
    (dqgElem o gs eb nm s i).1 =
      if (eb && (s.cur.b.getD 0).toNat % 256 == 255) || fisNan (dqgScale o gs s i) then fnan (fmtOf o.ty)
      else (fround (fmtOf o.ty) (modeOf o.rms s.cx) s.cx.ftz (dqgProduct o gs eb nm s i).1).1 := by
  unfold dqgElem
  split <;> rfl

/-- The elements that VDQG writes: those of active lanes of the half that starts at `base`. -/
def dqgWritten (o : VOp) (gs : BitVec 3) (eb : Bool) (nm : BitVec 3) (s : State) (base : Nat) :
    List (Option (Nat × NFlags)) :=
  (List.range 32).map fun i =>
    if active (s.cx.mask o.g) (tyWidth o.ty) (base + i) then some (dqgElem o gs eb nm s i) else none

theorem exec_vdqg {o : VOp} {s : State} {gs nm : BitVec 3} {eb h : Bool} (hm : s.cx.mask o.g ≠ 0)
    (hr : s.readable [o.va, o.vb]) (hb : eb = true → s.cur.b ≠ none) :
    let w := tyWidth o.ty
    let base := if w = 16 && h then 32 else 0
    let l := dqgWritten o gs eb nm s base
    exec (.vdqg o gs eb nm h) s = .next (s.landV o 4 o.vd.toNat (shelf w base (l.map (·.elim 0 fun _ => 2 ^ w - 1)))
      (shelf w base (l.map (·.elim 0 (·.1)))) (orAll (l.map fun x => (x.getD (0, fNone)).2))) := by
  intro w base l
  have readable : s.readable ((if eb then [0x3FF] else []) ++ [o.va, o.vb]) := fun e => by
    rcases List.mem_append.mp e with e | e
    · exact hb (by by_contra h; simp [h] at e)
    · exact hr e
  have byte : bits (s.cur.b.getD 0) 7 0 = (s.cur.b.getD 0).toNat % 256 := by simp [bits]
  show execVdqg o gs eb nm h s = _
  rw [execVdqg, withB_readable _ _ _ readable]
  simp only [hm, if_false, byte]
  rw [foldl_putBits (base := w * base) (n := w) (f := (·.1)) (fun _ _ _ => by rw [← Nat.mul_add]) (fun _ _ => rfl)]
  simp only [Nat.zero_add, Nat.mul_zero, Nat.add_zero, shelf_eq]
  cases eb <;> rfl

theorem vdqg_lands {o : VOp} {s : State} {gs nm : BitVec 3} {eb h : Bool} (hm : s.cx.mask o.g ≠ 0)
    (hr : s.readable [o.va, o.vb]) (hb : eb = true → s.cur.b ≠ none) (ho : o.ty = 0 ∨ o.ty = 1)
    (hh : o.ty = 0 → h = false) :
    let w := tyWidth o.ty
    let at_ := fun i => if h then 32 + i else i
    ∃ mask v fl, exec (.vdqg o gs eb nm h) s = .next (s.landV o 4 o.vd.toNat mask v fl) ∧
      ∀ i < 32,
        (active (s.cx.mask o.g) w (at_ i) = true →
          elem w mask (at_ i) = 2 ^ w - 1 ∧ elem w v (at_ i) = (dqgElem o gs eb nm s i).1 % 2 ^ w) ∧
        (active (s.cx.mask o.g) w (at_ i) = false → elem w mask (at_ i) = 0) := by
  intro w at_
  have half : (if (decide (w = 16) && h) = true then 32 else 0) = if h then 32 else 0 := by
    rcases ho with e | e
    · simp [hh e]
    · simp [w, e, tyWidth]
  have fits : w * ((if h then 32 else 0) + 32) ≤ 1024 := by
    rcases ho with e | e
    · simp [w, e, hh e, tyWidth]
    · cases h <;> simp [w, e, tyWidth]
  refine ⟨_, _, _, exec_vdqg hm hr hb, fun i hi => ?_⟩
  have place : at_ i = (if h then 32 else 0) + i := by cases h <;> simp [at_]
  have ones : (2 ^ w - 1) % 2 ^ w = 2 ^ w - 1 := Nat.mod_eq_of_lt (Nat.sub_lt (Nat.two_pow_pos w) one_pos)
  rw [place, half, dqgWritten, List.map_map, List.map_map, elem_shelf_range fits hi, elem_shelf_range fits hi]
  refine ⟨fun ha => ?_, fun ha => ?_⟩
  · simp only [Function.comp, w, ha, if_true, Option.elim_some]
    exact ⟨ones, trivial⟩
  · simp [w, ha]

/-- Settles O19: VMXQ and VBFPQ are one lemma about the quantisation of blocks laid in slots; VDQG is its own. -/
theorem vectorQuantise : Obligations.VectorQuantise := by
  unfold Obligations.VectorQuantise
  refine ⟨fun s o q n slot ho hm hr h2 h8 => ⟨fun h => ?_, fun h => ?_⟩,
    fun s o gs nm eb h hm hr hb ho hh => ?_⟩
  · exact quantise_lands hm hr (by decide) (by decide) (by omega) (quantSource_eq ho s)
  · have hold := bfpSlots_hold h2 h8
    exact quantise_lands hm hr (by omega) hold
      ((Nat.mul_le_mul_left _ h).trans (Nat.div_mul_le_self _ _)) (quantSource_eq ho s)
  · obtain ⟨mask, v, fl, run, lands⟩ := vdqg_lands (gs := gs) (nm := nm) hm hr hb ho hh
    simp only [dqgElem_fst] at lands
    exact ⟨mask, v, fl, run, lands⟩

end Sys2Proof.Laws
end

section
/-! PROOFS. Encoding and decoding (O53, O52). -/

namespace Sys2Proof.Laws

open Sys2Proof Sys2Proof.Machine

/-- A field of a word: `len` bits from bit `lo` upward, with its value. -/
structure Field where
  lo : Nat
  len : Nat
  v : BitVec len

/-- The word that holds fields. -/
def lay : List Field → Nat
  | [] => 0
  | f :: l => f.v.toNat * 2 ^ f.lo + lay l

/-- A field lies outside the len bits from lo upward. -/
def Field.clear (lo len : Nat) (f : Field) : Bool := f.lo + f.len ≤ lo || lo + len ≤ f.lo

/-- No two fields overlap. -/
def separate : List Field → Bool
  | [] => true
  | f :: l => l.all (·.clear f.lo f.len) && separate l

/-- A value put where w has a blank field changes nothing but that field. -/
theorem field_add_other {w v a n lo len : Nat} (blank : w / 2 ^ a % 2 ^ n = 0) (hv : v < 2 ^ n)
    (h : a + n ≤ lo ∨ lo + len ≤ a) : (v * 2 ^ a + w) / 2 ^ lo % 2 ^ len = w / 2 ^ lo % 2 ^ len := by
  rcases h with h | h
  · have high : (v * 2 ^ a + w) / 2 ^ (a + n) = w / 2 ^ (a + n) := by
      rw [pow_add, ← Nat.div_div_eq_div_mul, ← Nat.div_div_eq_div_mul, Nat.add_comm,
        Nat.add_mul_div_right _ _ (Nat.two_pow_pos a)]
      conv_lhs => rw [← Nat.div_add_mod (w / 2 ^ a) (2 ^ n), blank]
      rw [Nat.add_zero, Nat.mul_add_div (Nat.two_pow_pos n), Nat.div_eq_of_lt hv, Nat.add_zero]
    obtain ⟨k, rfl⟩ := Nat.exists_eq_add_of_le h
    rw [pow_add, ← Nat.div_div_eq_div_mul, high, Nat.div_div_eq_div_mul]
  · obtain ⟨k, rfl⟩ := Nat.exists_eq_add_of_le h
    rw [show v * 2 ^ (lo + len + k) = 2 ^ lo * (2 ^ len * (v * 2 ^ k)) by ring,
      Nat.mul_add_div (Nat.two_pow_pos lo), Nat.mul_add_mod]

/-- A value put where w has a blank field is read there. -/
theorem field_add_same {w v a n : Nat} (blank : w / 2 ^ a % 2 ^ n = 0) (hv : v < 2 ^ n) :
    (v * 2 ^ a + w) / 2 ^ a % 2 ^ n = v := by
  rw [Nat.add_comm, Nat.add_mul_div_right _ _ (Nat.two_pow_pos a), Nat.add_mod, blank, Nat.zero_add,
    Nat.mod_mod, Nat.mod_eq_of_lt hv]

/-- Bits that no field covers are 0. -/
theorem lay_gap {lo len : Nat} {l : List Field} (hs : separate l) (h : l.all (·.clear lo len)) :
    lay l / 2 ^ lo % 2 ^ len = 0 := by
  induction l generalizing lo len with
  | nil => simp [lay]
  | cons f l ih =>
    simp only [separate, List.all_cons, Bool.and_eq_true] at hs h
    rw [lay, field_add_other (ih hs.2 hs.1) f.v.isLt (by simpa [Field.clear] using h.1), ih hs.2 h.2]

/-- Every field is read where it was laid. -/
theorem lay_field {f : Field} {l : List Field} (hs : separate l) (h : f ∈ l) :
    lay l / 2 ^ f.lo % 2 ^ f.len = f.v.toNat := by
  induction l with
  | nil => simp at h
  | cons g l ih =>
    simp only [separate, Bool.and_eq_true] at hs
    have blank := lay_gap hs.2 hs.1
    rcases List.mem_cons.1 h with rfl | h
    · exact field_add_same blank f.v.isLt
    · have away : f.clear g.lo g.len = true := List.all_eq_true.1 hs.1 f h
      rw [lay, field_add_other blank g.v.isLt (by simp [Field.clear] at away; omega), ih hs.2 h]

theorem fld_lay {f : Field} {l : List Field} (hs : separate l) (h : f ∈ l) : fld (lay l) f.lo f.len = f.v :=
  BitVec.eq_of_toNat_eq (by simpa [fld] using lay_field hs h)

/-- No field ends above bit n. -/
def within (n : Nat) (l : List Field) : Bool := l.all fun f => f.lo + f.len ≤ n

theorem lay_lt {n : Nat} {l : List Field} (hs : separate l) (h : within n l) : lay l < 2 ^ n := by
  have high : l.all (·.clear n (lay l / 2 ^ n)) = true := by
    simp only [within, List.all_eq_true, Field.clear, Bool.or_eq_true, decide_eq_true_eq] at h ⊢
    exact fun f hf => .inl (h f hf)
  have zero := lay_gap hs high
  rw [Nat.mod_eq_of_lt Nat.lt_two_pow_self] at zero
  exact (Nat.div_eq_zero_iff.1 zero).resolve_left (Nat.two_pow_pos n).ne'

/-! ## The encoder's items as fields -/

theorem lay_append (k l : List Field) : lay (k ++ l) = lay k + lay l := by
  induction k with
  | nil => simp [lay]
  | cons f k ih => rw [List.cons_append, lay, lay, ih, Nat.add_assoc]

theorem at_bits {n : Nat} (x : BitVec n) (lo : Nat) : at_ x.toNat lo = lay [⟨lo, n, x⟩] := by
  simp [at_, lay]

theorem at_bool (b : Bool) (lo : Nat) : at_ b.toNat lo = lay [⟨lo, 1, BitVec.ofBool b⟩] := by
  cases b <;> simp [at_, lay]

/-- A constant that a row sets, as a field of `len` bits. -/
theorem at_const (len : Nat) {k : Nat} (lo : Nat) (h : k < 2 ^ len) :
    at_ k lo = lay [⟨lo, len, BitVec.ofNat len k⟩] := by
  simp [at_, lay, Nat.mod_eq_of_lt h]

theorem total_nil : total [] = lay [] := by rw [total, lay]

theorem total_cons (x : Nat) (l : List Nat) : total (x :: l) = x + total l := by rw [total]

theorem lay_add (k l : List Field) : lay k + lay l = lay (k ++ l) := (lay_append k l).symm

theorem head_eq {cls op : Nat} (hc : cls < 8) (ho : op < 128) :
    head cls op = lay [⟨27, 3, BitVec.ofNat 3 cls⟩, ⟨20, 7, BitVec.ofNat 7 op⟩] := by
  simp [head, lay, Nat.mod_eq_of_lt hc, Nat.mod_eq_of_lt ho]

/-! ## What the decoder reads -/

/-- The fields l can be read in w, and the bits between them are 0, up to the header's class and marks. -/
structure Reads (w : Nat) (l : List Field) : Prop where
  field : ∀ f ∈ l, fld w f.lo f.len = f.v
  gap : ∀ lo len, l.all (·.clear lo len) → (lo + len ≤ 27 ∨ 32 ≤ lo) → w / 2 ^ lo % 2 ^ len = 0

/-- A run of bits is clear of the fields l and of the header's class and marks. -/
def free (l : List Field) (lo len : Nat) : Bool := l.all (·.clear lo len) && (lo + len ≤ 27 || 32 ≤ lo)

theorem Reads.fld_free {w : Nat} {l : List Field} (h : Reads w l) {lo len : Nat} (hc : free l lo len = true) :
    fld w lo len = 0 := by
  simp only [free, Bool.and_eq_true, Bool.or_eq_true, decide_eq_true_eq] at hc
  exact BitVec.eq_of_toNat_eq (by simpa [fld] using h.gap lo len hc.1 hc.2)

/-- Reserved runs that no field covers do not reject the instruction. -/
theorem Reads.whole {w : Nat} {l : List Field} (h : Reads w l) {r : List (Nat × Nat)} (i : Instr)
    (hr : (r.all fun x => free l x.1 x.2) = true) : whole w r i = .ok i := by
  unfold Sys2Proof.whole
  rw [if_pos]
  simp only [List.all_eq_true, free, Bool.and_eq_true, Bool.or_eq_true, decide_eq_true_eq, beq_iff_eq] at hr ⊢
  exact fun x hx => h.gap _ _ (List.all_eq_true.2 (hr x hx).1) (hr x hx).2

theorem bit_eq (w lo : Nat) : bit w lo = (fld w lo 1 == 1#1) := by
  rcases Nat.mod_two_eq_zero_or_one (w / 2 ^ lo) with h | h <;> simp [bit, fld, h, BitVec.ofNat, Fin.ofNat]

theorem ofBool_beq (b : Bool) : (BitVec.ofBool b == 1#1) = b := by cases b <;> rfl

/-- A selector of one, two or four bits is a field. -/
theorem select_one (w lo : Nat) : w / 2 ^ lo % 2 = (fld w lo 1).toNat := by simp [fld]
theorem select_two (w lo : Nat) : w / 2 ^ lo % 4 = (fld w lo 2).toNat := by simp [fld]
theorem select_four (w lo : Nat) : w / 2 ^ lo % 16 = (fld w lo 4).toNat := by simp [fld]

theorem opOf_eq (w : Nat) : opOf w = (fld w 20 7).toNat := by simp [opOf, fld]

/-- The word of an instruction with the fields f: its class's second map or the first, stop bit and width. -/
def mark (f : Nat) (second stop wide : Bool) : Nat :=
  f + (if stop then 2 ^ 31 else 0) + (if wide then 2 ^ 30 else 0) + (if second then 2 ^ 27 else 0)

/-- The map of a class. -/
def decodeMap (c : Nat) (w : Nat) : Except Reject Instr :=
  match c with
  | 0 => decodeTm w
  | 1 => decodePf w
  | 2 => decodeSc w
  | 3 => decodeV w
  | 4 => decodeV w
  | 5 => decodeMt w
  | _ => decodeC w

theorem decodeMap_three (w : Nat) : decodeMap 3 w = decodeV w := rfl
theorem decodeMap_four (w : Nat) : decodeMap 4 w = decodeV w := rfl
theorem decodeMap_six (w : Nat) : decodeMap 6 w = decodeC w := rfl
theorem decodeMap_seven (w : Nat) : decodeMap 7 w = decodeC w := rfl
theorem decodeClass_eq (w : Nat) : decodeClass w = decodeMap (clsOf w) w := rfl

section
variable {c : BitVec 3} {l : List Field} {second stop wide : Bool}

theorem separate_header (hs : separate l = true) (hb : l.all (·.clear 27 5) = true) :
    separate (⟨27, 3, c⟩ :: ⟨30, 1, BitVec.ofBool wide⟩ :: ⟨31, 1, BitVec.ofBool stop⟩ :: l) = true := by
  have away : ∀ f ∈ l, f.lo + f.len ≤ 27 ∨ 32 ≤ f.lo := by simpa [Field.clear] using hb
  simp only [separate, List.all_cons, Field.clear, hs]
  simp only [List.all_eq_true, Bool.and_eq_true, Bool.or_eq_true, decide_eq_true_eq]
  refine ⟨⟨by simp, by simp, fun f hf => ?_⟩, ⟨by simp, fun f hf => ?_⟩, fun f hf => ?_, trivial⟩ <;>
    have := away f hf <;> omega

theorem separate_class (hs : separate l = true) (hb : l.all (·.clear 27 5) = true) :
    separate (⟨27, 3, c⟩ :: l) = true := by
  have := separate_header (c := c) (wide := false) (stop := false) hs hb
  simp only [separate, List.all_cons, Bool.and_eq_true] at this ⊢
  exact ⟨this.1.2.2, hs⟩

theorem clsOf_lay (hs : separate l = true) (hb : l.all (·.clear 27 5) = true) : clsOf (lay (⟨27, 3, c⟩ ::
    l)) = c.toNat :=
  lay_field (separate_class hs hb) (List.mem_cons_self ..)

/-- A marked word as its fields. -/
theorem mark_eq (h : second = true → c = 3 ∨ c = 6) :
    mark (lay (⟨27, 3, c⟩ :: l)) second stop wide =
      lay (⟨27, 3, if second then c + 1 else c⟩ :: ⟨30, 1, BitVec.ofBool wide⟩ :: ⟨31, 1, BitVec.ofBool stop⟩ ::
          l) := by
  have low : second = true → c.toNat < 7 := fun e => by rcases h e with rfl | rfl <;> decide
  cases second <;> cases stop <;> cases wide <;> simp [mark, lay] at low ⊢ <;> omega

theorem stopOf_mark (hs : separate l = true) (hb : l.all (·.clear 27 5) = true) (h : second = true → c = 3 ∨ c = 6) :
    stopOf (mark (lay (⟨27, 3, c⟩ :: l)) second stop wide) = stop := by
  rw [mark_eq h, stopOf, bit_eq, fld_lay (f := ⟨31, 1, BitVec.ofBool stop⟩) (separate_header hs hb) (by simp)]
  exact ofBool_beq stop

theorem wideOf_mark (hs : separate l = true) (hb : l.all (·.clear 27 5) = true) (h : second = true → c = 3 ∨ c = 6) :
    wideOf (mark (lay (⟨27, 3, c⟩ :: l)) second stop wide) = wide := by
  rw [mark_eq h, wideOf, bit_eq, fld_lay (f := ⟨30, 1, BitVec.ofBool wide⟩) (separate_header hs hb) (by simp)]
  exact ofBool_beq wide

theorem clsOf_mark (hs : separate l = true) (hb : l.all (·.clear 27 5) = true) (h : second = true → c = 3 ∨ c = 6) :
    clsOf (mark (lay (⟨27, 3, c⟩ :: l)) second stop wide) = (if second then c + 1 else c).toNat := by
  rw [mark_eq h]
  exact lay_field (separate_header hs hb) (List.mem_cons_self ..)

theorem mark_lt {n : Nat} (hs : separate l = true) (hb : l.all (·.clear 27 5) = true)
    (h : second = true → c = 3 ∨ c = 6) (hl : within n l = true) (hn : 32 ≤ n) :
    mark (lay (⟨27, 3, c⟩ :: l)) second stop wide < 2 ^ n := by
  rw [mark_eq h]
  refine lay_lt (separate_header hs hb) ?_
  simp only [within, List.all_cons] at hl ⊢
  simp only [hl, Bool.and_true, Bool.and_eq_true, decide_eq_true_eq]
  omega

/-- What the decoder reads of a marked word. -/
theorem reads_mark (hs : separate l = true) (hb : l.all (·.clear 27 5) = true) (h : second = true → c = 3 ∨ c = 6) :
    Reads (mark (lay (⟨27, 3, c⟩ :: l)) second stop wide) l := by
  rw [mark_eq h]
  have sep := separate_header (c := if second then c + 1 else c) (wide := wide) (stop := stop) hs hb
  refine ⟨fun f hf => fld_lay sep (by simp [hf]), fun lo len hg ho => lay_gap sep ?_⟩
  rw [List.all_cons, List.all_cons, List.all_cons, hg]
  simp only [Field.clear, Bool.and_true, Bool.and_eq_true, Bool.or_eq_true, decide_eq_true_eq]
  omega

/-- The map of a marked word is that of its first class. -/
theorem decodeClass_mark (hs : separate l = true) (hb : l.all (·.clear 27 5) = true)
    (h : second = true → c = 3 ∨ c = 6) :
    decodeClass (mark (lay (⟨27, 3, c⟩ :: l)) second stop wide) =
      decodeMap c.toNat (mark (lay (⟨27, 3, c⟩ :: l)) second stop wide) := by
  rw [decodeClass_eq, clsOf_mark hs hb h]
  cases second
  · rfl
  · rcases h rfl with rfl | rfl
    · exact (decodeMap_four _).trans (decodeMap_three _).symm
    · exact (decodeMap_seven _).trans (decodeMap_six _).symm

/-- The high word of a marked word is that of its fields. -/
theorem high_mark (hs : separate l = true) (hb : l.all (·.clear 27 5) = true) (h : second = true → c = 3 ∨ c = 6) :
    mark (lay (⟨27, 3, c⟩ :: l)) second stop wide / 2 ^ 32 % 2 ^ 32 = lay (⟨27, 3, c⟩ :: l) / 2 ^ 32 % 2 ^ 32 := by
  have gap : ∀ (f : Field) (k : List Field), separate (f :: k) = true → f.lo + f.len ≤ 32 →
      lay (f :: k) / 2 ^ 32 % 2 ^ 32 = lay k / 2 ^ 32 % 2 ^ 32 := fun f k sep low => by
    simp only [separate, Bool.and_eq_true] at sep
    exact field_add_other (lay_gap sep.2 sep.1) f.v.isLt (.inl low)
  have sep := separate_header (c := if second then c + 1 else c) (wide := wide) (stop := stop) hs hb
  have tail : ∀ (f : Field) (k : List Field), separate (f :: k) = true → separate k = true := fun f k t => by
    simp only [separate, Bool.and_eq_true] at t; exact t.2
  rw [mark_eq h, gap _ _ sep (by norm_num), gap _ _ (tail _ _ sep) (by norm_num),
    gap _ _ (tail _ _ (tail _ _ sep)) (by norm_num), gap _ _ (separate_class hs hb) (by norm_num)]
end

/-- The syllable x says instruction i: its marks, map, width and size are those of i. -/
structure Says (x : Syl) (i : Instr) (stop : Bool) : Prop where
  stop : stopOf x.w = stop
  wide : wideOf x.w = x.wide
  map : decodeClass x.w = .ok i
  width : widthOk x.wide x.w = true
  size : x.w < 2 ^ (8 * x.bytes)

/-- The class of an instruction's syllable, of two the first (R41). -/
def classOf (i : Instr) : Nat :=
  match i with
  | .tmpl .. => 0
  | .scope _ | .block _ | .ximm .. => 1
  | .nop _ | .halt _ | .trap .. | .rft _ | .add .. | .sub .. | .addi .. | .mul .. | .mulh _ | .mulhu _ | .div _
  | .divu _ | .rem _ | .remu _ | .and _ | .or _ | .xor _ | .andi _ | .ori _ | .xori _ | .shl _ | .shr _ | .sra _
  | .shli _ | .shri _ | .srai _ | .min _ | .max _ | .minu _ | .maxu _ | .clz _ | .popc _ | .li .. | .mov _ | .sel ..
  | .cmp _ | .cmpi _ | .pand _ | .por _ | .pxor _ | .pandn _ | .pmovPP .. | .pmovPS .. | .pmovSP .. | .lds .. | .sts _
  | .br .. | .brl .. | .ret .. | .jmp .. | .loop .. | .loopm .. | .align _ | .waits .. | .waitx .. | .cycW ..
  | .cycC .. | .csrr .. | .csrw .. | .mbr .. | .mbw .. | .rbegin | .rpres .. | .rend _ | .rfail _ | .fence ..
  | .iinv .. | .isync _ => 2
  | .vadd _ | .vsub _ | .vmul _ | .vmulh .. | .vfma _ | .vfms _ | .vfnma _ | .vmac _ | .vmin _ | .vmax _ | .vminu _
  | .vmaxu _ | .vabs _ | .vneg _ | .vand _ | .vor _ | .vxor _ | .vandn _ | .vshl _ | .vshlImm .. | .vshr _
  | .vshrImm .. | .vsra _ | .vsraImm .. | .vcmp .. | .vcmpP .. | .vsel .. | .vmov _ | .vbc .. | .vbcImm .. | .vcvt ..
  | .vred .. | .vperm _ | .vrot .. | .vslideDn .. | .vslideUp .. | .vtint _ | .vrcp _ | .vrsq _ | .vexp2 _ | .vlog2 _
  | .vscl _ | .vmxq .. | .vbfpq .. | .vdqg .. | .vld _ | .vst _ | .vlds _ | .vgth _ | .vsct _ => 3
  | .tld _ | .tst _ | .tstOV _ | .twl .. | .twlMx .. | .tmma .. | .tmmaMx .. | .katt .. | .kattMx .. | .tmmaSmx ..
  | .tsmxInit .. | .tsmxNorm .. | .tzero .. | .tmov .. | .ttrn .. | .xmv _ | .xswap .. | .xstat .. | .xstatA ..
  | .xprogSet .. | .xprogRst .. | .xerase _ | .xeraseAll _ | .xread .. | .xreadE .. | .xremap .. | .xdrift ..
  | .xcalO .. | .xcalG .. | .xcalGC .. | .xwear .. => 5
  | _ => 6

/-- The control operations of the scalar class (R53). -/
def controls (i : Instr) : Bool :=
  match i with
  | .halt _ | .trap .. | .rft _ | .br .. | .brl .. | .ret .. | .jmp .. | .loop .. | .loopm .. | .align _ | .waits ..
  | .waitx .. | .cycW .. | .cycC .. | .csrr .. | .csrw .. | .mbr .. | .mbw .. | .rbegin | .rpres .. | .rend _
  | .rfail _ | .fence .. | .iinv .. | .isync _ => true
  | _ => false

/-- What the encoder writes for i says i, and its header tells the class of i. -/
structure Decodes (i : Instr) : Prop where
  syllable : ∀ second stop x, encode second stop i = some x → Says x i stop
  header : ∀ f, encodeFields i = some f → clsOf f = classOf i ∧ (clsOf f == 2 && controlOp (opOf f)) = controls i

/-- A row's fields are separate, leave the header alone, and fit the width of its class's syllables. -/
def rowOk (cls op : Nat) (l : List Field) : Bool :=
  separate (⟨20, 7, BitVec.ofNat 7 op⟩ :: l) && l.all (·.clear 27 5) && within 64 l &&
    (2 ≤ cls || cls == 1 && op == 2 || within 32 l)

/-- A class permits the width of what the encoder writes. -/
theorem widthOk_mark {c : BitVec 3} {op : Nat} {l : List Field} {second stop wide : Bool} (h4 : c ≠ 4) (h7 : c ≠ 7)
    (hs : separate l = true) (hb : l.all (·.clear 27 5) = true) (h : second = true → c = 3 ∨ c = 6)
    (hw : wide = encodeWide (lay (⟨27, 3, c⟩ :: l)))
    (ho : ∀ w, Reads w l → opOf w = op)
    (narrow : (2 ≤ c.toNat || c.toNat == 1 && op == 2 || within 32 l) = true) :
    widthOk wide (mark (lay (⟨27, 3, c⟩ :: l)) second stop wide) = true := by
  have first : opOf (lay (⟨27, 3, c⟩ :: l)) = op := ho _ (by
    simpa [mark] using reads_mark (c := c) (second := false) (stop := false) (wide := false) hs hb (by simp))
  have low : within 32 l = true → lay (⟨27, 3, c⟩ :: l) / 2 ^ 32 = 0 := fun t =>
    Nat.div_eq_of_lt (lay_lt (separate_class hs hb) (by rw [within, List.all_cons, ← within, t]; rfl))
  rw [widthOk, clsOf_mark hs hb h, ho _ (reads_mark hs hb h)]
  rw [encodeWide, clsOf_lay hs hb, first] at hw
  cases second with
  | true => rcases h rfl with rfl | rfl <;> simp_all
  | false =>
    have classes : ∀ d : BitVec 3, d ≠ 4 → d ≠ 7 → d = 0 ∨ d = 1 ∨ d = 2 ∨ d = 3 ∨ d = 5 ∨ d = 6 := by decide
    rcases classes c (by simp_all) (by simp_all) with rfl | rfl | rfl | rfl | rfl | rfl
    · simp_all
    · by_cases two : op = 2 <;> simp_all
    all_goals simp_all

/-- A marked word fits its syllable. -/
theorem mark_size {c : BitVec 3} {l : List Field} {second stop wide : Bool}
    (hs : separate l = true) (hb : l.all (·.clear 27 5) = true) (h : second = true → c = 3 ∨ c = 6)
    (h64 : within 64 l = true) (hw : wide = encodeWide (lay (⟨27, 3, c⟩ :: l))) :
    mark (lay (⟨27, 3, c⟩ :: l)) second stop wide < 2 ^ (8 * Syl.bytes ⟨wide, mark (lay (⟨27, 3, c⟩ ::
        l)) second stop wide⟩) := by
  have all := mark_lt (second := second) (stop := stop) (wide := wide) hs hb h h64 (by norm_num)
  cases wide with
  | true => exact all
  | false =>
    have high := high_mark (second := second) (stop := stop) (wide := false) hs hb h
    have zero : lay (⟨27, 3, c⟩ :: l) / 2 ^ 32 = 0 := by
      simp only [encodeWide, Bool.false_eq, Bool.or_eq_false_iff, bne_eq_false_iff_eq] at hw
      exact hw.2
    rw [zero] at high
    generalize mark (lay (⟨27, 3, c⟩ :: l)) second stop false = w at all high
    simp only [Syl.bytes, Bool.false_eq_true, if_false]
    omega

/-- A row of the encoder whose items are fields, which its map reads back. -/
theorem Decodes.of_pack {i : Instr} {cls op : Nat} {items : List Nat} {l : List Field}
    (hf : encodeFields i = pack cls op items) (hi : cls = classOf i) (control : (cls == 2 && controlOp op) = controls i)
    (hc : cls < 4 ∨ cls = 5 ∨ cls = 6) (ho : op < 128)
    (hl : total items = lay l) (ok : rowOk cls op l = true)
    (h : ∀ w, Reads w (⟨20, 7, BitVec.ofNat 7 op⟩ :: l) → opOf w = op → (∀ f ∈ l, fld w f.lo f.len = f.v) →
      decodeMap cls w = .ok i) : Decodes i := by
  simp only [rowOk, Bool.and_eq_true] at ok
  obtain ⟨⟨⟨hs, hb⟩, h64⟩, h32⟩ := ok
  generalize hk : (⟨20, 7, BitVec.ofNat 7 op⟩ :: l : List Field) = k at hs h
  have clear : k.all (·.clear 27 5) = true := by rw [← hk, List.all_cons, hb]; rfl
  have to64 : within 64 k = true := by rw [← hk, within, List.all_cons, ← within, h64]; rfl
  have to32 : within 32 k = within 32 l := by rw [← hk, within, List.all_cons, ← within]; rfl
  have lays : encodeFields i = some (lay (⟨27, 3, BitVec.ofNat 3 cls⟩ :: k)) := by
    rw [hf, pack, head_eq (by omega) ho, hl, lay_add, ← hk]; rfl
  have three : (BitVec.ofNat 3 cls).toNat = cls := by rw [BitVec.toNat_ofNat]; omega
  have ops : ∀ w, Reads w k → opOf w = op := fun w r => by
    rw [opOf_eq, r.field ⟨20, 7, BitVec.ofNat 7 op⟩ (by simp [← hk]), BitVec.toNat_ofNat, Nat.mod_eq_of_lt ho]
  have cls_eq : clsOf (lay (⟨27, 3, BitVec.ofNat 3 cls⟩ :: k)) = cls := (clsOf_lay hs clear).trans three
  refine ⟨fun second stop x e => ?_, fun f e => ?_⟩
  rotate_left
  · obtain rfl := Option.some.inj (lays.symm.trans e)
    have first := reads_mark (c := BitVec.ofNat 3 cls) (second := false) (stop := false) (wide := false) hs clear
      (by simp)
    rw [show ∀ f, mark f false false false = f from fun _ => rfl] at first
    rw [cls_eq, ops _ first]
    exact ⟨hi, control⟩
  rw [encode, lays] at e
  simp only [clsOf_lay hs clear, three] at e
  obtain rfl := Option.some.inj e
  generalize hsec : (second && (cls == 3 || cls == 6)) = sec
  have sec_ok : sec = true → BitVec.ofNat 3 cls = 3 ∨ BitVec.ofNat 3 cls = 6 := fun t => by
    subst t; simp at hsec; rcases hsec.2 with rfl | rfl <;> simp
  generalize hw : encodeWide (lay (⟨27, 3, BitVec.ofNat 3 cls⟩ :: k)) = wide
  have r := reads_mark (c := BitVec.ofNat 3 cls) (stop := stop) (wide := wide) hs clear sec_ok
  exact {
    stop := stopOf_mark hs clear sec_ok
    wide := wideOf_mark hs clear sec_ok
    map := by
      refine (decodeClass_mark hs clear sec_ok).trans ?_
      rw [three]
      exact h _ r (ops _ r) fun f hf => r.field f (by simp [← hk, hf])
    width := by
      have one : ∀ n, n < 8 → n ≠ cls → BitVec.ofNat 3 cls ≠ BitVec.ofNat 3 n := fun n hn e t => by
        have := congrArg BitVec.toNat t
        rw [three, BitVec.toNat_ofNat] at this
        omega
      exact widthOk_mark (one 4 (by omega) (by omega)) (one 7 (by omega) (by omega)) hs clear sec_ok hw.symm ops
        (by rwa [three, to32])
    size := mark_size hs clear sec_ok to64 hw.symm }

/-! ## Bytes -/

theorem leNat_leBytes (n x : Nat) : leNat (leBytes n x) = x % 256 ^ n := by
  induction n generalizing x with
  | zero => simp [leBytes, leNat, Nat.mod_one]
  | succ n ih =>
    rw [leBytes, leNat, ih, BitVec.toNat_ofNat, pow_succ' 256, Nat.mod_mul]

@[simp] theorem leBytes_length (n x : Nat) : (leBytes n x).length = n := by
  induction n generalizing x with
  | zero => rfl
  | succ n ih => rw [leBytes, List.length_cons, ih]

theorem leBytes_take (m n x : Nat) (h : m ≤ n) : (leBytes n x).take m = leBytes m x := by
  induction m generalizing n x with
  | zero => rfl
  | succ m ih =>
    obtain ⟨n, rfl⟩ := Nat.exists_eq_add_of_le' h
    rw [← Nat.add_assoc, leBytes, List.take_succ_cons, ih _ _ (by omega), leBytes]

/-- A syllable's bytes are taken back as the syllable. -/
theorem takeSyl_toBytes {x : Syl} (wide : wideOf x.w = x.wide) (size : x.w < 2 ^ (8 * x.bytes)) (rest : List Byte) :
    takeSyl (x.toBytes ++ rest) = some (x, rest) := by
  obtain ⟨b, w⟩ := x
  dsimp only at wide size
  have whole : leNat (leBytes (Syl.bytes ⟨b, w⟩) w) = w := by
    rw [leNat_leBytes, Nat.mod_eq_of_lt]
    rwa [show 256 = 2 ^ 8 from rfl, ← pow_mul]
  have wide4 : wideOf (w % 256 ^ 4) = b := by
    rw [← wide, wideOf, wideOf, bit, bit]; congr 1; omega
  cases b with
  | true =>
    have bytes : Syl.bytes ⟨true, w⟩ = 8 := rfl
    rw [bytes] at whole
    have header : leNat ((leBytes 8 w ++ rest).take 4) = w % 256 ^ 4 := by
      rw [List.take_append_of_le_length (by simp), leBytes_take _ _ _ (by omega), leNat_leBytes]
    simp only [takeSyl, Syl.toBytes, bytes, header, wide4, if_true]
    rw [if_neg (by simp; omega), if_neg (by simp), List.take_left' (by simp), List.drop_left' (by simp), whole]
  | false =>
    have bytes : Syl.bytes ⟨false, w⟩ = 4 := rfl
    rw [bytes] at whole
    have small : w % 256 ^ 4 = w := (leNat_leBytes 4 w).symm.trans whole
    rw [small] at wide4
    simp only [takeSyl, Syl.toBytes, bytes]
    rw [if_neg (by simp), List.take_left' (i := 4) (by simp), whole, if_neg (by simp [wide4]),
      List.drop_left' (by simp)]

theorem scrr_enc (o : ScRR) : o.enc = lay [⟨32, 5, o.g⟩, ⟨14, 6, o.sd⟩, ⟨8, 6, o.sa⟩, ⟨2, 6, o.sb⟩] := by
  simp only [ScRR.enc, total_cons, total_nil, at_bits, lay_add, List.cons_append, List.nil_append]

theorem scri_enc (o : ScRI) : o.enc = lay [⟨32, 5, o.g⟩, ⟨14, 6, o.sd⟩, ⟨8, 6, o.sa⟩, ⟨0, 8, o.imm⟩] := by
  simp only [ScRI.enc, total_cons, total_nil, at_bits, lay_add, List.cons_append, List.nil_append]

theorem scrs_enc (o : ScRS) : o.enc = lay [⟨32, 5, o.g⟩, ⟨14, 6, o.sd⟩, ⟨8, 6, o.sa⟩, ⟨2, 6, o.sh⟩] := by
  simp only [ScRS.enc, total_cons, total_nil, at_bits, lay_add, List.cons_append, List.nil_append]

theorem scru_enc (o : ScRU) : o.enc = lay [⟨32, 5, o.g⟩, ⟨14, 6, o.sd⟩, ⟨8, 6, o.sa⟩] := by
  simp only [ScRU.enc, total_cons, total_nil, at_bits, lay_add, List.cons_append, List.nil_append]

theorem sccmp_enc (o : ScCmp) : o.enc = lay [⟨32, 5, o.g⟩, ⟨16, 4, o.pd⟩, ⟨12, 4, o.cc⟩, ⟨6, 6, o.sa⟩,
    ⟨0, 6, o.sb⟩] := by
  simp only [ScCmp.enc, total_cons, total_nil, at_bits, lay_add, List.cons_append, List.nil_append]

theorem scpp_enc (o : ScPP) : o.enc = lay [⟨32, 5, o.g⟩, ⟨16, 4, o.pd⟩, ⟨12, 4, o.pa⟩, ⟨8, 4, o.pb⟩] := by
  simp only [ScPP.enc, total_cons, total_nil, at_bits, lay_add, List.cons_append, List.nil_append]

theorem scmem_enc (o : ScMem) : o.enc = lay [⟨32, 5, o.g⟩, ⟨14, 6, o.sr⟩, ⟨8, 6, o.sa⟩, ⟨6, 2, o.sz⟩,
    ⟨0, 5, o.off⟩] := by
  simp only [ScMem.enc, total_cons, total_nil, at_bits, lay_add, List.cons_append, List.nil_append]

theorem vop_enc (o : VOp) : o.enc = lay [⟨32, 5, o.g⟩, ⟨37, 1, BitVec.ofBool o.sh⟩, ⟨10, 10, o.vd⟩,
    ⟨0, 10, o.va⟩, ⟨38, 10, o.vb⟩, ⟨48, 3, o.ty⟩, ⟨51, 1, BitVec.ofBool o.sat⟩, ⟨52, 3, o.rms⟩] := by
  simp only [VOp.enc, total_cons, total_nil, at_bits, at_bool, lay_add, List.cons_append, List.nil_append]

theorem vmem_enc (o : VMem) : o.enc = lay [⟨32, 5, o.g⟩, ⟨37, 1, BitVec.ofBool o.sh⟩, ⟨10, 10, o.vd⟩,
    ⟨4, 6, o.sa⟩, ⟨38, 10, o.vx⟩, ⟨48, 16, o.off⟩] := by
  simp only [VMem.enc, total_cons, total_nil, at_bits, at_bool, lay_add, List.cons_append, List.nil_append]

theorem tmem_enc (o : TMem) : o.enc = lay [⟨32, 5, o.g⟩, ⟨37, 1, BitVec.ofBool o.bs⟩, ⟨15, 5, o.t⟩,
    ⟨9, 6, o.sa⟩, ⟨48, 16, o.off⟩] := by
  simp only [TMem.enc, total_cons, total_nil, at_bits, at_bool, lay_add, List.cons_append, List.nil_append]

theorem xmvop_enc (o : XmvOp) : o.enc = lay [⟨32, 5, o.g⟩, ⟨37, 1, BitVec.ofBool o.bs⟩, ⟨10, 10, o.vd⟩,
    ⟨0, 10, o.va⟩, ⟨38, 6, o.grp⟩, ⟨44, 3, o.nm⟩, ⟨47, 6, o.sf⟩, ⟨53, 6, o.sx⟩] := by
  simp only [XmvOp.enc, total_cons, total_nil, at_bits, at_bool, lay_add, List.cons_append, List.nil_append]

theorem xop_enc (o : XOp) : o.enc = lay [⟨32, 5, o.g⟩, ⟨37, 1, BitVec.ofBool o.bs⟩, ⟨4, 6, o.sa⟩] := by
  simp only [XOp.enc, total_cons, total_nil, at_bits, at_bool, lay_add, List.cons_append, List.nil_append]

theorem dop_enc (o : DOp) : o.enc = lay [⟨32, 5, o.g⟩, ⟨37, 1, BitVec.ofBool o.bs⟩, ⟨14, 6, o.sa⟩] := by
  simp only [DOp.enc, total_cons, total_nil, at_bits, at_bool, lay_add, List.cons_append, List.nil_append]

theorem aop_enc (o : AOp) : o.enc = lay [⟨32, 5, o.g⟩, ⟨37, 1, BitVec.ofBool o.bs⟩, ⟨14, 6, o.sa⟩,
    ⟨3, 1, BitVec.ofBool o.sz⟩, ⟨2, 1, BitVec.ofBool o.sp⟩] := by
  simp only [AOp.enc, total_cons, total_nil, at_bits, at_bool, lay_add, List.cons_append, List.nil_append]

theorem decodes_scalar_register :
    (∀ sat o, Decodes (.add sat o)) ∧ (∀ sat o, Decodes (.sub sat o)) ∧ (∀ sat o, Decodes (.mul sat o)) ∧
    (∀ o, Decodes (.mulh o)) ∧ (∀ o, Decodes (.mulhu o)) ∧ (∀ o, Decodes (.div o)) ∧ (∀ o, Decodes (.divu o)) ∧
    (∀ o, Decodes (.rem o)) ∧ (∀ o, Decodes (.remu o)) ∧ (∀ o, Decodes (.and o)) ∧ (∀ o, Decodes (.or o)) ∧
    (∀ o, Decodes (.xor o)) ∧ (∀ o, Decodes (.shl o)) ∧ (∀ o, Decodes (.shr o)) ∧ (∀ o, Decodes (.sra o)) ∧
    (∀ o, Decodes (.min o)) ∧ (∀ o, Decodes (.max o)) ∧ (∀ o, Decodes (.minu o)) ∧ (∀ o, Decodes (.maxu o)) ∧
    (∀ pc o, Decodes (.sel pc o)) ∧ (∀ r, Decodes (.shli r)) ∧ (∀ r, Decodes (.shri r)) ∧
    (∀ r, Decodes (.srai r)) ∧ (∀ u, Decodes (.clz u)) ∧ (∀ u, Decodes (.popc u)) ∧ (∀ u, Decodes (.mov u)) := by
  and_intros <;> intros <;>
  ( refine .of_pack rfl rfl rfl (by decide) (by decide)
      (by simp only [total_cons, total_nil, at_bits, at_bool, scrr_enc, scrs_enc, scru_enc, lay_add, List.cons_append,
            List.nil_append]; rfl) rfl fun w r op hf => ?_
    simp only [List.forall_mem_cons, List.not_mem_nil, false_imp_iff, implies_true, and_true] at hf
    simp only [decodeMap, decodeSc, ScRR.of, ScRS.of, ScRU.of, op, hf, bit_eq, ofBool_beq]
    exact r.whole _ rfl)

theorem decodes_scalar_other :
    (∀ b o, Decodes (.addi b o)) ∧ (∀ o, Decodes (.andi o)) ∧ (∀ o, Decodes (.ori o)) ∧ (∀ o, Decodes (.xori o)) ∧
    (∀ g d imm, Decodes (.li g d imm)) ∧ (∀ c, Decodes (.cmp c)) ∧ (∀ c, Decodes (.cmpi c)) ∧
    (∀ p, Decodes (.pand p)) ∧ (∀ p, Decodes (.por p)) ∧ (∀ p, Decodes (.pxor p)) ∧ (∀ p, Decodes (.pandn p)) ∧
    (∀ g d e, Decodes (.pmovPP g d e)) ∧ (∀ g d e, Decodes (.pmovPS g d e)) ∧ (∀ g d e, Decodes (.pmovSP g d e)) ∧
    (∀ m b, Decodes (.lds m b)) ∧ (∀ m, Decodes (.sts m)) := by
  and_intros <;> intros <;>
  ( refine .of_pack rfl rfl rfl (by decide) (by decide)
      (by simp only [total_cons, total_nil, at_bits, at_bool, scri_enc, sccmp_enc, scpp_enc, scmem_enc, at_const 2,
          Nat.reduceLT, Nat.reducePow, lay_add, List.cons_append,
            List.nil_append]; rfl) rfl fun w r op hf => ?_
    simp only [List.forall_mem_cons, List.not_mem_nil, false_imp_iff, implies_true, and_true] at hf
    simp only [decodeMap, decodeSc, ScRI.of, ScCmp.of, ScPP.of, ScMem.of, op, hf, bit_eq, ofBool_beq, select_two,
      r.fld_free, free, List.all_cons, List.all_nil, Field.clear, Nat.reduceAdd, Nat.reduceLeDiff, decide_true,
          decide_false,
      Bool.or_true, Bool.or_false, Bool.and_self, BitVec.reduceToNat]
    exact r.whole _ rfl)

theorem decodes_control :
    (∀ g, Decodes (.nop g)) ∧ (∀ g, Decodes (.halt g)) ∧ (∀ g code, Decodes (.trap g code)) ∧
    (∀ g, Decodes (.rft g)) ∧ (∀ g o20, Decodes (.br g o20)) ∧ (∀ g d o14, Decodes (.brl g d o14)) ∧
    (∀ g d, Decodes (.ret g d)) ∧ (∀ g d o14, Decodes (.jmp g d o14)) ∧
    (∀ g n blen cnt, Decodes (.loop g n blen cnt)) ∧ (∀ g n blen mbi, Decodes (.loopm g n blen mbi)) ∧
    (∀ code, Decodes (.align code)) ∧ (∀ g d, Decodes (.waits g d)) ∧ (∀ g n d, Decodes (.waitx g n d)) ∧
    (∀ g d, Decodes (.cycW g d)) ∧ (∀ g d e, Decodes (.cycC g d e)) ∧ (∀ g d blen, Decodes (.csrr g d blen)) ∧
    (∀ g d blen, Decodes (.csrw g d blen)) ∧ (∀ g d mbi, Decodes (.mbr g d mbi)) ∧
    (∀ g d mbi, Decodes (.mbw g d mbi)) := by
  and_intros <;> intros <;>
  ( refine .of_pack rfl rfl rfl (by decide) (by decide)
      (by simp only [total_cons, total_nil, at_bits, lay_add, List.cons_append,
            List.nil_append]; rfl) rfl fun w r op hf => ?_
    simp only [List.forall_mem_cons, List.not_mem_nil, false_imp_iff, implies_true, and_true] at hf
    simp only [decodeMap, decodeSc, op, hf]
    exact r.whole _ rfl)

theorem decodes_region :
    Decodes .rbegin ∧ (∀ kind first cnt, Decodes (.rpres kind first cnt)) ∧ (∀ a, Decodes (.rend a)) ∧
    (∀ g, Decodes (.rfail g)) ∧ (∀ g kind, Decodes (.fence g kind)) ∧ (∀ g a b, Decodes (.iinv g a b)) ∧
    (∀ g, Decodes (.isync g)) ∧ (∀ n a, Decodes (.tmpl n a)) ∧ (∀ kind, Decodes (.scope kind)) ∧
    (∀ n, Decodes (.block n)) ∧ (∀ kind x, Decodes (.ximm kind x)) := by
  and_intros <;> intros <;>
  ( refine .of_pack rfl rfl rfl (by decide) (by decide)
      (by simp only [total_cons, total_nil, at_bits, lay_add, List.cons_append,
            List.nil_append]; rfl) rfl fun w r op hf => ?_
    simp only [List.forall_mem_cons, List.not_mem_nil, false_imp_iff, implies_true, and_true] at hf
    simp only [decodeMap, decodeTm, decodePf, decodeSc, op, hf]
    exact r.whole _ rfl)

theorem decodes_vector_plain :
    (∀ o, Decodes (.vadd o)) ∧ (∀ o, Decodes (.vsub o)) ∧ (∀ o, Decodes (.vmul o)) ∧
    (∀ o u, Decodes (.vmulh o u)) ∧ (∀ o, Decodes (.vfma o)) ∧ (∀ o, Decodes (.vfms o)) ∧
    (∀ o, Decodes (.vfnma o)) ∧ (∀ o, Decodes (.vmac o)) ∧ (∀ o, Decodes (.vmin o)) ∧ (∀ o, Decodes (.vmax o)) ∧
    (∀ o, Decodes (.vminu o)) ∧ (∀ o, Decodes (.vmaxu o)) ∧ (∀ o, Decodes (.vabs o)) ∧ (∀ o, Decodes (.vneg o)) ∧
    (∀ o, Decodes (.vand o)) ∧ (∀ o, Decodes (.vor o)) ∧ (∀ o, Decodes (.vxor o)) ∧ (∀ o, Decodes (.vandn o)) ∧
    (∀ o, Decodes (.vmov o)) ∧ (∀ o, Decodes (.vperm o)) ∧ (∀ o, Decodes (.vtint o)) ∧ (∀ o, Decodes (.vrcp o)) ∧
    (∀ o, Decodes (.vrsq o)) ∧ (∀ o, Decodes (.vexp2 o)) ∧ (∀ o, Decodes (.vlog2 o)) ∧
    (∀ o, Decodes (.vscl o)) := by
  and_intros <;> intros <;>
  ( refine .of_pack rfl rfl rfl (by decide) (by decide)
      (by simp only [total_cons, total_nil, at_bool, vop_enc, lay_add, List.cons_append,
            List.nil_append]; rfl) rfl fun w r op hf => ?_
    simp only [List.forall_mem_cons, List.not_mem_nil, false_imp_iff, implies_true, and_true] at hf
    simp only [decodeMap, decodeV, VOp.of, op, hf, bit_eq, ofBool_beq]
    exact r.whole _ rfl)

theorem decodes_vector_fields :
    (∀ o, Decodes (.vshl o)) ∧ (∀ o k, Decodes (.vshlImm o k)) ∧ (∀ o, Decodes (.vshr o)) ∧
    (∀ o k, Decodes (.vshrImm o k)) ∧ (∀ o, Decodes (.vsra o)) ∧ (∀ o k, Decodes (.vsraImm o k)) ∧
    (∀ o c, Decodes (.vcmp o c)) ∧ (∀ o c, Decodes (.vcmpP o c)) ∧ (∀ o c, Decodes (.vsel o c)) ∧
    (∀ o i, Decodes (.vbc o i)) ∧ (∀ o imm, Decodes (.vbcImm o imm)) ∧ (∀ o c d, Decodes (.vcvt o c d)) ∧
    (∀ o a, Decodes (.vred o a)) ∧ (∀ o i, Decodes (.vrot o i)) ∧ (∀ o i, Decodes (.vslideDn o i)) ∧
    (∀ o i, Decodes (.vslideUp o i)) ∧ (∀ o q, Decodes (.vmxq o q)) ∧ (∀ o c d, Decodes (.vbfpq o c d)) ∧
    (∀ o a eb b h, Decodes (.vdqg o a eb b h)) ∧ (∀ m, Decodes (.vld m)) ∧ (∀ m, Decodes (.vst m)) ∧
    (∀ m, Decodes (.vlds m)) ∧ (∀ m, Decodes (.vgth m)) ∧ (∀ m, Decodes (.vsct m)) := by
  and_intros <;> intros <;>
  ( refine .of_pack rfl rfl rfl (by decide) (by decide)
      (by simp only [total_cons, total_nil, at_bits, at_bool, vop_enc, vmem_enc, at_const 1, Nat.reduceLT,
          Nat.reducePow, lay_add, List.cons_append,
            List.nil_append]; rfl) rfl fun w r op hf => ?_
    simp only [List.forall_mem_cons, List.not_mem_nil, false_imp_iff, implies_true, and_true] at hf
    simp only [decodeMap, decodeV, VOp.of, VMem.of, op, hf, bit_eq, ofBool_beq, select_one,
      r.fld_free, free, List.all_cons, List.all_nil, Field.clear, Nat.reduceAdd, Nat.reduceLeDiff, decide_true,
          decide_false,
      Bool.or_true, Bool.or_false, Bool.and_self, BitVec.reduceToNat]
    exact r.whole _ rfl)

theorem decodes_tile :
    (∀ o, Decodes (.tld o)) ∧ (∀ o, Decodes (.tst o)) ∧ (∀ o, Decodes (.tstOV o)) ∧ (∀ g a, Decodes (.twl g a)) ∧
    (∀ g a b, Decodes (.twlMx g a b)) ∧ (∀ g a b e, Decodes (.tmma g a b e)) ∧
    (∀ g a b c e, Decodes (.tmmaMx g a b c e)) ∧ (∀ g a b e, Decodes (.katt g a b e)) ∧
    (∀ g a b c e, Decodes (.kattMx g a b c e)) ∧ (∀ g a b c d e, Decodes (.tmmaSmx g a b c d e)) ∧
    (∀ g a, Decodes (.tsmxInit g a)) ∧ (∀ g a b c, Decodes (.tsmxNorm g a b c)) ∧ (∀ g a, Decodes (.tzero g a)) ∧
    (∀ g a b, Decodes (.tmov g a b)) ∧ (∀ g a b, Decodes (.ttrn g a b)) := by
  and_intros <;> intros <;>
  ( refine .of_pack rfl rfl rfl (by decide) (by decide)
      (by simp only [total_cons, total_nil, at_bits, tmem_enc, at_const 1, Nat.reduceLT, Nat.reducePow, lay_add,
          List.cons_append,
            List.nil_append]; rfl) rfl fun w r op hf => ?_
    simp only [List.forall_mem_cons, List.not_mem_nil, false_imp_iff, implies_true, and_true] at hf
    simp only [decodeMap, decodeMt, TMem.of, op, hf, bit_eq, ofBool_beq, select_one,
      r.fld_free, free, List.all_cons, List.all_nil, Field.clear, Nat.reduceAdd, Nat.reduceLeDiff, decide_true,
          decide_false,
      Bool.or_true, Bool.or_false, Bool.and_self, BitVec.reduceToNat]
    exact r.whole _ rfl)

theorem decodes_crossbar :
    (∀ m, Decodes (.xmv m)) ∧ (∀ g a, Decodes (.xswap g a)) ∧ (∀ g a i, Decodes (.xstat g a i)) ∧
    (∀ g a i, Decodes (.xstatA g a i)) ∧ (∀ o v w n, Decodes (.xprogSet o v w n)) ∧
    (∀ o v w n, Decodes (.xprogRst o v w n)) ∧ (∀ o v w, Decodes (.xread o v w)) ∧
    (∀ o v u r w, Decodes (.xreadE o v u r w)) ∧ (∀ o n, Decodes (.xremap o n)) ∧ (∀ o v, Decodes (.xdrift o v)) ∧
    (∀ o v, Decodes (.xcalO o v)) ∧ (∀ o v, Decodes (.xcalG o v)) ∧ (∀ o v r, Decodes (.xcalGC o v r)) ∧
    (∀ o, Decodes (.xerase o)) ∧ (∀ o, Decodes (.xeraseAll o)) ∧ (∀ o a, Decodes (.xwear o a)) := by
  and_intros <;> intros <;>
  ( refine .of_pack rfl rfl rfl (by decide) (by decide)
      (by simp only [total_cons, total_nil, at_bits, xmvop_enc, xop_enc, at_const 1, Nat.reduceLT, Nat.reducePow,
          lay_add, List.cons_append,
            List.nil_append]; rfl) rfl fun w r op hf => ?_
    simp only [List.forall_mem_cons, List.not_mem_nil, false_imp_iff, implies_true, and_true] at hf
    simp only [decodeMap, decodeMt, XmvOp.of, XOp.of, op, hf, bit_eq, ofBool_beq, select_one,
      r.fld_free, free, List.all_cons, List.all_nil, Field.clear, Nat.reduceAdd, Nat.reduceLeDiff, decide_true,
          decide_false,
      Bool.or_true, Bool.or_false, Bool.and_self, BitVec.reduceToNat]
    exact r.whole _ rfl)

theorem decodes_copy :
    (∀ o, Decodes (.mact o)) ∧ (∀ o, Decodes (.mpre o)) ∧ (∀ o, Decodes (.mprea o)) ∧
    (∀ o a, Decodes (.mrd o a)) ∧ (∀ o a, Decodes (.mwr o a)) ∧ (∀ o a, Decodes (.mrda o a)) ∧
    (∀ o a, Decodes (.mwra o a)) ∧ (∀ o, Decodes (.mref o)) ∧ (∀ o, Decodes (.mrefp o)) ∧
    (∀ o a, Decodes (.mrcp o a)) ∧ (∀ o l, Decodes (.mrcbLd o l)) ∧ (∀ o l, Decodes (.mrcbSt o l)) ∧
    (∀ o l, Decodes (.mrcbInv o l)) ∧ (∀ o, Decodes (.mzro o)) ∧ (∀ o a p z, Decodes (.push o a p z)) ∧
    (∀ o a p z, Decodes (.pull o a p z)) ∧ (∀ o n, Decodes (.layout o n)) ∧
    (∀ o a n z b, Decodes (.xfrG o a n z b)) ∧ (∀ o a n z b, Decodes (.xfrP o a n z b)) ∧
    (∀ o a, Decodes (.istage o a)) := by
  and_intros <;> intros <;>
  ( refine .of_pack rfl rfl rfl (by decide) (by decide)
      (by simp only [total_cons, total_nil, at_bits, dop_enc, at_const 2, Nat.reduceLT, Nat.reducePow, lay_add,
          List.cons_append,
            List.nil_append]; rfl) rfl fun w r op hf => ?_
    simp only [List.forall_mem_cons, List.not_mem_nil, false_imp_iff, implies_true, and_true] at hf
    simp only [decodeMap, decodeC, DOp.of, op, hf, bit_eq, ofBool_beq, select_two,
      r.fld_free, free, List.all_cons, List.all_nil, Field.clear, Nat.reduceAdd, Nat.reduceLeDiff, decide_true,
          decide_false,
      Bool.or_true, Bool.or_false, Bool.and_self, BitVec.reduceToNat]
    exact r.whole _ rfl)

theorem decodes_atomic :
    (∀ o a b, Decodes (.atomAdd o a b)) ∧ (∀ o a b, Decodes (.atomSwap o a b)) ∧
    (∀ o a b c, Decodes (.atomCas o a b c)) ∧ (∀ o a b, Decodes (.atomAnd o a b)) ∧
    (∀ o a b, Decodes (.atomOr o a b)) ∧ (∀ o a b, Decodes (.atomXor o a b)) ∧
    (∀ o a b, Decodes (.atomMin o a b)) ∧ (∀ o a b, Decodes (.atomMax o a b)) ∧
    (∀ o a b, Decodes (.atomMinu o a b)) ∧ (∀ o a b, Decodes (.atomMaxu o a b)) ∧
    (∀ o a b, Decodes (.atomFadd o a b)) ∧ (∀ o a, Decodes (.atomLd o a)) ∧ (∀ o a, Decodes (.redAdd o a)) ∧
    (∀ o a, Decodes (.redSt o a)) ∧ (∀ o a, Decodes (.redAnd o a)) ∧ (∀ o a, Decodes (.redOr o a)) ∧
    (∀ o a, Decodes (.redXor o a)) ∧ (∀ o a, Decodes (.redMin o a)) ∧ (∀ o a, Decodes (.redMax o a)) ∧
    (∀ o a, Decodes (.redMinu o a)) ∧ (∀ o a, Decodes (.redMaxu o a)) ∧ (∀ o a, Decodes (.redFadd o a)) := by
  and_intros <;> intros <;>
  ( refine .of_pack rfl rfl rfl (by decide) (by decide)
      (by simp only [total_cons, total_nil, at_bits, aop_enc, at_const 4, Nat.reduceLT, Nat.reducePow, lay_add,
          List.cons_append,
            List.nil_append]; rfl) rfl fun w r op hf => ?_
    simp only [List.forall_mem_cons, List.not_mem_nil, false_imp_iff, implies_true, and_true] at hf
    simp only [decodeMap, decodeC, AOp.of, op, hf, bit_eq, ofBool_beq, select_four,
      r.fld_free, free, List.all_cons, List.all_nil, Field.clear, Nat.reduceAdd, Nat.reduceLeDiff, decide_true,
          decide_false,
      Bool.or_true, Bool.or_false, Bool.and_self, BitVec.reduceToNat]
    exact r.whole _ rfl)

theorem decodes_trace :
    (∀ o t, Decodes (.trc o t)) ∧ (∀ o t, Decodes (.trcFrz o t)) := by
  and_intros <;> intros <;>
  ( refine .of_pack rfl rfl rfl (by decide) (by decide)
      (by simp only [total_cons, total_nil, at_bits, dop_enc, at_const 1, Nat.reduceLT, Nat.reducePow, lay_add,
          List.cons_append,
            List.nil_append]; rfl) rfl fun w r op hf => ?_
    simp only [List.forall_mem_cons, List.not_mem_nil, false_imp_iff, implies_true, and_true] at hf
    simp only [decodeMap, decodeC, DOp.of, op, hf, bit_eq, ofBool_beq, select_one,
      r.fld_free, free, List.all_cons, List.all_nil, Field.clear, Nat.reduceAdd, Nat.reduceLeDiff, decide_true,
          decide_false,
      Bool.or_true, Bool.or_false, Bool.and_self, BitVec.reduceToNat]
    exact r.whole _ rfl)


/-- Events have no syllable. -/
theorem Decodes.of_none {i : Instr} (h : encodeFields i = none) : Decodes i :=
  ⟨fun second stop x e => by simp [encode, h] at e, fun f e => by simp [h] at e⟩

theorem decodes_event :
    (∀ a, Decodes (.blockLockExpire a)) ∧ (∀ a, Decodes (.alignBarrierComplete a)) ∧
    (∀ a, Decodes (.startAlignment a)) ∧ (∀ a, Decodes (.xmvFallbackEnd a)) ∧
    (∀ a b, Decodes (.commitSweepComplete a b)) ∧ (∀ a b, Decodes (.pulseSettle a b)) ∧
    (∀ a b, Decodes (.glintEvaluation a b)) ∧ (∀ a, Decodes (.guardCommandDrive a)) ∧
    (∀ a, Decodes (.timingFault a)) ∧ (∀ a b, Decodes (.autoPrecharge a b)) ∧
    (∀ a b, Decodes (.dramOperationComplete a b)) ∧ (∀ a, Decodes (.dramReadLanding a)) ∧
    (∀ a, Decodes (.refreshFrameBoundary a)) ∧ (∀ a, Decodes (.custodialRefresh a)) ∧
    (∀ a, Decodes (.idleRefresh a)) ∧ (∀ a b c, Decodes (.xfrBegin a b c)) ∧
    (∀ a b c, Decodes (.xfrComplete a b c)) ∧ (∀ a b c, Decodes (.untimedPortAccess a b c)) ∧
    (∀ a b, Decodes (.demandStaging a b)) ∧ (∀ a b, Decodes (.lineStagingComplete a b)) ∧
    (∀ a, Decodes (.retryEntryWrite a)) ∧ (∀ a b, Decodes (.rrrespRetry a b)) ∧
    (∀ a b, Decodes (.rrrespAbort a b)) ∧ (∀ a b, Decodes (.rrcntWrite a b)) ∧
    (∀ a b, Decodes (.ptrootWrite a b)) ∧ (∀ a b, Decodes (.tlbinvWrite a b)) ∧
    (∀ a, Decodes (.tlbinvComplete a)) ∧ (∀ a b, Decodes (.atomicPerform a b)) ∧
    (∀ a b, Decodes (.atomReturn a b)) ∧ (∀ a, Decodes (.traceFreeze a)) ∧ (∀ a, Decodes (.resultLanding a)) ∧
    (∀ a, Decodes (.holdRelease a)) ∧ (∀ a, Decodes (.trapHandlerEntry a)) ∧ (∀ a, Decodes (.thaw a)) ∧
    (∀ a, Decodes (.regionRollback a)) ∧ (∀ a, Decodes (.latencyClass a)) ∧ (∀ a, Decodes (.retrainRequest a)) ∧
    (∀ a b, Decodes (.retrainComplete a b)) ∧ (∀ a b, Decodes (.overTemperature a b)) ∧
    (∀ a, Decodes (.preempt a)) ∧ (∀ a, Decodes (.resume a)) ∧ (∀ a b c, Decodes (.nodeBind a b c)) ∧
    (∀ a, Decodes (.nodeRetire a)) ∧ (∀ a, Decodes (.nodeRequeue a)) ∧ (∀ a, Decodes (.wdogTimeout a)) ∧
    (∀ a, Decodes (.eventRecordWrite a)) ∧ (∀ a, Decodes (.evcoalTimeout a)) ∧
    (∀ a b c d, Decodes (.launchWrite a b c d)) ∧ (∀ a b, Decodes (.qctlAbort a b)) ∧
    (∀ a b, Decodes (.qctlErrClear a b)) ∧ (∀ a b, Decodes (.imgloadLoad a b)) ∧
    (∀ a b, Decodes (.imgloadUnload a b)) ∧ (∀ a, Decodes (.imageLoadComplete a)) ∧
    (∀ a b c, Decodes (.shardProgram a b c)) ∧ Decodes .partitionCreate ∧ Decodes .partitionResize ∧
    Decodes .partitionRelease ∧ (∀ a, Decodes (.reclamationComplete a)) ∧ (∀ a, Decodes (.functionLevelReset a)) ∧
    (∀ a, Decodes (.flrComplete a)) ∧ (∀ a b, Decodes (.rrbaseWrite a b)) ∧ (∀ a b, Decodes (.evbaseWrite a b)) ∧
    (∀ a b, Decodes (.evtailWrite a b)) ∧ (∀ a b c, Decodes (.syncwinRead a b c)) ∧
    (∀ a b c d, Decodes (.syncwinWrite a b c d)) ∧ (∀ a b c, Decodes (.registerWrite a b c)) ∧
    (∀ a, Decodes (.trcctlFrozenClear a)) ∧ (∀ a, Decodes (.trccopyWrite a)) ∧ Decodes .trccopyComplete ∧
    (∀ a, Decodes (.qtrcopyWrite a)) ∧ Decodes .qtrcopyComplete ∧ (∀ a, Decodes (.attreqWrite a)) ∧
    Decodes .attestationReport ∧ Decodes .dumpcmdGo ∧ (∀ a, Decodes (.fatalError a)) ∧
    (∀ a, Decodes (.errinjWrite a)) ∧ Decodes .boot ∧ (∀ a, Decodes (.bootaddrWrite a)) ∧
    (∀ a, Decodes (.pwrcapWrite a)) ∧ (∀ a, Decodes (.powerSample a)) := by
  and_intros <;> intros <;> exact .of_none rfl

theorem decodes (i : Instr) : Decodes i := by
  cases i <;> simp only [decodes_scalar_register, decodes_scalar_other, decodes_control, decodes_region,
    decodes_vector_plain, decodes_vector_fields, decodes_tile, decodes_crossbar, decodes_copy, decodes_atomic,
    decodes_trace, decodes_event]

theorem decodeSyl_says {x : Syl} {i : Instr} {stop : Bool} (h : Says x i stop) (l : legal i = none) :
    decodeSyl x.wide x.w = .ok i := by
  rw [decodeSyl, h.map]
  simp [h.width, l]

theorem decodeBytes_says {x : Syl} {i : Instr} {stop : Bool} (h : Says x i stop) (l : legal i = none)
    (rest : List Byte) : decodeBytes (x.toBytes ++ rest) = .ok (i, rest) := by
  rw [decodeBytes, takeSyl_toBytes h.wide h.size]
  simp only [decodeSyl_says h l]

/-- A legal instruction has fields. -/
theorem fields_or_illegal (i : Instr) : ((encodeFields i).isSome || (legal i).isSome) = true := by cases i <;> rfl

theorem encodable (i : Instr) : Encodable.Statement i := by
  intro l
  refine Encodable.of_fields ?_ l
  simpa [l] using fields_or_illegal i

/-- Settles O53: every row of the encoder lays separate fields (`Decodes.of_pack`), which its map reads back. -/
theorem encodeThenDecode : Obligations.EncodeThenDecode := by
  unfold Obligations.EncodeThenDecode
  intro i second stop l
  obtain ⟨x, e⟩ := encodable i l second stop
  have h := (decodes i).syllable second stop x e
  exact ⟨x, e, h.stop, h.wide, decodeSyl_says h l, decodeBytes_says h l⟩

/-- Settles O52: each word is evaluated. -/
theorem wordsDecode : Obligations.WordsDecode := by
  unfold Obligations.WordsDecode
  decide

end Sys2Proof.Laws
end

section
/-! PROOFS. Scalar moves (O3). -/

namespace Sys2Proof.Laws

open Sys2Proof Sys2Proof.Machine

/-! ## Scalar moves (R106, R110, R87) -/

/-- A guarded scalar operation lands its register (R103). -/
theorem scalarOp_guarded {g : Guard} {s : State} (hg : s.guarded g = true) (sd : BitVec 6) (off : Nat)
    (f : Ctx → Word × NFlags) :
    scalarOp g sd off f s = .next (s.landing off (f s.cx).2 false (.sreg sd.toNat (f s.cx).1)) := if_pos hg

/-- The two tests of a bit agree. -/
theorem bitAt_eq_getLsbD {n : Nat} (w : BitVec n) (k : Nat) : bitAt w k = w.getLsbD k := by
  rw [bitAt, BitVec.getLsbD, Nat.testBit_eq_decide_div_mod_eq]; rfl

/-- An extended immediate is the extension above the field (R56). -/
theorem immOf_some {w : Nat} (i : BitVec w) (x : Half) : immOf i (some x) = (x ++ i).toInt := by
  have join : x.toNat * 2 ^ w + i.toNat = (x ++ i).toNat := by
    rw [BitVec.toNat_append, ← Nat.shiftLeft_add_eq_or_of_lt i.isLt, Nat.shiftLeft_eq]
  rw [immOf, join, BitVec.ofNat_toNat, BitVec.setWidth_eq]

/-- Settles O3: each operation lands what its source gives; an immediate without and with its extension. -/
theorem scalarMoves : Obligations.ScalarMoves := by
  unfold Obligations.ScalarMoves
  refine ⟨fun s g sd se sa sb pc mbi imm hg => ?_, fun w i x => ⟨rfl, immOf_some i x⟩⟩
  intro c lands
  refine ⟨scalarOp_guarded hg sd 1 fun _ => (BitVec.ofInt 64 (immOf imm s.cur.ext), fNone),
    scalarOp_guarded hg sd 1 fun c => (c.rs sa.toNat, fNone), ?_, ?_, ?_, ?_, ?_, fun se0 hr => ?_⟩
  · rw [← bitAt_eq_getLsbD]
    exact scalarOp_guarded hg sd 1 fun c =>
      (if bitAt (c.rp pc.toNat) 0 then c.rs sa.toNat else c.rs sb.toNat, fNone)
  · exact congrArg _ (if_pos hg)
  · exact congrArg _ (if_pos hg)
  · exact congrArg _ (if_pos hg)
  · show execCycC g sd 0 s = _
    simp only [execCycC, hg, Bool.not_true, Bool.false_eq_true, if_false]
    rfl
  · have live : s.replaying = false := by
      rw [State.replaying, hr]; rfl
    show execCycC g sd se s = _
    simp only [execCycC, hg, live, se0, Bool.not_true, Bool.false_eq_true, if_false]
    rfl

end Sys2Proof.Laws
end

section
/-! PROOFS. A step runs the decoded instruction (O58). -/

namespace Sys2Proof.Laws

open Sys2Proof Sys2Proof.Machine

/-! ## Bundles (R47 to R57) -/

/-- A core that issues runs its bundle: what stands before its slots, its slots in order, its end. -/
theorem step_issues {s : State} {i : Nat} {l : List Syl} {next : BitVec 54} (h : s.Issues i l next) :
    step s = andThen (issueAll State.prefixOp (l.filter fun x => x.cls ≤ 1) (s.openBundle i l next)) fun p =>
      andThen (issueAll (State.issueSlot l) ([1, 2, 3, 4, 5, 6].filter fun k => decide ((s.ctx i).sres ≤ k)) p) fun t =>
        .next t.closeBundle := by
  obtain ⟨live, phase, turn, fetched⟩ := h
  rw [step, live]
  simp only [State.advance, phase, turn, State.issueBundle, fetched]

theorem issueAll_nil {α : Type} (f : α → State → Out) (s : State) : issueAll f [] s = .next s := rfl

theorem issueAll_cons {α : Type} (f : α → State → Out) (x : α) (l : List α) (s : State) :
    issueAll f (x :: l) s = andThen (f x s) (issueAll f l) := rfl

theorem issueAll_append {α : Type} (f : α → State → Out) (l m : List α) (s : State) :
    issueAll f (l ++ m) s = andThen (issueAll f l s) (issueAll f m) := by
  induction l generalizing s with
  | nil => rfl
  | cons x l ih =>
    rw [List.cons_append, issueAll_cons, issueAll_cons]
    cases f x s with
    | next t => exact ih t
    | fault r => rfl
    | refused r => rfl

@[simp] theorem andThen_next (s : State) (f : State → Out) : andThen (.next s) f = f s := rfl

theorem andThen_assoc (o : Out) (f g : State → Out) : andThen (andThen o f) g = andThen o fun t => andThen (f t) g := by
  cases o <;> rfl

/-! ### A bundle of one syllable -/

section
variable {x : Syl} (hx : 2 ≤ x.cls)
include hx

theorem tmplOf_single : tmplOf [x] = (0, fun _ => false) := by
  have : ¬ x.cls = 0 := by omega
  simp [tmplOf, this]

theorem slotSyl_single (k : Nat) : slotSyl [x] k = if k = slotOf x.cls then some x else none := by
  have own : (x.cls == k + 1) = decide (k = slotOf x.cls) := by
    rw [Bool.eq_iff_iff, beq_iff_eq, decide_eq_true_iff, slotOf]; omega
  rw [slotSyl, List.find?_cons, own]
  by_cases h : k = slotOf x.cls <;> simp [h]

theorem ximms_single : ximms [x] = [] := by
  have : ¬ x.cls = 1 := by omega
  simp [ximms, ximmOf, this]

theorem opAt_single (c : Ctx) (k : Nat) : c.opAt [x] k =
    if k = slotOf x.cls then
      some { slot := k, raw := sylHeader x, ext := none, latch := none
             instr := match decodeSyl x.wide x.w with
               | .ok i => some i
               | .error _ => none }
    else none := by
  by_cases h : k = slotOf x.cls <;>
    simp [Ctx.opAt, Ctx.slotOp, tmplOf_single hx, slotSyl_single hx, h, ximms_single hx, extOf] <;> rfl

/-- Every other slot is empty. -/
theorem issueAll_empty {l : List Nat} (h : slotOf x.cls ∉ l) (s : State) : issueAll (State.issueSlot [x]) l s = .next s := by
  induction l with
  | nil => rfl
  | cons k l ih =>
    have away : k ≠ slotOf x.cls := fun e => h (e ▸ List.mem_cons_self ..)
    have skip : State.issueSlot [x] k s = .next s := by
      rw [State.issueSlot, opAt_single hx, if_neg away]
      split <;> rfl
    rw [issueAll_cons, skip, andThen_next]
    exact ih fun m => h (List.mem_cons_of_mem _ m)

/-- The slots of a bundle of one syllable run that syllable's. -/
theorem issueAll_single {l : List Nat} (once : l.Nodup) (h : slotOf x.cls ∈ l) (s : State) :
    issueAll (State.issueSlot [x]) l s = State.issueSlot [x] (slotOf x.cls) s := by
  obtain ⟨a, b, rfl⟩ := List.append_of_mem h
  rw [List.nodup_append, List.nodup_cons] at once
  obtain ⟨-, ⟨above, -⟩, below⟩ := once
  have lower : slotOf x.cls ∉ a := fun m => below _ m _ (List.mem_cons_self ..) rfl
  rw [issueAll_append, issueAll_empty hx lower, andThen_next, issueAll_cons]
  cases State.issueSlot [x] (slotOf x.cls) s with
  | next t => exact issueAll_empty hx above t
  | fault r => rfl
  | refused r => rfl
end

/-! ### Fetch of one syllable (R57, R246) -/

/-- A word of a line that stands in its slot. -/
theorem fetchWord_of_line {m : SMap ILine} {a : BitVec 54} {l : ILine}
    (there : SMap.get? m (slotOfLine (a.toNat / 64 * 64)) = some l) (tag : l.tag = tagOfLine (a.toNat / 64 * 64))
    (valid : l.st = .valid) (good : l.bad = false) :
    fetchWord m a = .ok (l.data.toNat / 2 ^ (8 * (a.toNat % 64)) % 2 ^ 32) := by
  simp [fetchWord, there, tag, valid, good]

theorem bit_eq_testBit (w k : Nat) : bit w k = w.testBit k := by
  rw [bit, Nat.testBit_eq_decide_div_mod_eq]; rfl

/-- The bit below the cut of a number is the bit of the part. -/
theorem bit_mod {w n k : Nat} (h : k < n) : bit (w % 2 ^ n) k = bit w k := by
  rw [bit_eq_testBit, bit_eq_testBit, Nat.testBit_mod_two_pow, decide_eq_true h, Bool.true_and]

/-- The line of a bundle's first byte holds the whole of its one syllable. -/
structure HoldsSyllable (c : Core) (line : ILine) (x : Syl) : Prop where
  there : SMap.get? c.istore (slotOfLine (c.ctx.pc.toNat / 64 * 64)) = some line
  tag : line.tag = tagOfLine (c.ctx.pc.toNat / 64 * 64)
  valid : line.st = .valid
  good : line.bad = false
  room : c.ctx.pc.toNat % 64 + x.bytes ≤ 64
  word : x.w = line.data.toNat / 2 ^ (8 * (c.ctx.pc.toNat % 64)) % 2 ^ (8 * x.bytes)
  wide : wideOf x.w = x.wide
  stop : stopOf x.w = true

section
variable {c : Core} {line : ILine} {x : Syl} (h : HoldsSyllable c line x)
include h

theorem HoldsSyllable.fetchWord_low : fetchWord c.istore c.ctx.pc =
    .ok (line.data.toNat / 2 ^ (8 * (c.ctx.pc.toNat % 64)) % 2 ^ 32) :=
  fetchWord_of_line h.there h.tag h.valid h.good

/-- The high word of a wide syllable is in the same line. -/
theorem HoldsSyllable.fetchWord_high (w : x.wide = true) : fetchWord c.istore (c.ctx.pc + 4) =
    .ok (line.data.toNat / 2 ^ (8 * (c.ctx.pc.toNat % 64)) / 2 ^ 32 % 2 ^ 32) := by
  have room := h.room
  rw [Syl.bytes, if_pos w] at room
  have next : (c.ctx.pc + 4).toNat = c.ctx.pc.toNat + 4 := by bv_omega
  have sameLine : (c.ctx.pc.toNat + 4) / 64 = c.ctx.pc.toNat / 64 := by omega
  have offset : 8 * ((c.ctx.pc.toNat + 4) % 64) = 8 * (c.ctx.pc.toNat % 64) + 32 := by omega
  rw [fetchWord_of_line (l := line) (by rw [next, sameLine]; exact h.there) (by rw [next, sameLine]; exact h.tag)
    h.valid h.good, next, offset, pow_add, Nat.div_div_eq_div_mul]

theorem HoldsSyllable.fetch_eq : c.fetch = .bundle [x] (c.ctx.pc + BitVec.ofNat 54 x.bytes) := by
  have word := h.word
  have wide := h.wide
  have stop := h.stop
  rw [Core.fetch, fetchFrom, h.fetchWord_low]
  obtain ⟨wd, w⟩ := x
  cases wd with
  | false =>
    have low : w = line.data.toNat / 2 ^ (8 * (c.ctx.pc.toNat % 64)) % 2 ^ 32 := word
    simp only [← low, wide, stop]
    rfl
  | true =>
    have whole : w = line.data.toNat / 2 ^ (8 * (c.ctx.pc.toNat % 64)) % (2 ^ 32 * 2 ^ 32) := word
    have cut : w % 2 ^ 32 = line.data.toNat / 2 ^ (8 * (c.ctx.pc.toNat % 64)) % 2 ^ 32 := by
      rw [whole, Nat.mod_mul_right_mod]
    have lowWide : wideOf (w % 2 ^ 32) = true := (bit_mod (by omega)).trans wide
    have lowStop : stopOf (w % 2 ^ 32) = true := (bit_mod (by omega)).trans stop
    simp only [← cut, lowWide, lowStop, h.fetchWord_high rfl]
    rw [cut, mul_comm _ (2 ^ 32), ← Nat.mod_mul, ← whole]
    rfl
end

/-! ### The step -/

/-- The state in which a bundle's slots begin is not trapped, stands at its core and has that core's context. -/
theorem openBundle_trapped (s : State) (i : Nat) (l : List Syl) (next : BitVec 54) :
    (s.openBundle i l next).cur.trapped = false := by
  rw [State.openBundle]; dsimp only; split <;> rfl

theorem openBundle_site (s : State) (i : Nat) (l : List Syl) (next : BitVec 54) :
    (s.openBundle i l next).cur.site = i := by
  rw [State.openBundle]; dsimp only; split <;> rfl

/-- An operation that a replay does not withhold executes, and settles. -/
theorem issueOp_eq {s : State} {x : Op} {i : Instr} (hi : x.instr = some i) (h : (s.ctx s.cur.site).replay = none) :
    s.issueOp x = andThen (exec i (s.prepare x)) fun t =>
      .next (t.settle x i ((s.prepare x).readError (x.slot == 2 || x.slot == 3) i)) := by
  have runs : (s.prepare x).replaying = false := by
    show (s.ctx s.cur.site).replay.isSome = false
    rw [h]; rfl
  simp only [State.issueOp, hi, runs, Bool.false_and, Bool.false_eq_true, if_false]

/-- Settles O58: the fetch finds the syllable, the other slots of its bundle are empty, and its own runs it. -/
theorem stepRunsTheInstruction : Obligations.StepRunsTheInstruction := by
  intro s i n x ins line c pc w live phase turn noReplay there tag valid good _ room hn word wide stop decodes next u op v
    low high from_
  subst hn
  have found : c.fetch = .bundle [x] next :=
    HoldsSyllable.fetch_eq ⟨there, tag, valid, good, room, word, wide, stop⟩
  have noPrefix : [x].filter (fun y => y.cls ≤ 1) = [] := by
    have : ¬ x.cls ≤ 1 := by omega
    simp [this]
  have slots : slotOf x.cls ∈ [1, 2, 3, 4, 5, 6].filter fun k => decide ((s.ctx i).sres ≤ k) := by
    rw [List.mem_filter, decide_eq_true_iff]
    refine ⟨?_, from_⟩
    have : slotOf x.cls + 1 = x.cls := by rw [slotOf]; omega
    simp only [List.mem_cons, List.not_mem_nil, or_false]; omega
  have once : ([1, 2, 3, 4, 5, 6].filter fun k => decide ((s.ctx i).sres ≤ k)).Nodup :=
    List.Nodup.filter _ (by decide)
  have at_ : (u.ctx u.cur.site).opAt [x] (slotOf x.cls) = some op := by
    rw [opAt_single low, if_pos rfl, decodes]
  have run : State.issueSlot [x] (slotOf x.cls) u = u.issueOp op := by
    rw [State.issueSlot, at_]
    simp only [u, openBundle_trapped, Bool.false_eq_true, if_false]
  have here : (u.ctx u.cur.site).replay = none := by
    rw [show u.cur.site = i from openBundle_site s i [x] next]; exact noReplay
  rw [step_issues ⟨live, phase, turn, found⟩, noPrefix, issueAll_nil, andThen_next,
    issueAll_single low once slots, run, issueOp_eq rfl here, andThen_assoc]
  rfl

end Sys2Proof.Laws
end

section
/-! PROOFS. A false guard or an empty lane mask (O59). -/

namespace Sys2Proof.Laws

open Sys2Proof Sys2Proof.Machine

/-! ## Nothing but the latch's address (R43) -/

/-- An operation did nothing but give its latch an address. -/
def Idle (s : State) (o : Out) : Prop := ∃ e, o = .next { s with cur := { s.cur with ea := e } }

theorem Idle.refl (s : State) : Idle s (.next s) := ⟨s.cur.ea, rfl⟩

theorem Idle.setEa (s : State) (a b : Int) : Idle s (.next (s.setEa a b)) := ⟨some (a, b), rfl⟩

theorem Idle.ite_pos {s : State} {c : Prop} [Decidable c] {o p : Out} (hc : c) (h : Idle s o) :
    Idle s (if c then o else p) := by rwa [if_pos hc]

theorem Idle.ite_neg {s : State} {c : Prop} [Decidable c] {o p : Out} (hc : ¬ c) (h : Idle s p) :
    Idle s (if c then o else p) := by rwa [if_neg hc]

/-- B carries a value where the operation takes it for its first source. -/
theorem Idle.withScalar {s : State} {bs : Bool} {r : BitVec 6} {k : Word → Out} (hb : bs = true → s.cur.b ≠ none)
    (h : ∀ v, Idle s (k v)) : Idle s (withScalar bs r s k) := by
  unfold Machine.withScalar
  split
  · split
    · exact h _
    · next empty => exact absurd empty (hb ‹_›)
  · exact h _

/-- B carries a value where a vector operation names it. -/
theorem Idle.withB {s : State} {l : List (BitVec 10)} {o : Out} (hb : l.contains 0x3FF = true → s.cur.b ≠ none)
    (h : Idle s o) : Idle s (withB l s o) := by
  unfold Machine.withB
  refine Idle.ite_neg ?_ h
  rw [Bool.and_eq_true, Option.isNone_iff_eq_none]
  exact fun ⟨named, empty⟩ => hb named empty

/-! ### Shapes under a false guard -/

section
variable {s : State} {g : Guard} (h : s.guarded g = false)
include h

theorem not_guarded : (!s.guarded g) = true := by rw [h]; rfl

theorem guarded_ne : ¬ s.guarded g = true := by rw [h]; exact Bool.false_ne_true

theorem idle_unless_guarded {o : Out} : Idle s (if !s.guarded g then .next s else o) :=
  .ite_pos (not_guarded h) (.refl s)

theorem idle_if_guarded {t : State} : Idle s (.next (if s.guarded g then t else s)) := by
  rw [if_neg (guarded_ne h)]; exact .refl s

theorem idle_scalarOp {sd : BitVec 6} {off : Nat} {f : Ctx → Word × NFlags} : Idle s (scalarOp g sd off f s) :=
  .ite_neg (guarded_ne h) (.refl s)

theorem idle_predOp {pd : Nat} {f : Ctx → Half} : Idle s (predOp g pd f s) := .ite_neg (guarded_ne h) (.refl s)

theorem idle_ea {a b : Int} {o : Out} : Idle s (if !(s.setEa a b).guarded g then .next (s.setEa a b) else o) :=
  .ite_pos (not_guarded h) (.setEa s a b)
end

theorem idle_scalarMem {s : State} {o : ScMem} (h : s.guarded o.g = false) {k : Nat → Nat → State → State} :
    Idle s (scalarMem o s k) := idle_ea h

section
variable {s : State}

theorem idle_copyOp {o : DOp} (h : s.guarded o.g = false) (hb : o.bs = true → s.cur.b ≠ none) {k : Word → Out} :
    Idle s (copyOp o s k) := .withScalar hb fun _ => idle_unless_guarded h

theorem idle_calib {o : XOp} (h : s.guarded o.g = false) (hb : o.bs = true → s.cur.b ≠ none)
    {k : Nat → Nat → State → Out} : Idle s (calib o s k) := .withScalar hb fun _ => idle_ea h

theorem idle_tileMem {o : TMem} {n : Nat} (h : s.guarded o.g = false) (hb : o.bs = true → s.cur.b ≠ none)
    {k : Nat → State → State} : Idle s (tileMem o n s k) := .withScalar hb fun _ => idle_ea h

theorem idle_dram {o : DOp} {x : DramOp} {sb : BitVec 6} (h : s.guarded o.g = false)
    (hb : o.bs = true → s.cur.b ≠ none) : Idle s (dram x o sb s) := .withScalar hb fun _ => idle_ea h

theorem idle_fabric {o : DOp} {sr : BitVec 6} {peer : BitVec 7} {sz : BitVec 2} (h : s.guarded o.g = false)
    (hb : o.bs = true → s.cur.b ≠ none) {k : Nat → Nat → Nat → Nat → Nat × Bool → Cohort → State → State} :
    Idle s (fabric o sr peer sz s k) := .withScalar hb fun _ => idle_ea h

theorem idle_xfr {get : Bool} {o : DOp} {sv st : BitVec 6} {lyn : BitVec 4} {ch : BitVec 2}
    (h : s.guarded o.g = false) (hb : o.bs = true → s.cur.b ≠ none) : Idle s (xfr get o sv lyn ch st s) :=
  .withScalar hb fun _ => idle_ea h

theorem idle_atomic {ret : Bool} {op : AtomOp} {o : AOp} {sb sc sd : BitVec 6} (h : s.guarded o.g = false)
    (hb : o.bs = true → s.cur.b ≠ none) : Idle s (atomic ret op o sb sc sd s) := .withScalar hb fun _ => idle_ea h
end

/-! ### Shapes without an active lane -/

section
variable {s : State} {o : VOp} (h : s.cx.mask o.g = 0)
include h

theorem idle_vecOut {off w : Nat} {f : Nat → Nat × NFlags} : Idle s (vecOut o off w f s) := .ite_pos h (.refl s)

theorem idle_vecBits {off : Nat} {v : VWord} : Idle s (vecBits o off v s) := .ite_pos h (.refl s)

theorem idle_vecBin (hb : [o.va, o.vb].contains 0x3FF = true → s.cur.b ≠ none) {offF offI : Nat}
    {ff : Fmt → FV → FV → Nat × NFlags} {fi : Nat → Nat → Nat → Nat × NFlags} :
    Idle s (vecBin o offF offI ff fi s) := by
  refine .withB hb ?_
  dsimp only
  split <;> exact idle_vecOut h

theorem idle_quantise (hb : [o.va].contains 0x3FF = true → s.cur.b ≠ none) {q n width : Nat} {bias steps lo hi : Int} :
    Idle s (quantise o q n width bias steps lo hi s) := .withB hb (.ite_pos h (.refl s))
end

theorem idle_vecMem {s : State} {o : VMem} (h : s.cx.mask o.g = 0) {k : Int → Half → State → Out} :
    Idle s (vecMem o s k) := .ite_pos h (.setEa s ..)

/-! ### Each operation -/

/-- With a false guard the operation does nothing (R43). -/
def Skips (i : Instr) : Prop :=
  ∀ (s : State) (g : Guard), guardOf i = some g → s.carries i → s.guarded g = false → Idle s (exec i s)

/-- A vector operation, which without an active lane does nothing (R113). -/
def SkipsLanes (i : Instr) : Prop :=
  classOf i = 3 ∧
    ∀ (s : State) (g : Guard), guardOf i = some g → s.carries i → s.cx.mask g = 0 → Idle s (exec i s)

theorem skips_scalar :
    (∀ sat o, Skips (.add sat o)) ∧ (∀ sat o, Skips (.sub sat o)) ∧ (∀ sat o, Skips (.addi sat o)) ∧
    (∀ sat o, Skips (.mul sat o)) ∧ (∀ o, Skips (.mulh o)) ∧ (∀ o, Skips (.mulhu o)) ∧ (∀ o, Skips (.div o)) ∧
    (∀ o, Skips (.divu o)) ∧ (∀ o, Skips (.rem o)) ∧ (∀ o, Skips (.remu o)) ∧ (∀ o, Skips (.and o)) ∧
    (∀ o, Skips (.or o)) ∧ (∀ o, Skips (.xor o)) ∧ (∀ o, Skips (.andi o)) ∧ (∀ o, Skips (.ori o)) ∧
    (∀ o, Skips (.xori o)) ∧ (∀ o, Skips (.shl o)) ∧ (∀ o, Skips (.shr o)) ∧ (∀ o, Skips (.sra o)) ∧
    (∀ o, Skips (.shli o)) ∧ (∀ o, Skips (.shri o)) ∧ (∀ o, Skips (.srai o)) ∧ (∀ o, Skips (.min o)) ∧
    (∀ o, Skips (.max o)) ∧ (∀ o, Skips (.minu o)) ∧ (∀ o, Skips (.maxu o)) ∧ (∀ o, Skips (.clz o)) ∧
    (∀ o, Skips (.popc o)) ∧ (∀ g sd imm, Skips (.li g sd imm)) ∧ (∀ o, Skips (.mov o)) ∧
    (∀ pc o, Skips (.sel pc o)) ∧ (∀ g dst src, Skips (.pmovSP g dst src)) := by
  and_intros <;>
  ( intros; rintro s g ⟨⟩ - h
    dsimp only [exec, execAdd, execSub, execAddi, execMul, execMulh, execMulhu, execDiv, execDivu, execRem,
      execRemu, execAnd, execOr, execXor, execAndi, execOri, execXori, execShl, execShr, execSra, execShli, execShri,
      execSrai, execMin, execMax, execMinu, execMaxu, execClz, execPopc, execLi, execMov, execSel, execPmovSP, opRR,
      opRI, opRS, opRU]
    exact idle_scalarOp h)

theorem skips_predicate :
    (∀ o, Skips (.cmp o)) ∧ (∀ o, Skips (.cmpi o)) ∧ (∀ o, Skips (.pand o)) ∧ (∀ o, Skips (.por o)) ∧
    (∀ o, Skips (.pxor o)) ∧ (∀ o, Skips (.pandn o)) ∧ (∀ g dst src, Skips (.pmovPP g dst src)) ∧
    (∀ g dst src, Skips (.pmovPS g dst src)) := by
  and_intros <;>
  ( intros; rintro s g ⟨⟩ - h
    dsimp only [exec, execCmp, execCmpi, execPand, execPor, execPxor, execPandn, execPmovPP, execPmovPS, opPP]
    exact idle_predOp h)

theorem skips_scratchpad : (∀ o u, Skips (.lds o u)) ∧ (∀ o, Skips (.sts o)) := by
  and_intros <;>
  ( intros; rintro s g ⟨⟩ - h
    dsimp only [exec, execLds, execSts]
    exact idle_scalarMem h)

theorem skips_control :
    (∀ g, Skips (.halt g)) ∧ (∀ g code, Skips (.trap g code)) ∧ (∀ g, Skips (.rft g)) ∧ (∀ g off, Skips (.br g off)) ∧
    (∀ g sd off, Skips (.brl g sd off)) ∧ (∀ g sa, Skips (.ret g sa)) ∧ (∀ g sa off, Skips (.jmp g sa off)) ∧
    (∀ g sd se, Skips (.cycC g sd se)) ∧ (∀ g sa csr, Skips (.csrw g sa csr)) ∧ (∀ g, Skips (.rfail g)) := by
  and_intros <;> (intros; rintro s g ⟨⟩ - h; exact idle_unless_guarded h)

theorem skips_move :
    (∀ g sd, Skips (.cycW g sd)) ∧ (∀ g sd csr, Skips (.csrr g sd csr)) ∧ (∀ g sd mbi, Skips (.mbr g sd mbi)) ∧
    (∀ g sa mbi, Skips (.mbw g sa mbi)) ∧ (∀ g scp, Skips (.fence g scp)) ∧ (∀ g sa sb, Skips (.iinv g sa sb)) ∧
    (∀ g, Skips (.isync g)) := by
  and_intros <;> (intros; rintro s g ⟨⟩ - h; exact idle_if_guarded h)

theorem skips_nop (g : Guard) : Skips (.nop g) := fun s _ _ _ _ => .refl s

theorem skips_waits (g : Guard) (sa : BitVec 6) : Skips (.waits g sa) := by
  rintro s g ⟨⟩ - h
  exact .ite_neg (by simp [h]) (.refl s)

theorem skips_waitx (g : Guard) (ch : BitVec 2) (sa : BitVec 6) : Skips (.waitx g ch sa) := by
  rintro s g ⟨⟩ - h
  exact .ite_pos (by simp [h]) (.refl s)

theorem skips_tile :
    (∀ g tw, Skips (.twl g tw)) ∧ (∀ g tw tsc, Skips (.twlMx g tw tsc)) ∧ (∀ g tc ta asc, Skips (.tmma g tc ta asc)) ∧
    (∀ g tc ta tsc asc, Skips (.tmmaMx g tc ta tsc asc)) ∧ (∀ g tc ta asc, Skips (.katt g tc ta asc)) ∧
    (∀ g tc ta tsc asc, Skips (.kattMx g tc ta tsc asc)) ∧
    (∀ g tc ta tx qs asc, Skips (.tmmaSmx g tc ta tx qs asc)) ∧ (∀ g tx, Skips (.tsmxInit g tx)) ∧
    (∀ g tc tx ns, Skips (.tsmxNorm g tc tx ns)) ∧ (∀ g td, Skips (.tzero g td)) ∧ (∀ g td ts, Skips (.tmov g td ts)) ∧
    (∀ g td ts, Skips (.ttrn g td ts)) ∧ (∀ g grp, Skips (.xswap g grp)) ∧ (∀ g sd idx, Skips (.xstat g sd idx)) ∧
    (∀ g sd idx, Skips (.xstatA g sd idx)) := by
  and_intros <;> (intros; rintro s g ⟨⟩ - h; exact idle_unless_guarded h)

theorem skips_tileMem : (∀ o, Skips (.tld o)) ∧ (∀ o, Skips (.tst o)) ∧ (∀ o, Skips (.tstOV o)) := by
  and_intros <;>
  ( intros; rintro s g ⟨⟩ c h
    dsimp only [exec, execTld, execTst, execTstOV]
    exact idle_tileMem h c)

theorem skips_xmv (o : XmvOp) : Skips (.xmv o) := by
  rintro s g ⟨⟩ c h
  dsimp only [exec, execXmv]
  exact .withScalar c fun _ => idle_unless_guarded h

theorem skips_calibration :
    (∀ o vm win amp, Skips (.xprogSet o vm win amp)) ∧ (∀ o vm win amp, Skips (.xprogRst o vm win amp)) ∧
    (∀ o, Skips (.xerase o)) ∧ (∀ o, Skips (.xeraseAll o)) ∧ (∀ o vd win, Skips (.xread o vd win)) ∧
    (∀ o vd ve rs win, Skips (.xreadE o vd ve rs win)) ∧ (∀ o spr, Skips (.xremap o spr)) ∧
    (∀ o vd, Skips (.xdrift o vd)) ∧ (∀ o vs, Skips (.xcalO o vs)) ∧ (∀ o vs, Skips (.xcalG o vs)) ∧
    (∀ o vs rs, Skips (.xcalGC o vs rs)) ∧ (∀ o sd, Skips (.xwear o sd)) := by
  and_intros <;>
  ( intros; rintro s g ⟨⟩ c h
    dsimp only [exec, execXprogSet, execXprogRst, execXerase, execXeraseAll, execXread, execXreadE, execXremap,
      execXdrift, execXcalO, execXcalG, execXcalGC, execXwear, xprog, xerase]
    exact idle_calib h fun e => c (by simp [namesB, e]))

theorem skips_dram :
    (∀ o, Skips (.mact o)) ∧ (∀ o, Skips (.mpre o)) ∧ (∀ o, Skips (.mprea o)) ∧ (∀ o sb, Skips (.mrd o sb)) ∧
    (∀ o sb, Skips (.mrda o sb)) ∧ (∀ o sb, Skips (.mwr o sb)) ∧ (∀ o sb, Skips (.mwra o sb)) ∧
    (∀ o, Skips (.mref o)) ∧ (∀ o, Skips (.mrefp o)) ∧ (∀ o sb, Skips (.mrcp o sb)) ∧
    (∀ o line, Skips (.mrcbLd o line)) ∧ (∀ o line, Skips (.mrcbSt o line)) ∧
    (∀ o line, Skips (.mrcbInv o line)) ∧ (∀ o, Skips (.mzro o)) := by
  and_intros <;> (intros; rintro s g ⟨⟩ c h; exact idle_dram h c)

theorem skips_fabric : (∀ o sr peer sz, Skips (.push o sr peer sz)) ∧ (∀ o sr peer sz, Skips (.pull o sr peer sz)) := by
  and_intros <;>
  ( intros; rintro s g ⟨⟩ c h
    dsimp only [exec, execPush, execPull]
    exact idle_fabric h c)

theorem skips_copy :
    (∀ o lyn, Skips (.layout o lyn)) ∧ (∀ o tag, Skips (.trc o tag)) ∧ (∀ o tag, Skips (.trcFrz o tag)) := by
  and_intros <;>
  ( intros; rintro s g ⟨⟩ c h
    dsimp only [exec, execLayout, execTrc, execTrcFrz, trc]
    exact idle_copyOp h c)

theorem skips_xfr :
    (∀ o sv lyn ch st, Skips (.xfrG o sv lyn ch st)) ∧ (∀ o sv lyn ch st, Skips (.xfrP o sv lyn ch st)) := by
  and_intros <;> (intros; rintro s g ⟨⟩ c h; exact idle_xfr h c)

theorem skips_istage (o : DOp) (nl : BitVec 6) : Skips (.istage o nl) := by
  rintro s g ⟨⟩ c h
  dsimp only [exec, execIstage]
  exact .withScalar c fun _ => idle_ea h

theorem skips_atomic :
    (∀ o sb sd, Skips (.atomAdd o sb sd)) ∧ (∀ o sb sd, Skips (.atomSwap o sb sd)) ∧
    (∀ o sb sc sd, Skips (.atomCas o sb sc sd)) ∧ (∀ o sb sd, Skips (.atomAnd o sb sd)) ∧
    (∀ o sb sd, Skips (.atomOr o sb sd)) ∧ (∀ o sb sd, Skips (.atomXor o sb sd)) ∧
    (∀ o sb sd, Skips (.atomMin o sb sd)) ∧ (∀ o sb sd, Skips (.atomMax o sb sd)) ∧
    (∀ o sb sd, Skips (.atomMinu o sb sd)) ∧ (∀ o sb sd, Skips (.atomMaxu o sb sd)) ∧
    (∀ o sb sd, Skips (.atomFadd o sb sd)) ∧ (∀ o sd, Skips (.atomLd o sd)) ∧ (∀ o sb, Skips (.redAdd o sb)) ∧
    (∀ o sb, Skips (.redSt o sb)) ∧ (∀ o sb, Skips (.redAnd o sb)) ∧ (∀ o sb, Skips (.redOr o sb)) ∧
    (∀ o sb, Skips (.redXor o sb)) ∧ (∀ o sb, Skips (.redMin o sb)) ∧ (∀ o sb, Skips (.redMax o sb)) ∧
    (∀ o sb, Skips (.redMinu o sb)) ∧ (∀ o sb, Skips (.redMaxu o sb)) ∧ (∀ o sb, Skips (.redFadd o sb)) := by
  and_intros <;> (intros; rintro s g ⟨⟩ c h; exact idle_atomic h c)

/-- B carries a value where the operation reads it as one of its vector sources. -/
theorem carries_fields {s : State} {i : Instr} (c : s.carries i) {l : List (BitVec 10)} (sub : l ⊆ vFields i) :
    l.contains 0x3FF = true → s.cur.b ≠ none := by
  intro named
  refine c ((Bool.or_eq_true _ _).mpr (.inl ?_))
  rw [List.contains_iff_mem] at named ⊢
  exact sub named

theorem skipsLanes_binary :
    (∀ o, SkipsLanes (.vadd o)) ∧ (∀ o, SkipsLanes (.vsub o)) ∧ (∀ o, SkipsLanes (.vmul o)) ∧
    (∀ o u, SkipsLanes (.vmulh o u)) ∧ (∀ o, SkipsLanes (.vmin o)) ∧ (∀ o, SkipsLanes (.vmax o)) ∧
    (∀ o, SkipsLanes (.vminu o)) ∧ (∀ o, SkipsLanes (.vmaxu o)) ∧ (∀ o, SkipsLanes (.vshl o)) ∧
    (∀ o, SkipsLanes (.vshr o)) ∧ (∀ o, SkipsLanes (.vsra o)) := by
  and_intros <;>
  ( intros; refine ⟨rfl, ?_⟩; rintro s g ⟨⟩ c h
    dsimp only [exec, execVadd, execVsub, execVmul, execVmulh, execVmin, execVmax, execVminu, execVmaxu, execVshl,
      execVshr, execVsra, vecShift]
    exact idle_vecBin h (carries_fields c (List.Subset.refl _)))

theorem skipsLanes_elements :
    (∀ o, SkipsLanes (.vfma o)) ∧ (∀ o, SkipsLanes (.vfms o)) ∧ (∀ o, SkipsLanes (.vfnma o)) ∧
    (∀ o, SkipsLanes (.vabs o)) ∧ (∀ o, SkipsLanes (.vneg o)) ∧ (∀ o k, SkipsLanes (.vshlImm o k)) ∧
    (∀ o k, SkipsLanes (.vshrImm o k)) ∧ (∀ o k, SkipsLanes (.vsraImm o k)) ∧ (∀ o cc, SkipsLanes (.vcmp o cc)) ∧
    (∀ o, SkipsLanes (.vperm o)) ∧ (∀ o k, SkipsLanes (.vrot o k)) ∧ (∀ o k, SkipsLanes (.vslideDn o k)) ∧
    (∀ o k, SkipsLanes (.vslideUp o k)) ∧ (∀ o, SkipsLanes (.vrcp o)) ∧ (∀ o, SkipsLanes (.vrsq o)) ∧
    (∀ o, SkipsLanes (.vexp2 o)) ∧ (∀ o, SkipsLanes (.vlog2 o)) ∧ (∀ o, SkipsLanes (.vscl o)) := by
  and_intros <;>
  ( intros; refine ⟨rfl, ?_⟩; rintro s g ⟨⟩ c h
    dsimp only [exec, execVfma, execVfms, execVfnma, execVabs, execVneg, execVshlImm, execVshrImm, execVsraImm,
      execVcmp, execVperm, execVrot, execVslideDn, execVslideUp, execVrcp, execVrsq, execVexp2, execVlog2, execVscl,
      vecFused, vecUn, vecShiftImm, vecFun]
    exact .withB (carries_fields c (by simp [vFields])) (idle_vecOut h))

theorem skipsLanes_vmac (o : VOp) : SkipsLanes (.vmac o) := by
  refine ⟨rfl, ?_⟩
  rintro s g ⟨⟩ c h
  dsimp only [exec, execVmac]
  refine .withB (carries_fields c (by simp [vFields])) ?_
  split <;> exact idle_vecOut h

theorem skipsLanes_whole :
    (∀ o, SkipsLanes (.vand o)) ∧ (∀ o, SkipsLanes (.vor o)) ∧ (∀ o, SkipsLanes (.vxor o)) ∧
    (∀ o, SkipsLanes (.vandn o)) ∧ (∀ o ps, SkipsLanes (.vsel o ps)) ∧ (∀ o, SkipsLanes (.vmov o)) ∧
    (∀ o idx, SkipsLanes (.vbc o idx)) := by
  and_intros <;>
  ( intros; refine ⟨rfl, ?_⟩; rintro s g ⟨⟩ c h
    dsimp only [exec, execVand, execVor, execVxor, execVandn, execVsel, execVmov, execVbc, vecLogic]
    exact .withB (carries_fields c (by simp [vFields])) (idle_vecBits h))

theorem skipsLanes_vbcImm (o : VOp) (imm : BitVec 8) : SkipsLanes (.vbcImm o imm) := by
  refine ⟨rfl, ?_⟩
  rintro s g ⟨⟩ - h
  dsimp only [exec, execVbcImm]
  exact idle_vecBits h

theorem skipsLanes_conversion : (∀ o cc, SkipsLanes (.vcmpP o cc)) ∧ (∀ o dst src, SkipsLanes (.vcvt o dst src)) := by
  and_intros <;>
  ( intros; refine ⟨rfl, ?_⟩; rintro s g ⟨⟩ c h
    dsimp only [exec, execVcmpP, execVcvt]
    exact .withB (carries_fields c (by simp [vFields])) (.ite_pos h (.refl s)))

theorem skipsLanes_vtint (o : VOp) : SkipsLanes (.vtint o) := by
  refine ⟨rfl, ?_⟩
  rintro s g ⟨⟩ c h
  dsimp only [exec, execVtint]
  exact .withB (fun _ => c (by simp [namesB])) (.ite_pos h (.refl s))

theorem skipsLanes_vdqg (o : VOp) (gs nm : BitVec 3) (eb hi : Bool) : SkipsLanes (.vdqg o gs eb nm hi) := by
  refine ⟨rfl, ?_⟩
  rintro s g ⟨⟩ c h
  dsimp only [exec, execVdqg]
  refine .withB (fun named => c ?_) (.ite_pos h (.refl s))
  cases eb
  · simpa [namesB, vFields] using named
  · simp [namesB]

theorem skipsLanes_quantise : (∀ o q, SkipsLanes (.vmxq o q)) ∧ (∀ o n q, SkipsLanes (.vbfpq o n q)) := by
  and_intros <;>
  ( intros; refine ⟨rfl, ?_⟩; rintro s g ⟨⟩ c h
    exact idle_quantise h (carries_fields c (List.Subset.refl _)))

theorem skipsLanes_memory :
    (∀ o, SkipsLanes (.vld o)) ∧ (∀ o, SkipsLanes (.vlds o)) ∧ (∀ o, SkipsLanes (.vst o)) ∧
    (∀ o, SkipsLanes (.vgth o)) ∧ (∀ o, SkipsLanes (.vsct o)) := by
  and_intros <;> intro o <;> refine ⟨rfl, ?_⟩ <;> rintro s g ⟨⟩ c h <;>
    dsimp only [exec, execVld, execVlds, execVst, execVgth, execVsct]
  · exact idle_vecMem h
  · exact idle_vecMem h
  all_goals exact .withB (carries_fields c (List.Subset.refl _)) (idle_vecMem h)

theorem skips_or_lanes (i : Instr) : guardOf i = none ∨ Skips i ∨ SkipsLanes i ∨
    (∃ g n k m, i = .loop g n k m) ∨ (∃ g n k m, i = .loopm g n k m) ∨ ∃ o op, i = .vred o op := by
  cases i
  any_goals simp only [skips_scalar, skips_predicate, skips_scratchpad, skips_control, skips_move,
    skips_nop, skips_waits, skips_waitx, skips_tile, skips_tileMem, skips_xmv, skips_calibration, skips_dram,
    skips_fabric, skips_copy, skips_xfr, skips_istage, skips_atomic, skipsLanes_binary, skipsLanes_elements,
    skipsLanes_vmac, skipsLanes_whole, skipsLanes_vbcImm, skipsLanes_conversion, skipsLanes_vtint, skipsLanes_vdqg,
    skipsLanes_quantise, skipsLanes_memory, true_or, or_true]
  case loop g n k m => exact .inr (.inr (.inr (.inl ⟨g, n, k, m, rfl⟩)))
  case loopm g n k m => exact .inr (.inr (.inr (.inr (.inl ⟨g, n, k, m, rfl⟩))))
  case vred o op => exact .inr (.inr (.inr (.inr (.inr ⟨o, op, rfl⟩))))
  all_goals exact .inl rfl

/-- The guard of an operation is lane 0 of its lane mask (R43, R113). -/
theorem guarded_of_mask {s : State} {g : Guard} (h : s.cx.mask g = 0) : s.guarded g = false := by
  rw [State.guarded, Ctx.guard, h]; rfl

/-- Settles O59: every operation tests its guard, or its lane mask, before it acts. -/
theorem falseGuardActsNot : Obligations.FalseGuardActsNot := by
  unfold Obligations.FalseGuardActsNot
  refine ⟨fun s => by constructor <;> simp [State.guarded, Ctx.guard, Ctx.mask, bitAt],
    fun s i g f hg hf c notLoop notLoopm notVred => ?_⟩
  have cls := ((decodes i).header f hf).1
  rcases skips_or_lanes i with none | skips | ⟨vector, lanes⟩ | ⟨h, n, k, m, rfl⟩ | ⟨h, n, k, m, rfl⟩ | ⟨o, op, rfl⟩
  · rw [none] at hg; cases hg
  · exact ⟨fun _ off => skips s g hg c off, fun _ empty => skips s g hg c (guarded_of_mask empty)⟩
  · exact ⟨fun other => absurd (cls.trans vector) other, fun _ empty => lanes s g hg c empty⟩
  · exact absurd rfl (notLoop h n k m)
  · exact absurd rfl (notLoopm h n k m)
  · exact absurd rfl (notVred o op)

end Sys2Proof.Laws
end

section
/-! PROOFS. What the issue of a syllable leaves unchanged (O60). -/

namespace Sys2Proof.Laws

open Sys2Proof Sys2Proof.Machine

/-! ## What the issue of an operation leaves (R43, R74, R94) -/

/-- A context's registers, and where it stands, are the same: no result has landed. -/
structure SameRegs (c d : Ctx) : Prop where
  s : d.s = c.s
  v : d.v = c.v
  p : d.p = c.p
  mb : d.mb = c.mb
  nctl : d.nctl = c.nctl
  stride : d.stride = c.stride
  tshape : d.tshape = c.tshape
  ovc : d.ovc = c.ovc
  taddr : d.taddr = c.taddr
  tval : d.tval = c.tval
  xdone : d.xdone = c.xdone
  ly : d.ly = c.ly
  tile : d.tile = c.tile
  poison : d.poison = c.poison
  pc : d.pc = c.pc
  inHandler : d.inHandler = c.inHandler
  tstat : setBits d.tstat 26 24 0 = setBits c.tstat 26 24 0

@[simp] theorem SameRegs.refl (c : Ctx) : SameRegs c c := by constructor <;> rfl

theorem SameRegs.trans {c d e : Ctx} (h : SameRegs c d) (k : SameRegs d e) : SameRegs c e where
  s := k.s.trans h.s
  v := k.v.trans h.v
  p := k.p.trans h.p
  mb := k.mb.trans h.mb
  nctl := k.nctl.trans h.nctl
  stride := k.stride.trans h.stride
  tshape := k.tshape.trans h.tshape
  ovc := k.ovc.trans h.ovc
  taddr := k.taddr.trans h.taddr
  tval := k.tval.trans h.tval
  xdone := k.xdone.trans h.xdone
  ly := k.ly.trans h.ly
  tile := k.tile.trans h.tile
  poison := k.poison.trans h.poison
  pc := k.pc.trans h.pc
  inHandler := k.inHandler.trans h.inHandler
  tstat := k.tstat.trans h.tstat

theorem inHandler_still (c : Ctx) : c.still.inHandler = c.inHandler := by
  obtain h | ⟨h, e⟩ : c.handler = none ∨ ∃ x, c.handler = some x := by cases c.handler <;> simp
  · simp [Ctx.inHandler, Ctx.still, h]
  · simp [Ctx.inHandler, Ctx.still, e]

/-- Contexts that differ in their pipelines have the same registers. -/
theorem SameRegs.of_still {c d : Ctx} (h : d.still = c.still) : SameRegs c d := by
  have field : ∀ {α : Type} (f : Ctx → α), (∀ x, f x.still = f x) → f d = f c := fun f hf => by
    rw [← hf d, ← hf c, h]
  constructor
  case inHandler => exact field _ inHandler_still
  case tstat => exact field (fun x => setBits x.tstat 26 24 0) fun _ => rfl
  all_goals exact field _ fun _ => rfl

/-- The clocks, the memories outside the cores and the parts of the host's side that no syllable changes. -/
structure SameDevice (s t : State) : Prop where
  now : t.now = s.now
  wcyc : t.wcyc = s.wcyc
  phase : t.phase = s.phase
  inbox : t.inbox = s.inbox
  pf : t.pf = s.pf
  bam : t.bam = s.bam
  parts : t.parts = s.parts
  sync : t.sync = s.sync
  syncBad : t.syncBad = s.syncBad
  host : t.host = s.host
  rdata : t.rdata = s.rdata
  tlb : t.tlb = s.tlb
  fatal : t.fatal = s.fatal

theorem SameDevice.refl (s : State) : SameDevice s s := by constructor <;> rfl

theorem SameDevice.trans {s t u : State} (h : SameDevice s t) (k : SameDevice t u) : SameDevice s u where
  now := k.now.trans h.now
  wcyc := k.wcyc.trans h.wcyc
  phase := k.phase.trans h.phase
  inbox := k.inbox.trans h.inbox
  pf := k.pf.trans h.pf
  bam := k.bam.trans h.bam
  parts := k.parts.trans h.parts
  sync := k.sync.trans h.sync
  syncBad := k.syncBad.trans h.syncBad
  host := k.host.trans h.host
  rdata := k.rdata.trans h.rdata
  tlb := k.tlb.trans h.tlb
  fatal := k.fatal.trans h.fatal

/-- A cohort without its holds. -/
def unheld (c : Cohort) : Cohort :=
  { c with holds := [], holdStart := none, holdCode := 0, holdSaid := false, resuming := false, releaseAt := none }

/-- Nothing has changed outside core i, its bank, its cohort's holds and the members' trace. -/
structure Near (i : Nat) (s t : State) : Prop where
  pchs : t.pchs = s.pchs
  core : ∀ j, j ≠ i → { t.core j with trace := (s.core j).trace } = s.core j
  coh : ∀ k, (t.coh? k).map unheld = (s.coh? k).map unheld

theorem Near.refl (i : Nat) (s : State) : Near i s s := by constructor <;> intros <;> rfl

theorem Near.trans {i : Nat} {s t u : State} (h : Near i s t) (k : Near i t u) : Near i s u where
  pchs := k.pchs.trans h.pchs
  core j n := by
    have e := congrArg (fun c : Core => { c with trace := (s.core j).trace }) (k.core j n)
    exact e.trans (h.core j n)
  coh n := (k.coh n).trans (h.coh n)

/-- How far an operation reaches at its issue: into its pipelines; into its core, its cohort's holds and the
members' trace; into its core's bank too; to pseudo-channels and other cores. -/
inductive Reach where
  | pipes | core | bank | far

def Reach.rank : Reach → Nat
  | .pipes => 0
  | .core => 1
  | .bank => 2
  | .far => 3

/-- What the issue of an operation leaves that reaches no farther than r. -/
structure Frame (r : Reach) (s t : State) : Prop where
  site : t.cur.site = s.cur.site
  device : SameDevice s t
  memory : SameMemory s t
  regs : ∀ j, SameRegs (s.ctx j) (t.ctx j)
  bank : ∀ j, j ≠ s.cur.site → t.bank j = s.bank j
  pipes : r.rank = 0 → t.cohorts = s.cohorts ∧ ∀ j, (t.core j).still = (s.core j).still
  banks : r.rank ≤ 1 → t.banks = s.banks
  near : r.rank ≤ 2 → Near s.cur.site s t

@[simp] theorem Frame.refl (r : Reach) (s : State) : Frame r s s where
  site := rfl
  device := .refl s
  memory := sameMemory_refl s
  regs _ := .refl _
  bank _ _ := rfl
  pipes _ := ⟨rfl, fun _ => rfl⟩
  banks _ := rfl
  near _ := .refl _ s

theorem Frame.trans {r : Reach} {s t u : State} (h : Frame r s t) (k : Frame r t u) : Frame r s u where
  site := k.site.trans h.site
  device := h.device.trans k.device
  memory := sameMemory_trans h.memory k.memory
  regs j := (h.regs j).trans (k.regs j)
  bank j n := (k.bank j (h.site ▸ n)).trans (h.bank j n)
  pipes z := ⟨(k.pipes z).1.trans (h.pipes z).1, fun j => ((k.pipes z).2 j).trans ((h.pipes z).2 j)⟩
  banks z := (k.banks z).trans (h.banks z)
  near z := (h.near z).trans (h.site ▸ k.near z)

/-- A state that differs in nothing but the bundle-level context and the free-value counter. -/
theorem Frame.of_fields {r : Reach} {s t u : State} (h : Frame r s t) (site : u.cur.site = t.cur.site)
    (device : SameDevice t u) (cores : u.cores = t.cores) (banks : u.banks = t.banks) (pchs : u.pchs = t.pchs)
    (cohorts : u.cohorts = t.cohorts) : Frame r s u := by
  have core : ∀ j, u.core j = t.core j := fun j => by rw [State.core, State.core, cores]
  refine h.trans ⟨site, device, sameMemory_of_fields (sameMemory_refl t) cores pchs device.sync device.host,
    fun j => ?_, fun j _ => by rw [State.bank, State.bank, banks], fun _ => ⟨cohorts, fun j => by rw [core]⟩,
    fun _ => banks, fun _ => ⟨pchs, fun j _ => by rw [core], fun k => by rw [State.coh?, State.coh?, cohorts]⟩⟩
  rw [State.ctx, State.ctx, core]
  exact .refl _

/-- A changed core: its registers and scratchpad stand, with a small reach its other parts too. -/
theorem Frame.modCore {r : Reach} {s t : State} (h : Frame r s t) (i : Nat) (f : Core → Core)
    (regs : SameRegs (t.ctx i) (f (t.core i)).ctx) (spad : (f (t.core i)).spad = (t.core i).spad)
    (pipes : r.rank = 0 → (f (t.core i)).still = (t.core i).still)
    (near : r.rank ≤ 2 → i = t.cur.site ∨ { f (t.core i) with trace := (t.core i).trace } = t.core i) :
    Frame r s (t.modCore i f) where
  site := h.site
  device := h.device.trans (by constructor <;> rfl)
  memory := sameMemory_modCore h.memory i f spad regs.tile
  regs j := by
    refine (h.regs j).trans ?_
    show SameRegs (t.core j).ctx ((t.modCore i f).core j).ctx
    by_cases e : j = i
    · subst e; rw [core_modCore_same]; exact regs
    · rw [core_modCore_other _ _ e]; exact .refl _
  bank := h.bank
  pipes z := by
    refine ⟨(h.pipes z).1, fun j => Eq.trans ?_ ((h.pipes z).2 j)⟩
    by_cases e : j = i
    · subst e; rw [core_modCore_same]; exact pipes z
    · rw [core_modCore_other _ _ e]
  banks := h.banks
  near z := by
    refine (h.near z).trans ⟨rfl, fun j n => ?_, fun _ => rfl⟩
    by_cases e : j = i
    · subst e
      rw [core_modCore_same]
      exact (near z).resolve_left (h.site ▸ n)
    · rw [core_modCore_other _ _ e]

/-! ### The updates that operations are made of -/

section
variable {r : Reach} {s t : State} (h : Frame r s t)
include h

@[simp] theorem frame_fresh (n : Nat) : Frame r s { t with fresh := n } :=
  h.of_fields rfl (by constructor <;> rfl) rfl rfl rfl rfl

theorem frame_cur (c : Cur) (site : c.site = t.cur.site) : Frame r s { t with cur := c } :=
  h.of_fields site (by constructor <;> rfl) rfl rfl rfl rfl

@[simp] theorem frame_setEa (a b : Int) : Frame r s (t.setEa a b) := frame_cur h _ rfl

@[simp] theorem frame_touch (units : List Nat) : Frame r s (t.touch units) := frame_cur h _ rfl

@[simp] theorem frame_pick {α : Type} (l : List α) (d : α) : Frame r s (t.pick l d).2 := by
  unfold State.pick
  split
  · exact h
  · exact frame_fresh h _

/-- A change of a core's pipelines alone. -/
theorem frame_pipes (f : Ctx → Ctx) (hf : ∀ c, (f c).still = c.still) : Frame r s (t.modCtx t.cur.site f) :=
  h.modCore t.cur.site (fun c => { c with ctx := f c.ctx }) (.of_still (hf _)) rfl
    (fun _ => by simp only [Core.still, hf]) fun _ => .inl rfl

theorem frame_forAll {α : Type} (l : List α) (f : α → State → State) (hf : ∀ x ∈ l, ∀ u,
    Frame r s u → Frame r s (f x u)) :
    Frame r s (forAll l t f) := forAll_keeps h hf
end

/-- A pipeline's new entry changes nothing else of the context. -/
theorem still_addFlight (p : Pend) (c : Ctx) : (c.addFlight p).still = c.still := by
  unfold Ctx.addFlight
  split
  · next e => split <;> simp [Ctx.still, e]
  · next e => simp [Ctx.still, e]

theorem still_addAcc (a : Access) (c : Ctx) : (c.addAcc a).still = c.still := by
  unfold Ctx.addAcc
  split
  · next e => split <;> simp [Ctx.still, e]
  · next e => simp [Ctx.still, e]

theorem still_addBev (b : BEvent) (c : Ctx) : (c.addBev b).still = c.still := by
  unfold Ctx.addBev
  split
  · next e => split <;> simp [Ctx.still, e]
  · next e => simp [Ctx.still, e]

section
variable {r : Reach} {s t : State} (h : Frame r s t)
include h

@[simp] theorem frame_landing (off : Nat) (flags : NFlags) (shadow : Bool) (eff : Effect) :
    Frame r s (t.landing off flags shadow eff) := frame_pipes h _ (still_addFlight _)

@[simp] theorem frame_access (off cls : Nat) (window : Bool) (units : List Nat) (act : Port) :
    Frame r s (t.access off cls window units act) := frame_cur (frame_pipes h _ (still_addAcc _)) _ rfl

theorem frame_boundary (off : Nat) (kind : BKind) : Frame r s (t.boundary t.cur.site off kind) :=
  frame_pipes h _ (still_addBev _)

theorem frame_once (f : State → State) (hf : ∀ u, Frame r s u → Frame r s (f u)) : Frame r s (t.once f) := by
  unfold State.once
  refine frame_cur (hf _ (frame_cur h _ ?_)) _ ?_ <;> rfl

@[simp] theorem frame_landS (sd : BitVec 6) (v : Word) (again : Bool) : Frame r s (t.landS sd v again) := by
  unfold State.landS
  split
  · exact frame_landing h _ _ _ _
  · exact frame_once h _ fun u hu => frame_landing hu _ _ _ _

@[simp] theorem frame_landV (o : VOp) (off n : Nat) (mask v : VWord) (flags : NFlags) :
    Frame r s (t.landV o off n mask v flags) := frame_landing h _ _ _ _
end

/-! ### Within the core -/

section
variable {r : Reach} (hr : 1 ≤ r.rank) {s t : State} (h : Frame r s t)
include hr h

/-- A change of the issuing core that leaves its registers and scratchpad. -/
theorem frame_own (f : Core → Core) (regs : ∀ c, SameRegs c.ctx (f c).ctx) (spad : ∀ c, (f c).spad = c.spad) :
    Frame r s (t.modCore t.cur.site f) :=
  h.modCore _ f (regs _) (spad _) (fun z => absurd z (by omega)) fun _ => .inl rfl

theorem frame_ownCtx (f : Ctx → Ctx) (regs : ∀ c, SameRegs c (f c)) : Frame r s (t.modCtx t.cur.site f) :=
  frame_own hr h (fun c => { c with ctx := f c.ctx }) (fun _ => regs _) fun _ => rfl

/-- A record in any core's trace. -/
theorem frame_trace (i : Nat) (f : Core → Trace) : Frame r s (t.modCore i fun c => { c with trace := f c }) :=
  h.modCore i _ (.refl _) rfl (fun z => absurd z (by omega)) fun _ => .inr rfl

@[simp] theorem frame_traceRec (i kind slot payload : Nat) : Frame r s (t.traceRec i kind slot payload) := by
  unfold State.traceRec State.traceAt
  split
  · exact h
  · exact frame_trace hr h _ _

theorem frame_setCoh {k : Nat} {c d : Cohort} (hc : t.coh? k = some c) (same : unheld d = unheld c) :
    Frame r s (t.setCoh k d) :=
  h.trans {
    site := rfl
    device := by constructor <;> rfl
    memory := sameMemory_setCoh (sameMemory_refl t) _ _
    regs := fun _ => .refl _
    bank := fun _ _ => rfl
    pipes := fun z => absurd z (by omega)
    banks := fun _ => rfl
    near := fun _ => ⟨rfl, fun _ _ => rfl, fun j => by
      by_cases e : j = k
      · subst e; rw [coh?_setCoh_same, hc]; exact congrArg some same
      · rw [coh?_setCoh_other _ _ e]⟩ }

theorem frame_addHold (k : Nat) (cause : HoldCause) (code first : Nat) : Frame r s (t.addHold k cause code first) := by
  unfold State.addHold
  split
  · exact h
  · next c hc =>
    split
    · exact h
    · dsimp only
      split
      · have traced := frame_forAll h c.members (fun i s => s.traceRec i 12 0 0) fun i _ u hu => frame_traceRec hr hu i 12 0 0
        refine frame_setCoh hr traced (c := c) ?_ rfl
        exact forAll_keeps (P := fun u => u.coh? k = some c) hc fun i _ u hu => by
          unfold State.traceRec State.traceAt
          split <;> exact hu
      · exact frame_setCoh hr h hc rfl
end

/-! ### Outcomes -/

/-- Every next state of an outcome without a trap is framed. -/
def FrameOut (r : Reach) (s : State) (o : Out) : Prop := ∀ t, o = .next t → t.cur.trapped = false → Frame r s t

section
variable {r : Reach} {s t : State}

theorem FrameOut.next (h : Frame r s t) : FrameOut r s (.next t) := fun _ e _ => Host.Outcome.next.inj e ▸ h

theorem FrameOut.trap (cause : Nat) (tval : Word) : FrameOut r s (.next (t.slotTrap cause tval)) := fun u e z => by
  obtain rfl := Host.Outcome.next.inj e
  exact absurd z (by simp [State.slotTrap])

theorem FrameOut.ite {c : Prop} [Decidable c] {o p : Out} (ho : FrameOut r s o) (hp : FrameOut r s p) :
    FrameOut r s (if c then o else p) := by split <;> assumption

theorem FrameOut.barred {o : Out} (h : FrameOut r s o) : FrameOut r s (t.barred o) := .ite (.trap _ _) h

theorem FrameOut.withScalar {bs : Bool} {a : BitVec 6} {k : Word → Out} (h : ∀ v, FrameOut r s (k v)) :
    FrameOut r s (withScalar bs a t k) := by
  unfold Machine.withScalar
  split
  · split
    · exact h _
    · exact .trap _ _
  · exact h _

theorem FrameOut.withB {l : List (BitVec 10)} {o : Out} (h : FrameOut r s o) : FrameOut r s (withB l t o) :=
  .ite (.trap _ _) h
end

/-! ### Scalar and vector operations -/

section
variable {r : Reach} {s t : State} (h : Frame r s t)
include h

theorem frame_scalarOp {g : Guard} {sd : BitVec 6} {off : Nat} {f : Ctx → Word × NFlags} :
    FrameOut r s (scalarOp g sd off f t) := .ite (.next (frame_landing h _ _ _ _)) (.next h)

theorem frame_predOp {g : Guard} {pd : Nat} {f : Ctx → Half} : FrameOut r s (predOp g pd f t) :=
  .ite (.next (frame_landing h _ _ _ _)) (.next h)

theorem frame_scalarMem {o : ScMem} {k : Nat → Nat → State → State} (hk : ∀ n a u, Frame r s u → Frame r s (k n a u)) :
    FrameOut r s (scalarMem o t k) :=
  .ite (.next (frame_setEa h _ _)) (.ite (.trap _ _) (.next (hk _ _ _ (frame_setEa h _ _))))

theorem frame_vecOut {o : VOp} {off w : Nat} {f : Nat → Nat × NFlags} : FrameOut r s (vecOut o off w f t) :=
  .ite (.next h) (.next (frame_landV h _ _ _ _ _ _))

theorem frame_vecBits {o : VOp} {off : Nat} {v : VWord} : FrameOut r s (vecBits o off v t) :=
  .ite (.next h) (.next (frame_landV h _ _ _ _ _ _))

theorem frame_vecBin {o : VOp} {offF offI : Nat} {ff : Fmt → FV → FV → Nat × NFlags}
    {fi : Nat → Nat → Nat → Nat × NFlags} : FrameOut r s (vecBin o offF offI ff fi t) :=
  .withB (.ite (frame_vecOut h) (frame_vecOut h))

theorem frame_quantise {o : VOp} {q n width : Nat} {bias steps lo hi : Int} :
    FrameOut r s (quantise o q n width bias steps lo hi t) :=
  .withB (.ite (.next h) (.next (frame_landV (frame_landV h _ _ _ _ _ _) _ _ _ _ _ _)))

theorem frame_vecMem {o : VMem} {k : Int → Half → State → Out}
    (hk : ∀ ea m u, Frame r s u → FrameOut r s (k ea m u)) : FrameOut r s (vecMem o t k) :=
  .ite (.next (frame_setEa h _ _)) (hk _ _ _ (frame_setEa h _ _))

theorem frame_shadowLoad {o : VMem} {off : Nat} {m : Half} : FrameOut r s (shadowLoad o off m t) :=
  .next (frame_landing h _ _ _ _)

theorem frame_shadowStore {o : VMem} {off : Nat} {l : List (Nat × Int)} : FrameOut r s (shadowStore o off l t) :=
  .next (frame_access h _ _ _ _ _)

end

theorem frame_checked {r : Reach} {s t : State} {rows : Nat} {l : List (Nat × Int)} {k : List (Nat × Nat) → State → Out}
    (hk : ∀ l, FrameOut r s (k l t)) : FrameOut r s (checked rows l t k) :=
  .ite (.trap _ _) (.ite (.trap _ _) (hk _))

/-- The instructions whose operations may reach so far. -/
def Reach.fits (r : Reach) (i : Instr) : Bool :=
  match r with
  | .pipes => true
  | .core => controls i || classOf i == 5
  | .bank => classOf i == 5
  | .far => classOf i == 6

/-- What the issue of an operation leaves. -/
structure Leaves (r : Reach) (i : Instr) : Prop where
  fits : r.fits i = true
  out : ∀ s, FrameOut r s (exec i s)

theorem leaves_scalar :
    (∀ sat o, Leaves .pipes (.add sat o)) ∧ (∀ sat o, Leaves .pipes (.sub sat o)) ∧
    (∀ sat o, Leaves .pipes (.addi sat o)) ∧ (∀ sat o, Leaves .pipes (.mul sat o)) ∧
    (∀ o, Leaves .pipes (.mulh o)) ∧ (∀ o, Leaves .pipes (.mulhu o)) ∧ (∀ o, Leaves .pipes (.div o)) ∧
    (∀ o, Leaves .pipes (.divu o)) ∧ (∀ o, Leaves .pipes (.rem o)) ∧ (∀ o, Leaves .pipes (.remu o)) ∧
    (∀ o, Leaves .pipes (.and o)) ∧ (∀ o, Leaves .pipes (.or o)) ∧ (∀ o, Leaves .pipes (.xor o)) ∧
    (∀ o, Leaves .pipes (.andi o)) ∧ (∀ o, Leaves .pipes (.ori o)) ∧ (∀ o, Leaves .pipes (.xori o)) ∧
    (∀ o, Leaves .pipes (.shl o)) ∧ (∀ o, Leaves .pipes (.shr o)) ∧ (∀ o, Leaves .pipes (.sra o)) ∧
    (∀ o, Leaves .pipes (.shli o)) ∧ (∀ o, Leaves .pipes (.shri o)) ∧ (∀ o, Leaves .pipes (.srai o)) ∧
    (∀ o, Leaves .pipes (.min o)) ∧ (∀ o, Leaves .pipes (.max o)) ∧ (∀ o, Leaves .pipes (.minu o)) ∧
    (∀ o, Leaves .pipes (.maxu o)) ∧ (∀ o, Leaves .pipes (.clz o)) ∧ (∀ o, Leaves .pipes (.popc o)) ∧
    (∀ g sd imm, Leaves .pipes (.li g sd imm)) ∧ (∀ o, Leaves .pipes (.mov o)) ∧
    (∀ pc o, Leaves .pipes (.sel pc o)) ∧ (∀ g dst src, Leaves .pipes (.pmovSP g dst src)) := by
  and_intros <;>
  ( intros; refine ⟨rfl, fun s => ?_⟩
    dsimp only [exec, execAdd, execSub, execAddi, execMul, execMulh, execMulhu, execDiv, execDivu, execRem, execRemu,
      execAnd, execOr, execXor, execAndi, execOri, execXori, execShl, execShr, execSra, execShli, execShri, execSrai,
      execMin, execMax, execMinu, execMaxu, execClz, execPopc, execLi, execMov, execSel, execPmovSP, opRR, opRI, opRS,
      opRU]
    exact frame_scalarOp (.refl _ s))

theorem leaves_predicate :
    (∀ o, Leaves .pipes (.cmp o)) ∧ (∀ o, Leaves .pipes (.cmpi o)) ∧ (∀ o, Leaves .pipes (.pand o)) ∧
    (∀ o, Leaves .pipes (.por o)) ∧ (∀ o, Leaves .pipes (.pxor o)) ∧ (∀ o, Leaves .pipes (.pandn o)) ∧
    (∀ g dst src, Leaves .pipes (.pmovPP g dst src)) ∧ (∀ g dst src, Leaves .pipes (.pmovPS g dst src)) := by
  and_intros <;>
  ( intros; refine ⟨rfl, fun s => ?_⟩
    dsimp only [exec, execCmp, execCmpi, execPand, execPor, execPxor, execPandn, execPmovPP, execPmovPS, opPP]
    exact frame_predOp (.refl _ s))

theorem leaves_scratchpad : (∀ o u, Leaves .pipes (.lds o u)) ∧ (∀ o, Leaves .pipes (.sts o)) := by
  and_intros <;>
  ( intros; refine ⟨rfl, fun s => ?_⟩
    dsimp only [exec, execLds, execSts]
    exact frame_scalarMem (.refl _ s) fun _ _ _ h => frame_access h _ _ _ _ _)

theorem leaves_nop (g : Guard) : Leaves .pipes (.nop g) := by
  refine ⟨rfl, fun s => ?_⟩
  exact .next (.refl _ s)

theorem leaves_vector_binary :
    (∀ o, Leaves .pipes (.vadd o)) ∧ (∀ o, Leaves .pipes (.vsub o)) ∧ (∀ o, Leaves .pipes (.vmul o)) ∧
    (∀ o u, Leaves .pipes (.vmulh o u)) ∧ (∀ o, Leaves .pipes (.vmin o)) ∧ (∀ o, Leaves .pipes (.vmax o)) ∧
    (∀ o, Leaves .pipes (.vminu o)) ∧ (∀ o, Leaves .pipes (.vmaxu o)) ∧ (∀ o, Leaves .pipes (.vshl o)) ∧
    (∀ o, Leaves .pipes (.vshr o)) ∧ (∀ o, Leaves .pipes (.vsra o)) := by
  and_intros <;>
  ( intros; refine ⟨rfl, fun s => ?_⟩
    dsimp only [exec, execVadd, execVsub, execVmul, execVmulh, execVmin, execVmax, execVminu, execVmaxu, execVshl,
      execVshr, execVsra, vecShift]
    exact frame_vecBin (.refl _ s))

theorem leaves_vector_elements :
    (∀ o, Leaves .pipes (.vfma o)) ∧ (∀ o, Leaves .pipes (.vfms o)) ∧ (∀ o, Leaves .pipes (.vfnma o)) ∧
    (∀ o, Leaves .pipes (.vabs o)) ∧ (∀ o, Leaves .pipes (.vneg o)) ∧ (∀ o k, Leaves .pipes (.vshlImm o k)) ∧
    (∀ o k, Leaves .pipes (.vshrImm o k)) ∧ (∀ o k, Leaves .pipes (.vsraImm o k)) ∧
    (∀ o cc, Leaves .pipes (.vcmp o cc)) ∧ (∀ o, Leaves .pipes (.vperm o)) ∧ (∀ o k, Leaves .pipes (.vrot o k)) ∧
    (∀ o k, Leaves .pipes (.vslideDn o k)) ∧ (∀ o k, Leaves .pipes (.vslideUp o k)) ∧ (∀ o, Leaves .pipes (.vrcp o)) ∧
    (∀ o, Leaves .pipes (.vrsq o)) ∧ (∀ o, Leaves .pipes (.vexp2 o)) ∧ (∀ o, Leaves .pipes (.vlog2 o)) ∧
    (∀ o, Leaves .pipes (.vscl o)) := by
  and_intros <;>
  ( intros; refine ⟨rfl, fun s => ?_⟩
    dsimp only [exec, execVfma, execVfms, execVfnma, execVabs, execVneg, execVshlImm, execVshrImm, execVsraImm,
      execVcmp, execVperm, execVrot, execVslideDn, execVslideUp, execVrcp, execVrsq, execVexp2, execVlog2, execVscl,
      vecFused, vecUn, vecShiftImm, vecFun]
    exact .withB (frame_vecOut (.refl _ s)))

theorem leaves_vmac (o : VOp) : Leaves .pipes (.vmac o) := by
  refine ⟨rfl, fun s => ?_⟩
  dsimp only [exec, execVmac]
  exact .withB (.ite (frame_vecOut (.refl _ s)) (frame_vecOut (.refl _ s)))

theorem leaves_vector_whole :
    (∀ o, Leaves .pipes (.vand o)) ∧ (∀ o, Leaves .pipes (.vor o)) ∧ (∀ o, Leaves .pipes (.vxor o)) ∧
    (∀ o, Leaves .pipes (.vandn o)) ∧ (∀ o ps, Leaves .pipes (.vsel o ps)) ∧ (∀ o, Leaves .pipes (.vmov o)) ∧
    (∀ o idx, Leaves .pipes (.vbc o idx)) := by
  and_intros <;>
  ( intros; refine ⟨rfl, fun s => ?_⟩
    dsimp only [exec, execVand, execVor, execVxor, execVandn, execVsel, execVmov, execVbc, vecLogic]
    exact .withB (frame_vecBits (.refl _ s)))

theorem leaves_vbcImm (o : VOp) (imm : BitVec 8) : Leaves .pipes (.vbcImm o imm) := by
  refine ⟨rfl, fun s => ?_⟩
  exact frame_vecBits (.refl _ s)

theorem leaves_vcmpP (o : VOp) (cc : BitVec 4) : Leaves .pipes (.vcmpP o cc) := by
  refine ⟨rfl, fun s => ?_⟩
  exact .withB (.ite (.next (.refl _ s)) (.next (frame_landing (.refl _ s) _ _ _ _)))

theorem leaves_vector_masked :
    (∀ o dst src, Leaves .pipes (.vcvt o dst src)) ∧ (∀ o op, Leaves .pipes (.vred o op)) ∧
    (∀ o gs eb nm hi, Leaves .pipes (.vdqg o gs eb nm hi)) := by
  and_intros <;>
  ( intros; refine ⟨rfl, fun s => ?_⟩
    exact .withB (.ite (.next (.refl _ s)) (.next (frame_landV (.refl _ s) _ _ _ _ _ _))))

theorem leaves_vtint (o : VOp) : Leaves .pipes (.vtint o) := by
  refine ⟨rfl, fun s => ?_⟩
  exact .withB (.ite (.next (.refl _ s)) (.ite (.trap _ _) (.ite (.next (frame_landing (.refl _ s) _ _ _ _))
    (.next (frame_access (.refl _ s) _ _ _ _ _)))))

theorem leaves_quantise : (∀ o q, Leaves .pipes (.vmxq o q)) ∧ (∀ o n q, Leaves .pipes (.vbfpq o n q)) := by
  and_intros <;> (intros; refine ⟨rfl, fun s => ?_⟩; exact frame_quantise (.refl _ s))

theorem leaves_vector_memory :
    (∀ o, Leaves .pipes (.vld o)) ∧ (∀ o, Leaves .pipes (.vlds o)) ∧ (∀ o, Leaves .pipes (.vst o)) ∧
    (∀ o, Leaves .pipes (.vgth o)) ∧ (∀ o, Leaves .pipes (.vsct o)) := by
  and_intros <;> intro o <;> refine ⟨rfl, fun s => ?_⟩ <;> dsimp only [exec, execVld, execVlds, execVst, execVgth,
      execVsct]
  · exact frame_vecMem (.refl _ s) fun _ _ _ h =>
      .ite (frame_shadowLoad h) (.ite (.trap _ _) (.next (frame_access h _ _ _ _ _)))
  · exact frame_vecMem (.refl _ s) fun _ _ _ h =>
      .ite (frame_shadowLoad h) (frame_checked fun _ => .next (frame_access h _ _ _ _ _))
  · exact .withB (frame_vecMem (.refl _ s) fun _ _ _ h =>
      .ite (frame_shadowStore h) (.ite (.trap _ _) (.next (frame_access h _ _ _ _ _))))
  · exact .withB (frame_vecMem (.refl _ s) fun _ _ _ h =>
      .ite (frame_shadowLoad h) (frame_checked fun _ => .next (frame_access h _ _ _ _ _)))
  · exact .withB (frame_vecMem (.refl _ s) fun _ _ _ h =>
      .ite (frame_shadowStore h) (frame_checked fun _ => .next (frame_access h _ _ _ _ _)))

/-! ### Control operations -/

/-- The registers of a context stand where its loops, its regions or its waiting change. -/
theorem sameRegs_popLoops (x : BitVec 54) (l : List Nat) (c : Ctx) : SameRegs c (c.popLoops x l) := by
  induction l generalizing c with
  | nil => constructor <;> rfl
  | cons n l ih =>
    rw [Ctx.popLoops]
    split
    · constructor <;> rfl
    · exact SameRegs.trans (by constructor <;> rfl) (ih _)

theorem setBits_setBits (w : Word) (hi lo v x : Nat) : setBits (setBits w hi lo v) hi lo x = setBits w hi lo x := by
  unfold setBits
  ext i
  simp only [BitVec.getElem_or, BitVec.getElem_and, BitVec.getElem_not]
  grind

theorem sameRegs_depth (c : Ctx) : SameRegs c c.depth := by
  constructor
  case tstat => exact setBits_setBits _ _ _ _ _
  all_goals rfl

theorem sameRegs_regions (c : Ctx) (l : List Region) : SameRegs c { c with regions := l } := by
  constructor <;> rfl

theorem sameRegs_openRegion (t : Nat) (c : Ctx) : SameRegs c (c.openRegion t) :=
  (sameRegs_regions c _).trans (sameRegs_depth _)

theorem sameRegs_closeRegion (c : Ctx) : SameRegs c c.closeRegion := by
  unfold Ctx.closeRegion
  split <;> exact (sameRegs_regions c _).trans (sameRegs_depth _)

theorem sameRegs_log (t : Nat) (e : PEntry) (c : Ctx) : SameRegs c (c.log t e) := by
  unfold Ctx.log
  split
  · exact .refl _
  · split <;> exact sameRegs_regions c _

theorem sameRegs_commitAll (t : Nat) (c : Ctx) : SameRegs c (c.commitAll t) := sameRegs_regions c _

section
variable {r : Reach} (hr : 1 ≤ r.rank) {s t : State} (h : Frame r s t)
include hr h

theorem frame_transfer (x : BitVec 54) (kind : Nat) (pops : Bool) : FrameOut r s (t.transfer x kind pops) := by
  refine .ite (.trap _ _) (.next (frame_cur (frame_traceRec hr ?_ _ _ _ _) _ rfl))
  split
  · exact frame_ownCtx hr h _ fun c => sameRegs_popLoops _ _ c
  · exact h

theorem frame_openLoop (n blen trips : Nat) : FrameOut r s (t.openLoop n blen trips) := by
  unfold State.openLoop
  refine .ite (.trap _ _) (.ite (.next (frame_cur h _ rfl)) (.next ?_))
  exact frame_ownCtx hr h (fun c => { c.setLoop n _ with stack := _ }) fun c => by constructor <;> rfl

theorem frame_waitHold (cause : HoldCause) (code : Nat) : FrameOut r s (t.waitHold cause code) := by
  unfold State.waitHold
  split
  · exact .next h
  · exact .next (frame_addHold hr h _ _ _ _)

theorem frame_lineErrors (c : Ctx) (lines : List Nat) : Frame r s (t.lineErrors t.cur.site c lines).2 := by
  have picked : ∀ {s : State} (h : Frame r s t) (l : List Nat),
      Frame r s (if l.isEmpty then (0, t) else t.pick l 0).2 := fun h l => by
    split
    · exact h
    · exact frame_pick h _ _
  unfold State.lineErrors
  dsimp only
  split
  · exact picked h _
  · have site := (picked (Frame.refl _ t) (lines.filter fun l => c.poison.contains l && !c.badLine.contains l)).site
    rw [← site]
    exact frame_ownCtx hr (picked h _) _ fun c => by constructor <;> rfl

theorem frame_readLines (off : Nat) (lines : List Nat) : Frame r s (t.readLines off lines) :=
  frame_forAll (frame_lineErrors hr h _ _) _ _ fun _ _ _ hu => frame_boundary hu _ _

theorem frame_preserve (kind : Nat) (regs : List Nat) : Frame r s (t.preserve kind regs) := by
  unfold State.preserve
  refine frame_forAll h _ _ fun n _ u hu => ?_
  rw [h.site.trans hu.site.symm]
  exact frame_ownCtx hr hu _ (sameRegs_log _ _)

theorem frame_addUop (scope : Nat) (kind : UKind) : Frame r s (t.addUop scope kind) :=
  frame_own hr h _ (fun _ => .refl _) fun _ => rfl

theorem frame_irrevocable : Frame r s t.irrevocable := frame_ownCtx hr h _ (sameRegs_commitAll _)
end

theorem leaves_control :
    (∀ g, Leaves .core (.halt g)) ∧ (∀ g code, Leaves .core (.trap g code)) ∧ (∀ g, Leaves .core (.rft g)) ∧
    (∀ g, Leaves .core (.isync g)) := by
  and_intros <;> intros <;> refine ⟨rfl, fun s => ?_⟩
  · exact .ite (.next (.refl _ s)) (.ite (.trap _ _) (.ite (.trap _ _) (.next (frame_cur
      (frame_ownCtx (by decide) (.refl _ s) _ fun c => by constructor <;> rfl) _ rfl))))
  · exact .ite (.next (.refl _ s)) (.ite (.trap _ _) (.next (frame_cur (.refl _ s) _ rfl)))
  · exact .ite (.next (.refl _ s)) (.ite (.trap _ _) (.next (frame_cur (.refl _ s) _ rfl)))
  · refine .next ?_
    split
    · exact frame_cur (.refl _ s) _ rfl
    · exact .refl _ s

theorem leaves_transfer :
    (∀ g off, Leaves .core (.br g off)) ∧ (∀ g sd off, Leaves .core (.brl g sd off)) ∧
    (∀ g sa, Leaves .core (.ret g sa)) ∧ (∀ g sa off, Leaves .core (.jmp g sa off)) := by
  have framed : ∀ {s t : State} (h : Frame .core s t) x kind pops, FrameOut .core s (t.transfer x kind pops) :=
    fun h => frame_transfer (by decide) h
  and_intros <;> intros <;> refine ⟨rfl, fun s => ?_⟩
  · exact .ite (.next (.refl _ s)) (framed (.refl _ s) _ _ _)
  · exact .ite (.next (.refl _ s)) (framed (frame_landS (.refl _ s) _ _ _) _ _ _)
  · exact .ite (.next (.refl _ s)) (framed (.refl _ s) _ _ _)
  · exact .ite (.next (.refl _ s)) (framed (.refl _ s) _ _ _)

theorem leaves_loop :
    (∀ g ln blen cnt, Leaves .core (.loop g ln blen cnt)) ∧ (∀ g ln blen mbi, Leaves .core (.loopm g ln blen mbi)) := by
  and_intros <;> (intros; refine ⟨rfl, fun s => ?_⟩; exact frame_openLoop (by decide) (.refl _ s) _ _ _)

theorem leaves_align (tag : BitVec 8) : Leaves .core (.align tag) := by
  refine ⟨rfl, fun s => ?_⟩
  refine .barred (.ite (.ite (.next (.refl _ s)) (.trap _ _)) ?_)
  dsimp only
  split
  · exact .next (frame_cur (.refl _ s) _ rfl)
  · split
    · exact .trap _ _
    · exact .ite (.trap _ _) (.next (frame_ownCtx (by decide) (.refl _ s)
        (fun c => { c with waiting := some (tag.toNat, s.timeOf s.cur.site) }) fun c => by constructor <;> rfl))

theorem leaves_wait :
    (∀ g sa, Leaves .core (.waits g sa)) ∧ (∀ g ch sa, Leaves .core (.waitx g ch sa)) := by
  and_intros <;> intros <;> refine ⟨rfl, fun s => ?_⟩
  · exact .ite (frame_waitHold (by decide) (.refl _ s) _ _) (.next (.refl _ s))
  · exact .ite (.next (.refl _ s)) (.ite (.trap _ _) (.ite (frame_waitHold (by decide) (.refl _ s) _ _)
      (.next (.refl _ s))))

theorem leaves_read :
    (∀ g sd, Leaves .core (.cycW g sd)) ∧ (∀ g sd csr, Leaves .core (.csrr g sd csr)) ∧
    (∀ g sd mbi, Leaves .core (.mbr g sd mbi)) := by
  and_intros <;>
  ( intros; refine ⟨rfl, fun s => ?_⟩; refine .next ?_
    split
    · exact frame_landS (.refl _ s) _ _ _
    · exact .refl _ s)

theorem leaves_cycC (g : Guard) (sd se : BitVec 6) : Leaves .core (.cycC g sd se) := by
  refine ⟨rfl, fun s => ?_⟩
  refine .ite (.next (.refl _ s)) (.next ?_)
  split
  · exact frame_landS (.refl _ s) _ _ _
  · exact frame_landS (frame_landS (.refl _ s) _ _ _) _ _ _

theorem leaves_csrw (g : Guard) (sa : BitVec 6) (csr : BitVec 12) : Leaves .core (.csrw g sa csr) := by
  refine ⟨rfl, fun s => ?_⟩
  exact .ite (.next (.refl _ s)) (.ite (.trap _ _) (.next (frame_landing (.refl _ s) _ _ _ _)))

theorem leaves_write : (∀ g sa mbi, Leaves .core (.mbw g sa mbi)) ∧ (∀ g sa sb, Leaves .core (.iinv g sa sb)) := by
  and_intros <;>
  ( intros; refine ⟨rfl, fun s => ?_⟩; refine .next ?_
    split
    · exact frame_landing (.refl _ s) _ _ _ _
    · exact .refl _ s)

theorem leaves_region :
    Leaves .core .rbegin ∧ (∀ kind first cnt, Leaves .core (.rpres kind first cnt)) ∧ (∀ sd, Leaves .core (.rend sd)) ∧
    (∀ g, Leaves .core (.rfail g)) := by
  and_intros
  · exact ⟨rfl, fun s => .barred (.ite (.trap _ _)
      (.next (frame_ownCtx (by decide) (.refl _ s) _ (sameRegs_openRegion _))))⟩
  · intro kind first cnt
    refine ⟨rfl, fun s => ?_⟩
    refine .barred (.ite (.trap _ _) (.next (frame_preserve (by decide) ?_ _ _)))
    split
    · exact frame_readLines (by decide) (.refl _ s) _ _
    · exact .refl _ s
  · intro sd
    refine ⟨rfl, fun s => ?_⟩
    refine .barred ?_
    split
    · exact .trap _ _
    · exact .next (frame_ownCtx (by decide) (frame_landS (.refl _ s) _ _ _) _ sameRegs_closeRegion)
  · exact fun g => ⟨rfl, fun s => .ite (.next (.refl _ s)) (.barred (.next (frame_boundary (.refl _ s) _ _)))⟩

theorem leaves_fence (g : Guard) (scp : BitVec 3) : Leaves .core (.fence g scp) := by
  refine ⟨rfl, fun s => ?_⟩
  refine .next ?_
  split
  · exact frame_addUop (by decide) (.refl _ s) _ _
  · exact .refl _ s

/-! ### Tile operations -/

section
variable {r : Reach} {s t : State}

theorem FrameOut.tileOp {g : Guard} {o : Out} (h : Frame r s t) (ho : FrameOut r s o) : FrameOut r s (tileOp g t o) :=
  .ite (.next h) (.barred ho)

theorem FrameOut.tileCheck {l : List (Nat × Nat)} {o : Out} (ho : FrameOut r s o) : FrameOut r s (tileCheck l t o) := by
  unfold Machine.tileCheck
  split
  · exact ho
  · exact .trap _ _

theorem frame_tileMem {o : TMem} {n : Nat} {k : Nat → State → State} (h : Frame r s t)
    (hk : ∀ a u, Frame r s u → Frame r s (k a u)) : FrameOut r s (tileMem o n t k) :=
  .withScalar fun _ => .ite (.next (frame_setEa h _ _)) (.barred (.ite (.trap _ _) (.next (hk _ _ (frame_setEa h _ _)))))

theorem frame_storeTile (hr : 1 ≤ r.rank) (h : Frame r s t) (n a : Nat) : Frame r s (t.storeTile n a) :=
  frame_access (frame_readLines hr h _ _) _ _ _ _ _

theorem frame_multiply (hr : 1 ≤ r.rank) (h : Frame r s t) {g : Guard} {tc ta ew : Nat} {side : Option Nat}
    {k : Weights → Nat → State → Out} (hk : ∀ w n u, Frame r s u → FrameOut r s (k w n u)) :
    FrameOut r s (multiply g tc ta ew side t k) := by
  refine .tileOp h ?_
  dsimp only
  split
  · exact .tileCheck (.next h)
  · refine .tileCheck (.ite (.trap _ _) (hk _ _ _ ?_))
    exact frame_ownCtx hr h (fun c => { c with matrix := _ }) fun c => by constructor <;> rfl
end

theorem leaves_tileMem : (∀ o, Leaves .core (.tld o)) ∧ (∀ o, Leaves .core (.tst o)) ∧ (∀ o,
    Leaves .core (.tstOV o)) := by
  and_intros <;> intro o <;> refine ⟨rfl, fun s => ?_⟩ <;> dsimp only [exec, execTld, execTst, execTstOV]
  · exact frame_tileMem (.refl _ s) fun _ _ h => frame_access h _ _ _ _ _
  · exact frame_tileMem (.refl _ s) fun _ _ h => frame_storeTile (by decide) h _ _
  · exact frame_tileMem (.refl _ s) fun _ _ h =>
      frame_landing (frame_access (frame_storeTile (by decide) h _ _) _ _ _ _ _) _ _ _ _

theorem leaves_tile :
    (∀ g td, Leaves .core (.tzero g td)) ∧ (∀ g td ts, Leaves .core (.tmov g td ts)) ∧
    (∀ g td ts, Leaves .core (.ttrn g td ts)) ∧ (∀ g tx, Leaves .core (.tsmxInit g tx)) ∧
    (∀ g tc tx ns, Leaves .core (.tsmxNorm g tc tx ns)) := by
  and_intros <;> intros <;> refine ⟨rfl, fun s => ?_⟩
  · exact .tileOp (.refl _ s) (.tileCheck (.next (frame_landing (frame_landing (.refl _ s) _ _ _ _) _ _ _ _)))
  · exact .tileOp (.refl _ s) (.next (frame_landing (frame_readLines (by decide) (.refl _ s) _ _) _ _ _ _))
  · exact .tileOp (.refl _ s) (.tileCheck (.next
      (frame_landing (frame_readLines (by decide) (.refl _ s) _ _) _ _ _ _)))
  · exact .tileOp (.refl _ s) (.tileCheck (.next (frame_landing (.refl _ s) _ _ _ _)))
  · exact .tileOp (.refl _ s) (.tileCheck (.next
      (frame_landing (frame_landing (frame_readLines (by decide) (.refl _ s) _ _) _ _ _ _) _ _ _ _)))

theorem leaves_twl : (∀ g tw, Leaves .core (.twl g tw)) ∧ (∀ g tw tsc, Leaves .core (.twlMx g tw tsc)) := by
  and_intros <;>
  ( intros; refine ⟨rfl, fun s => ?_⟩
    refine .tileOp (.refl _ s) (.tileCheck (.ite (.trap _ _) (.next ?_)))
    exact frame_ownCtx (by decide) (frame_readLines (by decide) (.refl _ s) _ _) _ fun c => by constructor <;> rfl)

theorem leaves_multiply :
    (∀ g tc ta asc, Leaves .core (.tmma g tc ta asc)) ∧ (∀ g tc ta tsc asc, Leaves .core (.tmmaMx g tc ta tsc asc)) ∧
    (∀ g tc ta asc, Leaves .core (.katt g tc ta asc)) ∧ (∀ g tc ta tsc asc, Leaves .core (.kattMx g tc ta tsc asc)) ∧
    (∀ g tc ta tx qs asc, Leaves .core (.tmmaSmx g tc ta tx qs asc)) := by
  and_intros <;>
  ( intros; refine ⟨rfl, fun s => ?_⟩
    dsimp only [exec, execTmma, execTmmaMx, execKatt, execKattMx, execTmmaSmx, tmma, katt]
    exact frame_multiply (by decide) (.refl _ s) fun _ _ _ h =>
      .next (frame_landing (frame_readLines (by decide) h _ _) _ _ _ _))

/-! ### Crossbar operations -/

section
variable {r : Reach} {s t : State} (h : Frame r s t)
include h

theorem frame_calib {o : XOp} {k : Nat → Nat → State → Out} (hk : ∀ a n u, Frame r s u → FrameOut r s (k a n u)) :
    FrameOut r s (calib o t k) :=
  .withScalar fun _ => .ite (.next (frame_setEa h _ _)) (.barred (hk _ _ _ (frame_setEa h _ _)))

theorem frame_landXmv (off vd sx grp top : Nat) (out : List Int) (sat fb : Nat) (clip : BitVec 256) :
    Frame r s (t.landXmv off vd sx grp top out sat fb clip) :=
  frame_once h _ fun _ hu => frame_landing (frame_landing
    (frame_forAll hu _ _ fun _ _ _ hv => frame_landing hv _ _ _ _) _ _ _ _) _ _ _ _

/-- The site's own pipelines take an access. -/
theorem frame_placeOwn {i : Nat} (hi : i = t.cur.site) (a : Access) : Frame r s (t.place i a) := by
  subst hi
  exact frame_pipes h _ fun c => by simp [Ctx.still]
end

section
variable {r : Reach} (hr : 2 ≤ r.rank) {s t : State} (h : Frame r s t)
include hr h

theorem frame_modMyBank (f : Bank → Bank) : Frame r s (t.modMyBank f) :=
  h.trans {
    site := rfl
    device := by constructor <;> rfl
    memory := sameMemory_of_fields (sameMemory_refl t) rfl rfl rfl rfl
    regs := fun _ => .refl _
    bank := fun _ n => bank_modBank_other _ _ n
    pipes := fun z => absurd z (by omega)
    banks := fun z => absurd z (by omega)
    near := fun _ => ⟨rfl, fun _ _ => rfl, fun _ => rfl⟩ }

theorem frame_occupy (w : List (Nat × Nat × Nat)) : Frame r s (t.occupy w) := frame_modMyBank hr h _

theorem frame_bankLater (off : Nat) (e : BankEffect) : Frame r s (t.bankLater off e) := frame_modMyBank hr h _

theorem frame_writeOp (a : Nat) (commit : Bool) : Frame r s (t.writeOp a commit) :=
  frame_irrevocable (by omega) (frame_bankLater hr (frame_modMyBank hr h _) _ _)

theorem frame_calibCheck {a : Nat} {writes reads thermal : Bool} {w : List (Nat × Nat × Nat)} {k : State → Out}
    (hk : ∀ u, Frame r s u → FrameOut r s (k u)) : FrameOut r s (t.calibCheck a writes reads thermal w k) :=
  .ite (.trap _ _) (.ite (.trap _ _) (.ite (.trap _ _) (.ite (.trap _ _) (hk _ (frame_occupy hr h _)))))

theorem frame_xprog {reset : Bool} {o : XOp} {vm : BitVec 10} {win : BitVec 3} {amp : BitVec 4} :
    FrameOut r s (xprog reset o vm win amp t) :=
  frame_calib h fun _ _ _ hu => frame_calibCheck hr hu fun _ hv =>
    .next (frame_bankLater hr (frame_writeOp hr (frame_fresh hv _) _ _) _ _)

theorem frame_xerase {all : Bool} {o : XOp} : FrameOut r s (xerase all o t) :=
  frame_calib h fun _ _ _ hu => frame_calibCheck hr hu fun _ hv => by
    refine .next (frame_bankLater hr ?_ _ _)
    split
    · exact frame_modMyBank hr (frame_writeOp hr hv _ _) _
    · exact frame_writeOp hr hv _ _

theorem frame_startXmv (o : XmvOp) (w : Word) (n : Nat) (copy : Int) (fit nan : Bool) :
    Frame r s (t.startXmv o w n copy fit nan) := by
  unfold State.startXmv
  dsimp only
  have busy := fun f => frame_modMyBank hr (frame_occupy hr h (xmvWindows w t.myBank.half n)) f
  split
  · exact frame_landXmv (busy _) _ _ _ _ _ _ _ _ _
  · split
    · exact frame_landXmv (frame_fresh (busy _) _) _ _ _ _ _ _ _ _ _
    · have placed : ∀ {u : State}, Frame r s u → ∀ c : Cur, c.site = u.cur.site → ∀ a,
          Frame r s (State.place { u with cur := c } t.cur.site a) := fun hu c hc a =>
        frame_placeOwn (frame_cur hu c hc) (h.site.trans (hc.trans hu.site).symm) a
      refine placed (frame_addHold (by omega) (busy _) _ _ _ _) _ ?_ _
      rfl
end

theorem reach_bank : 2 ≤ Reach.bank.rank := by decide

theorem leaves_xmv (o : XmvOp) : Leaves .bank (.xmv o) := by
  refine ⟨rfl, fun s => ?_⟩
  dsimp only [exec, execXmv]
  refine .withScalar fun f => .ite (.next (.refl _ s)) (.barred ?_)
  exact .ite (.trap _ _) (.ite (.trap _ _) (.ite (.trap _ _) (.ite (.trap _ _) (.ite (.trap _ _) (.ite (.trap _ _)
    (.next (frame_startXmv (by decide) (.refl _ s) _ _ _ _ _ _)))))))

theorem leaves_xswap (g : Guard) (grp : BitVec 6) : Leaves .bank (.xswap g grp) := by
  refine ⟨rfl, fun s => ?_⟩
  exact .ite (.next (.refl _ s)) (.barred (.ite (.trap _ _) (.next
    (frame_irrevocable (by decide) (frame_modMyBank (by decide) (.refl _ s) _)))))

theorem leaves_xstat : (∀ g sd idx, Leaves .bank (.xstat g sd idx)) ∧ (∀ g sd idx,
    Leaves .bank (.xstatA g sd idx)) := by
  and_intros <;> intro g sd idx <;> refine ⟨rfl, fun s => ?_⟩
  · exact .ite (.next (.refl _ s)) (.barred (.ite (.trap _ _) (.next
      (frame_once (.refl _ s) _ fun _ hu => frame_landing hu _ _ _ _))))
  · exact .ite (.next (.refl _ s)) (.barred (.next (frame_once (.refl _ s) _ fun _ hu => frame_landing hu _ _ _ _)))

theorem leaves_calib_write :
    (∀ o vm win amp, Leaves .bank (.xprogSet o vm win amp)) ∧ (∀ o vm win amp, Leaves .bank (.xprogRst o vm win amp)) ∧
    (∀ o, Leaves .bank (.xerase o)) ∧ (∀ o, Leaves .bank (.xeraseAll o)) := by
  and_intros <;> intros <;> refine ⟨rfl, fun s => ?_⟩
  · exact frame_xprog (by decide) (.refl _ s)
  · exact frame_xprog (by decide) (.refl _ s)
  · exact frame_xerase (by decide) (.refl _ s)
  · exact frame_xerase (by decide) (.refl _ s)

theorem leaves_calib_read :
    (∀ o vd win, Leaves .bank (.xread o vd win)) ∧ (∀ o vd ve rs win, Leaves .bank (.xreadE o vd ve rs win)) ∧
    (∀ o vd, Leaves .bank (.xdrift o vd)) ∧ (∀ o sd, Leaves .bank (.xwear o sd)) := by
  have lands : ∀ {s t : State}, Frame .bank s t → ∀ off e,
      Frame .bank s (t.once (·.landing off fNone false e)) := fun h _ _ =>
    frame_once h _ fun _ hu => frame_landing hu _ _ _ _
  and_intros <;> intros <;> refine ⟨rfl, fun s => ?_⟩ <;> dsimp only [exec, execXread, execXreadE, execXdrift,
      execXwear] <;>
    refine frame_calib (.refl _ s) fun _ _ _ hu => ?_
  · exact frame_calibCheck reach_bank hu fun _ hv => .next (lands hv _ _)
  · exact frame_calibCheck reach_bank hu fun _ hv => .next (lands (frame_fresh hv _) _ _)
  · exact frame_calibCheck reach_bank hu fun _ hv => .next
      (lands (frame_bankLater reach_bank (frame_modMyBank reach_bank (frame_fresh hv _) _) _ _) _ _)
  · exact .next (lands hu _ _)

theorem leaves_calib_tables :
    (∀ o spr, Leaves .bank (.xremap o spr)) ∧ (∀ o vs, Leaves .bank (.xcalO o vs)) ∧
    (∀ o vs, Leaves .bank (.xcalG o vs)) ∧ (∀ o vs rs, Leaves .bank (.xcalGC o vs rs)) := by
  have later : ∀ {s t : State}, Frame .bank s t → ∀ a c off e, Frame .bank s ((t.writeOp a c).bankLater off e) :=
    fun h _ _ _ _ => frame_bankLater reach_bank (frame_writeOp reach_bank h _ _) _ _
  and_intros <;> intros <;> refine ⟨rfl, fun s => ?_⟩ <;> dsimp only [exec, execXremap, execXcalO, execXcalG,
      execXcalGC] <;>
    refine frame_calib (.refl _ s) fun _ _ _ hu => frame_calibCheck reach_bank hu fun _ hv => ?_
  · exact .ite (.trap _ _) (.ite (.trap _ _) (.next (later hv _ _ _ _)))
  · exact .ite (.trap _ _) (.next (later hv _ _ _ _))
  · exact .ite (.trap _ _) (.next (later hv _ _ _ _))
  · exact .ite (.trap _ _) (.ite (.trap _ _) (.ite (.trap _ _) (.ite (.trap _ _)
      (.next (frame_bankLater reach_bank (later hv _ _ _ _) _ _)))))

/-! ### Copy and atomic operations -/

/-- A change of any core's pipelines. -/
theorem frame_place {s t : State} (h : Frame .far s t) (i : Nat) (a : Access) : Frame .far s (t.place i a) :=
  h.modCore i (fun c => { c with ctx := { c.ctx with acc := c.ctx.acc ++ [a] } }) (by constructor <;> rfl) rfl
    (fun z => absurd z (by decide)) fun z => absurd z (by decide)

/-- A command on the path to a guard. -/
theorem frame_setPch {s t : State} (h : Frame .far s t) (p : Nat) (q : Pch) (mem : q.mem = (t.pch p).mem)
    (lines : q.lines = (t.pch p).lines) : Frame .far s (t.setPch p q) := by
  have kept : ∀ j, ((t.setPch p q).pch j).mem = (t.pch j).mem ∧ ((t.setPch p q).pch j).lines = (t.pch j).lines :=
    fun j => by
      rw [pch_setPch]
      split
      · next e => exact e ▸ ⟨mem, lines⟩
      · exact ⟨rfl, rfl⟩
  exact h.trans {
    site := rfl
    device := by constructor <;> rfl
    memory := ⟨fun _ _ => rfl, fun _ _ => rfl, fun j a => by rw [State.dramByte, (kept j).1]; rfl,
      fun j a => by rw [State.stagedByte, (kept j).2]; rfl, fun _ => rfl, fun _ => rfl⟩
    regs := fun _ => .refl _
    bank := fun _ _ => rfl
    pipes := fun z => absurd z (by decide)
    banks := fun _ => rfl
    near := fun z => absurd z (by decide) }

theorem reach_far : 1 ≤ Reach.far.rank := by decide

theorem frame_sendCmd {s t : State} (h : Frame .far s t) (c : Cohort) (x : DramOp) (a b : Int) :
    Frame .far s (t.sendCmd c x a b) := by
  unfold State.sendCmd
  dsimp only
  have sent : ∀ path n slot payload, Frame .far s ((t.setPch (dawPch a)
      { t.pch (dawPch a) with path := path, nextCmd := n }).traceRec t.cur.site 6 slot payload) := fun _ _ _ _ => by
    refine frame_traceRec reach_far (frame_setPch h _ _ ?_ ?_) _ _ _ _ <;> rfl
  have marked : ∀ {u : State}, Frame .far s u → Frame .far s (if x.irrevocable then u.irrevocable else u) := fun hu => by
    split
    · exact frame_irrevocable reach_far hu
    · exact hu
  split
  · exact frame_once (marked (sent _ _ _ _)) _ fun _ hu => frame_access hu _ _ _ _ _
  · split
    · exact frame_touch (marked (sent _ _ _ _)) _
    · exact marked (sent _ _ _ _)

section
variable {s t : State} (h : Frame .far s t)
include h

theorem frame_dram {x : DramOp} {o : DOp} {sb : BitVec 6} : FrameOut .far s (dram x o sb t) := by
  refine .withScalar fun v => .ite (.next (frame_setEa h _ _)) (.barred ?_)
  split
  · exact .next (frame_setEa h _ _)
  · split
    · exact .trap _ _
    · exact .ite (.trap _ _) (.next (frame_sendCmd (frame_setEa h _ _) _ _ _ _))

theorem frame_fabric {o : DOp} {sr : BitVec 6} {peer : BitVec 7} {sz : BitVec 2}
    {k : Nat → Nat → Nat → Nat → Nat × Bool → Cohort → State → State}
    (hk : ∀ n la ra site hop c u, Frame .far s u → Frame .far s (k n la ra site hop c u)) :
    FrameOut .far s (fabric o sr peer sz t k) := by
  refine .withScalar fun v => .ite (.next (frame_setEa h _ _)) (.barred ?_)
  split
  · exact .next (frame_setEa h _ _)
  · exact .ite (.trap _ _) (.ite (.trap _ _) (.next (hk _ _ _ _ _ _ _ (frame_setEa h _ _))))

theorem frame_copyOp {o : DOp} {k : Word → Out} (hk : ∀ v, FrameOut .far s (k v)) : FrameOut .far s (copyOp o t k) :=
  .withScalar fun _ => .ite (.next h) (hk _)

theorem frame_xfr {get : Bool} {o : DOp} {sv st : BitVec 6} {lyn : BitVec 4} {ch : BitVec 2} :
    FrameOut .far s (xfr get o sv lyn ch st t) := by
  refine .withScalar fun v => .ite (.next (frame_setEa h _ _)) (.barred ?_)
  refine .ite (.trap _ _) (.ite (.trap _ _) (.ite (.trap _ _) (.ite (.trap _ _) (.ite (.trap _ _) (.ite (.trap _ _)
    (.ite (.trap _ _) (.next ?_)))))))
  exact frame_irrevocable reach_far (frame_addUop reach_far (frame_ownCtx reach_far (frame_setEa h _ _) _
    fun c => by constructor <;> rfl) _ _)

theorem frame_atomic {ret : Bool} {op : AtomOp} {o : AOp} {sb sc sd : BitVec 6} :
    FrameOut .far s (atomic ret op o sb sc sd t) := by
  refine .withScalar fun v => .ite (.next (frame_setEa h _ _)) (.ite (.trap _ _) (.ite (.trap _ _) (.next ?_)))
  refine frame_irrevocable reach_far (frame_addUop reach_far ?_ _ _)
  split
  · exact frame_ownCtx reach_far (frame_setEa h _ _) _ fun c => by
      unfold Ctx.setPend
      constructor <;> rfl
  · exact frame_setEa h _ _

theorem frame_trc {freeze : Bool} {o : DOp} {tag : BitVec 8} : FrameOut .far s (trc freeze o tag t) :=
  frame_copyOp h fun _ => .next (frame_once h _ fun _ hu => frame_landing hu _ _ _ _)
end

theorem leaves_dram :
    (∀ o, Leaves .far (.mact o)) ∧ (∀ o, Leaves .far (.mpre o)) ∧ (∀ o, Leaves .far (.mprea o)) ∧
    (∀ o sb, Leaves .far (.mrd o sb)) ∧ (∀ o sb, Leaves .far (.mrda o sb)) ∧ (∀ o sb, Leaves .far (.mwr o sb)) ∧
    (∀ o sb, Leaves .far (.mwra o sb)) ∧ (∀ o, Leaves .far (.mref o)) ∧ (∀ o, Leaves .far (.mrefp o)) ∧
    (∀ o sb, Leaves .far (.mrcp o sb)) ∧ (∀ o line, Leaves .far (.mrcbLd o line)) ∧
    (∀ o line, Leaves .far (.mrcbSt o line)) ∧ (∀ o line, Leaves .far (.mrcbInv o line)) ∧
    (∀ o, Leaves .far (.mzro o)) := by
  and_intros <;> (intros; exact ⟨rfl, fun s => frame_dram (.refl _ s)⟩)

theorem leaves_fabric :
    (∀ o sr peer sz, Leaves .far (.push o sr peer sz)) ∧ (∀ o sr peer sz, Leaves .far (.pull o sr peer sz)) := by
  have touched : ∀ {s t : State} {c : Prop} [Decidable c], Frame .far s t → ∀ units,
      Frame .far s (if c then t.touch units else t) := fun h _ => by
    split
    · exact frame_touch h _
    · exact h
  and_intros <;> intros <;> refine ⟨rfl, fun s => ?_⟩ <;> dsimp only [exec, execPush, execPull] <;>
    refine frame_fabric (.refl _ s) fun _ _ _ _ _ _ _ hu => ?_
  · exact frame_irrevocable reach_far (frame_access (touched hu _) _ _ _ _ _)
  · exact frame_place (touched (frame_touch hu _) _) _ _

theorem leaves_layout (o : DOp) (lyn : BitVec 4) : Leaves .far (.layout o lyn) := by
  refine ⟨rfl, fun s => ?_⟩
  dsimp only [exec, execLayout]
  exact frame_copyOp (.refl _ s) fun _ => .barred (.ite (.trap _ _)
    (.next (frame_ownCtx reach_far (.refl _ s) _ fun c => by constructor <;> rfl)))

theorem leaves_copy :
    (∀ o sv lyn ch st, Leaves .far (.xfrG o sv lyn ch st)) ∧ (∀ o sv lyn ch st, Leaves .far (.xfrP o sv lyn ch st)) ∧
    (∀ o tag, Leaves .far (.trc o tag)) ∧ (∀ o tag, Leaves .far (.trcFrz o tag)) := by
  and_intros <;> intros <;> refine ⟨rfl, fun s => ?_⟩
  · exact frame_xfr (.refl _ s)
  · exact frame_xfr (.refl _ s)
  · exact frame_trc (.refl _ s)
  · exact frame_trc (.refl _ s)

theorem leaves_istage (o : DOp) (nl : BitVec 6) : Leaves .far (.istage o nl) := by
  refine ⟨rfl, fun s => ?_⟩
  dsimp only [exec, execIstage]
  refine .withScalar fun _ => .ite (.next (frame_setEa (.refl _ s) _ _)) (.ite (.trap _ _) (.next
    (frame_addUop reach_far (frame_own reach_far (frame_setEa (.refl _ s) _ _) _ ?_ ?_) _ _)))
  · exact fun _ => .refl _
  · exact fun _ => rfl

theorem leaves_atomic :
    (∀ o sb sd, Leaves .far (.atomAdd o sb sd)) ∧ (∀ o sb sd, Leaves .far (.atomSwap o sb sd)) ∧
    (∀ o sb sc sd, Leaves .far (.atomCas o sb sc sd)) ∧ (∀ o sb sd, Leaves .far (.atomAnd o sb sd)) ∧
    (∀ o sb sd, Leaves .far (.atomOr o sb sd)) ∧ (∀ o sb sd, Leaves .far (.atomXor o sb sd)) ∧
    (∀ o sb sd, Leaves .far (.atomMin o sb sd)) ∧ (∀ o sb sd, Leaves .far (.atomMax o sb sd)) ∧
    (∀ o sb sd, Leaves .far (.atomMinu o sb sd)) ∧ (∀ o sb sd, Leaves .far (.atomMaxu o sb sd)) ∧
    (∀ o sb sd, Leaves .far (.atomFadd o sb sd)) ∧ (∀ o sd, Leaves .far (.atomLd o sd)) ∧
    (∀ o sb, Leaves .far (.redAdd o sb)) ∧ (∀ o sb, Leaves .far (.redSt o sb)) ∧ (∀ o sb, Leaves .far (.redAnd o sb)) ∧
    (∀ o sb, Leaves .far (.redOr o sb)) ∧ (∀ o sb, Leaves .far (.redXor o sb)) ∧ (∀ o sb, Leaves .far (.redMin o sb)) ∧
    (∀ o sb, Leaves .far (.redMax o sb)) ∧ (∀ o sb, Leaves .far (.redMinu o sb)) ∧
    (∀ o sb, Leaves .far (.redMaxu o sb)) ∧ (∀ o sb, Leaves .far (.redFadd o sb)) := by
  and_intros <;> (intros; exact ⟨rfl, fun s => frame_atomic (.refl _ s)⟩)

/-! ### Every syllable -/

/-- The syllables before the slots change the bundle-level context alone. -/
theorem leaves_context :
    (∀ rpt stk, Leaves .pipes (.tmpl rpt stk)) ∧ (∀ scp, Leaves .pipes (.scope scp)) ∧
    (∀ len, Leaves .pipes (.block len)) ∧ (∀ tgt x, Leaves .pipes (.ximm tgt x)) := by
  and_intros <;> (intros; exact ⟨rfl, fun s => .next (frame_cur (.refl _ s) _ rfl)⟩)

/-- Every syllable leaves what its reach leaves. -/
theorem leaves_reach (i : Instr) : encodeFields i = none ∨ Leaves .pipes i ∨ Leaves .core i ∨ Leaves .bank i ∨
    Leaves .far i := by
  cases i
  any_goals simp only [leaves_context, leaves_scalar, leaves_predicate, leaves_scratchpad, leaves_nop,
    leaves_vector_binary, leaves_vector_elements, leaves_vmac, leaves_vector_whole, leaves_vbcImm, leaves_vcmpP,
    leaves_vector_masked, leaves_vtint, leaves_quantise, leaves_vector_memory, leaves_control, leaves_transfer,
    leaves_loop, leaves_align, leaves_wait, leaves_read, leaves_cycC, leaves_csrw, leaves_write, leaves_region,
    leaves_fence, leaves_tileMem, leaves_tile, leaves_twl, leaves_multiply, leaves_xmv, leaves_xswap, leaves_xstat,
    leaves_calib_write, leaves_calib_read, leaves_calib_tables, leaves_dram, leaves_fabric, leaves_layout, leaves_copy,
    leaves_istage, leaves_atomic, true_or, or_true]
  all_goals exact .inl rfl

/-- A syllable before the slots changes the bundle-level context alone (R50 to R56). -/
theorem exec_context {i : Instr} {s t : State} (h : classOf i ≤ 1) (e : exec i s = .next t) :
    ∃ u, t = { s with cur := u } := by
  cases i
  case tmpl => exact ⟨_, (Host.Outcome.next.inj e).symm⟩
  case scope => exact ⟨_, (Host.Outcome.next.inj e).symm⟩
  case block => exact ⟨_, (Host.Outcome.next.inj e).symm⟩
  case ximm => exact ⟨_, (Host.Outcome.next.inj e).symm⟩
  all_goals exact absurd (Nat.ble_eq_true_of_le h) Bool.false_ne_true

theorem SameDevice.outside {s t : State} (h : SameDevice s t) (cohorts : t.cohorts = s.cohorts)
    (banks : t.banks = s.banks) (pchs : t.pchs = s.pchs) : SameOutside s t :=
  ⟨h.now, h.wcyc, h.phase, h.inbox, h.pf, h.bam, h.parts, cohorts, banks, pchs, h.sync, h.syncBad, h.host, h.rdata,
    h.tlb, h.fatal⟩

/-- The reach of a syllable, and what it leaves. -/
theorem frame_of_exec {i : Instr} {s t : State} {f : Nat} (hf : encodeFields i = some f) (e : exec i s = .next t)
    (h : t.cur.trapped = false) : ∃ r : Reach, r.fits i = true ∧ Frame r s t := by
  rcases leaves_reach i with none | l | l | l | l
  · rw [none] at hf; cases hf
  all_goals exact ⟨_, l.fits, l.out s t e h⟩

/-- Settles O60: the frame of the operation's reach (`leaves_reach`), which its class bounds. -/
theorem issueFrame : Obligations.IssueFrame := by
  unfold Obligations.IssueFrame
  intro i s t f hf e untrapped cls
  obtain ⟨isCls, control⟩ := (decodes i).header f hf
  obtain ⟨r, fits, frame⟩ := frame_of_exec hf e untrapped
  have d := frame.device
  refine ⟨⟨frame.memory, d.now, d.wcyc, d.phase, d.inbox, d.pf, d.bam, d.parts, d.sync, d.host, d.rdata, d.tlb,
      d.fatal⟩,
    fun j => ?_, fun low => exec_context (isCls ▸ low) e, fun slot => ?_, fun low => ?_, fun _ => frame.bank,
        fun low => ?_⟩
  · have q := frame.regs j
    exact ⟨q.s, q.v, q.p, q.mb, q.nctl, q.stride, q.tshape, q.ovc, q.taddr, q.tval, q.xdone, q.ly, q.tile, q.poison,
        q.pc,
      q.inHandler, q.tstat⟩
  · have reach : r = .pipes := by
      cases r <;> simp only [Reach.fits, Bool.or_eq_true, beq_iff_eq, ← isCls, ← control, Bool.and_eq_true] at fits
      · rfl
      all_goals rcases slot with three | ⟨two, off⟩ <;> simp_all [cls]
    subst reach
    obtain ⟨cohorts, core⟩ := frame.pipes rfl
    exact ⟨d.outside cohorts (frame.banks (by decide)) (frame.near (by decide)).pchs, core⟩
  · refine frame.banks ?_
    cases r
    case pipes => decide
    case core => decide
    all_goals
      simp only [Reach.fits, beq_iff_eq, ← isCls] at fits
      omega
  · have near := frame.near (by
      cases r
      case far =>
        simp only [Reach.fits, beq_iff_eq, ← isCls] at fits
        omega
      all_goals decide)
    exact ⟨near.pchs, near.core, near.coh⟩

end Sys2Proof.Laws
end

section
/-! PROOFS. Transfers and repeats (O8). -/

namespace Sys2Proof.Laws

open Sys2Proof Sys2Proof.Machine

open Sys2Proof.Tests (after cause last placed taken taken_issues next_of_goesOn)

/-- A PUSH of another core that is to send 60 pieces of 128 bytes to core 0. -/
def pushOfSixtyPieces : Access :=
  { due := 1000000, cls := 1, key := 0, issued := 0, again := false, window := none, units := [0], lost := []
    act := .push 0 (60 * 128) 0 0 1000000 0 }

/-- Core 0 about to issue a TRAP alone in its bundle, with a handler at 64 and a PUSH to itself in flight, in a table
of cores that is not in canonical form: core 0's entry stands behind core 1's. The first write of core 0 sets a second
entry before core 1's, and the older one stays. -/
def trapBehindCore1 : State :=
  let s := (placed [last (.trap 0 5)] fun c => { c with acc := [pushOfSixtyPieces] }).modCore 0 fun c =>
    { c with handlerPc := some 64 }
  { s with cores := [(1, s.core 1), (0, s.core 0)] }

theorem trapBehindCore1_issues : trapBehindCore1.Issues 0 [last (.trap 0 5)] 4 :=
  (taken_issues (by decide +kernel)).1

theorem trapBehindCore1_plain : trapBehindCore1.plain 0 := by
  constructor <;> decide +kernel

/-- What is in flight to core 0 fits its afterglow buffer. -/
theorem trapBehindCore1_afterglow : trapBehindCore1.afterglow 0 = 60 := by decide +kernel

/-- The PUSH stands in both entries of core 0, so its pieces count twice. -/
theorem afterglow_second_entry_counts_twice :
    (trapBehindCore1.modCore 0 fun c => c).afterglow 0 = 120 := by decide +kernel

/-- The step takes the overflow of the afterglow buffer (cause 0x1E) instead of entering the handler. -/
theorem trapBehindCore1_step : step trapBehindCore1 = .next (after (step trapBehindCore1)) ∧
    cause (step trapBehindCore1) = 0x1E ∧ ((after (step trapBehindCore1)).ctx 0).inHandler = false := by
  refine ⟨next_of_goesOn ?_, ?_, ?_⟩ <;> decide +kernel

/-- Refutes O8: its clause about TRAP takes the afterglow buffer's count before the step, and without the canonical
form of the table of cores, which the statement does not assume, a write during the step raises the count past 96. -/
theorem not_transfersAndRepeats : ¬ Obligations.TransfersAndRepeats := by
  unfold Obligations.TransfersAndRepeats
  intro h
  obtain ⟨-, -, trap, -⟩ := h
  obtain ⟨w, steps, -, -, enters, -⟩ :=
    trap trapBehindCore1 0 0 (last (.trap 0 5)) 4 64 0 5 trapBehindCore1_issues (by decide) (by decide)
      (by decide +kernel) trapBehindCore1_plain (by decide +kernel) (by decide +kernel) (by decide +kernel)
      (by decide +kernel) (by rw [trapBehindCore1_afterglow]; decide)
  obtain ⟨goes, -, stays⟩ := trapBehindCore1_step
  have same : after (step trapBehindCore1) = w := Host.Outcome.next.inj (goes.symm.trans steps)
  rw [← same, stays] at enters
  exact Bool.false_ne_true enters

end Sys2Proof.Laws
end

section
/-! PROOFS. Results that land (O40). -/

namespace Sys2Proof.Laws

open Sys2Proof Sys2Proof.Machine

open Sys2Proof.Tests (result owned)

/-- A landing write of TSHAPE[0] by the bundle of cycle 0. -/
def shapeWrite : Pend := { result (.csr 0x040 5) with issued := 0, seq := 1 }

/-- A landing write of control register 0x030, which CSRW may not name, by the bundle of cycle 1. -/
def loopWrite : Pend := { result (.csr 0x030 0) with issued := 1, seq := 9 }

/-- Core 0 with both of them due. -/
def twoWrites : State := (owned 0 0).modCtx 0 fun c => { c with flight := [shapeWrite, loopWrite] }

theorem twoWrites_plain : twoWrites.plain 0 := by
  constructor <;> decide +kernel

theorem twoWrites_due : twoWrites.dueResults 0 = [shapeWrite, loopWrite] := by decide +kernel

/-- Without a shadow no pair is checked. -/
theorem shadowPairs_of_primary {l : List Pend} (primary : ∀ p ∈ l, p.shadow = false) : shadowPairs l = [] := by
  have none_ : l.filter (·.shadow) = [] := List.filter_eq_nil_iff.mpr fun p hp => by simp [primary p hp]
  simp [shadowPairs, none_]

/-- Without a shadow no injected mismatch acts. -/
theorem injectLanding_of_primary (s : State) (i : Nat) {l : List Pend} (primary : ∀ p ∈ l, p.shadow = false) :
    s.injectLanding i l = (s, l, []) := by
  have none_ : (l.mergeSort Pend.before).find? (·.shadow) = none :=
    List.find?_eq_none.mpr fun p hp => by simp [primary p (List.mem_mergeSort.mp hp)]
  simp [State.injectLanding, none_, shadowPairs_of_primary primary]

/-- Results without a shadow that stand in the order of their landing land one after the other. -/
theorem landAll_of_sorted (s : State) (i t : Nat) (log : Pend → Bool) {l : List Pend}
    (primary : ∀ p ∈ l, p.shadow = false) (sorted : l.Pairwise fun p q => p.before q) :
    s.landAll i t log l = forAll l s fun p u => u.land1 i t (log p) (s.ctx i) p := by
  have all : l.filter (!·.shadow) = l := List.filter_eq_self.mpr fun p hp => by simp [primary p hp]
  simp [State.landAll, injectLanding_of_primary s i primary, all, List.mergeSort_of_pairwise sorted, forAll]

/-- Core 0 when the two results have left its pipelines. -/
def twoWritesTaken : State := twoWrites.modCtx 0 (·.takeDue [shapeWrite, loopWrite])

theorem twoWrites_landing : exec (.resultLanding 0) twoWrites =
    .next ((twoWritesTaken.land1 0 0 true (twoWritesTaken.ctx 0) shapeWrite).land1 0 0 true
      (twoWritesTaken.ctx 0) loopWrite) := by
  have due : twoWrites.landsNow 0 = true := by decide +kernel
  have replay : (twoWritesTaken.ctx 0).replay = none := by decide +kernel
  have handling : (twoWritesTaken.ctx 0).handling = none := by decide +kernel
  have cycle : twoWritesTaken.ccycOf 0 = 0 := by decide +kernel
  have site : twoWrites.landSite 0 = twoWritesTaken.landAll 0 0 (fun _ => true) [shapeWrite, loopWrite] := by
    have taken : twoWrites.modCtx 0 (·.takeDue [shapeWrite, loopWrite]) = twoWritesTaken := rfl
    simp only [State.landSite, twoWrites_due, taken, replay, handling, cycle]
  dsimp only [exec, execResultLanding]
  rw [if_pos due, site, landAll_of_sorted _ _ _ _ (by simp [shapeWrite, loopWrite, result])
    (by simp [shapeWrite, loopWrite, result, Pend.before, Pend.rank])]
  rfl

/-- The write of 0x030 lands later, and as that of every number from 0x030 to 0x040 it writes TSHAPE[0]. -/
theorem twoWrites_shape : (((twoWritesTaken.land1 0 0 true (twoWritesTaken.ctx 0) shapeWrite).land1 0 0 true
    (twoWritesTaken.ctx 0) loopWrite).ctx 0).shape 0 = 0 := by decide +kernel

/-- Refutes O40: of several writes of control registers it compares only those of one number, for results of any
number, while the landing of a number that has no register of its own (here 0x030) writes TSHAPE[0]. CSRW puts no
such number in flight, but the statement takes every result that is due. -/
theorem not_resultsLand : ¬ Obligations.ResultsLand := by
  unfold Obligations.ResultsLand
  intro h
  obtain ⟨-, together, -⟩ := h
  obtain ⟨t, lands, -, -, -, -, csr⟩ := together twoWrites 0 twoWrites_plain (by decide)
    (by rw [twoWrites_due]; simp [shapeWrite, loopWrite, result])
  obtain ⟨-, -, shape, -⟩ := csr shapeWrite 0x040 5 rfl (by
    rw [twoWrites_due]
    simp [shapeWrite, loopWrite, result])
  have five := shape (by decide) (by decide)
  rw [← Host.Outcome.next.inj (twoWrites_landing.symm.trans lands)] at five
  exact absurd (twoWrites_shape.symm.trans five) (by decide)

end Sys2Proof.Laws
end

section
/-! PROOFS. Loops (R88 to R91): what LOOP and LOOPM open or skip, what the end of a body does, and which loops a
taken transfer leaves. -/

namespace Sys2Proof.Laws

open Sys2Proof Sys2Proof.Machine

@[simp] theorem loop_setLoop_same (c : Ctx) (n : Nat) (x : Loop) : (c.setLoop n x).loop n = x := by
  simp [Ctx.loop, Ctx.setLoop]

theorem loop_setLoop_other (c : Ctx) {m n : Nat} (x : Loop) (h : m ≠ n) :
    (c.setLoop n x).loop m = c.loop m := by
  simp [Ctx.loop, Ctx.setLoop, get_put_other _ _ _ h]

/-- A loop's description does not depend on the stack of active loops. -/
@[simp] theorem loop_withStack (c : Ctx) (l : List Nat) (n : Nat) :
    ({ c with stack := l } : Ctx).loop n = c.loop n := rfl

/-! ## Opening -/

/-- The innermost active loop, if any, ends no earlier than a body that ends at `fin` (R88). -/
def nestsAt (c : Ctx) (fin : BitVec 54) : Prop := ∀ m, c.stack.head? = some m → fin ≤ (c.loop m).fin

/-- The context in which loop n is the innermost, with k trips of the body up to `fin`. -/
def openedAt (c : Ctx) (n : Nat) (k : Half) (start fin : BitVec 54) : Ctx :=
  { (c.setLoop n { count := k, act := true, start := start, fin := fin }) with stack := n :: c.stack }

variable {s : State} {n blen : Nat}

/-- Where the body of `blen` words after the present bundle ends. -/
def bodyEnd (s : State) (blen : Nat) : BitVec 54 := s.cur.next + BitVec.ofNat 54 (4 * blen)

theorem openLoop_legal (trips : Nat) (hlen : blen ≠ 0) (hact : (s.cx.loop n).act = false)
    (hnest : nestsAt s.cx (bodyEnd s blen)) :
    s.openLoop n blen trips =
      if trips = 0 then .next { s with cur := { s.cur with jump := some (bodyEnd s blen, 1) } }
      else .next (s.setCtx s.cur.site
        (openedAt s.cx n (BitVec.ofNat 32 trips) s.cur.next (bodyEnd s blen))) := by
  unfold State.openLoop
  cases hs : s.cx.stack with
  | nil => simp [hlen, hact, openedAt, bodyEnd, hs]
  | cons m l =>
    have : ¬ (s.cx.loop m).fin < s.cur.next + BitVec.ofNat 54 (4 * blen) :=
      BitVec.not_lt.mpr (hnest m (by simp [hs]))
    simp [hlen, hact, this, openedAt, bodyEnd, hs]

/-- A loop instruction that counts k trips opens its loop under a true guard, and skips the body where the count
or the guard is 0. -/
theorem openLoop_counts (g : Guard) (k : Half) (hlen : blen ≠ 0) (hact : (s.cx.loop n).act = false)
    (hnest : nestsAt s.cx (bodyEnd s blen)) :
    let o := s.openLoop n blen (if s.guarded g then k.toNat else 0)
    (k = 0 ∨ s.guarded g = false →
      o = .next { s with cur := { s.cur with jump := some (bodyEnd s blen, 1) } }) ∧
    (k ≠ 0 → s.guarded g = true →
      o = .next (s.setCtx s.cur.site (openedAt s.cx n k s.cur.next (bodyEnd s blen)))) := by
  constructor
  · rintro (rfl | hg)
    · simp [openLoop_legal _ hlen hact hnest]
    · simp [openLoop_legal _ hlen hact hnest, hg]
  · intro hk hg
    have : k.toNat ≠ 0 := fun h => hk (BitVec.eq_of_toNat_eq h)
    simp [openLoop_legal _ hlen hact hnest, hg, this]

/-! ## The end of a body -/

variable {c : Ctx} {next : BitVec 54} {l : List Nat}

theorem endLoops_repeats (hf : (c.loop n).fin = next) (hc : 1 < (c.loop n).count.toNat) :
    c.endLoops next (n :: l) =
      ({ c.setLoop n { c.loop n with count := (c.loop n).count - 1 } with stack := n :: l },
        (c.loop n).start) := by
  simp [Ctx.endLoops, hf, hc]

theorem endLoops_leaves (hf : (c.loop n).fin = next) (hc : (c.loop n).count.toNat ≤ 1) :
    c.endLoops next (n :: l) = (c.setLoop n { c.loop n with count := 0, act := false }).endLoops next l := by
  simp [Ctx.endLoops, hf, hc]

theorem endLoops_inside (hf : (c.loop n).fin ≠ next) :
    c.endLoops next (n :: l) = ({ c with stack := n :: l }, next) := by
  simp [Ctx.endLoops, hf]

/-! ## Leaving by a taken transfer -/

/-- The body of loop n holds the address t. -/
def bodyHolds (c : Ctx) (t : BitVec 54) (n : Nat) : Bool :=
  decide ((c.loop n).start ≤ t ∧ t < (c.loop n).fin)

theorem bodyHolds_setLoop_other (c : Ctx) (t : BitVec 54) (x : Loop) {m : Nat} (h : m ≠ n) :
    bodyHolds (c.setLoop n x) t m = bodyHolds c t m := by
  simp [bodyHolds, loop_setLoop_other c x h]

/-- Below an inner loop that is not on the rest of the stack, the test of the bodies reads as before. -/
theorem bodyHolds_below (c : Ctx) (t : BitVec 54) (x : Loop) (hn : n ∉ l) :
    l.takeWhile (! bodyHolds (c.setLoop n x) t ·) = l.takeWhile (! bodyHolds c t ·) ∧
    l.dropWhile (! bodyHolds (c.setLoop n x) t ·) = l.dropWhile (! bodyHolds c t ·) := by
  induction l with
  | nil => exact ⟨rfl, rfl⟩
  | cons m l ih =>
    obtain ⟨hmn, hl⟩ := not_or.mp (mt List.mem_cons.mpr hn)
    obtain ⟨ht, hd⟩ := ih hl
    simp [List.takeWhile_cons, List.dropWhile_cons, bodyHolds_setLoop_other c t x (Ne.symm hmn), ht, hd]

/-- A taken transfer ends exactly the loops above the innermost one whose body holds its target. -/
theorem popLoops_ends (t : BitVec 54) (hl : l.Nodup) :
    (c.popLoops t l).stack = l.dropWhile (! bodyHolds c t ·) ∧
    (∀ n ∈ l.takeWhile (! bodyHolds c t ·),
      ((c.popLoops t l).loop n).act = false ∧ ((c.popLoops t l).loop n).count = 0) ∧
    ∀ n, n ∉ l.takeWhile (! bodyHolds c t ·) → (c.popLoops t l).loop n = c.loop n := by
  induction l generalizing c with
  | nil => simp [Ctx.popLoops]
  | cons n l ih =>
    obtain ⟨hn, hl⟩ := List.nodup_cons.mp hl
    by_cases hin : (c.loop n).start ≤ t ∧ t < (c.loop n).fin
    · simp [Ctx.popLoops, bodyHolds, hin]
    · have hb : bodyHolds c t n = false := by simp [bodyHolds] at hin ⊢; exact hin
      let ended : Loop := { c.loop n with count := 0, act := false }
      have hp : c.popLoops t (n :: l) = (c.setLoop n ended).popLoops t l := by
        simp [Ctx.popLoops, hin, ended]
      obtain ⟨ht, hd⟩ := bodyHolds_below c t ended hn
      obtain ⟨hstack, hout, hkeep⟩ := ih (c := c.setLoop n ended) hl
      rw [ht] at hout hkeep
      have hnt : n ∉ l.takeWhile (! bodyHolds c t ·) := fun h => hn ((List.takeWhile_prefix _).subset h)
      rw [hp, hstack, hd, List.takeWhile_cons, List.dropWhile_cons, hb]
      refine ⟨rfl, fun m hm => ?_, fun m hm => ?_⟩
      · rcases List.mem_cons.mp hm with rfl | hm
        · rw [hkeep _ hnt]; simp [ended]
        · exact hout m hm
      · obtain ⟨hmn, hm⟩ := not_or.mp (mt List.mem_cons.mpr hm)
        rw [hkeep m hm, loop_setLoop_other c _ hmn]

/-- Settles O9: opening by `openLoop_counts`, the end of a body by its three cases, leaving by induction on the
stack of active loops. -/
theorem loops : Obligations.Loops := by
  unfold Obligations.Loops
  refine ⟨?_, ?_, ?_⟩
  · intro s g ln blen cnt mbi c n fin runs hlen hact hnest
    have hlen : blen.toNat ≠ 0 := fun h => hlen (BitVec.eq_of_toNat_eq h)
    have hcnt : (cnt.zeroExtend 32).toNat = cnt.toNat := by simp; omega
    have hmb : ((c.rmb mbi.toNat).extractLsb' 0 32).toNat = (c.rmb mbi.toNat).toNat % 2 ^ 32 := by simp
    refine ⟨?_, ?_⟩
    · have h := openLoop_counts (n := n) g (cnt.zeroExtend 32) hlen hact hnest
      rwa [hcnt] at h
    · have h := openLoop_counts (n := n) g ((c.rmb mbi.toNat).extractLsb' 0 32) hlen hact hnest
      rwa [hmb] at h
  · intro c next n l hf
    exact ⟨endLoops_repeats hf, endLoops_leaves hf, fun m => endLoops_inside⟩
  · intro c t hnd
    exact popLoops_ends t hnd

end Sys2Proof.Laws
end

section
/-! PROOFS. ALIGN, its barrier, WAITS and WAITX (R81 to R85). -/

namespace Sys2Proof.Laws

open Sys2Proof Sys2Proof.Machine

/-! ## ALIGN -/

section Align
variable {s : State} {tag : BitVec 8}

theorem exec_align_zero (hh : s.cx.inHandler = false) :
    exec (.align 0) s =
      if s.cur.pc = (s.core s.cur.site).entryPc ∧ (s.timeOf s.cur.site = 0 ∨ s.cx.resumed = true) then .next s
      else .next s.illegal := by
  change execAlign 0 s = _
  have hh : (s.ctx s.cur.site).inHandler = false := hh
  simp [execAlign, State.barred, hh, or_comm]

/-- The tags and cycles at which the other members of cohort k wait. -/
def otherWaits (s : State) (k : Cohort) : List (Nat × Nat) :=
  (k.members.filter (· != s.cur.site)).filterMap fun j => (s.ctx j).waiting

variable {k : Cohort}

theorem exec_align_tagged (hh : s.cx.inHandler = false) (hk : s.myCoh = some k) (ht : tag ≠ 0)
    (hr : s.cx.replay = none) :
    exec (.align tag) s =
      match (otherWaits s k).find? (fun w => w.1 != tag.toNat) with
      | some w => .next (s.slotTrap 0x06 (BitVec.ofNat 64 (tag.toNat + 256 * w.1)))
      | none =>
        if s.otherMember (·.halted) then .next (s.slotTrap 0x06 0)
        else .next (s.setCtx s.cur.site { s.cx with waiting := some (tag.toNat, s.timeOf s.cur.site) }) := by
  change execAlign tag s = _
  have hh : (s.ctx s.cur.site).inHandler = false := hh
  simp only [execAlign, State.barred, hh, Bool.false_eq_true, if_false, if_neg ht, hr, hk, otherWaits, trapOut] <;> rfl

theorem otherWaits_agree
    (h : ∀ j ∈ k.members.filter (· != s.cur.site), ∀ w, (s.ctx j).waiting = some w → w.1 = tag.toNat) :
    (otherWaits s k).find? (fun w => w.1 != tag.toNat) = none := by
  refine List.find?_eq_none.mpr fun w hw => ?_
  obtain ⟨j, hj, hjw⟩ := List.mem_filterMap.mp hw
  simp [h j hj w hjw]

theorem otherMember_iff (f : Ctx → Bool) (hk : s.myCoh = some k) :
    s.otherMember f = true ↔ ∃ j ∈ k.members.filter (· != s.cur.site), f (s.ctx j) = true := by
  simp [State.otherMember, hk, and_assoc]

end Align

/-! ## The barrier -/

section Barrier
variable {s : State} {k : Nat} {c : Cohort}

/-- The cycle at which the members of a cohort go on once all have reached the barrier. -/
def barrierResume (s : State) (c : Cohort) : Nat :=
  ((c.members.filterMap fun i => (s.ctx i).waiting).map (·.2)).foldl max 0 + if c.spansDies then 26 else 2

/-- A context that leaves the barrier at cycle r. -/
def leaveBarrier (r : Nat) (x : Ctx) : Ctx :=
  match x.waiting with
  | none => x
  | some (_, a) => { x.log a (.barrier a r) with waiting := none, nextIssue := r }

theorem exec_barrier (hc : s.coh? k = some c) (hd : s.barrierDue k = true) :
    exec (.alignBarrierComplete k) s =
      .next (forAll c.members s fun i t => t.modCtx i (leaveBarrier (barrierResume s c))) := by
  change execAlignBarrierComplete k s = _
  simp only [execAlignBarrierComplete, hd, if_true, State.barrier, hc] <;> rfl

/-- A context that waits, or has left the barrier at cycle r. -/
def AtBarrier (r : Nat) (x : Ctx) : Prop := x.waiting.isSome ∨ (x.waiting = none ∧ x.nextIssue = r)

theorem leaveBarrier_left {r : Nat} {x : Ctx} (h : AtBarrier r x) :
    (leaveBarrier r x).waiting = none ∧ (leaveBarrier r x).nextIssue = r := by
  unfold leaveBarrier
  cases hw : x.waiting with
  | none => exact h.resolve_left (by simp [hw])
  | some w => exact ⟨rfl, rfl⟩

theorem ctx_leave (r : Nat) (t : State) (i j : Nat) :
    (t.modCtx i (leaveBarrier r)).ctx j = if j = i then leaveBarrier r (t.ctx i) else t.ctx j := by
  split
  · subst j; simp
  · exact ctx_modCtx_other t _ ‹_›

theorem barrier_leaves (hc : s.coh? k = some c) (hd : s.barrierDue k = true) {i : Nat} (hi : i ∈ c.members) :
    let r := barrierResume s c
    let t := forAll c.members s fun i t => t.modCtx i (leaveBarrier r)
    (t.ctx i).waiting = none ∧ (t.ctx i).nextIssue = r := by
  intro r
  have hwait : ∀ j ∈ c.members, AtBarrier r (s.ctx j) := by
    simp only [State.barrierDue, hc, Bool.and_eq_true, List.all_eq_true] at hd
    exact fun j hj => .inl (hd.2 j hj).1
  have hstep : ∀ (x : Ctx), AtBarrier r x → AtBarrier r (leaveBarrier r x) := fun x h => .inr (leaveBarrier_left h)
  refine forAll_reaches (I := fun t => ∀ j ∈ c.members, AtBarrier r (t.ctx j))
    (P := fun t => (t.ctx i).waiting = none ∧ (t.ctx i).nextIssue = r) hi hwait ?_ ?_ ?_
  · intro y t ht j hj
    rw [ctx_leave]
    split
    · subst j; exact hstep _ (ht _ hj)
    · exact ht j hj
  · intro t ht
    simpa using leaveBarrier_left (ht i hi)
  · intro y t ht hp
    rw [ctx_leave]
    split
    · subst i; exact leaveBarrier_left (.inr hp)
    · exact hp

theorem barrier_spares (r : Nat) {l : List Nat} {i : Nat} (hi : i ∉ l) :
    (forAll l s fun j t => t.modCtx j (leaveBarrier r)).core i = s.core i :=
  forAll_keeps (P := fun t => t.core i = s.core i) rfl fun _ hj t ht =>
    (core_modCtx_other t _ (ne_of_mem_of_not_mem hj hi).symm).trans ht

end Barrier

/-! ## WAITS -/

section Waits
variable {s : State} {g : Guard} {sa : BitVec 6} {k : Nat}

/-- The registers that WAITS awaits (R84). -/
def awaitedRegs (sa : BitVec 6) : Word := if sa = 0 then ~~~1 else 1 <<< sa.toNat

theorem awaitedRegs_getLsbD (sa : BitVec 6) {r : Nat} (hr : r < 64) :
    (awaitedRegs sa).getLsbD r = true ↔ if sa = 0 then 1 ≤ r else r = sa.toNat := by
  unfold awaitedRegs
  split
  · rw [BitVec.getLsbD_not, show (1 : Word) = 1#64 from rfl, BitVec.getLsbD_one]
    simp [hr, Nat.one_le_iff_ne_zero]
  · rw [BitVec.natCast_eq_ofNat, BitVec.getLsbD_ofNat, Nat.one_shiftLeft, Nat.testBit_two_pow]
    simp [hr, eq_comm]

/-- The masks meet exactly in a pending register that is awaited. -/
theorem pending_and_awaited (x : Word) (sa : BitVec 6) :
    x &&& awaitedRegs sa ≠ 0 ↔ ∃ r, x.getLsbD r = true ∧ if sa = 0 then 1 ≤ r else r = sa.toNat := by
  constructor
  · intro h
    by_contra hno
    refine h (BitVec.eq_of_getLsbD_eq fun r hr => ?_)
    by_contra hbit
    obtain ⟨hx, hm⟩ : x.getLsbD r = true ∧ (awaitedRegs sa).getLsbD r = true := by simpa using hbit
    exact hno ⟨r, hx, (awaitedRegs_getLsbD sa hr).mp hm⟩
  · rintro ⟨r, hx, ha⟩ h
    have hm := (awaitedRegs_getLsbD sa (BitVec.lt_of_getLsbD hx)).mpr ha
    have : (x &&& awaitedRegs sa).getLsbD r = true := by simp [hx, hm]
    simp [h] at this

theorem exec_waits (hg : s.guarded g = true) (hr : s.cx.replay = none) (hk : s.cohOf s.cur.site = some k) :
    exec (.waits g sa) s =
      if s.cx.pending &&& awaitedRegs sa ≠ 0 then
        .next (s.addHold k (.waits s.cur.site (awaitedRegs sa) s.cx.inHandler) 2 (s.now + 1))
      else .next s := by
  change execWaits g sa s = _
  simp [execWaits, hg, State.replaying, hr, State.waitHold, hk, awaitedRegs]

end Waits

/-! ## WAITX -/

section Waitx

theorem clocked_iff (u : UOp) (ccyc : Nat) :
    u.clocked ccyc = true ↔ u.stage = .waiting ∧
      ∃ get h j T a b l, u.kind = .xfr get h j T a b l ∧ ccyc < T := by
  unfold UOp.clocked
  cases u.kind <;> simp

/-- With no transfer before its time, nothing is held back behind one. -/
theorem onClock_of_noneClocked {ops : List UOp} {ccyc : Nat} (h : ∀ u ∈ ops, u.clocked ccyc = false) (n : Nat) :
    ∀ u ∈ ops, onClock ops ccyc n u = false := by
  induction n with
  | zero => exact h
  | succ n ih => intro u hu; simp +contextual [onClock, h u hu, ih]

/-- A transfer before its time, or held back behind one, is on the clock for every positive depth. -/
theorem onClock_of_clocked {ops : List UOp} {ccyc n : Nat} {u : UOp} (hn : 0 < n)
    (h : u.clocked ccyc = true ∨
      (u.stage = .waiting ∧ ∃ e ∈ ops, e.clocked ccyc = true ∧ holdsBack ops e u = true)) :
    onClock ops ccyc n u = true := by
  obtain ⟨m, rfl⟩ := Nat.exists_eq_add_of_lt hn
  rw [Nat.zero_add]
  rcases h with h | ⟨hu, e, he, hclk, hback⟩
  · simp [onClock, h]
  · have hstage : e.stage = .waiting := ((clocked_iff e ccyc).mp hclk).1
    have : onClock ops ccyc m e = true := by cases m <;> simp [onClock, hclk]
    simp only [onClock, hu, Bool.or_eq_true, Bool.and_eq_true, List.any_eq_true, beq_iff_eq]
    exact .inr ⟨trivial, e, he, ⟨hstage, hback⟩, this⟩

variable {s : State} {g : Guard} {ch : BitVec 2} {sa : BitVec 6} {k : Nat}

/-- The untimed operations of the issuing core for cohort k. -/
def cohortOps (s : State) (k : Nat) : List UOp := (s.core s.cur.site).uops.filter fun u => u.coh == k

/-- The identifier that WAITX names, and the channel's next and completed ones (R85). -/
def waitxId (s : State) (sa : BitVec 6) : Half := (s.cx.rs sa.toNat).extractLsb' 0 32
def waitxNext (s : State) (ch : BitVec 2) : Half := (SMap.get s.cx.xnext 0 ch.toNat).extractLsb' 0 32
def waitxDone (s : State) (ch : BitVec 2) : Half := (SMap.get s.cx.xdone 0 ch.toNat).extractLsb' 0 32

/-- A transfer of the channel that WAITX has to wait for. -/
def awaitsTransfer (s : State) (ch : BitVec 2) (sa : BitVec 6) (u : UOp) : Prop :=
  ∃ get j T a b l, u.kind = .xfr get ch.toNat j T a b l ∧
    0 ≤ (BitVec.ofNat 32 j - waitxDone s ch).toInt ∧ 0 ≤ (waitxId s sa - BitVec.ofNat 32 j).toInt

/-- WAITX finds a transfer of its own that only the cohort's clock would let begin. -/
def waitxBlocked (s : State) (k : Nat) (ch : BitVec 2) (sa : BitVec 6) : Bool :=
  (cohortOps s k).any fun u => match u.kind with
    | .xfr _ h j _ _ _ _ =>
      h == ch.toNat && idGe (BitVec.ofNat 32 j) (waitxDone s ch) && idGe (waitxId s sa) (BitVec.ofNat 32 j) &&
        onClock (cohortOps s k) (s.cycOf s.cur.site) (cohortOps s k).length u
    | _ => false

theorem exec_waitx (hg : s.guarded g = true) (hr : s.cx.replay = none) (hk : s.cohOf s.cur.site = some k) :
    exec (.waitx g ch sa) s =
      if (waitxNext s ch - waitxId s sa).toInt ≤ 0 ∨ waitxBlocked s k ch sa = true then
        .next (s.slotTrap 0x07 ((waitxId s sa).zeroExtend 64))
      else if (waitxDone s ch - waitxId s sa).toInt ≤ 0 then
        .next (s.addHold k (.waitx s.cur.site ch.toNat (waitxId s sa) s.cx.inHandler) 3 (s.now + 1))
      else .next s := by
  change execWaitx g ch sa s = _
  have hid : ∀ x : Word, x.extractLsb' 0 32 = x.truncate 32 := fun x =>
    BitVec.eq_of_toNat_eq (by simp)
  simp only [execWaitx, hg, State.replaying, hr, hid, trapOut, State.waitHold, hk, waitxNext, waitxDone, waitxId,
    waitxBlocked, cohortOps, Bool.or_eq_true, decide_eq_true_eq] <;> rfl

theorem waitxBlocked_of_clocked {u : UOp} (hu : u ∈ cohortOps s k) (haw : awaitsTransfer s ch sa u)
    (hclk : onClock (cohortOps s k) (s.cycOf s.cur.site) (cohortOps s k).length u = true) :
    waitxBlocked s k ch sa = true := by
  obtain ⟨get, j, T, a, b, l, hkind, hdone, hid⟩ := haw
  refine List.any_eq_true.mpr ⟨u, hu, ?_⟩
  simp only [hkind, beq_self_eq_true, idGe, decide_eq_true hdone, decide_eq_true hid, hclk, Bool.and_self]

theorem waitxBlocked_of_noneClocked (h : ∀ u ∈ cohortOps s k, u.clocked (s.cycOf s.cur.site) = false) :
    waitxBlocked s k ch sa = false := by
  refine List.any_eq_false.mpr fun u hu => ?_
  cases hkind : u.kind <;> simp [onClock_of_noneClocked h _ u hu]

end Waitx

/-- Settles O10: ALIGN by its two equations, the barrier member by member, WAITS and WAITX by one equation each,
with `onClock` decided by whether some transfer is before its time. -/
theorem waiting : Obligations.Waiting := by
  unfold Obligations.Waiting
  refine ⟨?_, ?_, ?_, ?_⟩
  · intro s tag k hh hk i others entry
    refine ⟨fun he => ?_, fun he => ?_, fun ht hr => ⟨fun hw hhalt => ?_, fun hw hhalt => ?_, fun j w hj hw hne => ?_⟩⟩
    · rw [exec_align_zero hh, if_pos he]
    · rw [exec_align_zero hh, if_neg he]
    · have hno : s.otherMember (·.halted) = false :=
        Bool.eq_false_iff.mpr fun h => by
          obtain ⟨j, hj, hb⟩ := (otherMember_iff _ hk).mp h
          simp [hhalt j hj] at hb
      simp [exec_align_tagged hh hk ht hr, otherWaits_agree hw, hno, i]
    · have hyes : s.otherMember (·.halted) = true := (otherMember_iff _ hk).mpr hhalt
      simp [exec_align_tagged hh hk ht hr, otherWaits_agree hw, hyes]
    · have : otherWaits s k = [w] := by
        change others.filterMap _ = _
        simp [hj, hw]
      simp [exec_align_tagged hh hk ht hr, this, hne]
  · intro s k c hc hd last
    exact ⟨_, exec_barrier hc hd, fun i hi => barrier_leaves hc hd hi, fun i hi => barrier_spares _ hi⟩
  · intro s g sa k hg hr hk awaited
    rw [exec_waits hg hr hk]
    exact ⟨fun h => if_neg (mt (pending_and_awaited _ sa).mp (not_exists.mpr h)),
      fun h => if_pos ((pending_and_awaited _ sa).mpr h)⟩
  · intro s g ch sa k hg hr hk id next done ops later awaited traps
    have hexec := exec_waitx (ch := ch) (sa := sa) hg hr hk
    refine ⟨fun h => ?_, fun u hu haw hclk => ?_, fun hnext hlater => ?_⟩
    · have : (waitxNext s ch - waitxId s sa).toInt ≤ 0 := h
      exact hexec.trans (if_pos (.inl this))
    · have hon := onClock_of_clocked (n := ops.length) (List.length_pos_of_mem hu) (by
        rcases hclk with hl | ⟨hst, e, he, hl, hb⟩
        · exact .inl ((clocked_iff _ _).mpr hl)
        · exact .inr ⟨hst, e, he, (clocked_iff _ _).mpr hl, hb⟩)
      exact hexec.trans (if_pos (.inr (waitxBlocked_of_clocked hu haw hon)))
    · have hno : waitxBlocked s k ch sa = false := waitxBlocked_of_noneClocked fun u hu =>
        Bool.eq_false_iff.mpr fun h => hlater u hu ((clocked_iff _ _).mp h)
      have hnext : ¬ (waitxNext s ch - waitxId s sa).toInt ≤ 0 := not_le.mpr hnext
      rw [hexec, if_neg (by rw [hno]; exact not_or.mpr ⟨hnext, Bool.false_ne_true⟩)]
      by_cases hd : 0 < (done - id).toInt
      · have : ¬ (waitxDone s ch - waitxId s sa).toInt ≤ 0 := not_le.mpr hd
        rw [if_neg this, if_pos hd]
      · have : (waitxDone s ch - waitxId s sa).toInt ≤ 0 := not_lt.mp hd
        rw [if_pos this, if_neg hd]; rfl

end Sys2Proof.Laws
end

section
/-! PROOFS. Bundle-level control (R93, R294, R50, R54 to R56, R248, R255) and HALT beside a waiting member (R83). -/

namespace Sys2Proof.Laws

open Sys2Proof Sys2Proof.Machine

variable {s : State} {g : Guard}

theorem otherMember_of_myCoh_none (f : Ctx → Bool) (h : s.myCoh = none) : s.otherMember f = false := by
  simp [State.otherMember, h]

theorem otherMember_eq_false_iff {k : Cohort} (f : Ctx → Bool) (h : s.myCoh = some k) :
    s.otherMember f = false ↔ ∀ i ∈ k.members, i ≠ s.cur.site → f (s.ctx i) = false := by
  simp [State.otherMember, h]

/-- HALT outside a region, with no other member at a barrier. -/
theorem halt_of_noneWaits (hg : s.guarded g = true) (hr : s.cx.regions = [])
    (hw : s.otherMember (·.waiting.isSome) = false) :
    exec (.halt g) s = .next { s.modCtx s.cur.site fun c => { c with loops := [], stack := [] } with
      cur := { s.cur with halt := true } } := by
  change execHalt g s = _
  simp [execHalt, hg, hr, hw]

/-- Settles O11: HALT by `halt_of_noneWaits`; each of the others has one guarded effect. -/
theorem bundleControl : Obligations.BundleControl := by
  unfold Obligations.BundleControl
  refine ⟨fun s g code rpt stk f3 x => ?_, fun s g scp sa sb hg => ?_⟩
  · refine ⟨rfl, fun hg hr hk => ?_, fun k hg hr hk hw => ?_, fun hg hh => ?_, fun hg hh => ?_, fun hg hh => ?_,
      rfl, rfl, rfl, rfl⟩
    · exact halt_of_noneWaits hg hr (otherMember_of_myCoh_none _ hk)
    · refine halt_of_noneWaits hg hr ((otherMember_eq_false_iff _ hk).mpr fun i hi hne => ?_)
      simp [hw i hi hne]
    · change execTrap g code s = _
      simp [execTrap, hg, hh]
    · change execRft g s = _
      simp [execRft, hg, hh]
    · change execRft g s = _
      simp [execRft, hg, hh]
  · refine ⟨?_, ?_, ?_⟩
    · change execFence g scp s = _
      simp [execFence, hg]
    · change execIinv g sa sb s = _
      simp [execIinv, hg]
    · change execIsync g s = _
      simp [execIsync, hg]

end Sys2Proof.Laws
end

section
/-! PROOFS. The clocks (O56, O57): what every function of the model leaves of the wall cycle, the phase and the
cohorts' counts, and what one step is. -/

namespace Sys2Proof.Laws

open Sys2Proof Sys2Proof.Machine

/-- The part of the state that tells time: the wall cycle, the phase, the cohorts with their counts. -/
structure Clocks where
  now : Nat
  phase : Phase
  cohorts : SMap Cohort

def clocks (s : State) : Clocks := ⟨s.now, s.phase, s.cohorts⟩

/-! ## What leaves the clocks

The equations that hold by unfolding are written `(rfl)`, so that `simp` keeps them as rewrite rules and need not see
through the functions where it proves a rule's own condition. -/

section
variable (s : State)

@[simp] theorem clocks_mk (cur : Cur) (fresh : Nat) (inbox : List (Nat × Input)) (wcyc : Word) (pf : Pf)
    (bam : SMap Nat) (parts : SMap Part) (cores : SMap Core) (banks : SMap Bank) (pchs : SMap Pch)
    (sync : List Host.Cell)
    (syncBad : List Nat) (host : List Host.Cell) (rdata : Option Word) (tlb : List TlbEntry)
    (fatal : Option FatalCause) :
    clocks (State.mk s.now s.phase cur fresh inbox wcyc pf bam parts s.cohorts cores banks pchs sync syncBad host
      rdata tlb fatal) = clocks s := (rfl)
@[simp] theorem clocks_setCore (i : Nat) (c : Core) : clocks (s.setCore i c) = clocks s := (rfl)
@[simp] theorem clocks_modCore (i : Nat) (f : Core → Core) : clocks (s.modCore i f) = clocks s := (rfl)
@[simp] theorem clocks_setCtx (i : Nat) (c : Ctx) : clocks (s.setCtx i c) = clocks s := (rfl)
@[simp] theorem clocks_modCtx (i : Nat) (f : Ctx → Ctx) : clocks (s.modCtx i f) = clocks s := (rfl)
@[simp] theorem clocks_setBank (i : Nat) (b : Bank) : clocks (s.setBank i b) = clocks s := (rfl)
@[simp] theorem clocks_modBank (i : Nat) (f : Bank → Bank) : clocks (s.modBank i f) = clocks s := (rfl)
@[simp] theorem clocks_setPch (i : Nat) (p : Pch) : clocks (s.setPch i p) = clocks s := (rfl)
@[simp] theorem clocks_modPch (i : Nat) (f : Pch → Pch) : clocks (s.modPch i f) = clocks s := (rfl)
@[simp] theorem clocks_setPart (i : Nat) (p : Part) : clocks (s.setPart i p) = clocks s := (rfl)
@[simp] theorem clocks_modPart (i : Nat) (f : Part → Part) : clocks (s.modPart i f) = clocks s := (rfl)
@[simp] theorem clocks_modPf (f : Pf → Pf) : clocks (s.modPf f) = clocks s := (rfl)
@[simp] theorem clocks_draw : clocks s.draw.2 = clocks s := (rfl)
@[simp] theorem clocks_later : clocks s.later.2 = clocks s := (rfl)
@[simp] theorem clocks_ite (p : Prop) [Decidable p] (t u : State) :
    clocks (if p then t else u) = if p then clocks t else clocks u := apply_ite clocks p t u

/-- A loop of updates that leave the clocks leaves them. -/
@[simp] theorem clocks_forAll {α : Type} (l : List α) (f : α → State → State)
    (h : ∀ x u, clocks (f x u) = clocks u) : clocks (forAll l s f) = clocks s := by
  unfold forAll
  induction l generalizing s with
  | nil => (rfl)
  | cons x l ih => exact (ih _).trans (h x s)
end

section
variable (s : State)

/-! ### Access -/

@[simp] theorem clocks_pick {α : Type} (l : List α) (d : α) : clocks (s.pick l d).2 = clocks s := by
  unfold State.pick; split <;> rfl
@[simp] theorem clocks_traceEvent : ∀ i kind slot payload d, clocks (s.traceEvent i kind slot payload d) = clocks s :=
  fun _ _ _ _ _ => (rfl)
@[simp] theorem clocks_traceAt : ∀ i kind slot payload d, clocks (s.traceAt i kind slot payload d) = clocks s := by
  intros; unfold State.traceAt; split <;> rfl
@[simp] theorem clocks_traceRec : ∀ i kind slot payload, clocks (s.traceRec i kind slot payload) = clocks s :=
  by simp [State.traceRec]
@[simp] theorem clocks_qtr : ∀ p r, clocks (s.qtr p r) = clocks s := fun _ _ => (rfl)
@[simp] theorem clocks_qtrCoh : ∀ c type w2 w3, clocks (s.qtrCoh c type w2 w3) = clocks s := fun _ _ _ _ => (rfl)
@[simp] theorem clocks_qtrMerge : ∀ p key head w2 len, clocks (s.qtrMerge p key head w2 len) = clocks s :=
  fun _ _ _ _ _ => (rfl)
@[simp] theorem clocks_qtrOften : ∀ p key r len, clocks (s.qtrOften p key r len) = clocks s := by
  intros; unfold State.qtrOften; split <;> rfl
@[simp] theorem clocks_qtrFlush : ∀ p, clocks (s.qtrFlush p) = clocks s := by simp [State.qtrFlush]
@[simp] theorem clocks_landing : ∀ off flags shadow eff, clocks (s.landing off flags shadow eff) = clocks s :=
  fun _ _ _ _ => (rfl)
@[simp] theorem clocks_access : ∀ off cls window units act, clocks (s.access off cls window units act) = clocks s :=
  fun _ _ _ _ _ => (rfl)
@[simp] theorem clocks_boundary : ∀ i off kind, clocks (s.boundary i off kind) = clocks s := fun _ _ _ => (rfl)
@[simp] theorem clocks_traceCoh : ∀ c kind payload d, clocks (s.traceCoh c kind payload d) = clocks s := by
  intros; unfold State.traceCoh
  exact clocks_forAll _ _ _ fun _ _ => by simp

/-! ### Region -/

@[simp] theorem clocks_lineErrors : ∀ i c lines, clocks (s.lineErrors i c lines).2 = clocks s := by
  intros; unfold State.lineErrors; dsimp only; (repeat' split) <;> simp
@[simp] theorem clocks_readLines : ∀ off lines, clocks (s.readLines off lines) = clocks s := by simp [State.readLines]
@[simp] theorem clocks_rollback : ∀ i k e, clocks (s.rollback i k e) = clocks s := by
  intros; unfold State.rollback; dsimp only; (repeat' split) <;> simp

/-! ### Ops -/

@[simp] theorem clocks_modLaunch : ∀ p q f, clocks (s.modLaunch p q f) = clocks s := fun _ _ _ => (rfl)
@[simp] theorem clocks_stopEnded : clocks s.stopEnded = clocks s := by
  unfold State.stopEnded
  exact clocks_forAll _ _ _ fun _ _ => by (repeat' split) <;> simp
@[simp] theorem clocks_noteCause : ∀ k cause, clocks (s.noteCause k cause) = clocks s := by
  intros; unfold State.noteCause; split <;> rfl
@[simp] theorem clocks_noteFault : ∀ i k cause, clocks (s.noteFault i k cause) = clocks s := by
  intros; unfold State.noteFault; dsimp only; (repeat' split) <;> simp
@[simp] theorem clocks_freeze : ∀ i k, clocks (s.freeze i k) = clocks s := fun _ _ => (rfl)
@[simp] theorem clocks_sayTrap : ∀ i t, clocks (s.sayTrap i t) = clocks s := by
  intros; unfold State.sayTrap; split <;> rfl

/-! ### Operands -/

@[simp] theorem clocks_setEa : ∀ a b, clocks (s.setEa a b) = clocks s := fun _ _ => (rfl)

/-! ### Control -/

@[simp] theorem clocks_once (f : State → State) (h : ∀ u, clocks (f u) = clocks u) : clocks (s.once f) = clocks s :=
  h _
@[simp] theorem clocks_landS : ∀ sd v again, clocks (s.landS sd v again) = clocks s := by
  intros; unfold State.landS; split <;> rfl
@[simp] theorem clocks_barrier : ∀ k, clocks (s.barrier k) = clocks s := by
  intros; unfold State.barrier
  split
  · rfl
  · exact clocks_forAll _ _ _ fun _ _ => clocks_modCtx _ _ _
@[simp] theorem clocks_preserve : ∀ kind regs, clocks (s.preserve kind regs) = clocks s := by
  intros; unfold State.preserve
  exact clocks_forAll _ _ _ fun _ _ => by simp
@[simp] theorem clocks_addUop : ∀ scope kind, clocks (s.addUop scope kind) = clocks s := fun _ _ => (rfl)

/-! ### Csr -/

@[simp] theorem clocks_setCsr : ∀ i n v, clocks (s.setCsr i n v) = clocks s := by
  intros; unfold State.setCsr; split <;> rfl

/-! ### Vector -/

@[simp] theorem clocks_landV : ∀ o off r mask v flags, clocks (s.landV o off r mask v flags) = clocks s :=
  fun _ _ _ _ _ _ => (rfl)

/-! ### Fabric -/

@[simp] theorem clocks_irrevocable : clocks s.irrevocable = clocks s := (rfl)
@[simp] theorem clocks_place : ∀ site a, clocks (s.place site a) = clocks s := fun _ _ => (rfl)
@[simp] theorem clocks_touch : ∀ units, clocks (s.touch units) = clocks s := fun _ => (rfl)

/-! ### Crossbar -/

@[simp] theorem clocks_modMyBank : ∀ f, clocks (s.modMyBank f) = clocks s := fun _ => (rfl)
@[simp] theorem clocks_occupy : ∀ w, clocks (s.occupy w) = clocks s := fun _ => (rfl)
@[simp] theorem clocks_landXmv : ∀ off vd sx grp top out sat fb clip,
    clocks (s.landXmv off vd sx grp top out sat fb clip) = clocks s :=
  by simp [State.landXmv]

/-! ### Calib -/

@[simp] theorem clocks_bankLater : ∀ off e, clocks (s.bankLater off e) = clocks s := fun _ _ => (rfl)
@[simp] theorem clocks_writeOp : ∀ a commit, clocks (s.writeOp a commit) = clocks s := fun _ _ => (rfl)
@[simp] theorem clocks_glint : clocks s.glint.2 = clocks s := (rfl)
@[simp] theorem clocks_bankLand : ∀ i p, clocks (s.bankLand i p) = clocks s := fun _ _ => (rfl)
@[simp] theorem clocks_landBank : ∀ i f, clocks (s.landBank i f) = clocks s := by simp [State.landBank]

/-! ### Dram -/

@[simp] theorem clocks_sendCmd : ∀ c x a b, clocks (s.sendCmd c x a b) = clocks s := by simp [State.sendCmd]

/-! ### Guard -/

@[simp] theorem clocks_notice : ∀ p code detail, clocks (s.notice p code detail) = clocks s := fun _ _ _ => (rfl)
@[simp] theorem clocks_scrub : ∀ p bank, clocks (s.scrub p bank) = clocks s := by
  intros; unfold State.scrub; dsimp only; (repeat' split) <;> simp
@[simp] theorem clocks_scrubAny : ∀ p, clocks (s.scrubAny p) = clocks s := by simp [State.scrubAny]
@[simp] theorem clocks_refuse : ∀ p k rsn det d, clocks (s.refuse p k rsn det d) = clocks s := fun _ _ _ _ _ => (rfl)
@[simp] theorem clocks_driveNext : ∀ p, clocks (s.driveNext p) = clocks s := by
  intros; unfold State.driveNext; dsimp only; (repeat' split) <;> simp
@[simp] theorem clocks_landReads : ∀ pch, clocks (s.landReads pch) = clocks s := by simp [State.landReads]
@[simp] theorem clocks_frameBoundary : ∀ pch, clocks (s.frameBoundary pch) = clocks s := by
  intros; unfold State.frameBoundary; (repeat' split) <;> simp
@[simp] theorem clocks_custodial : ∀ pch, clocks (s.custodial pch) = clocks s := by
  intros; unfold State.custodial; (repeat' split) <;> simp

/-! ### Tile -/

@[simp] theorem clocks_storeTile : ∀ t a, clocks (s.storeTile t a) = clocks s := by simp [State.storeTile]

/-! ### Land -/

@[simp] theorem clocks_disarm : clocks s.disarm = clocks s := (rfl)
@[simp] theorem clocks_landError : ∀ i p cause tval, clocks (s.landError i p cause tval) = clocks s :=
  fun _ _ _ _ => (rfl)
@[simp] theorem clocks_injectLanding : ∀ i l, clocks (s.injectLanding i l).1 = clocks s := by
  intros; unfold State.injectLanding; (repeat' split) <;> simp
@[simp] theorem clocks_shadowCheck : ∀ i e, clocks (s.shadowCheck i e) = clocks s := by
  intros; unfold State.shadowCheck; split <;> rfl
@[simp] theorem clocks_landLines : ∀ i was p lines, clocks (s.landLines i was p lines) = clocks s := by
  intros; unfold State.landLines
  exact (clocks_forAll _ _ _ fun _ _ => clocks_modCtx _ _ _).trans (clocks_lineErrors _ _ _ _)
@[simp] theorem clocks_parities : ∀ i t m n par, clocks (s.parities i t m n par) = clocks s := by
  intros; unfold State.parities
  exact (clocks_forAll _ _ _ fun _ _ => clocks_modCtx _ _ _).trans (by split <;> simp)
@[simp] theorem clocks_applyEffect : ∀ i was p, clocks (s.applyEffect i was p) = clocks s := by
  intros; unfold State.applyEffect; (repeat' split) <;> simp
@[simp] theorem clocks_land1 : ∀ i t log was p, clocks (s.land1 i t log was p) = clocks s := by simp [State.land1]
@[simp] theorem clocks_landAll : ∀ i t log l, clocks (s.landAll i t log l) = clocks s := by simp [State.landAll]
@[simp] theorem clocks_deliver : ∀ i b port, clocks (s.deliver i b port) = clocks s := fun _ _ _ => (rfl)
@[simp] theorem clocks_landSite : ∀ i, clocks (s.landSite i) = clocks s := by
  intros; unfold State.landSite
  dsimp only
  split
  · exact (clocks_forAll _ _ _ fun _ _ => by split <;> simp).trans (by simp)
  · split
    · exact (clocks_landAll _ _ _ _ _).trans (clocks_forAll _ _ _ fun _ _ => clocks_modCtx _ _ _)
    · exact clocks_landAll _ _ _ _ _

/-! ### Ports -/

@[simp] theorem clocks_portStore : ∀ i t inH a b, clocks (s.portStore i t inH a b) = clocks s := fun _ _ _ _ _ => (rfl)
@[simp] theorem clocks_shadowStoreCheck : ∀ i t inH a, clocks (s.shadowStoreCheck i t inH a) = clocks s := by
  intros; unfold State.shadowStoreCheck; (repeat' split) <;> simp
@[simp] theorem clocks_portSend : ∀ i spad coll a, clocks (s.portSend i spad coll a) = clocks s := by
  intros; unfold State.portSend; split <;> rfl
@[simp] theorem clocks_portError : ∀ i inH a, clocks (s.portError i inH a) = clocks s := by
  intros; unfold State.portError; split <;> rfl
@[simp] theorem clocks_portFallback : ∀ i a, clocks (s.portFallback i a) = clocks s := by
  intros; unfold State.portFallback; (repeat' split) <;> simp
@[simp] theorem clocks_servePorts : ∀ i, clocks (s.servePorts i) = clocks s := by
  intros; unfold State.servePorts; (repeat' split) <;> simp

/-! ### Svm -/

@[simp] theorem clocks_evictTlb : ∀ die p n, clocks (s.evictTlb die p n) = clocks s := by
  intros; unfold State.evictTlb
  exact clocks_forAll _ _ _ fun _ _ => by (repeat' split) <;> simp
@[simp] theorem clocks_fill : ∀ die p l, clocks (s.fill die p l) = clocks s := by simp [State.fill]
@[simp] theorem clocks_translate : ∀ i u va w x, clocks (s.translate i u va w x).2 = clocks s := by
  intros; unfold State.translate; dsimp only; (repeat' split) <;> simp
@[simp] theorem clocks_transFault : ∀ i u va kind src ch id, clocks (s.transFault i u va kind src ch id) = clocks s :=
  by simp [State.transFault]
@[simp] theorem clocks_writeRetry : ∀ p, clocks (s.writeRetry p) = clocks s := by
  intros; unfold State.writeRetry; dsimp only; (repeat' split) <;> simp
@[simp] theorem clocks_modLaunchOf : ∀ k f, clocks (s.modLaunchOf k f) = clocks s := by
  intros; unfold State.modLaunchOf; split <;> rfl
@[simp] theorem clocks_retryWalk : ∀ r, clocks (s.retryWalk r) = clocks s := fun _ => (rfl)
@[simp] theorem clocks_abortWalk : ∀ r, clocks (s.abortWalk r) = clocks s := by
  intros; unfold State.abortWalk; dsimp only; (repeat' split) <;> simp
@[simp] theorem clocks_answer (p tag : Nat) (f : State → Retry → State) (h : ∀ u r, clocks (f u r) = clocks u) :
    clocks (s.answer p tag f) = clocks s := by
  unfold State.answer
  split
  · rfl
  · exact h _ _
@[simp] theorem clocks_invalidate : ∀ p lo hi, clocks (s.invalidate p lo hi) = clocks s := by
  intros; unfold State.invalidate
  exact clocks_forAll _ _ _ fun _ _ => by simp

/-! ### Untimed -/

@[simp] theorem clocks_beginXfr : ∀ i ch id, clocks (s.beginXfr i ch id) = clocks s := by
  intros; unfold State.beginXfr; (repeat' split) <;> simp
@[simp] theorem clocks_link : ∀ k inb outb, clocks (s.link k inb outb) = clocks s := fun _ _ _ => (rfl)
@[simp] theorem clocks_untimedWrite : ∀ i k a b, clocks (s.untimedWrite i k a b) = clocks s := by
  intros; unfold State.untimedWrite; (repeat' split) <;> simp
@[simp] theorem clocks_nextPage : ∀ i u get ch id, clocks (s.nextPage i u get ch id) = clocks s := by
  intros; unfold State.nextPage; dsimp only; (repeat' split) <;> simp
@[simp] theorem clocks_movePiece : ∀ i u get p pa, clocks (s.movePiece i u get p pa) = clocks s := by
  intros; unfold State.movePiece; dsimp only; (repeat' split) <;> simp
@[simp] theorem clocks_moveUnit : ∀ i ch id, clocks (s.moveUnit i ch id) = clocks s := by
  intros; unfold State.moveUnit; (repeat' split) <;> simp
@[simp] theorem clocks_completeXfr : ∀ i ch id, clocks (s.completeXfr i ch id) = clocks s := by
  intros; unfold State.completeXfr; (repeat' split) <;> simp
@[simp] theorem clocks_stageLine : ∀ i k a, clocks (s.stageLine i k a) = clocks s := fun _ _ _ => (rfl)
@[simp] theorem clocks_beginReads : ∀ i n g, clocks (s.beginReads i n g) = clocks s := by simp [State.beginReads]
@[simp] theorem clocks_lineIn : ∀ i key, clocks (s.lineIn i key) = clocks s := by
  intros; unfold State.lineIn; dsimp only; (repeat' split) <;> simp
@[simp] theorem clocks_performed : ∀ i u ret old bad, clocks (s.performed i u ret old bad) = clocks s :=
  fun _ _ _ _ _ => (rfl)
@[simp] theorem clocks_mendSync : ∀ l, clocks (s.mendSync l) = clocks s := fun _ => (rfl)
@[simp] theorem clocks_performSram : ∀ i u ret op x a n v c, clocks (s.performSram i u ret op x a n v c) = clocks s :=
  by simp [State.performSram]
@[simp] theorem clocks_performHost : ∀ i u ret op sp pa n v c,
    clocks (s.performHost i u ret op sp pa n v c) = clocks s :=
  by simp [State.performHost]
@[simp] theorem clocks_perform : ∀ i n, clocks (s.perform i n) = clocks s := by
  intros; unfold State.perform; dsimp only; (repeat' split) <;> simp
@[simp] theorem clocks_atomReturns : ∀ i n, clocks (s.atomReturns i n) = clocks s := by
  intros; unfold State.atomReturns; (repeat' split) <;> simp
@[simp] theorem clocks_beginOp : ∀ i u, clocks (s.beginOp i u) = clocks s := by
  intros; unfold State.beginOp; (repeat' split) <;> simp
@[simp] theorem clocks_settleOps : ∀ i, clocks (s.settleOps i) = clocks s := by simp [State.settleOps]

/-! ### Records -/

@[simp] theorem clocks_addRecord : ∀ p r, clocks (s.addRecord p r) = clocks s := fun _ _ => (rfl)
@[simp] theorem clocks_dropWord : ∀ p q status hseq v, clocks (s.dropWord p q status hseq v) = clocks s :=
  by simp [State.dropWord]
@[simp] theorem clocks_writeRecord : ∀ p, clocks (s.writeRecord p) = clocks s := by
  intros; unfold State.writeRecord; dsimp only; (repeat' split) <;> simp

/-! ### Image -/

@[simp] theorem clocks_placeRows : ∀ p m, clocks (s.placeRows p m) = clocks s := by
  intros; unfold State.placeRows
  exact clocks_forAll _ _ _ fun _ _ => by (repeat' split) <;> simp
@[simp] theorem clocks_tagGroups : ∀ p m, clocks (s.tagGroups p m) = clocks s := by
  intros; unfold State.tagGroups
  exact clocks_forAll _ _ _ fun _ _ => by simp
@[simp] theorem clocks_loadImage : ∀ p, clocks (s.loadImage p) = clocks s := by
  intros; unfold State.loadImage; (repeat' split) <;> simp
@[simp] theorem clocks_rejectShard : ∀ p h m g x, clocks (s.rejectShard p h m g x) = clocks s := by
  intros; unfold State.rejectShard
  exact clocks_forAll _ _ _ fun _ _ => by simp
@[simp] theorem clocks_missShard : ∀ p h k m g x, clocks (s.missShard p h k m g x) = clocks s :=
  by simp [State.missShard]
@[simp] theorem clocks_programShard : ∀ p h k, clocks (s.programShard p h k) = clocks s := by
  intros; unfold State.programShard; (repeat' split) <;> simp

/-! ### Sched -/

@[simp] theorem clocks_takeHead : ∀ p q, clocks (s.takeHead p q) = clocks s := by
  intros; unfold State.takeHead; dsimp only; (repeat' split) <;> simp
@[simp] theorem clocks_dropAborted : ∀ p q, clocks (s.dropAborted p q) = clocks s := by simp [State.dropAborted]
@[simp] theorem clocks_finishLaunch : ∀ p q, clocks (s.finishLaunch p q) = clocks s := by
  intros; unfold State.finishLaunch; dsimp only; (repeat' split) <;> simp
@[simp] theorem clocks_dispatch : ∀ k i member c l m sh, clocks (s.dispatch k i member c l m sh) = clocks s :=
  fun _ _ _ _ _ _ _ => (rfl)
@[simp] theorem clocks_failLaunch : ∀ p q, clocks (s.failLaunch p q) = clocks s := by
  intros; unfold State.failLaunch; (repeat' split) <;> simp
@[simp] theorem clocks_restoreMember : ∀ k i groups, clocks (s.restoreMember k i groups) = clocks s := by
  intros; unfold State.restoreMember; split <;> rfl

/-! ### Partition -/

@[simp] theorem clocks_pmDone : ∀ status, clocks (s.pmDone status) = clocks s := fun _ => (rfl)
@[simp] theorem clocks_reclaimBank : ∀ i, clocks (s.reclaimBank i) = clocks s := by simp [State.reclaimBank]
@[simp] theorem clocks_grantAll : ∀ sites gran, clocks (s.grantAll sites gran) = clocks s := by
  intros; unfold State.grantAll
  exact clocks_forAll _ _ _ fun _ _ => by simp
@[simp] theorem clocks_create : clocks s.create = clocks s := by simp [State.create]
@[simp] theorem clocks_resize : clocks s.resize = clocks s := by
  unfold State.resize
  refine (clocks_ite _ _ _).trans ?_
  split
  · simp
  refine (clocks_ite _ _ _).trans ?_
  split
  · simp
  dsimp only
  split
  · simp
  · exact (clocks_pmDone _ _).trans ((clocks_grantAll _ _ _).trans ((clocks_forAll _ _ _ fun _ _ =>
      clocks_evictTlb _ _ _ _).trans (clocks_forAll _ _ _ fun _ _ => clocks_modCore _ _ _)))

/-! ### Events -/

@[simp] theorem clocks_latencyEvent : ∀ i k, clocks (s.latencyEvent i k) = clocks s := by
  intros; unfold State.latencyEvent; split <;> rfl

/-! ### Pf -/

@[simp] theorem clocks_fatalStop : ∀ cause, clocks (s.fatalStop cause) = clocks s := by simp [State.fatalStop]
@[simp] theorem clocks_writeRepair : clocks s.writeRepair = clocks s := by
  unfold State.writeRepair; split <;> rfl
@[simp] theorem clocks_buildBam : clocks s.buildBam = clocks s := by
  unfold State.buildBam
  exact clocks_forAll _ _ _ fun _ _ => clocks_modBank _ _ _
@[simp] theorem clocks_bootStep : clocks s.bootStep = clocks s := by
  unfold State.bootStep; (repeat' split) <;> simp

/-! ### Host -/

@[simp] theorem clocks_pmGo : ∀ v, clocks (s.pmGo v) = clocks s := by
  intros; unfold State.pmGo; split <;> rfl
@[simp] theorem clocks_writeTrcctl : ∀ i v, clocks (s.writeTrcctl i v) = clocks s := by
  intros; unfold State.writeTrcctl; split <;> rfl
@[simp] theorem clocks_pfReset : clocks s.pfReset = clocks s := by
  unfold State.pfReset
  exact clocks_forAll _ _ _ fun _ _ => by simp
@[simp] theorem clocks_configRead : ∀ fn off, clocks (s.configRead fn off) = clocks s := fun _ _ => (rfl)

/-! ### Issue -/

@[simp] theorem clocks_prepare : ∀ x, clocks (s.prepare x) = clocks s := fun _ => (rfl)
@[simp] theorem clocks_keepLatch : ∀ x i, clocks (s.keepLatch x i) = clocks s := fun _ _ => (rfl)
@[simp] theorem clocks_openBundle : ∀ i l next, clocks (s.openBundle i l next) = clocks s := fun _ _ _ => (rfl)
@[simp] theorem clocks_lockBanks : clocks s.lockBanks = clocks s := by
  unfold State.lockBanks; split <;> rfl

/-! ### Run -/

@[simp] theorem clocks_hitResult : ∀ i n, clocks (s.hitResult i n) = clocks s := by
  intros; unfold State.hitResult; split <;> rfl
@[simp] theorem clocks_crcError : ∀ pch write, clocks (s.crcError pch write) = clocks s := by
  intros; unfold State.crcError; (repeat' split) <;> simp
@[simp] theorem clocks_strike : ∀ u, clocks (s.strike u) = clocks s := by
  intros; unfold State.strike; (repeat' split) <;> simp
@[simp] theorem clocks_portEnd : clocks s.portEnd = clocks s := by simp [State.portEnd]
@[simp] theorem clocks_untimedEnd : clocks s.untimedEnd = clocks s := by simp [State.untimedEnd]
@[simp] theorem clocks_refusePm : clocks s.refusePm = clocks s := by
  unfold State.refusePm; split <;> rfl
@[simp] theorem clocks_custody : ∀ k, clocks (s.custody k) = clocks s := by
  intros; unfold State.custody; (repeat' split) <;> simp
end

/-! ## The cohorts' counts -/

/-- The counts of a cohort at a wall cycle: before its start it has none, after it they add up (R72, R73). -/
def clockOk (now : Nat) (c : Cohort) : Prop :=
  (c.st = .starting → c.w0 = none ∧ c.held = 0) ∧ ∀ w, c.w0 = some w → w + c.ccyc + c.held = now

/-- The counts of every cohort add up. -/
def addUp (c : Clocks) : Prop := ∀ e ∈ c.cohorts, clockOk c.now e.2

/-- A cohort before its start. -/
theorem clockOk_starting (n : Nat) {c : Cohort} (hw : c.w0 = none) (hh : c.held = 0) : clockOk n c :=
  ⟨fun _ => ⟨hw, hh⟩, by simp [hw]⟩

/-- From clocks c to clocks d no wall cycle and no phase ends, and counts that add up do so still. -/
structure Steady (c d : Clocks) : Prop where
  now : d.now = c.now
  phase : d.phase = c.phase
  ok : addUp c → addUp d

@[simp] theorem Steady.refl (c : Clocks) : Steady c c := ⟨rfl, rfl, id⟩

theorem Steady.trans {c d e : Clocks} (h : Steady c d) (k : Steady d e) : Steady c e :=
  ⟨k.now.trans h.now, k.phase.trans h.phase, k.ok ∘ h.ok⟩

theorem mem_set {m : SMap α} {k : Nat} {v : α} {e : Nat × α} (h : e ∈ SMap.set m k v) : e = (k, v) ∨ e ∈ m := by
  induction m with
  | nil => simpa [SMap.set] using h
  | cons x l ih =>
    simp only [SMap.set] at h
    (repeat' split at h) <;> simp only [List.mem_cons] at h ⊢
    · exact h
    · exact h.imp id .inr
    · exact h.elim (.inr ∘ .inl) fun h => (ih h).imp id .inr

theorem mem_of_mem_del {m : SMap α} {k : Nat} {e : Nat × α} (h : e ∈ SMap.del m k) : e ∈ m := by
  induction m with
  | nil => exact h
  | cons x l ih =>
    simp only [SMap.del] at h
    split at h
    · exact List.mem_cons_of_mem _ (ih h)
    · rcases List.mem_cons.mp h with rfl | h
      · exact List.mem_cons_self
      · exact List.mem_cons_of_mem _ (ih h)

section
variable {c0 : Clocks} {s : State} (h : Steady c0 (clocks s))
include h

theorem Steady.cohort {k : Nat} {c : Cohort} (hc : s.coh? k = some c) (ok : addUp c0) : clockOk c0.now c :=
  h.now ▸ h.ok ok (k, c) (mem_of_get? hc)

theorem Steady.forAll {α : Type} (l : List α) (f : α → State → State)
    (hf : ∀ x ∈ l, ∀ t, Steady c0 (clocks t) → Steady c0 (clocks (f x t))) : Steady c0 (clocks (forAll l s f)) :=
  forAll_keeps (P := fun t => Steady c0 (clocks t)) h hf

theorem Steady.setCoh {k : Nat} {c : Cohort} (hc : addUp c0 → clockOk c0.now c) :
    Steady c0 (clocks (s.setCoh k c)) where
  now := h.now
  phase := h.phase
  ok ok e he := by
    have now : (clocks (s.setCoh k c)).now = c0.now := h.now
    rw [now]
    rcases mem_set he with rfl | he
    · exact hc ok
    · exact h.now ▸ h.ok ok e he

/-- A cohort that was there is put with what its counts depend on. -/
theorem Steady.put {t : State} (ht : Steady c0 (clocks t)) {j k : Nat} {c d : Cohort} (hc : s.coh? j = some c)
    (hd : ∀ n, clockOk n c → clockOk n d) : Steady c0 (clocks (t.setCoh k d)) :=
  Steady.setCoh ht fun ok => hd _ (h.cohort hc ok)

/-- Fewer cohorts. -/
theorem Steady.withCohorts {m : SMap Cohort} (sub : ∀ e ∈ m, e ∈ s.cohorts) :
    Steady c0 (clocks { s with cohorts := m }) :=
  ⟨h.now, h.phase, fun ok e he => h.ok ok e (sub e he)⟩

/-- A change of a cohort that leaves what its counts depend on. -/
theorem Steady.modCoh {k : Nat} {f : Cohort → Cohort} (hf : ∀ n c, clockOk n c → clockOk n (f c)) :
    Steady c0 (clocks (s.modCoh k f)) := by
  unfold State.modCoh
  split
  · next c hc => exact h.setCoh fun ok => hf _ _ (h.cohort hc ok)
  · exact h

/-! ### Holds and the end of a node -/

@[simp] theorem steady_addHold (k : Nat) (cause : HoldCause) (code first : Nat) :
    Steady c0 (clocks (s.addHold k cause code first)) := by
  unfold State.addHold
  split
  · exact h
  · next c hc =>
    split
    · exact h
    · refine h.put ?_ hc fun _ ok => ok
      split
      · simpa using h
      · exact h

@[simp] theorem steady_sayHold (k : Nat) : Steady c0 (clocks (s.sayHold k)) := by
  unfold State.sayHold
  split
  · exact h
  · next c hc =>
    split
    · exact h
    · split
      · exact h
      · exact (clocks_traceCoh _ _ _ _ _).symm ▸ h.put h hc fun _ ok => ok

@[simp] theorem steady_sayRelease (k : Nat) : Steady c0 (clocks (s.sayRelease k)) := by
  unfold State.sayRelease
  (repeat' split) <;> simp [h, steady_sayHold]

@[simp] theorem steady_dropHold (k : Nat) (f : HoldCause → Bool) : Steady c0 (clocks (s.dropHold k f)) :=
  h.modCoh fun _ _ hc => hc

@[simp] theorem steady_endNode (k : Nat) (requeue : Option Requeue) (status : Option Nat) :
    Steady c0 (clocks (s.endNode k requeue status)) := by
  unfold State.endNode
  split
  · exact h
  · next c hc =>
    split
    · exact h
    · have ended : ∀ d : Cohort, d.st = .ending → d.w0 = c.w0 → d.ccyc = c.ccyc → d.held = c.held →
          Steady c0 (clocks ((s.sayRelease k).setCoh k d)) := fun d hs hw hn hh =>
        h.put (steady_sayRelease h k) hc fun n ok => ⟨by simp [hs], by rw [hw, hn, hh]; exact ok.2⟩
      dsimp only
      split <;> simp [ended]

/-! ### Traps -/

@[simp] theorem steady_escalate (i k cause : Nat) : Steady c0 (clocks (s.escalate i k cause)) := by
  simp [State.escalate, h]

@[simp] theorem steady_overflow (i k : Nat) (t : Trap) : Steady c0 (clocks (s.overflow i k t)) := by
  simp [State.overflow, h]

@[simp] theorem steady_regionError (i k : Nat) (t : Trap) : Steady c0 (clocks (s.regionError i k t)) := by
  unfold State.regionError
  dsimp only
  (repeat' split) <;> simp [h]

@[simp] theorem steady_takeTrap (i : Nat) (t : Trap) : Steady c0 (clocks (s.takeTrap i t)) := by
  unfold State.takeTrap
  dsimp only
  (repeat' split) <;> simp [h]

@[simp] theorem steady_slotTrap (cause : Nat) (tval : Word) : Steady c0 (clocks (s.slotTrap cause tval)) :=
  steady_takeTrap h _ _

@[simp] theorem steady_illegal : Steady c0 (clocks s.illegal) := steady_slotTrap h _ _

@[simp] theorem steady_decodeTrap (i cause : Nat) (tval : Word) (pc : BitVec 54) (rep : Nat) :
    Steady c0 (clocks (s.decodeTrap i cause tval pc rep)) := steady_takeTrap h _ _

@[simp] theorem steady_readFault (op : Instr) (code : Nat) : Steady c0 (clocks (s.readFault op code)) := by
  unfold State.readFault
  dsimp only
  (repeat' split) <;> simp [h]

@[simp] theorem steady_softTrap : Steady c0 (clocks s.softTrap) := by
  unfold State.softTrap
  split
  · exact h
  · exact steady_takeTrap h _ _

@[simp] theorem steady_settle (x : Op) (i : Instr) (code : Nat) : Steady c0 (clocks (s.settle x i code)) := by
  unfold State.settle
  split <;> simp [h]

@[simp] theorem steady_closeBundle : Steady c0 (clocks s.closeBundle) := by
  unfold State.closeBundle
  dsimp only
  split <;> simp [h]

@[simp] theorem steady_startXmv (o : XmvOp) (w : Word) (n : Nat) (copy : Int) (fit nan : Bool) :
    Steady c0 (clocks (s.startXmv o w n copy fit nan)) := by
  unfold State.startXmv
  dsimp only
  (repeat' split) <;> simp [h]

@[simp] theorem steady_takeEvent (i : Nat) (e : BEvent) : Steady c0 (clocks (s.takeEvent i e)) := by
  unfold State.takeEvent
  split <;> simp [h]

@[simp] theorem steady_takeFetchFault (i : Nat) : Steady c0 (clocks (s.takeFetchFault i)) := by
  unfold State.takeFetchFault
  dsimp only
  (repeat' split) <;> simp [h]

@[simp] theorem steady_demand (i a : Nat) : Steady c0 (clocks (s.demand i a)) := by
  unfold State.demand
  dsimp only
  (repeat' split) <;> simp [h]

@[simp] theorem steady_latencyTrap (k : Nat) : Steady c0 (clocks (s.latencyTrap k)) := by
  unfold State.latencyTrap
  dsimp only
  (repeat' split) <;> simp [h]

/-! ### The run of a cohort -/

@[simp] theorem steady_bindNode (p q n : Nat) : Steady c0 (clocks (s.bindNode p q n)) := by
  unfold State.bindNode
  split
  · exact h
  · split
    · exact h
    · split
      · next l m _ _ _ var sh sites num _ _ =>
        have put : ∀ (t : State) (k : Nat) (c : Cohort), Steady c0 (clocks t) → c.w0 = none → c.held = 0 →
          Steady c0 (clocks (t.setCoh k c)) := fun t k c ht hw hh => Steady.setCoh ht fun _ => clockOk_starting _ hw hh
        dsimp only
        split <;> simp [put, h, State.newCohort]
      · exact h

@[simp] theorem steady_startHold (k : Nat) : Steady c0 (clocks (s.startHold k)) := by
  unfold State.startHold
  split
  · exact h
  · next c hc =>
    split
    · exact h
    · dsimp only
      rw [clocks_forAll _ _ _ fun _ _ => clocks_modPch _ _ _]
      refine steady_sayHold (h.put (t := s.draw.2) ?_ hc ?_) k
      · simpa using h
      · exact fun _ ok => ok

@[simp] theorem steady_startAlign (k : Nat) : Steady c0 (clocks (s.startAlign k)) := by
  unfold State.startAlign
  split
  · exact h
  · next c hc =>
    split
    · exact h
    · next hdue =>
      have starting : c.st = .starting := by
        simp [State.startDue, hc] at hdue
        exact hdue.1.1
      have started : ∀ d : Cohort, d.st = .running → d.w0 = some s.now → d.ccyc = 0 → d.held = c.held →
          Steady c0 (clocks ((s.sayRelease k).setCoh k d)) := fun d hs hw hn hh =>
        Steady.setCoh (steady_sayRelease h k) fun ok => by
          have now : s.now = c0.now := h.now
          have held : d.held = 0 := hh.trans ((h.cohort hc ok).1 starting).2
          exact ⟨by simp [hs], by simp [hw, hn, held, now]⟩
      dsimp only
      split <;> simp [started]

@[simp] theorem steady_beginClose (k : Nat) : Steady c0 (clocks (s.beginClose k)) := by
  unfold State.beginClose
  split
  · exact h
  · next c hc =>
    split
    · exact h.put (by simpa using h) hc fun _ ok => ok
    · exact h

@[simp] theorem steady_unbind (k : Nat) (c : Cohort) : Steady c0 (clocks (s.unbind k c)) := by
  unfold State.unbind
  dsimp only
  refine Steady.withCohorts ?_ fun _ => mem_of_mem_del
  simp [h]

@[simp] theorem steady_askPreempt (k why : Nat) : Steady c0 (clocks (s.askPreempt k why)) :=
  h.modCoh fun _ _ ok => by split <;> exact ok

@[simp] theorem steady_preemptNow (k : Nat) : Steady c0 (clocks (s.preemptNow k)) := by
  unfold State.preemptNow
  split
  · exact h
  · next c hc =>
    split
    · exact h
    · split
      · simp [h]
      · have away : ∀ (t : State) (d : Cohort), clocks t = clocks s → d.st = .preempted → d.w0 = c.w0 →
            d.ccyc = c.ccyc → d.held = c.held → Steady c0 (clocks (t.setCoh k d)) := fun t d ht hs hw hn hh =>
          h.put (ht ▸ h) hc fun n ok => ⟨by simp [hs], by rw [hw, hn, hh]; exact ok.2⟩
        simp [away]

@[simp] theorem steady_resumeNow (k : Nat) : Steady c0 (clocks (s.resumeNow k)) := by
  unfold State.resumeNow
  split
  · exact h
  · next c hc =>
    split
    · exact h
    · exact h.put (by simpa using h) hc fun _ ok => ⟨by simp, ok.2⟩

@[simp] theorem steady_tooHot (k : Nat) : Steady c0 (clocks (s.tooHot k)) := by
  unfold State.tooHot
  dsimp only
  (repeat' split) <;> simp [h]

@[simp] theorem steady_manageQueues (p : Nat) : Steady c0 (clocks (s.manageQueues p)) := by
  refine h.forAll _ _ fun q _ t ht => ?_
  dsimp only
  split <;> simp [ht]

@[simp] theorem steady_endWork (p : Nat) : Steady c0 (clocks (s.endWork p)) := by
  unfold State.endWork
  have ended := Steady.forAll (s := s.setPart p { s.part p with
      queues := [], images := [], records := [], retries := [], imgJob := none }) (by simpa using h)
    (s.cohorts.filter fun e => e.2.part == p) (fun e s => s.endNode e.1 none none) fun e _ t ht =>
      steady_endNode ht _ _ _
  simpa using ended

@[simp] theorem steady_release : Steady c0 (clocks s.release) := by
  unfold State.release
  dsimp only
  split <;> simp [h]

@[simp] theorem steady_reclaimed (p : Nat) : Steady c0 (clocks (s.reclaimed p)) := by
  unfold State.reclaimed
  have ends : ∀ (b : Bool) (u : State), Steady c0 (clocks u) →
      Steady c0 (clocks (if b then (u.setPart p Part.reset).pmDone stOk else u)) := fun b u hu => by
    split <;> simp [hu]
  dsimp only
  refine ends _ _ ?_
  rw [clocks_modPart]
  refine Steady.withCohorts (s := { forAll (s.part p).reclaimPchs (forAll (s.part p).reclaimPairs s fun i s =>
      (s.modCore i Core.scrub).reclaimBank i) fun c s => s.modPch c fun q => { Pch.reset with idleNext := q.idleNext }
    with sync := _, syncBad := _ }) ?_ ?_
  · simp [h]
  · split
    · exact fun e he => List.mem_of_mem_filter he
    · exact fun e he => he

@[simp] theorem steady_endCause (c : HoldCause) : Steady c0 (clocks (s.endCause c)) := by
  unfold State.endCause
  dsimp only
  (repeat' split) <;> simp [h]

@[simp] theorem steady_endReplay (i : Nat) : Steady c0 (clocks (s.endReplay i)) := by
  unfold State.endReplay
  split
  · next r k _ _ =>
    have ends : ∀ (p : Prop) [Decidable p] (u : State) (cause : Nat), Steady c0 (clocks u) →
        Steady c0 (clocks (if p then u else u.escalate i k cause)) := fun p _ u cause hu => by split <;> simp [hu]
    refine ends _ _ _ ?_
    rw [clocks_traceRec, clocks_modCtx]
    refine Steady.forAll ?_ _ _ fun e _ t ht => ?_
    · split <;> simp [h]
    · split <;> simp [ht]
  · exact h

@[simp] theorem steady_reviewHold (k : Nat) : Steady c0 (clocks (s.reviewHold k)) := by
  unfold State.reviewHold
  split
  · exact h
  · split
    · exact h
    · next c _ _ =>
      have h := h.forAll (c.members.filter (s.replayOver ·)) (fun i s => s.endReplay i) fun i _ t ht =>
        steady_endReplay ht i
      dsimp only
      split
      · exact h
      · next d hd =>
        split
        · exact h
        · exact h.put (h.forAll _ _ fun _ _ _ ht => steady_endCause ht _) hd fun _ ok => ok

@[simp] theorem steady_release1 (k : Nat) : Steady c0 (clocks (s.release1 k)) := by
  unfold State.release1
  split
  · exact h
  · next c hc =>
    split
    · exact h
    · dsimp only
      split
      · exact h.put (by simpa using h) hc fun _ ok => ok
      · rw [clocks_forAll _ _ _ fun _ _ => clocks_modPch _ _ _]
        exact Steady.modCoh (steady_sayRelease (by simpa using h) k) fun _ _ ok => ok

@[simp] theorem steady_capAction (p : Nat) : Steady c0 (clocks (s.capAction p)) := by
  unfold State.capAction
  split <;> simp [h]

end

/-! ## Outcomes -/

/-- Every next state of an outcome is steady. -/
def SteadyOut (c : Clocks) (o : Out) : Prop := ∀ t, o = .next t → Steady c (clocks t)

section
variable {c0 : Clocks} {s : State}

@[simp] theorem steadyOut_next : SteadyOut c0 (.next s) ↔ Steady c0 (clocks s) :=
  ⟨fun h => h s rfl, fun h _ e => Host.Outcome.next.inj e ▸ h⟩

@[simp] theorem steadyOut_fault (f : Fault) : SteadyOut c0 (.fault f) := fun _ e => nomatch e

@[simp] theorem steadyOut_refused (r : Refusal) : SteadyOut c0 (.refused r) := fun _ e => nomatch e

@[simp] theorem steadyOut_ite (p : Prop) [Decidable p] (a b : Out) :
    SteadyOut c0 (if p then a else b) ↔ (p → SteadyOut c0 a) ∧ (¬ p → SteadyOut c0 b) := by
  split <;> simp [*]

@[simp] theorem steady_ite (p : Prop) [Decidable p] (a b : Clocks) :
    Steady c0 (if p then a else b) ↔ (p → Steady c0 a) ∧ (¬ p → Steady c0 b) := by
  split <;> simp [*]

theorem SteadyOut.andThen {o : Out} {f : State → Out} (h : SteadyOut c0 o)
    (hf : ∀ t, Steady c0 (clocks t) → SteadyOut c0 (f t)) : SteadyOut c0 (andThen o f) := by
  cases o with
  | next t => exact hf t (h t rfl)
  | fault => exact fun _ e => nomatch e
  | refused => exact fun _ e => nomatch e

@[simp] theorem steady_outState {o : Out} (h : Steady c0 (clocks s)) (ho : SteadyOut c0 o) :
    Steady c0 (clocks (o.state s)) := by
  cases o with
  | next t => exact ho t rfl
  | fault => exact h
  | refused => exact h

section
variable (h : Steady c0 (clocks s))
include h

@[simp] theorem steady_trapOut (cause : Nat) (tval : Word) : SteadyOut c0 (trapOut s cause tval) := by
  simp [trapOut, h]

@[simp] theorem steady_barred {o : Out} (ho : SteadyOut c0 o) : SteadyOut c0 (s.barred o) := by
  simp [State.barred, h, ho]

@[simp] theorem steady_withScalar (bs : Bool) (r : BitVec 6) {k : Word → Out} (hk : ∀ v, SteadyOut c0 (k v)) :
    SteadyOut c0 (withScalar bs r s k) := by
  unfold withScalar
  (repeat' split) <;> simp [h, hk]

@[simp] theorem steady_withB (l : List (BitVec 10)) {o : Out} (ho : SteadyOut c0 o) : SteadyOut c0 (withB l s o) := by
  simp [withB, h, ho]

@[simp] theorem steady_waitHold (cause : HoldCause) (code : Nat) : SteadyOut c0 (s.waitHold cause code) := by
  unfold State.waitHold
  split <;> simp [h]
end
end

section
variable {c0 : Clocks} {s : State} (h : Steady c0 (clocks s))
include h

theorem steady_tileMem (o : TMem) (n : Nat) {k : Nat → State → State}
    (hk : ∀ a t, Steady c0 (clocks t) → Steady c0 (clocks (k a t))) : SteadyOut c0 (tileMem o n s k) := by
  refine steady_withScalar h _ _ fun v => ?_
  refine (steadyOut_ite _ _ _).mpr ⟨fun _ => by simpa using h, fun _ => steady_barred (by simpa using h) ?_⟩
  simp [addrTrap, h, hk]

theorem steady_calib (o : XOp) {k : Nat → Nat → State → Out}
    (hk : ∀ a r t, Steady c0 (clocks t) → SteadyOut c0 (k a r t)) : SteadyOut c0 (calib o s k) := by
  refine steady_withScalar h _ _ fun v => ?_
  refine (steadyOut_ite _ _ _).mpr ⟨fun _ => by simpa using h, fun _ => steady_barred (by simpa using h) ?_⟩
  simp [h, hk]

theorem steady_calibCheck (a : Nat) (writes reads thermal : Bool) (w : List (Nat × Nat × Nat)) {k : State → Out}
    (hk : ∀ t, Steady c0 (clocks t) → SteadyOut c0 (k t)) : SteadyOut c0 (s.calibCheck a writes reads thermal w k) := by
  unfold State.calibCheck
  have hw : Steady c0 (clocks (s.occupy w)) := by simpa using h
  simp [configTrap, h, hk _ hw]

@[simp] theorem steady_dram (x : DramOp) (o : DOp) (sb : BitVec 6) : SteadyOut c0 (dram x o sb s) := by
  refine steady_withScalar h _ _ fun v => ?_
  refine (steadyOut_ite _ _ _).mpr ⟨fun _ => by simpa using h, fun _ => steady_barred (by simpa using h) ?_⟩
  (repeat' split) <;> simp [addrTrap, h]

theorem steady_fabric (o : DOp) (sr : BitVec 6) (peer : BitVec 7) (sz : BitVec 2)
    {k : Nat → Nat → Nat → Nat → Nat × Bool → Cohort → State → State}
    (hk : ∀ n la ra site hop c t, Steady c0 (clocks t) → Steady c0 (clocks (k n la ra site hop c t))) :
    SteadyOut c0 (fabric o sr peer sz s k) := by
  refine steady_withScalar h _ _ fun v => ?_
  refine (steadyOut_ite _ _ _).mpr ⟨fun _ => by simpa using h, fun _ => steady_barred (by simpa using h) ?_⟩
  (repeat' split) <;> simp [addrTrap, hk, h]

@[simp] theorem steady_xfr (get : Bool) (o : DOp) (sv : BitVec 6) (lyn : BitVec 4) (ch : BitVec 2) (st : BitVec 6) :
    SteadyOut c0 (xfr get o sv lyn ch st s) := by
  refine steady_withScalar h _ _ fun v => ?_
  refine (steadyOut_ite _ _ _).mpr ⟨fun _ => by simpa using h, fun _ => steady_barred (by simpa using h) ?_⟩
  simp [addrTrap, h]

theorem steady_tileMemory :
    (∀ o, SteadyOut c0 (execTld o s)) ∧ (∀ o, SteadyOut c0 (execTst o s)) ∧ ∀ o, SteadyOut c0 (execTstOV o s) := by
  and_intros <;> (intro o; exact steady_tileMem h o _ fun a t ht => by simpa using ht)

theorem steady_execXmv (o : XmvOp) : SteadyOut c0 (execXmv o s) := by
  refine steady_withScalar h _ _ fun f => ?_
  refine (steadyOut_ite _ _ _).mpr ⟨fun _ => by simpa using h, fun _ => steady_barred h ?_⟩
  simp [addrTrap, h]

theorem steady_xprog (reset : Bool) (o : XOp) (vm : BitVec 10) (win : BitVec 3) (amp : BitVec 4) :
    SteadyOut c0 (xprog reset o vm win amp s) := by
  refine steady_calib h _ fun a r t ht => steady_calibCheck ht _ _ _ _ _ fun u hu => ?_
  simp [hu]

theorem steady_xerase (all : Bool) (o : XOp) : SteadyOut c0 (xerase all o s) := by
  refine steady_calib h _ fun a r t ht => steady_calibCheck ht _ _ _ _ _ fun u hu => ?_
  simp [hu]

theorem steady_calibrate :
    (∀ o vd win, SteadyOut c0 (execXread o vd win s)) ∧
    (∀ o vd ve rs win, SteadyOut c0 (execXreadE o vd ve rs win s)) ∧
    (∀ o spr, SteadyOut c0 (execXremap o spr s)) ∧ (∀ o vd, SteadyOut c0 (execXdrift o vd s)) ∧
    (∀ o vs, SteadyOut c0 (execXcalO o vs s)) ∧ (∀ o vs, SteadyOut c0 (execXcalG o vs s)) ∧
    (∀ o vs rs, SteadyOut c0 (execXcalGC o vs rs s)) := by
  and_intros <;> intros <;>
  ( refine steady_calib h _ fun a r t ht => steady_calibCheck ht _ _ _ _ _ fun u hu => ?_
    simp [configTrap, ht, hu])

theorem steady_execXwear (o : XOp) (sd : BitVec 6) : SteadyOut c0 (execXwear o sd s) := by
  refine steady_calib h _ fun a r t ht => ?_
  simp [ht]

theorem steady_fabricOps : (∀ o sr peer sz, SteadyOut c0 (execPush o sr peer sz s)) ∧
    ∀ o sr peer sz, SteadyOut c0 (execPull o sr peer sz s) := by
  and_intros <;> intros <;> refine steady_fabric h _ _ _ _ fun _ _ _ _ _ _ t ht => ?_ <;> dsimp only <;>
    (repeat' split) <;> simp [ht]

theorem steady_execLayout (o : DOp) (lyn : BitVec 4) : SteadyOut c0 (execLayout o lyn s) := by
  unfold execLayout copyOp
  refine steady_withScalar h _ _ fun v => ?_
  simp [h]

/-- The end of some cohorts' nodes. -/
theorem steady_endAll {α : Type} (l : List α) (k : α → Nat) (status : Option Nat) :
    Steady c0 (clocks (forAll l s fun x s => s.endNode (k x) none status)) :=
  h.forAll l _ fun _ _ _ ht => steady_endNode ht _ _ _

theorem steady_execRetrainComplete (site : Nat) (result : Retrain) :
    SteadyOut c0 (execRetrainComplete site result s) := by
  unfold execRetrainComplete
  refine (steadyOut_ite _ _ _).mpr ⟨fun _ => by simpa using h, fun _ => ?_⟩
  dsimp only
  split
  · simp [h]
  · simp [h]
  · exact steadyOut_next.mpr (steady_endAll (by simpa using h) _ _ _)

theorem steady_execQctlAbort (part queue : Nat) : SteadyOut c0 (execQctlAbort part queue s) := by
  refine (steadyOut_ite _ _ _).mpr ⟨fun _ => ?_, fun _ => by simpa using h⟩
  refine (steadyOut_ite _ _ _).mpr ⟨fun _ => ?_, fun _ => by simpa using h⟩
  refine steadyOut_next.mpr ?_
  rw [clocks_finishLaunch]
  exact steady_endAll (by simpa using h) _ _ _

end

section
variable {c0 : Clocks} {s : State} (h : Steady c0 (clocks s))
include h

theorem steady_scalarOps :
    (∀ rpt stk, SteadyOut c0 (execTmpl rpt stk s)) ∧ (∀ scp, SteadyOut c0 (execScope scp s)) ∧
    (∀ len, SteadyOut c0 (execBlock len s)) ∧ (∀ tgt x, SteadyOut c0 (execXimm tgt x s)) ∧
    (∀ sat o, SteadyOut c0 (execAdd sat o s)) ∧ (∀ sat o, SteadyOut c0 (execSub sat o s)) ∧
    (∀ sat o, SteadyOut c0 (execAddi sat o s)) ∧ (∀ sat o, SteadyOut c0 (execMul sat o s)) ∧
    (∀ o, SteadyOut c0 (execMulh o s)) ∧ (∀ o, SteadyOut c0 (execMulhu o s)) ∧ (∀ o, SteadyOut c0 (execDiv o s)) ∧
    (∀ o, SteadyOut c0 (execDivu o s)) ∧ (∀ o, SteadyOut c0 (execRem o s)) ∧ (∀ o, SteadyOut c0 (execRemu o s)) ∧
    (∀ o, SteadyOut c0 (execAnd o s)) ∧ (∀ o, SteadyOut c0 (execOr o s)) ∧ (∀ o, SteadyOut c0 (execXor o s)) ∧
    (∀ o, SteadyOut c0 (execAndi o s)) ∧ (∀ o, SteadyOut c0 (execOri o s)) ∧ (∀ o, SteadyOut c0 (execXori o s)) ∧
    (∀ o, SteadyOut c0 (execShl o s)) ∧ (∀ o, SteadyOut c0 (execShr o s)) ∧ (∀ o, SteadyOut c0 (execSra o s)) ∧
    (∀ o, SteadyOut c0 (execShli o s)) ∧ (∀ o, SteadyOut c0 (execShri o s)) ∧ (∀ o, SteadyOut c0 (execSrai o s)) ∧
    (∀ o, SteadyOut c0 (execMin o s)) ∧ (∀ o, SteadyOut c0 (execMax o s)) ∧ (∀ o, SteadyOut c0 (execMinu o s)) ∧
    (∀ o, SteadyOut c0 (execMaxu o s)) ∧ (∀ o, SteadyOut c0 (execClz o s)) ∧ (∀ o, SteadyOut c0 (execPopc o s)) ∧
    (∀ g sd imm, SteadyOut c0 (execLi g sd imm s)) ∧ (∀ o, SteadyOut c0 (execMov o s)) ∧
    (∀ pc o, SteadyOut c0 (execSel pc o s)) ∧ (∀ o, SteadyOut c0 (execCmp o s)) ∧ (∀ o, SteadyOut c0 (execCmpi o s)) ∧
    (∀ o, SteadyOut c0 (execPand o s)) ∧ (∀ o, SteadyOut c0 (execPor o s)) ∧ (∀ o, SteadyOut c0 (execPxor o s)) ∧
    (∀ o, SteadyOut c0 (execPandn o s)) ∧ (∀ g dst src, SteadyOut c0 (execPmovPP g dst src s)) ∧
    (∀ g dst src, SteadyOut c0 (execPmovPS g dst src s)) ∧ (∀ g dst src, SteadyOut c0 (execPmovSP g dst src s)) := by
  simp [execTmpl, execScope, execBlock, execXimm, execAdd, execSub, execAddi, execMul, execMulh, execMulhu, execDiv,
    execDivu, execRem, execRemu, execAnd, execOr, execXor, execAndi, execOri, execXori, execShl, execShr, execSra,
    execShli, execShri, execSrai, execMin, execMax, execMinu, execMaxu, execClz, execPopc, execLi, execMov, execSel,
    execCmp, execCmpi, execPand, execPor, execPxor, execPandn, execPmovPP, execPmovPS, execPmovSP, opPP, opRI, opRR,
    opRS, opRU, predOp, scalarOp, h]

theorem steady_portsOps :
    ∀ site, SteadyOut c0 (execBlockLockExpire site s) := by
  simp [execBlockLockExpire, h]

theorem steady_controlOps :
    (∀ g, SteadyOut c0 (execNop g s)) ∧ (∀ g, SteadyOut c0 (execHalt g s)) ∧
    (∀ g code, SteadyOut c0 (execTrap g code s)) ∧ (∀ g, SteadyOut c0 (execRft g s)) ∧
    (∀ g off, SteadyOut c0 (execBr g off s)) ∧ (∀ g sd off, SteadyOut c0 (execBrl g sd off s)) ∧
    (∀ g sa, SteadyOut c0 (execRet g sa s)) ∧ (∀ g sa off, SteadyOut c0 (execJmp g sa off s)) ∧
    (∀ g ln blen cnt, SteadyOut c0 (execLoop g ln blen cnt s)) ∧
    (∀ g ln blen mbi, SteadyOut c0 (execLoopm g ln blen mbi s)) ∧
    (∀ coh, SteadyOut c0 (execAlignBarrierComplete coh s)) ∧ (∀ g sa, SteadyOut c0 (execWaits g sa s)) ∧
    (∀ g ch sa, SteadyOut c0 (execWaitx g ch sa s)) ∧ (∀ g sd, SteadyOut c0 (execCycW g sd s)) ∧
    (∀ g sd se, SteadyOut c0 (execCycC g sd se s)) ∧ SteadyOut c0 (execRbegin s) ∧
    (∀ kind first cnt, SteadyOut c0 (execRpres kind first cnt s)) ∧ (∀ g, SteadyOut c0 (execRfail g s)) ∧
    (∀ g scp, SteadyOut c0 (execFence g scp s)) ∧ (∀ g sa sb, SteadyOut c0 (execIinv g sa sb s)) ∧
    (∀ g, SteadyOut c0 (execIsync g s)) := by
  simp [execNop, execHalt, execTrap, execRft, execBr, execBrl, execRet, execJmp, execLoop, execLoopm,
    execAlignBarrierComplete, execWaits, execWaitx, execCycW, execCycC, execRbegin, execRpres, execRfail, execFence,
    execIinv, execIsync, State.openLoop, State.transfer, h]

theorem steady_scratchOps :
    (∀ o u, SteadyOut c0 (execLds o u s)) ∧ (∀ o, SteadyOut c0 (execSts o s)) ∧ (∀ o, SteadyOut c0 (execVld o s)) ∧
    (∀ o, SteadyOut c0 (execVst o s)) ∧ (∀ o, SteadyOut c0 (execVlds o s)) ∧ (∀ o, SteadyOut c0 (execVgth o s)) ∧
    (∀ o, SteadyOut c0 (execVsct o s)) := by
  simp [execLds, execSts, execVld, execVst, execVlds, execVgth, execVsct, addrTrap, checked, scalarMem, shadowLoad,
    shadowStore, vecMem, h]

theorem steady_controlCases :
    (∀ tag, SteadyOut c0 (execAlign tag s)) ∧ (∀ sd, SteadyOut c0 (execRend sd s)) := by
  and_intros <;> intros <;> dsimp only [execAlign, execRend] <;>
    (repeat' split) <;> simp [h]

theorem steady_schedOps :
    (∀ coh, SteadyOut c0 (execStartAlignment coh s)) ∧ (∀ site, SteadyOut c0 (execThaw site s)) ∧
    (∀ coh, SteadyOut c0 (execPreempt coh s)) ∧ (∀ coh, SteadyOut c0 (execResume coh s)) ∧
    (∀ part queue node, SteadyOut c0 (execNodeBind part queue node s)) ∧
    (∀ part queue full v, SteadyOut c0 (execLaunchWrite part queue full v s)) ∧
    (∀ part queue, SteadyOut c0 (execQctlErrClear part queue s)) := by
  simp [execStartAlignment, execThaw, execPreempt, execResume, execNodeBind, execLaunchWrite, execQctlErrClear,
    State.vfWrite, h]

theorem steady_csrOps :
    (∀ g sd csr, SteadyOut c0 (execCsrr g sd csr s)) ∧ (∀ g sa csr, SteadyOut c0 (execCsrw g sa csr s)) ∧
    (∀ g sd mbi, SteadyOut c0 (execMbr g sd mbi s)) ∧ (∀ g sa mbi, SteadyOut c0 (execMbw g sa mbi s)) := by
  simp [execCsrr, execCsrw, execMbr, execMbw, h]

theorem steady_vectorOps :
    (∀ o, SteadyOut c0 (execVadd o s)) ∧ (∀ o, SteadyOut c0 (execVsub o s)) ∧ (∀ o, SteadyOut c0 (execVmul o s)) ∧
    (∀ o u, SteadyOut c0 (execVmulh o u s)) ∧ (∀ o, SteadyOut c0 (execVfma o s)) ∧
    (∀ o, SteadyOut c0 (execVfms o s)) ∧ (∀ o, SteadyOut c0 (execVfnma o s)) ∧ (∀ o, SteadyOut c0 (execVmac o s)) ∧
    (∀ o, SteadyOut c0 (execVmin o s)) ∧ (∀ o, SteadyOut c0 (execVmax o s)) ∧ (∀ o, SteadyOut c0 (execVminu o s)) ∧
    (∀ o, SteadyOut c0 (execVmaxu o s)) ∧ (∀ o, SteadyOut c0 (execVabs o s)) ∧ (∀ o, SteadyOut c0 (execVneg o s)) ∧
    (∀ o, SteadyOut c0 (execVand o s)) ∧ (∀ o, SteadyOut c0 (execVor o s)) ∧ (∀ o, SteadyOut c0 (execVxor o s)) ∧
    (∀ o, SteadyOut c0 (execVandn o s)) ∧ (∀ o, SteadyOut c0 (execVshl o s)) ∧
    (∀ o k, SteadyOut c0 (execVshlImm o k s)) ∧ (∀ o, SteadyOut c0 (execVshr o s)) ∧
    (∀ o k, SteadyOut c0 (execVshrImm o k s)) ∧ (∀ o, SteadyOut c0 (execVsra o s)) ∧
    (∀ o k, SteadyOut c0 (execVsraImm o k s)) ∧ (∀ o cc, SteadyOut c0 (execVcmp o cc s)) ∧
    (∀ o cc, SteadyOut c0 (execVcmpP o cc s)) ∧ (∀ o ps, SteadyOut c0 (execVsel o ps s)) ∧
    (∀ o, SteadyOut c0 (execVmov o s)) ∧ (∀ o idx, SteadyOut c0 (execVbc o idx s)) ∧
    (∀ o imm, SteadyOut c0 (execVbcImm o imm s)) ∧ (∀ o op, SteadyOut c0 (execVred o op s)) ∧
    (∀ o, SteadyOut c0 (execVperm o s)) ∧ (∀ o k, SteadyOut c0 (execVrot o k s)) ∧
    (∀ o k, SteadyOut c0 (execVslideDn o k s)) ∧ (∀ o k, SteadyOut c0 (execVslideUp o k s)) := by
  simp [execVadd, execVsub, execVmul, execVmulh, execVfma, execVfms, execVfnma, execVmac, execVmin, execVmax, execVminu,
    execVmaxu, execVabs, execVneg, execVand, execVor, execVxor, execVandn, execVshl, execVshlImm, execVshr,
    execVshrImm, execVsra, execVsraImm, execVcmp, execVcmpP, execVsel, execVmov, execVbc, execVbcImm, execVred,
    execVperm, execVrot, execVslideDn, execVslideUp, vecBin, vecBits, vecFused, vecLogic, vecOut, vecShift,
    vecShiftImm, vecUn, h]

theorem steady_vectorConvOps :
    (∀ o dst src, SteadyOut c0 (execVcvt o dst src s)) ∧ (∀ o, SteadyOut c0 (execVtint o s)) ∧
    (∀ o, SteadyOut c0 (execVrcp o s)) ∧ (∀ o, SteadyOut c0 (execVrsq o s)) ∧ (∀ o, SteadyOut c0 (execVexp2 o s)) ∧
    (∀ o, SteadyOut c0 (execVlog2 o s)) ∧ (∀ o, SteadyOut c0 (execVscl o s)) ∧
    (∀ o q, SteadyOut c0 (execVmxq o q s)) ∧ (∀ o n q, SteadyOut c0 (execVbfpq o n q s)) ∧
    (∀ o gs eb nm h, SteadyOut c0 (execVdqg o gs eb nm h s)) := by
  simp [execVcvt, execVtint, execVrcp, execVrsq, execVexp2, execVlog2, execVscl, execVmxq, execVbfpq, execVdqg,
    quantise,
    vecFun, vecOut, h]

theorem steady_tileCases :
    (∀ g tw, SteadyOut c0 (execTwl g tw s)) ∧ (∀ g tw tsc, SteadyOut c0 (execTwlMx g tw tsc s)) ∧
    (∀ g tc ta asc, SteadyOut c0 (execTmma g tc ta asc s)) ∧
    (∀ g tc ta tsc asc, SteadyOut c0 (execTmmaMx g tc ta tsc asc s)) ∧
    (∀ g tc ta asc, SteadyOut c0 (execKatt g tc ta asc s)) ∧
    (∀ g tc ta tsc asc, SteadyOut c0 (execKattMx g tc ta tsc asc s)) ∧
    (∀ g tc ta tx qs asc, SteadyOut c0 (execTmmaSmx g tc ta tx qs asc s)) ∧
    (∀ g tx, SteadyOut c0 (execTsmxInit g tx s)) ∧ (∀ g tc tx ns, SteadyOut c0 (execTsmxNorm g tc tx ns s)) ∧
    (∀ g td, SteadyOut c0 (execTzero g td s)) ∧ (∀ g td ts, SteadyOut c0 (execTtrn g td ts s)) := by
  and_intros <;> intros <;> dsimp only [execTwl, execTwlMx, execTmma, execTmmaMx, execKatt, execKattMx, execTmmaSmx,
    execTsmxInit, execTsmxNorm,
    execTzero, execTtrn, katt, multiply, tileCheck, tileOp, tmma, twl] <;>
    (repeat' split) <;> simp [h]

theorem steady_tileOps :
    ∀ g td ts, SteadyOut c0 (execTmov g td ts s) := by
  simp [execTmov, tileOp, h]

theorem steady_crossbarOps :
    (∀ coh, SteadyOut c0 (execXmvFallbackEnd coh s)) ∧ (∀ g grp, SteadyOut c0 (execXswap g grp s)) ∧
    (∀ g sd idx, SteadyOut c0 (execXstat g sd idx s)) ∧ (∀ g sd idx, SteadyOut c0 (execXstatA g sd idx s)) := by
  simp [execXmvFallbackEnd, execXswap, execXstat, execXstatA, h]

theorem steady_calibOps :
    (∀ site arr, SteadyOut c0 (execCommitSweepComplete site arr s)) ∧
    (∀ site arr, SteadyOut c0 (execPulseSettle site arr s)) ∧
    (∀ site arr, SteadyOut c0 (execGlintEvaluation site arr s)) := by
  simp [execCommitSweepComplete, execPulseSettle, execGlintEvaluation, h]

theorem steady_dramOps :
    (∀ o, SteadyOut c0 (execMact o s)) ∧ (∀ o, SteadyOut c0 (execMpre o s)) ∧ (∀ o, SteadyOut c0 (execMprea o s)) ∧
    (∀ o sb, SteadyOut c0 (execMrd o sb s)) ∧ (∀ o sb, SteadyOut c0 (execMrda o sb s)) ∧
    (∀ o sb, SteadyOut c0 (execMwr o sb s)) ∧ (∀ o sb, SteadyOut c0 (execMwra o sb s)) ∧
    (∀ o, SteadyOut c0 (execMref o s)) ∧ (∀ o, SteadyOut c0 (execMrefp o s)) ∧
    (∀ o sb, SteadyOut c0 (execMrcp o sb s)) ∧ (∀ o line, SteadyOut c0 (execMrcbLd o line s)) ∧
    (∀ o line, SteadyOut c0 (execMrcbSt o line s)) ∧ (∀ o line, SteadyOut c0 (execMrcbInv o line s)) ∧
    (∀ o, SteadyOut c0 (execMzro o s)) := by
  simp [execMact, execMpre, execMprea, execMrd, execMrda, execMwr, execMwra, execMref, execMrefp, execMrcp, execMrcbLd,
    execMrcbSt, execMrcbInv, execMzro, h]

theorem steady_guardOps :
    (∀ pch, SteadyOut c0 (execGuardCommandDrive pch s)) ∧
    (∀ pch bank, SteadyOut c0 (execDramOperationComplete pch bank s)) ∧
    (∀ pch, SteadyOut c0 (execDramReadLanding pch s)) ∧ (∀ pch, SteadyOut c0 (execRefreshFrameBoundary pch s)) ∧
    (∀ pch, SteadyOut c0 (execIdleRefresh pch s)) := by
  simp [execGuardCommandDrive, execDramOperationComplete, execDramReadLanding, execRefreshFrameBoundary,
    execIdleRefresh,
    h]

theorem steady_eventsCases :
    (∀ site, SteadyOut c0 (execTimingFault site s)) ∧ (∀ site, SteadyOut c0 (execRegionRollback site s)) ∧
    (∀ site, SteadyOut c0 (execRetrainRequest site s)) ∧ (∀ site cls,
    SteadyOut c0 (execOverTemperature site cls s)) := by
  and_intros <;> intros <;> dsimp only [execTimingFault, execRegionRollback, execRetrainRequest,
    execOverTemperature] <;>
    (repeat' split) <;> simp [h]

theorem steady_guardCases :
    ∀ pch bank, SteadyOut c0 (execAutoPrecharge pch bank s) := by
  intros; dsimp only [execAutoPrecharge]
  (repeat' split) <;> simp [h]

theorem steady_eventsOps :
    (∀ pch, SteadyOut c0 (execCustodialRefresh pch s)) ∧ (∀ site, SteadyOut c0 (execTraceFreeze site s)) ∧
    (∀ coh, SteadyOut c0 (execHoldRelease coh s)) ∧ (∀ coh, SteadyOut c0 (execLatencyClass coh s)) ∧
    (∀ site, SteadyOut c0 (execTrcctlFrozenClear site s)) := by
  simp [execCustodialRefresh, execTraceFreeze, execHoldRelease, execLatencyClass, execTrcctlFrozenClear, h]

theorem steady_copyOps :
    (∀ o sv lyn ch st, SteadyOut c0 (execXfrG o sv lyn ch st s)) ∧
    (∀ o sv lyn ch st, SteadyOut c0 (execXfrP o sv lyn ch st s)) ∧ (∀ o nl, SteadyOut c0 (execIstage o nl s)) ∧
    (∀ o tag, SteadyOut c0 (execTrc o tag s)) ∧ (∀ o tag, SteadyOut c0 (execTrcFrz o tag s)) := by
  simp [execXfrG, execXfrP, execIstage, execTrc, execTrcFrz, copyOp, trc, h]

theorem steady_untimedOps :
    (∀ site ch id, SteadyOut c0 (execXfrBegin site ch id s)) ∧
    (∀ site ch id, SteadyOut c0 (execXfrComplete site ch id s)) ∧
    (∀ site ch id, SteadyOut c0 (execUntimedPortAccess site ch id s)) ∧
    (∀ site line, SteadyOut c0 (execDemandStaging site line s)) ∧
    (∀ site slot, SteadyOut c0 (execLineStagingComplete site slot s)) ∧
    (∀ site n, SteadyOut c0 (execAtomicPerform site n s)) ∧ (∀ site n, SteadyOut c0 (execAtomReturn site n s)) := by
  simp [execXfrBegin, execXfrComplete, execUntimedPortAccess, execDemandStaging, execLineStagingComplete,
    execAtomicPerform, execAtomReturn, h]

theorem steady_svmOps :
    (∀ part, SteadyOut c0 (execRetryEntryWrite part s)) ∧ (∀ part tag, SteadyOut c0 (execRrrespRetry part tag s)) ∧
    (∀ part tag, SteadyOut c0 (execRrrespAbort part tag s)) ∧ (∀ part v, SteadyOut c0 (execRrcntWrite part v s)) ∧
    (∀ part v, SteadyOut c0 (execPtrootWrite part v s)) ∧ (∀ part v, SteadyOut c0 (execTlbinvWrite part v s)) ∧
    (∀ part, SteadyOut c0 (execTlbinvComplete part s)) ∧ (∀ part v, SteadyOut c0 (execRrbaseWrite part v s)) := by
  simp [execRetryEntryWrite, execRrrespRetry, execRrrespAbort, execRrcntWrite, execPtrootWrite, execTlbinvWrite,
    execTlbinvComplete, execRrbaseWrite, State.vfWrite, h]

theorem steady_syncOps :
    (∀ o sb sd, SteadyOut c0 (execAtomAdd o sb sd s)) ∧ (∀ o sb sd, SteadyOut c0 (execAtomSwap o sb sd s)) ∧
    (∀ o sb sc sd, SteadyOut c0 (execAtomCas o sb sc sd s)) ∧ (∀ o sb sd, SteadyOut c0 (execAtomAnd o sb sd s)) ∧
    (∀ o sb sd, SteadyOut c0 (execAtomOr o sb sd s)) ∧ (∀ o sb sd, SteadyOut c0 (execAtomXor o sb sd s)) ∧
    (∀ o sb sd, SteadyOut c0 (execAtomMin o sb sd s)) ∧ (∀ o sb sd, SteadyOut c0 (execAtomMax o sb sd s)) ∧
    (∀ o sb sd, SteadyOut c0 (execAtomMinu o sb sd s)) ∧ (∀ o sb sd, SteadyOut c0 (execAtomMaxu o sb sd s)) ∧
    (∀ o sb sd, SteadyOut c0 (execAtomFadd o sb sd s)) ∧ (∀ o sd, SteadyOut c0 (execAtomLd o sd s)) ∧
    (∀ o sb, SteadyOut c0 (execRedAdd o sb s)) ∧ (∀ o sb, SteadyOut c0 (execRedSt o sb s)) ∧
    (∀ o sb, SteadyOut c0 (execRedAnd o sb s)) ∧ (∀ o sb, SteadyOut c0 (execRedOr o sb s)) ∧
    (∀ o sb, SteadyOut c0 (execRedXor o sb s)) ∧ (∀ o sb, SteadyOut c0 (execRedMin o sb s)) ∧
    (∀ o sb, SteadyOut c0 (execRedMax o sb s)) ∧ (∀ o sb, SteadyOut c0 (execRedMinu o sb s)) ∧
    (∀ o sb, SteadyOut c0 (execRedMaxu o sb s)) ∧ (∀ o sb, SteadyOut c0 (execRedFadd o sb s)) := by
  simp [execAtomAdd, execAtomSwap, execAtomCas, execAtomAnd, execAtomOr, execAtomXor, execAtomMin, execAtomMax,
    execAtomMinu, execAtomMaxu, execAtomFadd, execAtomLd, execRedAdd, execRedSt, execRedAnd, execRedOr, execRedXor,
    execRedMin, execRedMax, execRedMinu, execRedMaxu, execRedFadd, atomic, h]

theorem steady_landOps :
    ∀ site, SteadyOut c0 (execResultLanding site s) := by
  simp [execResultLanding, h]

theorem steady_fetchOps :
    ∀ site, SteadyOut c0 (execTrapHandlerEntry site s) := by
  simp [execTrapHandlerEntry, h]

theorem steady_schedCases :
    (∀ coh, SteadyOut c0 (execNodeRetire coh s)) ∧ (∀ coh, SteadyOut c0 (execNodeRequeue coh s)) ∧
    (∀ coh, SteadyOut c0 (execWdogTimeout coh s)) := by
  and_intros <;> intros <;> dsimp only [execNodeRetire, execNodeRequeue, execWdogTimeout] <;>
    (repeat' split) <;> simp [h]

theorem steady_recordsOps :
    (∀ part, SteadyOut c0 (execEventRecordWrite part s)) ∧ (∀ part, SteadyOut c0 (execEvcoalTimeout part s)) ∧
    (∀ part v, SteadyOut c0 (execEvbaseWrite part v s)) ∧ (∀ part v, SteadyOut c0 (execEvtailWrite part v s)) := by
  simp [execEventRecordWrite, execEvcoalTimeout, execEvbaseWrite, execEvtailWrite, State.vfWrite, h]

theorem steady_imageOps :
    (∀ part v, SteadyOut c0 (execImgloadLoad part v s)) ∧ (∀ part v, SteadyOut c0 (execImgloadUnload part v s)) ∧
    (∀ part, SteadyOut c0 (execImageLoadComplete part s)) ∧
    (∀ part handle idx, SteadyOut c0 (execShardProgram part handle idx s)) := by
  simp [execImgloadLoad, execImgloadUnload, execImageLoadComplete, execShardProgram, State.vfWrite, h]

theorem steady_partitionOps :
    SteadyOut c0 (execPartitionCreate s) ∧ SteadyOut c0 (execPartitionResize s) ∧
    SteadyOut c0 (execPartitionRelease s) ∧ (∀ part, SteadyOut c0 (execReclamationComplete part s)) ∧
    (∀ part, SteadyOut c0 (execFunctionLevelReset part s)) ∧ (∀ part, SteadyOut c0 (execFlrComplete part s)) := by
  simp [execPartitionCreate, execPartitionResize, execPartitionRelease, execReclamationComplete, execFunctionLevelReset,
    execFlrComplete, h]

theorem steady_hostCases :
    (∀ part off size, SteadyOut c0 (execSyncwinRead part off size s)) ∧
    (∀ part off size v, SteadyOut c0 (execSyncwinWrite part off size v s)) := by
  and_intros <;> intros <;> dsimp only [execSyncwinRead, execSyncwinWrite] <;>
    (repeat' split) <;> simp [h]

theorem steady_pfOps :
    (∀ v, SteadyOut c0 (execTrccopyWrite v s)) ∧ SteadyOut c0 (execTrccopyComplete s) ∧
    (∀ v, SteadyOut c0 (execQtrcopyWrite v s)) ∧ SteadyOut c0 (execQtrcopyComplete s) ∧
    (∀ v, SteadyOut c0 (execAttreqWrite v s)) ∧ SteadyOut c0 (execAttestationReport s) ∧
    SteadyOut c0 (execDumpcmdGo s) ∧ (∀ cause, SteadyOut c0 (execFatalError cause s)) ∧
    (∀ v, SteadyOut c0 (execErrinjWrite v s)) ∧ SteadyOut c0 (execBoot s) ∧
    (∀ v, SteadyOut c0 (execBootaddrWrite v s)) ∧ (∀ v, SteadyOut c0 (execPwrcapWrite v s)) := by
  simp [execTrccopyWrite, execTrccopyComplete, execQtrcopyWrite, execQtrcopyComplete, execAttreqWrite,
    execAttestationReport, execDumpcmdGo, execFatalError, execErrinjWrite, execBoot, execBootaddrWrite,
    execPwrcapWrite, h]

end

section
variable {c0 : Clocks} {s : State} (h : Steady c0 (clocks s))
include h

/-! ### Register writes and samples -/

@[simp] theorem steady_writeQctl (p q : Nat) (v : Word) : Steady c0 (clocks (s.writeQctl p q v)) := by
  have cleared : ∀ t, Steady c0 (clocks t) → Steady c0 (clocks (Out.state t (execQctlErrClear p q t))) :=
    fun t ht => by simp [ht, steady_schedOps ht]
  have aborted : ∀ t, Steady c0 (clocks t) → Steady c0 (clocks (Out.state t (execQctlAbort p q t))) :=
    fun t ht => by simp [ht, steady_execQctlAbort ht]
  unfold State.writeQctl
  dsimp only
  (repeat' split) <;> simp [h, cleared, aborted]

@[simp] theorem steady_writeRrresp (p : Nat) (v : Word) : Steady c0 (clocks (s.writeRrresp p v)) := by
  simp [State.writeRrresp, h, steady_svmOps h]

@[simp] theorem steady_writeImgload (p : Nat) (v : Word) : Steady c0 (clocks (s.writeImgload p v)) := by
  unfold State.writeImgload
  split <;> simp [h, steady_imageOps h]

@[simp] theorem steady_oddWrite (n off : Nat) (v : Word) : Steady c0 (clocks (s.oddWrite n off v)) := by
  unfold State.oddWrite
  split <;> simp [h, steady_schedOps h]

@[simp] theorem steady_writeVf (p off : Nat) (v : Word) : Steady c0 (clocks (s.writeVf p off v)) := by
  unfold State.writeVf
  split <;> simp [h, steady_svmOps h, steady_recordsOps h, steady_schedOps h]

@[simp] theorem steady_writePf (off : Nat) (v : Word) : Steady c0 (clocks (s.writePf off v)) := by
  unfold State.writePf
  split <;> simp [h, steady_pfOps h]

@[simp] theorem steady_barRead (fn off size : Nat) : Steady c0 (clocks (s.barRead fn off size)) := by
  unfold State.barRead
  dsimp only
  (repeat' split) <;> simp [h, steady_hostCases h]

theorem steady_execRegisterWrite (fn off : Nat) (v : Word) : SteadyOut c0 (execRegisterWrite fn off v s) := by
  unfold execRegisterWrite
  split <;> simp [State.vfWrite, h]

@[simp] theorem steady_barAccess (fn off size : Nat) (w : Option Word) :
    Steady c0 (clocks (s.barAccess fn off size w)) := by
  unfold State.barAccess State.barWrite
  (repeat' split) <;> simp [State.vfWrite, h, steady_hostCases h, steady_execRegisterWrite h]

@[simp] theorem steady_bankSample (i : Nat) (t : Int) : Steady c0 (clocks (s.bankSample i t)) := by
  have recorded : ∀ u, Steady c0 (clocks u) → Steady c0 (clocks (match SMap.get? u.pf.trained i with
      | none => u.modPf fun p => { p with trained := SMap.set p.trained i t }
      | some v => if 16 ≤ (t - v).natAbs then Out.state u (execRetrainRequest i u) else u)) := fun u hu => by
    split <;> simp [hu, steady_eventsCases hu]
  refine recorded _ ?_
  (repeat' split) <;> simp [h]

@[simp] theorem steady_sample (r : PowerReading) : Steady c0 (clocks (s.sample r)) := by
  have sampled : ∀ u, Steady c0 (clocks u) → Steady c0 (clocks (forAll r.bankTemp u fun e s => s.bankSample e.1 e.2)) :=
    fun u hu => hu.forAll _ _ fun _ _ _ ht => steady_bankSample ht _ _
  unfold State.sample
  dsimp only
  split <;> simp [h, sampled]

theorem steady_execPowerSample (r : PowerReading) : SteadyOut c0 (execPowerSample r s) := by
  simp [execPowerSample, h]

/-! ### Every operation and every event -/

theorem steady_exec (i : Instr) : SteadyOut c0 (exec i s) := by
  cases i <;> dsimp only [exec]
  any_goals simp only [steady_scalarOps h, steady_portsOps h, steady_controlOps h, steady_scratchOps h,
    steady_controlCases h,
    steady_schedOps h, steady_csrOps h, steady_vectorOps h, steady_vectorConvOps h, steady_tileCases h,
    steady_tileOps h,
    steady_crossbarOps h, steady_calibOps h, steady_dramOps h, steady_guardOps h, steady_eventsCases h,
    steady_guardCases h,
    steady_eventsOps h, steady_copyOps h, steady_untimedOps h, steady_svmOps h, steady_syncOps h, steady_landOps h,
    steady_fetchOps h, steady_schedCases h, steady_recordsOps h, steady_imageOps h, steady_partitionOps h,
    steady_hostCases h, steady_pfOps h, steady_tileMemory h, steady_execXmv h, steady_calibrate h, steady_execXwear h,
    steady_fabricOps h, steady_execLayout h, steady_execRetrainComplete h, steady_execQctlAbort h,
    steady_execRegisterWrite h, steady_execPowerSample h]
  case xprogSet => exact steady_xprog h _ _ _ _ _
  case xprogRst => exact steady_xprog h _ _ _ _ _
  case xerase => exact steady_xerase h _ _
  case xeraseAll => exact steady_xerase h _ _

/-! ### What a step is made of -/

@[simp] theorem steady_strike (u : Upset) : Steady c0 (clocks (s.strike u)) := by
  unfold State.strike
  (repeat' split) <;> simp [h]

theorem steady_receive (e : Nat × Input) : SteadyOut c0 (s.receive e) := by
  have taken : Steady c0 (clocks { s with inbox := s.inbox.erase e }) := by simpa using h
  unfold State.receive
  dsimp only
  split <;> simp [steady_exec taken, h]

theorem steady_issueAll {α : Type} {f : α → State → Out} (l : List α)
    (hf : ∀ x t, Steady c0 (clocks t) → SteadyOut c0 (f x t)) : SteadyOut c0 (issueAll f l s) := by
  induction l generalizing s with
  | nil => simpa [issueAll] using h
  | cons x l ih => exact (hf x s h).andThen fun t ht => ih ht

theorem steady_prefixOp (x : Syl) : SteadyOut c0 (State.prefixOp x s) := by
  unfold State.prefixOp
  split
  · exact steady_exec h _
  · simpa using h

theorem steady_issueOp (x : Op) : SteadyOut c0 (s.issueOp x) := by
  have hp : Steady c0 (clocks (s.prepare x)) := by simpa using h
  unfold State.issueOp
  dsimp only
  split
  · simp [h]
  · next i _ =>
    split
    · refine (steady_exec hp i).andThen fun t _ => ?_
      simp [h]
    · exact (steady_exec hp i).andThen fun t ht => steadyOut_next.mpr (steady_settle ht _ _ _)

theorem steady_issueSlot (l : List Syl) (k : Nat) : SteadyOut c0 (State.issueSlot l k s) := by
  unfold State.issueSlot
  split
  · simpa using h
  · split
    · simpa using h
    · exact steady_issueOp h _

theorem steady_issueBundle (i : Nat) : SteadyOut c0 (s.issueBundle i) := by
  unfold State.issueBundle
  split
  · next l next _ =>
    refine (steady_issueAll (by simpa using h) _ fun x t ht => steady_prefixOp ht x).andThen fun t ht => ?_
    exact (steady_issueAll ht _ fun x t ht => steady_issueSlot ht l x).andThen fun t ht =>
      steadyOut_next.mpr (steady_closeBundle ht)
  · simpa using h

/-! ### The ends of the phases -/

theorem steady_backgroundEnd : Steady c0 (clocks s.backgroundEnd) :=
  h.forAll _ _ fun k _ _ ht => steady_beginClose (steady_reviewHold (steady_startHold ht k) k) k

theorem steady_releaseEnd : Steady c0 (clocks s.releaseEnd) :=
  h.forAll _ _ fun _ _ _ ht => ht.modCoh fun _ _ ok => ok

theorem steady_fetchEnd : Steady c0 (clocks s.fetchEnd) := by
  refine Steady.forAll ?_ _ _ fun _ _ _ ht => ht.modCoh fun _ _ ok => ok
  simpa using h

theorem steady_issueEnd : Steady c0 (clocks s.issueEnd) := h.forAll _ _ fun _ _ _ ht => steady_sayHold ht _

theorem steady_manageEnd : Steady c0 (clocks s.manageEnd) := by
  refine Steady.forAll (Steady.forAll ?_ _ _ fun p _ t ht => ?_) _ _ fun _ _ _ ht => steady_tooHot ht _
  · simpa using h
  · simp [ht]
end

/-- The end of a phase other than the last one of the wall cycle: the phase alone moves on. -/
theorem endPhase_steady (s : State) (hf : s.phase ≠ .finish) :
    ∃ u, s.endPhase = { u with phase := s.endPhase.phase } ∧ Steady (clocks s) (clocks u) := by
  have h := Steady.refl (clocks s)
  unfold State.endPhase
  split
  case h_1 => exact ⟨s, rfl, h⟩
  case h_2 => exact ⟨_, rfl, steady_backgroundEnd h⟩
  case h_3 => exact ⟨_, rfl, steady_releaseEnd h⟩
  case h_4 => exact ⟨s, rfl, h⟩
  case h_5 => exact ⟨s, rfl, h⟩
  case h_6 => exact ⟨_, rfl, steady_fetchEnd h⟩
  case h_7 => exact ⟨_, rfl, steady_issueEnd h⟩
  case h_8 => exact ⟨_, rfl, by simp⟩
  case h_9 => exact ⟨s, rfl, h⟩
  case h_10 => exact ⟨_, rfl, by simp⟩
  case h_11 => exact ⟨_, rfl, steady_manageEnd h⟩
  case h_12 e => exact absurd e hf

/-! ## The end of the wall cycle -/

/-- R72, R73: a cycle in which a started cohort runs counts in CCYC, another in its holds. -/
theorem clockOk_tick {n : Nat} {c : Cohort} (h : clockOk n c) : clockOk (n + 1) c.tick := by
  obtain ⟨starting, started⟩ := h
  refine ⟨fun hs => ?_, fun w hw => ?_⟩
  · obtain ⟨hw, hh⟩ := starting hs
    exact ⟨hw, by simp [Cohort.tick, hw, hh]⟩
  · have sum := started w hw
    have notStarting : c.st ≠ .starting := fun hs => by simp [(starting hs).1, Cohort.tick] at hw
    have hw : c.w0 = some w := hw
    cases hst : c.st with
    | starting => exact absurd hst notStarting
    | running => cases hadv : c.adv <;> simp [Cohort.tick, hst, hadv, hw] <;> omega
    | ending => cases hadv : c.adv <;> simp [Cohort.tick, hst, hadv, hw] <;> omega
    | preempted => cases hadv : c.adv <;> simp [Cohort.tick, hst, hadv, hw] <;> omega

theorem clocks_withCohorts {t : State} {c : Clocks} (h : clocks t = c) (m : SMap Cohort) :
    clocks { t with cohorts := m } = ⟨c.now, c.phase, m⟩ := h ▸ rfl

theorem custody_pf_wcyc (s : State) (k : Nat) : (s.custody k).pf = s.pf ∧ (s.custody k).wcyc = s.wcyc := by
  unfold State.custody
  split
  · exact ⟨rfl, rfl⟩
  · split
    · refine forAll_keeps (P := fun u => u.pf = s.pf ∧ u.wcyc = s.wcyc) ⟨rfl, rfl⟩ fun p _ t ht => ?_
      split <;> exact ht
    · exact ⟨rfl, rfl⟩

/-- The state in which the last phase ends, before the wall cycle is counted. -/
theorem finishCycle_eq (s : State) : ∃ u : State,
    s.finishCycle = { u with now := u.now + 1, wcyc := if u.pf.stage == 5 then u.wcyc + 1 else u.wcyc } ∧
    clocks u = ⟨s.now, s.phase, s.cohorts.map fun e => (e.1, e.2.tick)⟩ ∧ u.pf = s.pf ∧ u.wcyc = s.wcyc := by
  let t := forAll s.siteKeys s fun i s => s.modCore i fun c => { c with portBusy := [], ctx := c.ctx.tick s.now }
  have ticked : clocks t = clocks s := clocks_forAll _ _ _ fun _ _ => clocks_modCore _ _ _
  have cohorts : t.cohorts = s.cohorts := congrArg Clocks.cohorts ticked
  have kept : t.pf = s.pf ∧ t.wcyc = s.wcyc :=
    forAll_keeps (P := fun u => u.pf = s.pf ∧ u.wcyc = s.wcyc) ⟨rfl, rfl⟩ fun _ _ _ hu => hu
  refine ⟨_, rfl, ?_, ?_⟩
  · refine (clocks_forAll _ _ _ fun _ _ => clocks_custody _ _).trans ((clocks_withCohorts ticked _).trans ?_)
    exact congrArg (fun m : SMap Cohort => Clocks.mk s.now s.phase (m.map fun e => (e.1, e.2.tick))) cohorts
  · exact forAll_keeps (P := fun u => u.pf = s.pf ∧ u.wcyc = s.wcyc) kept fun k _ u hu =>
      ⟨(custody_pf_wcyc u k).1.trans hu.1, (custody_pf_wcyc u k).2.trans hu.2⟩

/-! ## One step -/

/-- What is due in this phase before it ends: an item of the inbox, a bundle, or an event. -/
theorem advance_of_event {s : State} {i : Instr} (h : s.event = some i) : s.advance = exec i s := by
  unfold State.advance
  cases hp : s.phase <;> simp [State.event, hp] at h ⊢ <;> simp [h]

theorem advance_of_arrived {s : State} {e : Nat × Input} (hp : s.phase = .inbox) (h : s.arrived = some e) :
    s.advance = s.receive e := by simp [State.advance, hp, h]

theorem advance_of_issuer {s : State} {i : Nat} (hp : s.phase = .issue) (h : s.issuer = some i) :
    s.advance = s.issueBundle i := by simp [State.advance, hp, h]

theorem advance_of_nothing {s : State} (he : s.event = none) (hi : s.phase = .inbox → s.arrived = none)
    (hs : s.phase = .issue → s.issuer = none) : s.advance = .next s.endPhase := by
  unfold State.advance
  cases hp : s.phase <;> simp [he, hi, hs, hp]

/-- A step is an item of the inbox, a bundle or an event, or the end of a phase. -/
theorem advance_cases (s : State) :
    SteadyOut (clocks s) s.advance ∧ s.phase ≠ .finish ∨ s.advance = .next s.endPhase := by
  have h := Steady.refl (clocks s)
  cases he : s.event with
  | some i =>
    refine .inl ⟨advance_of_event he ▸ steady_exec h i, fun hp => ?_⟩
    simp [State.event, hp] at he
  | none =>
    by_cases hi : s.phase = .inbox → s.arrived = none
    · by_cases hs : s.phase = .issue → s.issuer = none
      · exact .inr (advance_of_nothing he hi hs)
      · obtain ⟨hp, hs⟩ := Classical.not_imp.mp hs
        obtain ⟨i, hs⟩ := Option.ne_none_iff_exists'.mp hs
        exact .inl ⟨advance_of_issuer hp hs ▸ steady_issueBundle h i, by simp [hp]⟩
    · obtain ⟨hp, hi⟩ := Classical.not_imp.mp hi
      obtain ⟨e, hi⟩ := Option.ne_none_iff_exists'.mp hi
      exact .inl ⟨advance_of_arrived hp hi ▸ steady_receive h e, by simp [hp]⟩

/-- A step before the last phase leaves the wall cycle and the cohorts' counts, and ends at most its phase. -/
theorem step_steady {s t : State} (hf : s.phase ≠ .finish) (h : step s = .next t) :
    ∃ u, Steady (clocks s) (clocks u) ∧ (t = u ∨ t = { u with phase := s.endPhase.phase }) := by
  have h : s.advance = .next t := by
    unfold step at h
    split at h
    · cases h
    · exact h
  rcases advance_cases s with ⟨ok, -⟩ | hend
  · exact ⟨t, ok t h, .inl rfl⟩
  · obtain ⟨u, hu, ok⟩ := endPhase_steady s hf
    rw [hend, Host.Outcome.next.injEq] at h
    exact ⟨u, ok, .inr (h.symm.trans hu)⟩

/-- The last phase ends with the wall cycle. -/
theorem step_finish {s t : State} (hf : s.phase = .finish) (h : step s = .next t) :
    clocks t = ⟨s.now + 1, .inbox, s.cohorts.map fun e => (e.1, e.2.tick)⟩ ∧
    t.wcyc = if s.pf.stage = 5 then s.wcyc + 1 else s.wcyc := by
  have h : s.advance = .next t := by
    unfold step at h
    split at h
    · cases h
    · exact h
  have hend : s.advance = .next s.endPhase := (advance_cases s).resolve_left fun h => h.2 hf
  obtain ⟨u, hu, hc, hpf, hw⟩ := finishCycle_eq s
  have ht : t = { s.finishCycle with phase := .inbox } := by
    rw [hend, Host.Outcome.next.injEq] at h
    rw [← h, State.endPhase, hf]
  have hnow : u.now = s.now := congrArg Clocks.now hc
  have hcoh : u.cohorts = _ := congrArg Clocks.cohorts hc
  rw [ht, hu]
  simp [clocks, hnow, hcoh, hpf, hw]

/-- Settles O57: the cases of `State.advance`, and what each leaves of the clocks. -/
theorem stepsAreEventsOrPhases : Obligations.StepsAreEventsOrPhases := by
  unfold Obligations.StepsAreEventsOrPhases
  refine fun s => ⟨fun c hc => by simp [step, hc], fun hn => ⟨fun i he => ?_, fun e hp he => ?_, fun he hi hs => ?_⟩,
    fun t ht => ⟨fun hf => ?_, fun hf => ?_⟩⟩
  · simpa [step, hn] using advance_of_event he
  · simpa [step, hn] using advance_of_arrived hp he
  · simpa [step, hn] using advance_of_nothing he hi hs
  · obtain ⟨u, ok, rfl | rfl⟩ := step_steady hf ht
    · exact ⟨ok.now, .inl ok.phase⟩
    · exact ⟨ok.now, .inr rfl⟩
  · obtain ⟨hc, hw⟩ := step_finish hf ht
    exact ⟨congrArg Clocks.now hc, congrArg Clocks.phase hc, hw⟩

/-- Settles O56: every step but the last of a cycle is steady, and the last adds one to the sum (`clockOk_tick`). -/
theorem cohortClocksAddUp : Obligations.CohortClocksAddUp := by
  unfold Obligations.CohortClocksAddUp
  refine ⟨fun e he => absurd he List.not_mem_nil, fun s t ok ht => ?_⟩
  have ok : addUp (clocks s) := ok
  by_cases hf : s.phase = .finish
  · obtain ⟨hc, -⟩ := step_finish hf ht
    have : addUp (clocks t) := by
      rw [hc]
      intro e he
      obtain ⟨x, hx, rfl⟩ := List.mem_map.mp he
      exact clockOk_tick (ok x hx)
    exact this
  · obtain ⟨u, steady, rfl | rfl⟩ := step_steady hf ht
    · exact steady.ok ok
    · exact steady.ok ok

end Sys2Proof.Laws
end

section
/-! PROOFS. The events of one cohort (O46): what a record in a trace leaves as it is, what a pass over the members of
a cohort makes of each, and the events themselves. -/

namespace Sys2Proof.Laws

open Sys2Proof Sys2Proof.Machine

/-! ## Records -/

/-- From s to t there are records in the traces of cores, changes of partitions, and notes that the start of a hold
has been recorded; nothing else. -/
structure Recorded (s t : State) : Prop where
  core : ∀ i, ∃ x, t.core i = { s.core i with trace := x }
  coh : ∀ k c, s.coh? k = some c → ∃ said, t.coh? k = some { c with holdSaid := said }
  pchs : t.pchs = s.pchs
  banks : t.banks = s.banks
  sync : t.sync = s.sync
  host : t.host = s.host
  phase : t.phase = s.phase
  now : t.now = s.now

namespace Recorded

theorem refl (s : State) : Recorded s s :=
  ⟨fun i => ⟨(s.core i).trace, rfl⟩, fun _ c h => ⟨c.holdSaid, h⟩, rfl, rfl, rfl, rfl, rfl, rfl⟩

section
variable {s t : State} (h : Recorded s t)
include h

/-- A record in the trace of a core. -/
theorem trace (i : Nat) (f : Core → Trace) : Recorded s (t.modCore i fun c => { c with trace := f c }) where
  core j := by
    obtain ⟨x, hx⟩ := h.core j
    rw [core_modCore]
    split
    · next e => subst e; exact ⟨_, by rw [hx]⟩
    · exact ⟨x, hx⟩
  coh := h.coh
  pchs := h.pchs
  banks := h.banks
  sync := h.sync
  host := h.host
  phase := h.phase
  now := h.now

/-- A change of a partition. -/
theorem modPart (p : Nat) (f : Part → Part) : Recorded s (t.modPart p f) :=
  ⟨h.core, h.coh, h.pchs, h.banks, h.sync, h.host, h.phase, h.now⟩

theorem qtrCoh (c : Cohort) (type : Nat) (w2 w3 : Word) : Recorded s (t.qtrCoh c type w2 w3) := by
  unfold State.qtrCoh State.qtr
  exact h.modPart _ _

theorem traceRec (i kind slot payload : Nat) : Recorded s (t.traceRec i kind slot payload) := by
  unfold State.traceRec State.traceAt
  split
  · exact h
  · exact h.trace _ _

theorem traceCoh (c : Cohort) (kind payload d : Nat) : Recorded s (t.traceCoh c kind payload d) :=
  forAll_keeps h fun i _ _ hu => hu.trace i _

theorem qtrOften (p key : Nat) (r : Rec4) (len : Nat) : Recorded s (t.qtrOften p key r len) := by
  unfold State.qtrOften
  split <;> exact h.modPart _ _

theorem saidHold {k : Nat} {c : Cohort} (hc : t.coh? k = some c) (said : Bool) :
    Recorded s (t.setCoh k { c with holdSaid := said }) where
  core := h.core
  coh j d hd := by
    obtain ⟨was, ht⟩ := h.coh j d hd
    by_cases e : j = k
    · subst e
      obtain rfl := Option.some.inj (hc.symm.trans ht)
      exact ⟨said, coh?_setCoh_same _ _ _⟩
    · exact ⟨was, (coh?_setCoh_other _ _ e).trans ht⟩
  pchs := h.pchs
  banks := h.banks
  sync := h.sync
  host := h.host
  phase := h.phase
  now := h.now

theorem sayHold (k : Nat) : Recorded s (t.sayHold k) := by
  unfold State.sayHold
  split
  · exact h
  · next c hc =>
    split
    · exact h
    · split
      · exact h
      · exact (h.saidHold hc true).traceCoh _ _ _ _

theorem sayRelease (k : Nat) : Recorded s (t.sayRelease k) := by
  unfold State.sayRelease
  split
  · exact h
  · split
    · exact h
    · dsimp only
      split
      · exact h.traceCoh _ _ _ _
      · split
        · exact h
        · exact ((h.sayHold k).traceCoh _ _ _ _).qtrOften _ _ _ _

theorem noteCause (k cause : Nat) : Recorded s (t.noteCause k cause) := by
  unfold State.noteCause
  split
  · exact h
  · exact h.modPart _ _

theorem noteFault (i k cause : Nat) : Recorded s (t.noteFault i k cause) := by
  unfold State.noteFault
  dsimp only
  split
  · exact h.noteCause k cause
  · next c _ => exact ((h.noteCause k cause).qtrCoh c _ _ _).qtrCoh c _ _ _

theorem ctx (i : Nat) : t.ctx i = s.ctx i := by
  obtain ⟨x, hx⟩ := h.core i
  simp [State.ctx, hx]

theorem pch (p : Nat) : t.pch p = s.pch p := by simp [State.pch, h.pchs]

theorem bank (i : Nat) : t.bank i = s.bank i := by simp [State.bank, h.banks]

theorem sameMemory : SameMemory s t where
  spad i a := by
    obtain ⟨x, hx⟩ := h.core i
    simp [State.spadByte, hx]
  tile i a := by simp [State.tileByte, h.ctx]
  dram p a := by simp [State.dramByte, h.pch]
  staged p a := by simp [State.stagedByte, h.pch]
  sync a := by rw [h.sync]
  host a := by rw [h.host]

end

end Recorded

/-! ## Passes over members and pseudo-channels -/

/-- A pass that visits each place once makes its change at a place that it visits from what was there before. -/
theorem forAll_nodup {P Q : State → Prop} {l : List α} {f : α → State → State} {s : State} {x : α}
    (once : l.Nodup) (hx : x ∈ l) (h : Q s) (before : ∀ y t, y ≠ x → Q t → Q (f y t)) (make : ∀ t, Q t → P (f x t))
    (after : ∀ y t, y ≠ x → P t → P (f y t)) : P (forAll l s f) := by
  unfold forAll
  induction l generalizing s with
  | nil => cases hx
  | cons y l ih =>
    obtain ⟨hy, once⟩ := List.nodup_cons.mp once
    rcases List.mem_cons.mp hx with rfl | hx
    · exact forAll_keeps (l := l) (make s h) fun z hz t ht => after z t (fun e => hy (e ▸ hz)) ht
    · exact ih once hx (before y s (fun e => hy (e ▸ hx)) h)

/-- A change of pseudo-channels that leaves their memories. -/
theorem sameMemory_modPch {s t : State} (h : SameMemory s t) (p : Nat) (f : Pch → Pch)
    (mem : ∀ x, (f x).mem = x.mem) (lines : ∀ x, (f x).lines = x.lines) : SameMemory s (t.modPch p f) :=
  sameMemory_trans h
    { spad := fun _ _ => rfl, tile := fun _ _ => rfl
      dram := fun q a => by simp only [State.dramByte, pch_modPch]; split <;> simp_all
      staged := fun q a => by simp only [State.stagedByte, pch_modPch]; split <;> simp_all
      sync := fun _ => rfl, host := fun _ => rfl }

/-- What a pass over pseudo-channels makes of one that it visits, if it makes the same of a visited one again. -/
theorem forAll_modPch {R : Pch → Prop} {l : List Nat} {f : Pch → Pch} (s : State) {p : Nat} (hp : p ∈ l)
    (make : ∀ x, R (f x)) : R ((forAll l s fun p s => s.modPch p f).pch p) := by
  refine forAll_reaches (I := fun _ => True) (P := fun t => R (t.pch p)) hp trivial (fun _ _ _ => trivial)
    (fun t _ => ?_) fun q t _ ht => ?_
  · simpa using make _
  · rw [pch_modPch]
    split
    · exact make _
    · exact ht

/-! ## Start (R81) -/

theorem exec_startAlignment (k : Nat) (s : State) : exec (.startAlignment k) s = .next (s.startAlign k) := by rfl

/-- A cohort as it starts. -/
def started (c : Cohort) (now : Nat) : Cohort :=
  { c with st := .running, w0 := some now, ccyc := 0, relCcyc := 0, holds := []
           holdStart := none, holdSaid := false, resuming := false, releaseAt := none }

/-- A guard's copy of its pseudo-channel as cohort cycle 0 begins. -/
def freshGuard (x : Pch) : Pch :=
  { x with banks := [], acts := [], cols := [], lastRd := none, lastWr := none, lastRef := none
           rowAt := none, colAt := none, custody := none, frame := none }

/-- The state of a start before the scratchpad data is placed. -/
def startGuards (s : State) (k : Nat) (c : Cohort) : State :=
  forAll c.pchs ((s.sayRelease k).setCoh k (started c s.now)) fun p s => s.modPch p freshGuard

theorem placeData_ctx (c : Core) (m : Image) (pchs : List Nat) (shape i : Nat) :
    (c.placeData m pchs shape i).ctx = c.ctx := by
  unfold Core.placeData
  generalize m.data.filter _ = l
  induction l generalizing c with
  | nil => rfl
  | cons d l ih => exact ih _

/-- A start places scratchpad data, and nothing else, in what the guards have. -/
theorem startAlign_keeps {s : State} {k : Nat} {c : Cohort} {P : State → Prop} (hc : s.coh? k = some c)
    (hd : s.startDue k = true) (h : P (startGuards s k c))
    (place : ∀ t i f, (∀ x : Core, (f x).ctx = x.ctx) → P t → P (t.modCore i f)) : P (s.startAlign k) := by
  unfold State.startAlign
  simp only [hc, hd, Bool.not_true, Bool.false_eq_true, if_false]
  split
  · exact h
  · exact forAll_keeps h fun e _ t ht => place t e.1 _ (fun x => placeData_ctx x _ _ _ _) ht

theorem startGuards_coh (s : State) (k : Nat) (c : Cohort) :
    (startGuards s k c).coh? k = some (started c s.now) := by
  unfold startGuards
  refine forAll_keeps (P := fun t => t.coh? k = some (started c s.now)) ?_ fun _ _ _ ht => ht
  exact coh?_setCoh_same _ _ _

theorem startGuards_ctx (s : State) (k i : Nat) (c : Cohort) : (startGuards s k c).ctx i = s.ctx i := by
  unfold startGuards
  exact forAll_keeps (P := fun t => t.ctx i = s.ctx i) ((Recorded.refl s).sayRelease k |>.ctx i) fun _ _ _ ht => ht

theorem startGuards_mem (s : State) (k p : Nat) (c : Cohort) : ((startGuards s k c).pch p).mem = (s.pch p).mem := by
  unfold startGuards
  refine forAll_keeps (P := fun t => (t.pch p).mem = (s.pch p).mem) ?_ fun q _ t ht => ?_
  · exact congrArg Pch.mem ((Recorded.refl s).sayRelease k |>.pch p)
  · rw [pch_modPch]
    split
    · next e => subst e; exact ht
    · exact ht

theorem startGuards_guard (s : State) (k : Nat) (c : Cohort) {p : Nat} (hp : p ∈ c.pchs) :
    ((startGuards s k c).pch p).custody = none ∧ ((startGuards s k c).pch p).banks = [] :=
  forAll_modPch (R := fun x => x.custody = none ∧ x.banks = []) _ hp fun _ => ⟨rfl, rfl⟩

/-- R81: cohort cycle 0 begins. -/
theorem startAlign_spec {s : State} {k : Nat} {c : Cohort} (hc : s.coh? k = some c) (hd : s.startDue k = true) :
    ∃ t, exec (.startAlignment k) s = .next t ∧
      (∃ d, t.coh? k = some d ∧ d.st = .running ∧ d.w0 = some s.now ∧ d.ccyc = 0 ∧ d.holdStart = none) ∧
      (∀ i, t.ctx i = s.ctx i) ∧
      ∀ p ∈ c.pchs, (t.pch p).mem = (s.pch p).mem ∧ (t.pch p).custody = none ∧
        ∀ b, (t.pch p).bankTime b = BankTime.reset := by
  refine ⟨_, exec_startAlignment k s, ⟨started c s.now, ?_, rfl, rfl, rfl, rfl⟩, fun i => ?_, fun p hp => ?_⟩
  · exact startAlign_keeps (P := fun t => t.coh? k = _) hc hd (startGuards_coh s k c) fun _ _ _ _ ht => ht
  · refine startAlign_keeps (P := fun t => t.ctx i = s.ctx i) hc hd (startGuards_ctx s k i c) fun t j f hf ht => ?_
    rw [State.ctx, core_modCore]
    split
    · next e => subst e; exact (hf _).trans ht
    · exact ht
  · have pch : (s.startAlign k).pch p = (startGuards s k c).pch p :=
      startAlign_keeps (P := fun t => t.pch p = _) hc hd rfl fun _ _ _ _ ht => ht
    obtain ⟨custody, banks⟩ := startGuards_guard s k c hp
    rw [pch]
    exact ⟨startGuards_mem s k p c, custody, fun b => by rw [Pch.bankTime, banks]; rfl⟩

/-! ## Release (R78, R229, R294) -/

theorem exec_holdRelease (k : Nat) (s : State) : exec (.holdRelease k) s = .next (s.release1 k) := by rfl

theorem handBack_tile (c : Ctx) : c.handBack.tile = c.tile := by
  unfold Ctx.handBack
  split
  · rfl
  · dsimp only
    split
    · rfl
    · split <;> rfl

/-- The members' handlers give way, and no byte of memory changes. -/
theorem sameMemory_handBack (l : List Nat) (s : State) :
    SameMemory s (forAll l s fun i s => s.modCtx i Ctx.handBack) :=
  forAll_keeps (sameMemory_refl s) fun i _ _ ht =>
    sameMemory_modCore ht i (fun c => { c with ctx := c.ctx.handBack }) rfl (handBack_tile _)

theorem handBack_coh (l : List Nat) (s : State) (k : Nat) :
    (forAll l s fun i s => s.modCtx i Ctx.handBack).coh? k = s.coh? k :=
  forAll_keeps (P := fun t => t.coh? k = s.coh? k) rfl fun _ _ _ ht => ht

/-- A trapped bundle that had issued stands in its handler's place. -/
theorem handBack_of_mustResume {c : Ctx} (h : c.mustResume = true) :
    c.handBack.pc = c.taddr.extractLsb' 0 54 ∧ c.handBack.resumed = true ∧ c.handBack.handBack = c.handBack := by
  unfold Ctx.mustResume at h
  split at h
  · next hd e =>
    obtain ⟨issued, resuming⟩ := Bool.and_eq_true_iff.mp h
    rw [Bool.not_eq_true'] at resuming
    simp [Ctx.handBack, Ctx.resume, e, issued, resuming, BitVec.setWidth_eq_extractLsb']
  · cases h

/-- R294: each member whose trapped bundle is to issue stands at that bundle. -/
theorem handBack_ctx {l : List Nat} {s : State} {i : Nat} (hi : i ∈ l) (h : (s.ctx i).mustResume = true) :
    (forAll l s fun i s => s.modCtx i Ctx.handBack).ctx i = (s.ctx i).handBack := by
  obtain ⟨-, -, again⟩ := handBack_of_mustResume h
  refine forAll_reaches (I := fun t => t.ctx i = s.ctx i ∨ t.ctx i = (s.ctx i).handBack)
    (P := fun t => t.ctx i = (s.ctx i).handBack) hi (.inl rfl) (fun j t ht => ?_) (fun t ht => ?_) fun j t _ ht => ?_
  · by_cases e : i = j
    · subst e
      rw [ctx_modCtx_same]
      exact .inr (ht.elim (fun e => by rw [e]) fun e => by rw [e, again])
    · simpa only [ctx_modCtx_other t _ e] using ht
  · rw [ctx_modCtx_same]
    exact ht.elim (fun e => by rw [e]) fun e => by rw [e, again]
  · by_cases e : i = j
    · subst e; rw [ctx_modCtx_same, ht, again]
    · rwa [ctx_modCtx_other t _ e]

section
variable {s : State} {k : Nat} {c : Cohort} (hc : s.coh? k = some c) (hd : s.releaseDue k = true)
include hc hd

/-- R229: the release, where no trapped bundle is to issue. -/
theorem release1_goes (h : ∀ i ∈ c.members, (s.ctx i).mustResume = false) :
    ∃ t, exec (.holdRelease k) s = .next t ∧
      (∃ d, t.coh? k = some d ∧ d.holdStart = none ∧ d.releaseAt = none ∧ d.ccyc = c.ccyc ∧ d.relCcyc = c.ccyc) ∧
      (∀ p ∈ c.pchs, (t.pch p).custody = none) ∧ SameMemory s t := by
  have none : (c.members.any fun i => (s.ctx i).mustResume) = false := by simpa using h
  have back := handBack_coh c.members s k
  have said := (Recorded.refl (forAll c.members s fun i s => s.modCtx i Ctx.handBack)).sayRelease k
  obtain ⟨z, coh⟩ := said.coh k c (back.trans hc)
  have run : s.release1 k = forAll c.pchs
      (((forAll c.members s fun i s => s.modCtx i Ctx.handBack).sayRelease k).setCoh k
        { c with holdSaid := false, holdStart := .none, resuming := false, releaseAt := .none, relCcyc := c.ccyc })
      fun p s => s.modPch p fun x => { x with custody := .none } := by
    simp only [State.release1, hc, hd, none, Bool.not_true, Bool.false_eq_true, if_false, State.modCoh, coh]
  refine ⟨_, exec_holdRelease k s, ⟨{ c with
      holdSaid := false, holdStart := .none, resuming := false, releaseAt := .none, relCcyc := c.ccyc },
    ?_, rfl, rfl, rfl, rfl⟩, fun p hp => ?_, ?_⟩
  · rw [run]
    exact forAll_keeps (P := fun t => t.coh? k = some _) (coh?_setCoh_same _ _ _) fun _ _ _ ht => ht
  · rw [run]
    exact forAll_modPch (R := fun x => x.custody = .none) _ hp fun _ => rfl
  · rw [run]
    exact forAll_keeps (sameMemory_setCoh (sameMemory_trans (sameMemory_handBack _ s) said.sameMemory) _ _)
      fun p _ _ ht => sameMemory_modPch ht p _ (fun _ => rfl) fun _ => rfl

/-- R294: the rest of the trapped bundles issues first, still held. -/
theorem release1_resumes (h : ∃ i ∈ c.members, (s.ctx i).mustResume = true) :
    ∃ t, exec (.holdRelease k) s = .next t ∧
      (∃ d, t.coh? k = some d ∧ d.holdStart = c.holdStart ∧ d.releaseAt = some (s.now + 1)) ∧
      (∀ i ∈ c.members, (s.ctx i).mustResume = true →
        (t.ctx i).pc = (s.ctx i).taddr.extractLsb' 0 54 ∧ (t.ctx i).resumed = true) ∧ SameMemory s t := by
  have some : (c.members.any fun i => (s.ctx i).mustResume) = true := by simpa using h
  let l := c.members.filter fun i => (s.ctx i).mustResume
  have now : (forAll l s fun i s => s.modCtx i Ctx.handBack).now = s.now :=
    forAll_keeps (P := fun t => t.now = s.now) rfl fun _ _ _ ht => ht
  have run : s.release1 k = (forAll l s fun i s => s.modCtx i Ctx.handBack).setCoh k
      { c with releaseAt := .some (s.now + 1) } := by
    simp only [State.release1, hc, hd, some, Bool.not_true, Bool.false_eq_true, if_false, if_true]
    rw [now]
  refine ⟨_, exec_holdRelease k s, ⟨{ c with releaseAt := .some (s.now + 1) }, ?_, rfl, rfl⟩, fun i hi hm => ?_, ?_⟩
  · rw [run]; exact coh?_setCoh_same _ _ _
  · have ctx : (s.release1 k).ctx i = (s.ctx i).handBack := by
      rw [run]; exact handBack_ctx (List.mem_filter.mpr ⟨hi, hm⟩) hm
    rw [ctx]
    obtain ⟨pc, resumed, -⟩ := handBack_of_mustResume hm
    exact ⟨pc, resumed⟩
  · rw [run]; exact sameMemory_setCoh (sameMemory_handBack l s) _ _
end

/-! ## The latency class (R185) -/

theorem exec_latencyClass (k : Nat) (s : State) : exec (.latencyClass k) s = .next (s.latencyTrap k) := by rfl

theorem getLsbD_setBits (w : Word) {hi lo v j : Nat} (hj : j < 64) :
    (setBits w hi lo v).getLsbD j = if lo ≤ j ∧ j ≤ hi then v.testBit (j - lo) else w.getLsbD j := by
  have mask : ((2 ^ (hi + 1 - lo) - 1) * 2 ^ lo).testBit j = decide (lo ≤ j ∧ j ≤ hi) := by
    rw [Nat.testBit_mul_two_pow, Nat.testBit_two_pow_sub_one, ← Bool.decide_and]
    exact decide_eq_decide.mpr (by omega)
  simp only [setBits, BitVec.getLsbD_or, BitVec.getLsbD_and, BitVec.getLsbD_not, BitVec.getLsbD_ofNat, hj, mask,
    decide_true, Bool.true_and, Nat.testBit_mul_two_pow]
  split
  · next e => simp [e]
  · next e => simp [e]

theorem testBit_bits (w : BitVec n) (hi lo j : Nat) :
    (bits w hi lo).testBit j = (decide (j < hi + 1 - lo) && w.getLsbD (lo + j)) := by
  rw [bits, Nat.testBit_mod_two_pow, Nat.testBit_div_two_pow, BitVec.getLsbD, Nat.add_comm j lo]

/-- A field after a write to it. -/
theorem bits_setBits_same (w : Word) {hi lo v : Nat} (h : hi < 64) (hv : v < 2 ^ (hi + 1 - lo)) :
    bits (setBits w hi lo v) hi lo = v := by
  refine Nat.eq_of_testBit_eq fun j => ?_
  rw [testBit_bits]
  by_cases hj : j < hi + 1 - lo
  · rw [getLsbD_setBits w (by omega), if_pos (by omega)]
    simp [hj]
  · rw [Nat.testBit_lt_two_pow (Nat.lt_of_lt_of_le hv (Nat.pow_le_pow_right (by decide) (by omega)))]
    simp [hj]

/-- A field after a write to bits outside it. -/
theorem bits_setBits_other (w : Word) {hi lo hi' lo' v : Nat} (h : hi < 64) (apart : hi < lo' ∨ hi' < lo) :
    bits (setBits w hi' lo' v) hi lo = bits w hi lo := by
  refine Nat.eq_of_testBit_eq fun j => ?_
  rw [testBit_bits, testBit_bits]
  by_cases hj : j < hi + 1 - lo
  · rw [getLsbD_setBits w (by omega), if_neg (by omega)]
  · simp [hj]

/-- TSTAT shows the cause of the trap (R286). -/
theorem trapRegs_cause (c : Ctx) (t : Trap) (h : t.cause < 256) : bits (c.trapRegs t).tstat 23 16 = t.cause := by
  rw [Ctx.trapRegs, bits_setBits_other _ (by decide) (by decide), bits_setBits_other _ (by decide) (by decide),
    bits_setBits_same _ (by decide) h]

/-- The end of a node leaves what a trap has written of a context. -/
structure SameTrap (c d : Ctx) : Prop where
  tstat : d.tstat = c.tstat
  tval : d.tval = c.tval

theorem dropWaiting_trap (c : Core) (k : Nat) : SameTrap c.ctx (c.dropWaiting k).ctx := by
  unfold Core.dropWaiting
  dsimp only
  split
  · generalize c.uops.filter _ = l
    generalize hx : c.ctx = x
    clear hx
    induction l generalizing x with
    | nil => exact ⟨rfl, rfl⟩
    | cons u l ih =>
      rw [List.foldl_cons]
      obtain ⟨tstat, tval⟩ := ih _
      refine ⟨tstat.trans ?_, tval.trans ?_⟩
      · split
        · split <;> rfl
        · rfl
      · split
        · split <;> rfl
        · rfl
  · exact ⟨rfl, rfl⟩

theorem stop_trap (c : Core) (k : Nat) : SameTrap c.ctx (c.stop k).ctx := by
  unfold Core.stop
  dsimp only
  split
  · exact dropWaiting_trap c k
  · exact ⟨(dropWaiting_trap c k).tstat, (dropWaiting_trap c k).tval⟩

/-- A cohort as its node ends. -/
def endingNode (c : Cohort) (r : Option Requeue) (status : Option Nat) (late : Bool) : Cohort :=
  { c with st := .ending, holds := [], holdStart := none, holdSaid := false, resuming := false
           releaseAt := none, requeue := r, status := status, adv := late && c.adv }

theorem modCore_trap {s t : State} {i : Nat} (h : SameTrap (s.ctx i) (t.ctx i)) (j : Nat) (f : Core → Core)
    (hf : ∀ x, SameTrap x.ctx (f x).ctx) : SameTrap (s.ctx i) ((t.modCore j f).ctx i) := by
  simp only [State.ctx, core_modCore] at h ⊢
  split
  · next e => subst e; exact ⟨(hf _).tstat.trans h.tstat, (hf _).tval.trans h.tval⟩
  · exact h

/-- R93, R306: a node that runs ends, with its requeue; the trap registers stay. -/
theorem endNode_spec {s : State} {k : Nat} {c : Cohort} (hc : s.coh? k = some c) (run : c.st ≠ .ending)
    (r : Option Requeue) (status : Option Nat) :
    (s.endNode k r status).coh? k = some (endingNode c r status (s.phase == .issue)) ∧
      ∀ i, SameTrap (s.ctx i) ((s.endNode k r status).ctx i) := by
  have said := (Recorded.refl s).sayRelease k
  simp only [State.endNode, hc, beq_iff_eq, run, if_false]
  refine ⟨forAll_keeps (P := fun t => t.coh? k = some _) ?_ fun _ _ _ ht => ht, fun i =>
    forAll_keeps (P := fun t => SameTrap (s.ctx i) (t.ctx i)) ?_ fun _ _ _ ht => ht⟩
  · split
    · exact coh?_setCoh_same _ _ _
    · exact forAll_keeps (P := fun t => t.coh? k = some _) (coh?_setCoh_same _ _ _) fun _ _ _ ht => ht
  · have same : SameTrap (s.ctx i) ((s.sayRelease k).ctx i) := by rw [said.ctx]; exact ⟨rfl, rfl⟩
    split
    · exact modCore_trap (t := (s.sayRelease k).setCoh k _) same _
        (fun x => { x with ctx := { x.ctx with ready := false } }) fun _ => ⟨rfl, rfl⟩
    · exact forAll_keeps (P := fun t => SameTrap (s.ctx i) (t.ctx i)) same fun j _ t ht =>
        modCore_trap ht j _ (stop_trap · k)

/-- The trap of the latency class at a member: its record, and its registers. -/
def latencyRegs (site i : Nat) (s : State) : State :=
  (s.traceRec i 8 0 0x12).modCtx i (·.trapRegs
    { cause := 0x12, sres := 0, slot := 0, tval := BitVec.ofNat 64 site, pc := (s.ctx i).pc, rep := (s.ctx i).rpos
      issued := false, erring := 0 })

/-- What the trap of the latency class shows (R185). -/
def ShowsLatency (site i : Nat) (t : State) : Prop :=
  bits (t.ctx i).tstat 23 16 = 0x12 ∧ (t.ctx i).tval = BitVec.ofNat 64 site

theorem latencyRegs_self (site i : Nat) (t : State) : ShowsLatency site i (latencyRegs site i t) := by
  rw [ShowsLatency, latencyRegs, ctx_modCtx_same]
  exact ⟨trapRegs_cause _ _ (show 0x12 < 256 by decide), rfl⟩

theorem latencyRegs_keeps {site i j : Nat} {t : State} (h : ShowsLatency site i t) :
    ShowsLatency site i (latencyRegs site j t) := by
  by_cases e : i = j
  · subst e; exact latencyRegs_self site i t
  · have said := (Recorded.refl t).traceRec j 8 0 0x12
    rwa [ShowsLatency, latencyRegs, ctx_modCtx_other _ _ e, said.ctx]

theorem forAll_latencyRegs {l : List Nat} {site i : Nat} (s : State) (hi : i ∈ l) :
    ShowsLatency site i (forAll l s (latencyRegs site)) :=
  forAll_reaches (I := fun _ => True) hi trivial (fun _ _ _ => trivial) (fun t _ => latencyRegs_self site i t)
    fun _ _ _ => latencyRegs_keeps

/-- A cohort as it was, but for whether its hold is recorded. -/
def SameCoh (k : Nat) (c : Cohort) (t : State) : Prop := ∃ said, t.coh? k = some { c with holdSaid := said }

theorem SameCoh.recorded {k : Nat} {c : Cohort} {s t : State} (h : SameCoh k c s) (r : Recorded s t) :
    SameCoh k c t := by
  obtain ⟨_, h⟩ := h
  obtain ⟨said, h⟩ := r.coh k _ h
  exact ⟨said, h⟩

theorem SameCoh.latencyRegs {k site i : Nat} {c : Cohort} {s : State} (h : SameCoh k c s) :
    SameCoh k c (latencyRegs site i s) :=
  SameCoh.recorded (t := s.traceRec i 8 0 0x12) h ((Recorded.refl s).traceRec i 8 0 0x12)

/-- R185: the members that still issue take the trap, and the node is requeued. -/
theorem latencyTrap_spec {s : State} {k site : Nat} {c : Cohort} (hc : s.coh? k = some c)
    (hd : s.latencyDue k = some site) (live : ∃ i ∈ c.members, (s.ctx i).halted = false) :
    ∃ t, exec (.latencyClass k) s = .next t ∧
      (∃ d, t.coh? k = some d ∧ d.st = .ending ∧ d.requeue = some .half) ∧
      ∀ i ∈ c.members, (s.ctx i).halted = false →
        bits (t.ctx i).tstat 23 16 = 0x12 ∧ (t.ctx i).tval = BitVec.ofNat 64 site := by
  have run : c.st = .running := by
    simp only [State.latencyDue, hc] at hd
    split at hd
    · next e => simp_all
    · cases hd
  let s1 := s.modCtx site fun x => { x with bev := x.bev.filter (·.kind != .latencyClass) }
  have halted (i : Nat) : (s1.ctx i).halted = (s.ctx i).halted := by
    by_cases e : i = site
    · subst e; simp [s1]
    · simp [s1, ctx_modCtx_other _ _ e]
  have mem {i : Nat} : i ∈ c.members.filter (fun i => !(s1.ctx i).halted) ↔
      i ∈ c.members ∧ (s.ctx i).halted = false := by simp [halted]
  obtain ⟨m, r, hl⟩ : ∃ m r, c.members.filter (fun i => !(s1.ctx i).halted) = m :: r := by
    obtain ⟨i, hi, hh⟩ := live
    exact List.exists_cons_of_ne_nil (List.ne_nil_of_mem (mem.mpr ⟨hi, hh⟩))
  let s2 := forAll (m :: r) s1 (latencyRegs site)
  have eq : s.latencyTrap k = (s2.noteFault m k 0x12).endNode k (some .half) none := by
    simp only [State.latencyTrap, hc, hd, s1] at hl ⊢
    rw [hl]
    rfl
  have noted := (Recorded.refl s2).noteFault m k 0x12
  have coh : SameCoh k c s2 :=
    forAll_keeps (P := SameCoh k c) ⟨c.holdSaid, hc⟩ fun _ _ _ ht => ht.latencyRegs
  obtain ⟨said, hs⟩ := coh.recorded noted
  obtain ⟨ends, regs⟩ := endNode_spec hs (by simp [run]) (some .half) none
  refine ⟨_, exec_latencyClass k s, ⟨_, eq ▸ ends, rfl, rfl⟩, fun i hi hh => ?_⟩
  obtain ⟨cause, tval⟩ := forAll_latencyRegs (site := site) s1 (hl ▸ mem.mpr ⟨hi, hh⟩ : i ∈ m :: r)
  obtain ⟨st, tv⟩ := regs i
  rw [noted.ctx] at st tv
  rw [eq, st, tv]
  exact ⟨cause, tval⟩

/-! ## Pre-emption (R296 to R298) -/

theorem exec_preempt (k : Nat) (s : State) : exec (.preempt k) s = .next (s.preemptNow k) := by rfl

/-- A context as pre-emption puts it away. -/
def savedAs (k : Nat) (x : Core) (b : Bank) : Saved :=
  { coh := k, ctx := x.ctx.shelve, cid := x.cid, locks := x.locks, handlerPc := x.handlerPc
    entryPc := x.entryPc, half := b.half, therm := b.therm, evicted := false, spad := [], bad := [] }

/-- A member gives up its core. -/
def vacateMember (k i : Nat) (s : State) : State :=
  (s.traceRec i 11 0 0).modCore i fun x =>
    { x with shadow := putAway x.shadow (savedAs k x (s.bank i)), run := .free, locks := [] }

theorem putAway_eq (l : List Saved) (x : Saved) : ∃ r, putAway l x = x :: r := ⟨_, rfl⟩

theorem vacateMember_other {k i j : Nat} (s : State) (h : j ≠ i) : (vacateMember k i s).core j = s.core j := by
  rw [vacateMember, core_modCore_other _ _ h]
  unfold State.traceRec State.traceAt
  split
  · rfl
  · exact core_modCore_other _ _ h

theorem vacateMember_banks (k i : Nat) (s : State) : (vacateMember k i s).banks = s.banks :=
  ((Recorded.refl s).traceRec i 11 0 0).banks

/-- A core that gave up its context, as the statement of pre-emption has it. -/
def Vacated (k i : Nat) (s t : State) : Prop :=
  (t.core i).run = .free ∧ (t.core i).spad = (s.core i).spad ∧
    ∃ x l, (t.core i).shadow = x :: l ∧ x.coh = k ∧ x.ctx = (s.ctx i).shelve ∧ x.cid = (s.core i).cid ∧
      x.locks = (s.core i).locks ∧ x.handlerPc = (s.core i).handlerPc ∧ x.entryPc = (s.core i).entryPc ∧
      x.half = (s.bank i).half ∧ x.therm = (s.bank i).therm

theorem vacateMember_self {k i : Nat} {s t : State} (core : t.core i = s.core i) (banks : t.banks = s.banks) :
    Vacated k i s (vacateMember k i t) := by
  obtain ⟨x, hx⟩ := ((Recorded.refl t).traceRec i 11 0 0).core i
  have bank : t.bank i = s.bank i := by simp [State.bank, banks]
  rw [Vacated, vacateMember, core_modCore_same, hx, core, bank]
  obtain ⟨r, hr⟩ := putAway_eq (s.core i).shadow (savedAs k { s.core i with trace := x } (s.bank i))
  exact ⟨rfl, rfl, _, r, hr, rfl, rfl, rfl, rfl, rfl, rfl, rfl, rfl⟩

/-- Every member of the cohort gives up its core, once. -/
theorem forAll_vacate {l : List Nat} {k i : Nat} (s : State) (once : l.Nodup) (hi : i ∈ l) :
    Vacated k i s (forAll l s (vacateMember k)) := by
  refine forAll_nodup (Q := fun t => t.core i = s.core i ∧ t.banks = s.banks) once hi ⟨rfl, rfl⟩
    (fun j t e h => ?_) (fun t h => vacateMember_self h.1 h.2) fun j t e h => ?_
  · exact ⟨(vacateMember_other t e.symm).trans h.1, (vacateMember_banks k j t).trans h.2⟩
  · rwa [Vacated, vacateMember_other t e.symm]

/-- R296 to R298: the members' contexts move into shadow slots, and the guards take custody. -/
theorem preemptNow_spec {s : State} {k : Nat} {c : Cohort} (hc : s.coh? k = some c) (hd : s.preemptDue k = true)
    (fits : ∀ i ∈ c.members, s.afterglow i ≤ 96) (once : c.members.Nodup) :
    ∃ t, exec (.preempt k) s = .next t ∧
      (∃ d, t.coh? k = some d ∧ d.st = .preempted ∧ d.ccyc = c.ccyc) ∧
      (∀ i ∈ c.members, Vacated k i s t) ∧
      (∀ p ∈ c.pchs, (t.pch p).custody.isSome = true) ∧
      ∀ i, i ∉ c.members → t.core i = s.core i := by
  have fit : (c.members.find? fun i => s.afterglow i > 96) = none := by
    rw [List.find?_eq_none]
    intro i hi
    simpa using fits i hi
  let s1 := forAll c.members s.later.2 (vacateMember k)
  let d := { c with st := .preempted, turn := false, adv := false, wdogUsed := s1.wdogCount c, restart := s.later.1 }
  let guard : Pch → Pch := fun x => x.take c.ccyc (s1.setCoh k d).now
  have eq : s.preemptNow k = forAll c.pchs (s1.setCoh k d) fun p s => s.modPch p (·.take c.ccyc s.now) := by
    simp only [State.preemptNow, hc, hd, fit, Bool.not_true, Bool.false_eq_true, if_false]
    rfl
  have core (i : Nat) : (s.preemptNow k).core i = s1.core i := by
    rw [eq]
    exact forAll_keeps (P := fun t => t.core i = s1.core i) rfl fun _ _ _ ht => ht
  refine ⟨_, exec_preempt k s, ⟨d, ?_, rfl, rfl⟩, fun i hi => ?_, fun p hp => ?_, fun i hi => ?_⟩
  · rw [eq]
    exact forAll_keeps (P := fun t => t.coh? k = some d) (coh?_setCoh_same _ _ _) fun _ _ _ ht => ht
  · rw [Vacated, core]
    exact forAll_vacate s.later.2 once hi
  · rw [eq]
    refine forAll_reaches (I := fun _ => True) (P := fun t => (t.pch p).custody.isSome = true) hp trivial
      (fun _ _ _ => trivial) (fun t _ => ?_) fun q t _ ht => ?_
    · rw [pch_modPch_same]; rfl
    · rw [pch_modPch]
      split
      · rfl
      · exact ht
  · rw [core]
    exact forAll_keeps (P := fun t => t.core i = s.core i) rfl fun j hj t ht =>
      (vacateMember_other t (ne_of_mem_of_not_mem hj hi).symm).trans ht

/-! ## Resumption (R187, R190, R229) -/

theorem exec_resume (k : Nat) (s : State) : exec (.resume k) s = .next (s.resumeNow k) := by rfl

/-- Group g with OWN as the groups of an image give it. -/
def ownWord (l : List GroupRec) (g : Nat) (w : Word) : Word :=
  setBits w 26 26 (l.any fun r => r.grp == g && r.owns && grpValid w).toNat

theorem ownGroups_eq (b : Bank) (l : List GroupRec) : (b.ownGroups l).xgrp =
    (List.range 64).foldl (fun m g => SMap.put m 0 g (ownWord l g (SMap.get m 0 g))) b.xgrp := rfl

/-- Each group of the bank is changed once. -/
theorem ownGroups_grp (b : Bank) (l : List GroupRec) {g : Nat} (hg : g < 64) :
    (b.ownGroups l).grp g = ownWord l g (b.grp g) := by
  rw [Bank.grp, ownGroups_eq, Bank.grp]
  have fold (r : List Nat) (m : SMap Word) (once : r.Nodup) :
      SMap.get (r.foldl (fun m g => SMap.put m 0 g (ownWord l g (SMap.get m 0 g))) m) 0 g =
        if g ∈ r then ownWord l g (SMap.get m 0 g) else SMap.get m 0 g := by
    induction r generalizing m with
    | nil => simp
    | cons j r ih =>
      obtain ⟨hj, once⟩ := List.nodup_cons.mp once
      rw [List.foldl_cons, ih _ once]
      by_cases e : g = j
      · subst e; simp [hj]
      · simp [e, get_put_other _ _ _ e]
  rw [fold _ _ List.nodup_range, if_pos (List.mem_range.mpr hg)]

/-- R166, R190: OWN of a valid group says whether the image owns it. -/
theorem ownGroups_own (b : Bank) (l : List GroupRec) {g : Nat} (hg : g < 64) (valid : grpValid (b.grp g) = true) :
    grpOwn ((b.ownGroups l).grp g) = true ↔ ∃ r ∈ l, r.grp = g ∧ r.owns = true := by
  rw [ownGroups_grp b l hg, grpOwn, bitAt_eq_getLsbD, ownWord, getLsbD_setBits _ (by decide), if_pos (by decide)]
  simp only [valid, Bool.and_true, Nat.sub_self, Nat.testBit_zero]
  cases h : l.any fun r => r.grp == g && r.owns <;> simpa using h

/-- A context and its bank's width and class, back on core i. -/
structure Back (k i : Nat) (groups : List GroupRec) (s t : State) (x : Saved) (l : List Saved) : Prop where
  run : (t.core i).run = .bound k
  ctx : (t.core i).ctx = x.ctx
  shadow : (t.core i).shadow = l
  cid : (t.core i).cid = x.cid
  locks : (t.core i).locks = x.locks
  handlerPc : (t.core i).handlerPc = x.handlerPc
  entryPc : (t.core i).entryPc = x.entryPc
  half : (t.bank i).half = x.half
  therm : (t.bank i).therm = x.therm
  own : ∀ g, (t.bank i).grp g = ((s.bank i).ownGroups groups).grp g

/-- Writes to a core's scratchpad change nothing else that returns with a context. -/
theorem foldl_putBlock (l : List (Nat × List Byte)) (c : Core) (bad : List Nat) :
    ∃ spad words, (l.foldl (fun (c : Core) g => c.putBlock g.1 g.2) c).markWords bad =
      { c with spad := spad, badWord := words } := by
  suffices h : ∃ spad words, l.foldl (fun (c : Core) g => c.putBlock g.1 g.2) c =
      { c with spad := spad, badWord := words } by
    obtain ⟨spad, words, h⟩ := h
    exact ⟨spad, _, by rw [h]; rfl⟩
  induction l generalizing c with
  | nil => exact ⟨c.spad, c.badWord, rfl⟩
  | cons g l ih =>
    obtain ⟨spad, words, h⟩ := ih (c.putBlock g.1 g.2)
    exact ⟨spad, words, h⟩

theorem restoreMember_self {s t : State} {k i : Nat} {x : Saved} {l : List Saved} (groups : List GroupRec)
    (hs : (s.core i).shadow = x :: l) (core : t.core i = s.core i) (bank : t.bank i = s.bank i) :
    Back k i groups s (t.restoreMember k i groups) x l := by
  obtain ⟨spad, words, h⟩ := foldl_putBlock x.spad
    { s.core i with run := .bound k, ctx := x.ctx, shadow := l, cid := x.cid, locks := x.locks
                    handlerPc := x.handlerPc, entryPc := x.entryPc } x.bad
  have put : (t.restoreMember k i groups).core i =
      { s.core i with run := .bound k, ctx := x.ctx, shadow := l, cid := x.cid, locks := x.locks
                      handlerPc := x.handlerPc, entryPc := x.entryPc, spad := spad, badWord := words } := by
    simp only [State.restoreMember, core, hs, core_modCore_same, modBank_core_read, h]
  have back : (t.restoreMember k i groups).bank i =
      { (s.bank i).ownGroups groups with half := x.half, therm := x.therm } := by
    simp only [State.restoreMember, core, hs, modCore_bank_read, bank_modBank_same, bank]
  constructor <;> simp [put, back, Bank.grp]

theorem restoreMember_other {t : State} {k i j : Nat} (groups : List GroupRec) (h : j ≠ i) :
    (t.restoreMember k i groups).core j = t.core j ∧ (t.restoreMember k i groups).bank j = t.bank j := by
  unfold State.restoreMember
  split
  · exact ⟨rfl, rfl⟩
  · exact ⟨core_modCore_other _ _ h, by rw [modCore_bank_read, bank_modBank_other _ _ h]⟩

/-- A pre-empted cohort as it resumes. -/
def resumed (c : Cohort) (now : Nat) : Cohort :=
  { c with st := .running, preempt := 0, holdStart := some now, holdSaid := false
           resuming := true, releaseAt := none, restart := now }

/-- The groups of the image of a cohort. -/
def imageGroups (s : State) (c : Cohort) : List GroupRec :=
  match SMap.get? (s.part c.part).images c.img with
  | some m => m.groups
  | none => []

theorem resumeNow_eq {s : State} {k : Nat} {c : Cohort} (hc : s.coh? k = some c) (hd : s.resumeDue k = true) :
    s.resumeNow k = (forAll c.members s fun i u => u.restoreMember k i (imageGroups s c)).setCoh k
      (resumed c (forAll c.members s fun i u => u.restoreMember k i (imageGroups s c)).now) := by
  simp only [State.resumeNow, hc, hd, Bool.not_true, Bool.false_eq_true, if_false]
  cases h : SMap.get? (s.part c.part).images c.img <;> simp only [imageGroups, h, resumed]

section
variable {s : State} {k : Nat} {c : Cohort} (hc : s.coh? k = some c) (hd : s.resumeDue k = true)
include hc hd

/-- The last context put away on each member's core is the cohort's. -/
theorem resumeDue_shadow {i : Nat} (hi : i ∈ c.members) : ∃ x l, (s.core i).shadow = x :: l := by
  simp only [State.resumeDue, hc, Bool.and_eq_true] at hd
  have back := List.all_eq_true.mp hd.2 i hi
  cases h : (s.core i).shadow with
  | nil => simp [h] at back
  | cons x l => exact ⟨x, l, rfl⟩

/-- Every member's context returns to its core. -/
theorem resumeNow_back {i : Nat} (once : c.members.Nodup) (hi : i ∈ c.members) {x : Saved} {l : List Saved}
    (hs : (s.core i).shadow = x :: l) : Back k i (imageGroups s c) s (s.resumeNow k) x l := by
  have back : Back k i (imageGroups s c) s
      (forAll c.members s fun i u => u.restoreMember k i (imageGroups s c)) x l :=
    forAll_nodup (P := fun t => Back k i (imageGroups s c) s t x l)
      (Q := fun t => t.core i = s.core i ∧ t.bank i = s.bank i) once hi ⟨rfl, rfl⟩
      (fun j t e h => ⟨(restoreMember_other _ e.symm).1.trans h.1, (restoreMember_other _ e.symm).2.trans h.2⟩)
      (fun t h => restoreMember_self _ hs h.1 h.2)
      fun j t e h => by
        obtain ⟨core, bank⟩ := restoreMember_other (t := t) (k := k) (imageGroups s c) e.symm
        constructor <;> simp only [core, bank, h.run, h.ctx, h.shadow, h.cid, h.locks, h.handlerPc, h.entryPc,
          h.half, h.therm, h.own, implies_true]
  rw [resumeNow_eq hc hd]
  exact ⟨back.run, back.ctx, back.shadow, back.cid, back.locks, back.handlerPc, back.entryPc, back.half, back.therm,
    back.own⟩

/-- R187, R190, R229: the contexts return, with their banks' width and class and OWN of the image. -/
theorem resumeNow_spec (once : c.members.Nodup) :
    ∃ t, exec (.resume k) s = .next t ∧
      (∃ d, t.coh? k = some d ∧ d.st = .running ∧ d.ccyc = c.ccyc ∧ d.preempt = 0) ∧
      ∀ i ∈ c.members, (t.core i).run = .bound k ∧
        ∃ x l, (s.core i).shadow = x :: l ∧ (t.core i).ctx = x.ctx ∧ (t.core i).shadow = l ∧
          (t.core i).cid = x.cid ∧ (t.core i).locks = x.locks ∧ (t.core i).handlerPc = x.handlerPc ∧
          (t.core i).entryPc = x.entryPc ∧ (t.bank i).half = x.half ∧ (t.bank i).therm = x.therm ∧
          ∀ m g, SMap.get? (s.part c.part).images c.img = some m → g < 64 → grpValid ((s.bank i).grp g) = true →
            (grpOwn ((t.bank i).grp g) = true ↔ ∃ r ∈ m.groups, r.grp = g ∧ r.owns = true) := by
  obtain ⟨now, coh⟩ : ∃ now, (s.resumeNow k).coh? k = some (resumed c now) :=
    ⟨_, by rw [resumeNow_eq hc hd]; exact coh?_setCoh_same _ _ _⟩
  refine ⟨_, exec_resume k s, ⟨resumed c now, coh, rfl, rfl, rfl⟩, fun i hi => ?_⟩
  · obtain ⟨x, l, hs⟩ := resumeDue_shadow hc hd hi
    have back := resumeNow_back hc hd once hi hs
    refine ⟨back.run, x, l, hs, back.ctx, back.shadow, back.cid, back.locks, back.handlerPc, back.entryPc, back.half,
      back.therm, fun m g hm hg valid => ?_⟩
    rw [back.own, ownGroups_own _ _ hg valid, imageGroups, hm]
end

/-- Settles O46, event by event. -/
theorem cohortEvents : Obligations.CohortEvents := by
  unfold Obligations.CohortEvents
  exact fun s k c hc => ⟨startAlign_spec hc, fun due => ⟨release1_goes hc due, release1_resumes hc due⟩,
    fun site => latencyTrap_spec hc, preemptNow_spec hc, resumeNow_spec hc⟩

end Sys2Proof.Laws
end

section
/-! PROOFS. Atomics (O39): their arithmetic, and what each step of one leaves. -/

namespace Sys2Proof.Laws

open Sys2Proof Sys2Proof.Machine

/-! ## Arithmetic (R263) -/

/-- The signed value of a pattern of w bits is that of its bit vector. -/
theorem sval_toNat {w : Nat} (m : BitVec w) (pos : 0 < w) : sval w m.toNat = m.toInt := by
  have half : 2 ^ w = 2 * 2 ^ (w - 1) := by rw [← Nat.pow_succ', Nat.succ_eq_add_one, Nat.sub_add_cancel pos]
  rw [BitVec.toInt_eq_toNat_cond, sval]
  push_cast
  have half' : (2 : Int) ^ w = 2 * 2 ^ (w - 1) := by exact_mod_cast half
  split <;> split <;> omega

/-- The operations on bit vectors that an atomic performs. -/
theorem atomOp_new {w : Nat} (m v c : BitVec w) (pos : 0 < w) :
    let new := fun (op : AtomOp) => BitVec.ofNat w (op.new w m.toNat v.toNat c.toNat)
    new .add = m + v ∧ new .swap = v ∧ new .cas = (if m = c then v else m) ∧ new .and = m &&& v ∧
    new .or = m ||| v ∧ new .xor = m ^^^ v ∧ new .min = (if v.slt m then v else m) ∧
    new .max = (if m.slt v then v else m) ∧ new .minu = (if v < m then v else m) ∧
    new .maxu = (if m < v then v else m) ∧ new .ld = m := by
  have pick {p q : Prop} [Decidable p] [Decidable q] (h : p ↔ q) :
      BitVec.ofNat w (if p then v.toNat else m.toNat) = if q then v else m := by
    by_cases hq : q
    · simp [hq, h.mpr hq]
    · simp [hq, mt h.mp hq]
  refine ⟨?_, ?_, pick BitVec.toNat_inj, ?_, ?_, ?_, pick ?_, pick ?_, pick BitVec.lt_def.symm,
    pick BitVec.lt_def.symm, ?_⟩
  · exact BitVec.eq_of_toNat_eq (by simp [AtomOp.new])
  · simp [AtomOp.new]
  · exact BitVec.eq_of_toNat_eq (by simp [AtomOp.new])
  · exact BitVec.eq_of_toNat_eq (by simp [AtomOp.new])
  · exact BitVec.eq_of_toNat_eq (by simp [AtomOp.new])
  · rw [sval_toNat _ pos, sval_toNat _ pos, BitVec.slt_iff_toInt_lt]
  · rw [sval_toNat _ pos, sval_toNat _ pos, BitVec.slt_iff_toInt_lt]
  · simp [AtomOp.new]

theorem fadd_new (m v c : Nat) : AtomOp.fadd.new 32 m v c =
    (fround fmtF32 0 false (fsumx 0 [fdec fmtF32 false m, fdec fmtF32 false v]).1).1 := rfl

section
variable {a b : FV}

/-- A sum with a NaN is one. -/
theorem fsumx_nan (h : fisNan a = true ∨ fisNan b = true) : (fsumx 0 [a, b]).1 = .nan false := by
  have : [a, b].any fisNan = true := by simpa using h
  simp [fsumx, this]

theorem fsumx_inf_opposed {n : Bool} : (fsumx 0 [.inf n, .inf (!n)]).1 = .nan false := by
  cases n <;> rfl

/-- A sum with one sign of infinity is that infinity. -/
theorem fsumx_inf {n : Bool} (h : (a = .inf n ∧ fisNan b = false ∧ b ≠ .inf (!n)) ∨
    (b = .inf n ∧ fisNan a = false ∧ a ≠ .inf (!n))) : (fsumx 0 [a, b]).1 = .inf n := by
  rcases h with ⟨rfl, nan, opposed⟩ | ⟨rfl, nan, opposed⟩
  · cases b with
    | nan _ => cases nan
    | inf n' =>
      obtain rfl | rfl := Bool.eq_or_eq_not n' n
      · cases n' <;> rfl
      · exact absurd rfl opposed
    | fin n' _ _ => cases n <;> cases n' <;> rfl
  · cases a with
    | nan _ => cases nan
    | inf n' =>
      obtain rfl | rfl := Bool.eq_or_eq_not n' n
      · cases n' <;> rfl
      · exact absurd rfl opposed
    | fin n' _ _ => cases n <;> cases n' <;> rfl

end

/-- The exact sum of t units of exponent q. -/
def magnitude (q t : Int) : FV := if t = 0 then .fin false 0 0 else .fin (t < 0) t.natAbs q

theorem magnitude_signed (n : Bool) {x : Nat} (q : Int) (h : x ≠ 0) :
    magnitude q (if n then -(x : Int) else x) = .fin n x q := by
  cases n <;> simp [magnitude, h, Nat.pos_of_ne_zero h]

section
variable (n n' : Bool) {x x' : Nat} (d d' : Int)

theorem fsumx_zeros : (fsumx 0 [.fin n 0 d, .fin n' 0 d']).1 = .fin (n && n') 0 0 := by
  cases n <;> cases n' <;> rfl

theorem fsumx_zero_left (h : x' ≠ 0) : (fsumx 0 [.fin n 0 d, .fin n' x' d']).1 = .fin n' x' d' := by
  obtain ⟨k, rfl⟩ := Nat.exists_eq_succ_of_ne_zero h
  have units : funits d' (.fin n 0 d) + funits d' (.fin n' (k + 1) d') =
      if n' then -((k + 1 : Nat) : Int) else (k + 1 : Nat) := by
    cases n' <;> simp [funits]
  rw [fsumx_pair_of_fleast (q := d') 0 (by simp [fleast])]
  exact (congrArg (magnitude d') units).trans (magnitude_signed n' _ h)

theorem fsumx_zero_right (h : x ≠ 0) : (fsumx 0 [.fin n x d, .fin n' 0 d']).1 = .fin n x d := by
  obtain ⟨k, rfl⟩ := Nat.exists_eq_succ_of_ne_zero h
  have units : funits d (.fin n (k + 1) d) + funits d (.fin n' 0 d') =
      if n then -((k + 1 : Nat) : Int) else (k + 1 : Nat) := by
    cases n <;> simp [funits]
  rw [fsumx_pair_of_fleast (q := d) 0 (by simp [fleast])]
  exact (congrArg (magnitude d) units).trans (magnitude_signed n _ h)

theorem fleast_pair (h : x ≠ 0) (h' : x' ≠ 0) : fleast [.fin n x d, .fin n' x' d'] = some (min d d') := by
  obtain ⟨k, rfl⟩ := Nat.exists_eq_succ_of_ne_zero h
  obtain ⟨k', rfl⟩ := Nat.exists_eq_succ_of_ne_zero h'
  simp only [fleast, Option.some.injEq]
  split <;> omega

end

/-- R263: the sum of two numbers is exact before it is rounded once. -/
theorem fadd_finite {m v : Nat} (c : Nat) {n n' : Bool} {x x' : Nat} {d d' : Int}
    (ha : fdec fmtF32 false m = .fin n x d) (hb : fdec fmtF32 false v = .fin n' x' d') :
    let new := AtomOp.fadd.new 32 m v c
    let signed := fun (n : Bool) (x : Nat) => if n then -(x : Int) else x
    (x = 0 → x' = 0 → new = if n && n' then 2 ^ 31 else 0) ∧
    (x = 0 → x' ≠ 0 → new = (roundMag fmtF32 0 false n' x' d' false).1) ∧
    (x ≠ 0 → x' = 0 → new = (roundMag fmtF32 0 false n x d false).1) ∧
    (x ≠ 0 → x' ≠ 0 →
      let q := min d d'
      let sum := signed n x * 2 ^ (d - q).toNat + signed n' x' * 2 ^ (d' - q).toNat
      new = if sum = 0 then 0 else (roundMag fmtF32 0 false (sum < 0) sum.natAbs q false).1) := by
  have rounds (n : Bool) {x : Nat} (d : Int) (h : x ≠ 0) :
      fround fmtF32 0 false (.fin n x d) = roundMag fmtF32 0 false n x d false := by simp [fround, h]
  intro new signed
  simp only [new, fadd_new, ha, hb]
  refine ⟨?_, ?_, ?_, fun h h' => ?_⟩
  · rintro rfl rfl
    rw [fsumx_zeros]
    rfl
  · rintro rfl h
    rw [fsumx_zero_left n n' d d' h, rounds _ _ h]
  · rintro h rfl
    rw [fsumx_zero_right n n' d d' h, rounds _ _ h]
  · let q := min d d'
    let sum := signed n x * 2 ^ (d - q).toNat + signed n' x' * 2 ^ (d' - q).toNat
    have exact : funits q (.fin n x d) + funits q (.fin n' x' d') = sum := by
      cases n <;> cases n' <;> simp [funits, sum, signed]
    rw [fsumx_pair_of_fleast 0 (fleast_pair n n' d d' h h')]
    show (fround fmtF32 0 false (magnitude q _)).1 =
      if sum = 0 then 0 else (roundMag fmtF32 0 false (sum < 0) sum.natAbs q false).1
    rw [exact, magnitude]
    by_cases zero : sum = 0
    · rw [if_pos zero, if_pos zero]
      rfl
    · rw [if_neg zero, if_neg zero, rounds _ _ (by omega)]

theorem fadd_spec (m v c : Nat) :
    let a := fdec fmtF32 false m
    let b := fdec fmtF32 false v
    let new := AtomOp.fadd.new 32 m v c
    let signed := fun (n : Bool) (x : Nat) => if n then -(x : Int) else x
    (fisNan a = true ∨ fisNan b = true → new = 0x7FC00000) ∧
    (∀ n, a = .inf n → b = .inf (!n) → new = 0x7FC00000) ∧
    (∀ n, (a = .inf n ∧ fisNan b = false ∧ b ≠ .inf (!n)) ∨ (b = .inf n ∧ fisNan a = false ∧ a ≠ .inf (!n)) →
      new = finf fmtF32 n) ∧
    ∀ n x d n' x' d', a = .fin n x d → b = .fin n' x' d' →
      (x = 0 → x' = 0 → new = if n && n' then 2 ^ 31 else 0) ∧
      (x = 0 → x' ≠ 0 → new = (roundMag fmtF32 0 false n' x' d' false).1) ∧
      (x ≠ 0 → x' = 0 → new = (roundMag fmtF32 0 false n x d false).1) ∧
      (x ≠ 0 → x' ≠ 0 →
        let q := min d d'
        let sum := signed n x * 2 ^ (d - q).toNat + signed n' x' * 2 ^ (d' - q).toNat
        new = if sum = 0 then 0 else (roundMag fmtF32 0 false (sum < 0) sum.natAbs q false).1) := by
  intro a b new signed
  refine ⟨fun h => ?_, fun n ha hb => ?_, fun n h => ?_, fun n x d n' x' d' ha hb => fadd_finite c ha hb⟩
  · exact congrArg (fun f => (fround fmtF32 0 false f).1) (fsumx_nan h)
  · have sum : (fsumx 0 [a, b]).1 = .nan false := by rw [ha, hb, fsumx_inf_opposed]
    exact congrArg (fun f => (fround fmtF32 0 false f).1) sum
  · exact congrArg (fun f => (fround fmtF32 0 false f).1) (fsumx_inf h)

/-! ## What a step of an atomic leaves -/

theorem exec_atomicPerform (i n : Nat) (s : State) : exec (.atomicPerform i n) s = .next (s.perform i n) := by rfl

theorem exec_atomReturn (i n : Nat) (s : State) : exec (.atomReturn i n) s = .next (s.atomReturns i n) := by rfl

/-- The value that an operation writes over len bytes at x. -/
def atomBytes (op : AtomOp) (len : Nat) (v c : Word) (m : List Host.Cell) (x : Nat) : List Byte :=
  bytesOf len (op.new (8 * len) (ofBytes (memBytes m x len)) (v.toNat % 2 ^ (8 * len)) (c.toNat % 2 ^ (8 * len)))

theorem atomBytes_length (op : AtomOp) (len : Nat) (v c : Word) (m : List Host.Cell) (x : Nat) :
    (atomBytes op len v c m x).length = len := by simp [atomBytes, bytesOf]

theorem on_memory (op : AtomOp) (m : List Host.Cell) (x len : Nat) (v c : Word) :
    (op.on m x len v.toNat c.toNat).2 = if op = .ld then m else memPut m x (atomBytes op len v c m x) := rfl

/-- R263: an operation writes the bytes of its variable, and a load none. -/
theorem on_memGet (op : AtomOp) (m : List Host.Cell) (x len : Nat) (v c : Word) (b : Nat) :
    memGet (op.on m x len v.toNat c.toNat).2 b =
      if x ≤ b ∧ b < x + len ∧ op ≠ .ld then (atomBytes op len v c m x).getD (b - x) 0 else memGet m b := by
  rw [on_memory]
  by_cases h : op = .ld
  · simp [h]
  · rw [if_neg h, memGet_put, atomBytes_length]
    simp only [ne_eq, h, not_false_eq_true, and_true]
    rfl

/-- The bytes of a variable after its operation are the value that was written. -/
theorem on_memBytes (op : AtomOp) {m : List Host.Cell} (x len : Nat) (v c : Word) (wf : Memory.wf m = true)
    (h : op ≠ .ld) : memBytes (op.on m x len v.toNat c.toNat).2 x len = atomBytes op len v c m x := by
  have wf' : Memory.wf (op.on m x len v.toNat c.toNat).2 = true := by
    rw [on_memory, if_neg h]
    exact wf_put _ _ wf
  refine List.ext_getElem (by rw [memBytes_length, atomBytes_length]) fun k hk hk' => ?_
  have get := memBytes_getD x len k (by simpa using hk) wf'
  rw [on_memGet, if_pos ⟨by omega, by rw [memBytes_length] at hk; omega, h⟩, Nat.add_sub_cancel_left,
    List.getD_eq_getElem _ _ hk, List.getD_eq_getElem _ _ hk'] at get
  exact get

theorem placed_fst (a : Nat) (l : List Byte) : (placed a l).map (·.1) = (List.range l.length).map (a + ·) := by
  have : (placed a l).map (·.1) = (((List.range l.length).zip l).map (·.1)).map (a + ·) := by
    simp [placed, Function.comp_def]
  rw [this, List.map_fst_zip (by simp)]

theorem placed_snd (a : Nat) (l : List Byte) : (placed a l).map (·.2) = l := by
  simp [placed, List.map_map, Function.comp_def, List.map_snd_zip]

theorem pcie_iff (op : AtomOp) : op.pcie = true ↔ op ∈ [AtomOp.add, .swap, .cas, .ld] := by
  cases op <;> decide

section
variable {s : State} {i : Nat} {u : UOp}

/-- An operation that has been performed: its old value travels back, or it is done. -/
theorem performed_has {f : UOp → Prop} (h : HasOp s i u.n f) (ret : Bool) (old : Nat) (bad : Bool) :
    HasOp (s.performed i u ret old bad) i u.n fun y =>
      y.old = BitVec.ofNat 64 old ∧ y.bad = bad ∧ y.stage = if ret then .returning else .atSys :=
  HasOp.modUop (s := s.draw.2) h _ (fun _ => rfl) fun _ _ => ⟨rfl, rfl, rfl⟩

theorem modLaunchOf_sync (k : Nat) (f : Launch → Launch) : (s.modLaunchOf k f).sync = s.sync := by
  unfold State.modLaunchOf
  split <;> rfl

end

section
variable {s : State} {i n : Nat} {u : UOp} {ret sp : Bool} {op : AtomOp} {len a d : Nat} {v c : Word}
  (hu : (s.core i).uops.find? (·.n == n) = some u) (hk : u.kind = .atom ret op len sp a v c d)
  (can : s.canPerform i u = true)
include hu

theorem find_n : u.n = n := by simpa using List.find?_some hu

theorem found_self : HasOp s i u.n (· = u) := hasOp_self (List.mem_of_find?_eq_some hu)

include hk can

/-- R261: an engine's own operation in the overflow area writes what it made. -/
theorem perform_rewriting (stage : u.stage = .rewriting) :
    ∃ t, exec (.atomicPerform i n) s = .next t ∧ t.host = memPuts s.host u.held ∧
      HasOp t i u.n (fun y => y.old = BitVec.ofNat 64 u.old.toNat ∧
        y.stage = if ret then .returning else .atSys) ∧ t.sync = s.sync := by
  have run : s.perform i n =
      ({ s with host := memPuts s.host u.held }.link u.coh 0 len).performed i u ret u.old.toNat false := by
    simp [State.perform, hu, can, hk, stage]
  have self : HasOp ({ s with host := memPuts s.host u.held }.link u.coh 0 len) i u.n (· = u) := found_self hu
  refine ⟨_, exec_atomicPerform i n s, ?_, ?_, ?_⟩
  · rw [run]; rfl
  · rw [run]
    obtain ⟨y, hy, hn, old, -, st⟩ := performed_has self ret u.old.toNat false
    exact ⟨y, hy, hn, old, st⟩
  · rw [run]; rfl

theorem perform_sram {x : Nat} (stage : u.stage ≠ .rewriting)
    (target : (s.part (partOf u.coh)).target sp a = .sram x) :
    s.perform i n = s.performSram i u ret op x a len v c := by
  simp [State.perform, hu, can, hk, stage, target]

/-- R259, R263: one indivisible step on a variable of the sync SRAM, unless it is in error and not rewritten
whole. -/
theorem perform_sram_good {x : Nat} (stage : u.stage ≠ .rewriting)
    (target : (s.part (partOf u.coh)).target sp a = .sram x)
    (good : (∀ w ∈ syncWords x len, w ∉ s.syncBad) ∨ op = .swap) :
    ∃ t, exec (.atomicPerform i n) s = .next t ∧ t.sync = (op.on s.sync x len v.toNat c.toNat).2 ∧
      HasOp t i u.n (fun y => y.old = BitVec.ofNat 64 (ofBytes (memBytes s.sync x len)) ∧
        y.stage = if ret then .returning else .atSys) ∧
      t.host = s.host ∧ ∀ w, w ∈ t.syncBad ↔ w ∈ s.syncBad ∧ w ∉ syncWords x len := by
  have clean : (s.syncBad.any (syncWords x len).contains && op != .swap) = false := by
    rcases good with h | rfl
    · rw [Bool.and_eq_false_imp]
      intro bad
      obtain ⟨w, hw, hc⟩ := List.any_eq_true.mp bad
      exact absurd hw (h w (List.contains_iff_mem.mp hc))
    · simp
  let t := { s with sync := (op.on s.sync x len v.toNat c.toNat).2 }.mendSync (syncWords x len)
  have run : s.perform i n = t.performed i u ret (op.on s.sync x len v.toNat c.toNat).1 false := by
    rw [perform_sram hu hk can stage target, State.performSram]
    simp only [clean, Bool.false_eq_true, if_false]
    rfl
  have self : HasOp t i u.n (· = u) := found_self hu
  refine ⟨_, exec_atomicPerform i n s, ?_, ?_, ?_, fun w => ?_⟩
  · rw [run]; rfl
  · rw [run]
    obtain ⟨y, hy, hn, old, -, st⟩ := performed_has self ret _ false
    exact ⟨y, hy, hn, old, st⟩
  · rw [run]; rfl
  · rw [run]
    show w ∈ s.syncBad.filter _ ↔ _
    simp

/-- R259: an error refuses the operation. -/
theorem perform_sram_bad {x : Nat} (stage : u.stage ≠ .rewriting)
    (target : (s.part (partOf u.coh)).target sp a = .sram x)
    (bad : ∃ w ∈ syncWords x len, w ∈ s.syncBad) (ne : op ≠ .swap) :
    ∃ t, exec (.atomicPerform i n) s = .next t ∧ t.sync = s.sync ∧ t.host = s.host ∧
      HasOp t i u.n fun y => y.bad = true ∧ y.stage = if ret then .returning else .atSys := by
  have hit : (s.syncBad.any (syncWords x len).contains && op != .swap) = true := by
    obtain ⟨w, hw, hb⟩ := bad
    simp only [Bool.and_eq_true, bne_iff_ne]
    exact ⟨List.any_eq_true.mpr ⟨w, hb, List.contains_iff_mem.mpr hw⟩, ne⟩
  have run : s.perform i n = s.performSram i u ret op x a len v c := perform_sram hu hk can stage target
  refine ⟨_, exec_atomicPerform i n s, ?_⟩
  rw [run, State.performSram]
  simp only [hit, if_true]
  obtain ⟨y, hy, hn, -, b, st⟩ := performed_has (found_self hu) ret 0 true
  cases ret with
  | true => exact ⟨rfl, rfl, y, hy, hn, b, st⟩
  | false =>
    simp only [Bool.false_eq_true, if_false]
    refine ⟨modLaunchOf_sync _ _, modLaunchOf_host _ _ _, y, ?_, hn, b, st⟩
    rw [modLaunchOf_core]
    exact hy

theorem perform_host {va pa : Nat} (stage : u.stage ≠ .rewriting)
    (target : (s.part (partOf u.coh)).target sp a = .host va) (phys : u.phys va = some pa) :
    s.perform i n = s.performHost i u ret op sp pa len v c := by
  simp [State.perform, hu, can, hk, stage, target, phys]

/-- R84: a RED is first accepted by the copy engine. -/
theorem perform_host_accept {va pa : Nat} (stage : u.stage = .running)
    (target : (s.part (partOf u.coh)).target sp a = .host va) (phys : u.phys va = some pa) (red : ret = false)
    (plain : sp = false) :
    ∃ t, exec (.atomicPerform i n) s = .next t ∧ SameMemory s t ∧ HasOp t i u.n fun y => y.stage = .atCore := by
  have run := perform_host hu hk can (by simp [stage]) target phys
  simp only [State.performHost, red, plain, stage, Bool.not_false, beq_self_eq_true, Bool.and_self, if_true] at run
  refine ⟨_, exec_atomicPerform i n s, ?_⟩
  rw [run]
  exact ⟨sameMemory_modUop (sameMemory_draw (sameMemory_refl s)) _ _ _,
    HasOp.modUop (s := s.draw.2) (found_self hu) _ (fun _ => rfl) fun _ _ => rfl⟩

/-- R261: what is no PCIe AtomicOp is a read in the overflow area, and later a write. -/
theorem perform_host_read {va pa : Nat} (stage : u.stage ≠ .rewriting)
    (target : (s.part (partOf u.coh)).target sp a = .host va) (phys : u.phys va = some pa) (engine : sp = true)
    (own : op.pcie = false) :
    ∃ t, exec (.atomicPerform i n) s = .next t ∧ SameMemory s t ∧ HasOp t i u.n fun y =>
      y.stage = .rewriting ∧ y.held = placed pa (memBytes (op.on s.host pa len v.toNat c.toNat).2 pa len) := by
  have run := perform_host hu hk can stage target phys
  simp only [State.performHost, engine, own, Bool.not_true, Bool.not_false, Bool.and_false, Bool.false_and,
    Bool.false_eq_true, if_false, Bool.and_self, if_true] at run
  refine ⟨_, exec_atomicPerform i n s, ?_⟩
  rw [run]
  refine ⟨sameMemory_modPart (sameMemory_modUop (sameMemory_draw (sameMemory_refl s)) _ _ _) _ _, ?_⟩
  exact HasOp.modUop (s := s.draw.2) (found_self hu) _ (fun _ => rfl) fun _ _ => ⟨rfl, rfl⟩

/-- R261, R263: one indivisible step on a word of host memory. -/
theorem perform_host_step {va pa : Nat} (stage : u.stage ≠ .rewriting)
    (target : (s.part (partOf u.coh)).target sp a = .host va) (phys : u.phys va = some pa)
    (there : ret = true ∨ sp = true ∨ u.stage ≠ .running) (whole : sp = false ∨ op.pcie = true) :
    ∃ t, exec (.atomicPerform i n) s = .next t ∧ t.host = (op.on s.host pa len v.toNat c.toNat).2 ∧
      HasOp t i u.n (fun y => y.old = BitVec.ofNat 64 (ofBytes (memBytes s.host pa len)) ∧
        y.stage = if ret then .returning else .atSys) ∧ t.sync = s.sync := by
  have first : (!ret && !sp && u.stage == .running) = false := by
    rcases there with h | h | h <;> simp [h]
  have second : (sp && !op.pcie) = false := by
    rcases whole with h | h <;> simp [h]
  let t := { s with host := (op.on s.host pa len v.toNat c.toNat).2 }.link u.coh (if ret then len else 0) len
  have run : s.perform i n = t.performed i u ret (op.on s.host pa len v.toNat c.toNat).1 false := by
    rw [perform_host hu hk can stage target phys, State.performHost]
    simp only [first, second, Bool.false_eq_true, if_false]
    rfl
  have self : HasOp t i u.n (· = u) := found_self hu
  refine ⟨_, exec_atomicPerform i n s, ?_, ?_, ?_⟩
  · rw [run]; rfl
  · rw [run]
    obtain ⟨y, hy, hn, old, -, st⟩ := performed_has self ret _ false
    exact ⟨y, hy, hn, old, st⟩
  · rw [run]; rfl

/-- R238, R239: an atomic translates its page first. -/
theorem perform_walks {va : Nat} (stage : u.stage ≠ .rewriting)
    (target : (s.part (partOf u.coh)).target sp a = .host va) (phys : u.phys va = none) :
    Walks s i (.atomicPerform i n) u va (op != .ld) false (if ret then 4 else 5) 0 0 fun _ => True := by
  have run : s.perform i n = match (s.translate i u va (op != .ld) false).1 with
      | none => (s.translate i u va (op != .ld) false).2
      | some (.error k) => (s.translate i u va (op != .ld) false).2.transFault i u va k (if ret then 4 else 5) 0 0
      | some (.ok g) => (s.translate i u va (op != .ld) false).2.modCore i (·.modUop n (·.addPage g s.now)) := by
    simp only [State.perform, hu, can, hk, beq_iff_eq, stage, target, phys, Bool.not_true, Bool.false_eq_true,
      if_false] <;> rfl
  have mem := List.mem_of_find?_eq_some hu
  refine walks_of_exec mem (fun h => ?_) (fun g h => ⟨_, exec_atomicPerform i n s, ?_⟩) fun k h => ?_
  · rw [exec_atomicPerform, run, h]
  · obtain ⟨memory, -, -, -, op⟩ := translate_ends mem h
    rw [run, h, ← find_n hu]
    exact ⟨sameMemory_modUop memory _ _ _,
      op.modUop (fun v => v.addPage g s.now) (fun _ => rfl) fun v hv => ⟨by simp [UOp.addPage, hv], trivial⟩⟩
  · rw [exec_atomicPerform, run, h]

end

/-! ## The return of an old value (R84, R101) -/

/-- A cleared pending bit. -/
theorem pending_setPend (c : Ctx) {r : Nat} (h : r < 64) : (c.setPend r false).pending.getLsbD r = false := by
  rw [Ctx.setPend, getLsbD_setBits _ h, if_pos ⟨Nat.le_refl r, Nat.le_refl r⟩]
  simp

theorem rs_setPend (c : Ctx) (r q : Nat) (b : Bool) : (c.setPend r b).rs q = c.rs q := rfl

theorem pending_addBev (c : Ctx) (e : BEvent) : (c.addBev e).pending = c.pending := by
  unfold Ctx.addBev
  split
  · split <;> rfl
  · rfl

theorem rs_addBev (c : Ctx) (e : BEvent) (r : Nat) : (c.addBev e).rs r = c.rs r := by
  unfold Ctx.addBev
  split
  · split <;> rfl
  · rfl

theorem rs_log (c : Ctx) (t : Nat) (e : PEntry) (r : Nat) : (c.log t e).rs r = c.rs r := by
  unfold Ctx.log
  split
  · rfl
  · split <;> rfl

section
variable {s : State} {i n : Nat} {u : UOp} {sp : Bool} {op : AtomOp} {len a d : Nat} {v c : Word}
  (hu : (s.core i).uops.find? (·.n == n) = some u) (hk : u.kind = .atom true op len sp a v c d)
  (can : s.canReturn i u = true) (live : s.liveCoh i u.coh = true) (ended : s.endedOp u = false) (pos : 0 < d)
include hu hk can live ended pos

/-- The state in which the operation of a returning value is done. -/
theorem atomReturns_eq :
    s.atomReturns i n =
      let t := s.modCore i (·.modUop n fun x => { x with stage := .atSys })
      let p : Pend := { land := t.seenFrom i, seq := 0, slot := 5, issued := t.seenFrom i, again := false
                        flags := fNone, shadow := false, eff := .sreg d u.old }
      if u.bad then t.modCtx i fun c => (c.setPend d false).addBev
        { due := t.timeOf i, issued := 0, kind := .regionError 0x18 7 }
      else t.modCtx i fun c => ((c.log (t.seenFrom i) (.arrival (t.seenFrom i) p)).ws d u.old).setPend d false := by
  have live' : (s.modCore i (·.modUop n fun x => { x with stage := .atSys })).liveCoh i u.coh = true := by
    rw [← live, State.liveCoh, State.liveCoh, State.cohOf, State.cohOf, core_modCore_same]
    rfl
  have ended' : (s.modCore i (·.modUop n fun x => { x with stage := .atSys })).endedOp u = false := ended
  have ne : d ≠ 0 := by omega
  have clear : u.clearPend = (·.setPend d false) := by
    funext x
    simp [UOp.clearPend, hk, ne]
  simp only [State.atomReturns, hu, can, hk, live', ended', ne, clear, Bool.not_true, Bool.false_eq_true, if_false]

/-- R84, R101, R259: the old value lands and the pending bit clears; after an error the bit alone. -/
theorem atomReturns_spec (lt : d < 64) :
    ∃ t, exec (.atomReturn i n) s = .next t ∧ SameMemory s t ∧ (t.ctx i).pending.getLsbD d = false ∧
      (u.bad = false → ∀ r, (t.ctx i).rs r = if r = d then u.old else (s.ctx i).rs r) ∧
      (u.bad = true → ∀ r, (t.ctx i).rs r = (s.ctx i).rs r) := by
  have run := atomReturns_eq hu hk can live ended pos
  dsimp only at run
  refine ⟨_, exec_atomReturn i n s, ?_⟩
  rw [run]
  generalize ht : s.modCore i (·.modUop n fun x => { x with stage := .atSys }) = t
  have ctx : t.ctx i = s.ctx i := by rw [← ht, State.ctx, core_modCore_same]; rfl
  have memory : SameMemory s t := ht ▸ sameMemory_modUop (sameMemory_refl s) i n _
  have put (f : Ctx → Ctx) (tile : (f (t.ctx i)).tile = (t.ctx i).tile) : SameMemory s (t.modCtx i f) :=
    sameMemory_modCore memory i (fun x => { x with ctx := f x.ctx }) rfl tile
  cases bad : u.bad with
  | true =>
    rw [if_pos rfl, ctx_modCtx_same, ctx, pending_addBev]
    refine ⟨put _ (by simp), pending_setPend _ lt, nofun, fun _ r => ?_⟩
    rw [rs_addBev, rs_setPend]
  | false =>
    rw [if_neg (by decide), ctx_modCtx_same, ctx]
    refine ⟨put _ (by simp), pending_setPend _ lt, fun _ r => ?_, nofun⟩
    rw [rs_setPend]
    split
    · next e => subst e; exact rs_ws_same _ _ (by omega)
    · next e => rw [rs_ws_other _ _ e, rs_log]

end

/-- Settles O39, step by step. -/
theorem atomicEvents : Obligations.AtomicEvents := by
  unfold Obligations.AtomicEvents
  refine ⟨fun w => atomOp_new, fadd_spec, fun s i n u ret sp op len a d v c hu hk => ?_⟩
  obtain rfl := find_n hu
  intro left target pcie
  refine ⟨fun can _ => ?_, fun can live ended hr pos lt => ?_⟩
  · intro value made sent does
    refine ⟨fun stage => ?_, fun x stage ht => ⟨fun good => ?_, perform_sram_bad hu hk can stage ht⟩,
      fun va stage ht => ⟨fun pa phys => ⟨fun red plain running => ?_, fun engine own => ?_, fun there whole => ?_⟩,
        fun phys => ?_⟩⟩
    · obtain ⟨t, run, host, has, sync⟩ := perform_rewriting hu hk can stage
      exact ⟨t, run, host, has, sync⟩
    · obtain ⟨t, run, sync, has, host, marks⟩ := perform_sram_good hu hk can stage ht good
      exact ⟨t, run, fun b => sync ▸ on_memGet op s.sync x len v c b, has, host, marks⟩
    · exact perform_host_accept hu hk can running ht phys red plain
    · obtain ⟨t, run, memory, y, hy, hn, rewriting, held⟩ := perform_host_read hu hk can stage ht phys engine
        (Bool.eq_false_iff.mpr (mt (pcie_iff op).mp own))
      refine ⟨t, run, memory, y, hy, hn, rewriting, ?_, fun wf ne => ?_⟩
      · rw [held, placed_fst, memBytes_length]
      · rw [held, placed_snd]
        exact on_memBytes op pa len v c wf ne
    · obtain ⟨t, run, host, has, sync⟩ := perform_host_step hu hk can stage ht phys there
        (whole.imp_right (pcie_iff op).mpr)
      exact ⟨t, run, fun b => host ▸ on_memGet op s.host pa len v c b, has, sync⟩
    · obtain ⟨-, found, faults⟩ := perform_walks hu hk can stage ht phys
      refine ⟨fun g h => ?_, fun e h alive => ?_⟩
      · obtain ⟨t, run, memory, y, hy, hn, pages, -⟩ := found g h
        exact ⟨t, run, memory, y, hy, hn, pages⟩
      · obtain ⟨t, run, memory, has, z, ring, -, va, kind, src, -⟩ := faults e h alive
        exact ⟨t, run, memory, has, z, ring, va, kind, src⟩
  · subst hr
    exact atomReturns_spec hu hk can live ended pos lt

end Sys2Proof.Laws
end

section
/-! PROOFS. The ports of a scratchpad (O41): the stages of a port cycle, the rule of each, and what a store or a read
that is served alone leaves. -/

namespace Sys2Proof.Laws

open Sys2Proof Sys2Proof.Machine

/-! ## The stages of a port cycle -/

/-- What core i's accesses l send to other cores and to pseudo-channels. -/
def sendStage (s : State) (i : Nat) (coll : List Nat) (l : List Access) : State :=
  forAll l (s.modCtx i (·.setAcc false [])) fun a u => (u.portError i false a).portSend i (s.core i).spad coll a

/-- The results of the accesses l. -/
def portResults (s : State) (i : Nat) (coll : List Nat) (l : List Access) : List Pend :=
  (l.map fun a => a.reads (s.core i).spad coll).flatten

/-- Results enter the pipelines, and shadows take what the loads delivered. -/
def enter (r : List Pend) (c : Ctx) : Ctx := (c.putFlight false r).fillShadows r

def readStage (s : State) (i : Nat) (coll : List Nat) (l : List Access) : State :=
  (sendStage s i coll l).modCtx i (enter (portResults s i coll l))

/-- The bytes that access a stores. -/
def storedBy (u : State) (i : Nat) (coll : List Nat) (a : Access) : List (Nat × Byte) :=
  portWrite (coll ++ a.lost) (a.stores (u.ctx i))

def storeStage (s : State) (i t : Nat) (coll : List Nat) (l : List Access) : State :=
  forAll (l.mergeSort Access.before) (readStage s i coll l) fun a u =>
    u.portStore i t false a (storedBy u i coll a)

def fallbackStage (s : State) (i t : Nat) (coll : List Nat) (l : List Access) : State :=
  forAll l (storeStage s i t coll l) fun a u => (u.shadowStoreCheck i t false a).portFallback i a

/-- Core i, which no handler and no replay holds, serves its own accesses in cohort cycle t; no word of its scratchpad
is in error, and no mismatch is injected. -/
structure Ports (s : State) (i t : Nat) : Prop where
  plain : s.plain i
  advancing : s.advancing i = true
  time : s.ccycOf i = t
  clean : (s.core i).badWord = []
  whole : bitAt s.pf.errinj 12 = false
  wf : Memory.wf (s.core i).spad = true

theorem keepCycle_plain {c : Ctx} (h : c.handler = none) (old : List Host.Cell) (now : List Access)
    (b : List (Nat × Byte)) : c.keepCycle false old now b = c := by
  simp only [Ctx.keepCycle, Bool.false_eq_true, if_false, h, Option.map_none]
  rw [← h]

theorem portError_clean {s : State} {i : Nat} (h : (s.core i).badWord = []) (inH : Bool) (a : Access) :
    s.portError i inH a = s := by
  simp [State.portError, h]

theorem shadowStoreCheck_whole {s : State} (h : bitAt s.pf.errinj 12 = false) (i t : Nat) (inH : Bool) (a : Access) :
    s.shadowStoreCheck i t inH a = s := by
  unfold State.shadowStoreCheck
  split
  · simp [State.injects, h]
  · rfl

/-- The end of a port cycle, before what a collision leaves. -/
def portsEnd (s : State) (i t : Nat) (coll : List Nat) (l : List Access) : State :=
  (fallbackStage s i t coll l).modCtx i
    (·.keepCycle false (s.core i).spad l (l.map (storedBy (readStage s i coll l) i coll)).flatten)

/-- R136 to R138: a port cycle in which every access is due goes through the stages. -/
theorem servePorts_eq {s : State} {i t : Nat} (h : Ports s i t) (due : ∀ a ∈ (s.ctx i).acc, a.due ≤ t)
    (some : (s.ctx i).acc ≠ []) :
    s.servePorts i =
      let coll := colliding [] (s.ctx i).acc
      let u := portsEnd s i t coll (s.ctx i).acc
      if coll.isEmpty then u else (u.pick coll 0).2.modCtx i (·.putBev false
        { due := t + 1, issued := t, kind := .collision (BitVec.ofNat 64 ((u.pick coll 0).1 + 256 * t)) }) := by
  obtain ⟨handler, replay⟩ := h.plain
  have clock : s.portClock i = .some (false, t) := by simp [State.portClock, replay, h.advancing, h.time]
  have active : (s.ctx i).acc.filter (fun a => a.activeAt t) = (s.ctx i).acc :=
    List.filter_eq_self.mpr fun a ha => by simp [Access.activeAt, due a ha]
  have now : (s.ctx i).acc.filter (fun a => decide (a.due ≤ t)) = (s.ctx i).acc :=
    List.filter_eq_self.mpr fun a ha => by simp [due a ha]
  have later : (s.ctx i).acc.filter (fun a => !decide (a.due ≤ t)) = [] :=
    List.filter_eq_nil_iff.mpr fun a ha => by simp [due a ha]
  simp only [State.servePorts, clock, Ctx.accOf, Ctx.sharing, handler, Bool.false_eq_true, if_false, Option.map_none,
    Option.getD_none, active, now, later, List.isEmpty_eq_false_iff.mpr some, Bool.false_and, List.map_nil, memPuts,
    portsEnd, fallbackStage, storeStage, readStage, sendStage, portResults, storedBy]
  rfl

/-! ## The rule of each stage -/

/-- A log entry changes regions alone. -/
theorem log_eq (c : Ctx) (t : Nat) (e : PEntry) : ∃ r, c.log t e = { c with regions := r } := by
  unfold Ctx.log
  split
  · exact ⟨c.regions, rfl⟩
  · split <;> exact ⟨_, rfl⟩

theorem logUndo_eq (c : Core) (t : Nat) (units : List Nat) :
    ∃ r, c.logUndo t units = { c with ctx := { c.ctx with regions := r } } := by
  unfold Core.logUndo
  induction units generalizing c with
  | nil => exact ⟨c.ctx.regions, rfl⟩
  | cons u l ih =>
    rw [List.foldl_cons]
    split
    · exact ih c
    · obtain ⟨r, hr⟩ := log_eq c.ctx t (.undo u (memBytes c.spad (32 * u) 32) (c.badIn u))
      obtain ⟨q, hq⟩ := ih { c with ctx := { c.ctx with regions := r } }
      rw [hr]
      exact ⟨q, hq⟩

/-- R137: a store writes its bytes into its core's scratchpad; its entries go to the open regions. -/
theorem portStore_core {s : State} {i : Nat} (clean : (s.core i).badWord = []) (t : Nat) (a : Access)
    (b : List (Nat × Byte)) : ∃ r, (s.portStore i t false a b).core i =
      { s.core i with spad := memPuts (s.core i).spad b, ctx := { (s.core i).ctx with regions := r } } := by
  obtain ⟨r, hr⟩ := logUndo_eq (s.core i) t (b.map fun e => e.1 / 32).eraseDups
  have put (q : List Region) : ({ s.core i with ctx := { (s.core i).ctx with regions := q } } : Core).put b =
      { s.core i with spad := memPuts (s.core i).spad b, ctx := { (s.core i).ctx with regions := q } } := by
    simp [Core.put, clean]
  simp only [State.portStore, core_modCore_same, Bool.false_eq_true, if_false, hr, put, Bool.not_false, Bool.true_and]
  split
  · exact ⟨r, rfl⟩
  · split
    · exact ⟨_, rfl⟩
    · obtain ⟨q, hq⟩ := log_eq { (s.core i).ctx with regions := r } t
        (.delivery (t + 1) b (some t) (if a.again = true then some a.issued else none))
      exact ⟨q, by rw [hq]⟩

theorem portStore_other {s : State} {i j : Nat} (t : Nat) (a : Access) (b : List (Nat × Byte)) (h : j ≠ i) :
    (s.portStore i t false a b).core j = s.core j := core_modCore_other _ _ h

/-- R175: the results of a fallback. -/
def fallbackResults (spad : List Host.Cell) (a : Access) : List Pend :=
  match a.act with
  | .fallback x grp vd sx cols v top land =>
    let r := fallbackOut cols v (memBytes spad x (v.length * cols))
    ((List.range (cols / 32)).map fun k => a.result land fNone false (.vreg (vd + k) (BitVec.allOnes 1024)
        (packElems 32 (((r.1.drop (32 * k)).take 32).map (wrapTo 32))))) ++
      [a.result land fNone false (.sreg sx (BitVec.ofNat 64 top)),
        a.result land fNone false (.xcount grp r.2 1 0)]
  | _ => []

theorem portFallback_core {s : State} {i : Nat} (clean : (s.core i).badWord = []) (a : Access) :
    (s.portFallback i a).core i =
      { s.core i with ctx := { (s.core i).ctx with
          flight := (s.core i).ctx.flight ++ fallbackResults (s.core i).spad a } } := by
  unfold State.portFallback
  split
  · next h => simp [fallbackResults, h, clean, Ctx.putFlight]
  · next h =>
    have none : fallbackResults (s.core i).spad a = [] := by
      unfold fallbackResults
      split
      · next e => exact absurd e (h _ _ _ _ _ _ _ _)
      · rfl
    simp [none]

theorem portFallback_other {s : State} {i j : Nat} (a : Access) (h : j ≠ i) :
    (s.portFallback i a).core j = s.core j := by
  unfold State.portFallback
  split
  · dsimp only
    split
    · rw [core_modCtx_other _ _ h, core_modCtx_other _ _ h]
    · rw [core_modCtx_other _ _ h]
  · rfl

/-- A result as it stands once the shadows have taken what was delivered. -/
def filled (r : List Pend) (p : Pend) : Pend :=
  match r.find? (·.pairs p) with
  | some q => { p with eff := q.eff }
  | none => p

theorem enter_eq {c : Ctx} (h : c.handler = none) (r : List Pend) :
    enter r c = { c with flight := (c.flight ++ r).map (filled r) } := by
  simp only [enter, Ctx.fillShadows, Ctx.putFlight, Bool.false_eq_true, if_false, h, Option.map_none]
  rw [← h]
  rfl

/-- What a send leaves of its own core: its accesses alone may have changed. -/
theorem portSend_core (s : State) (i j : Nat) (spad : List Host.Cell) (coll : List Nat) (a : Access) :
    ∃ l, (s.portSend i spad coll a).core j = { s.core j with ctx := { (s.core j).ctx with acc := l } } := by
  have placed (k : Nat) (b : Access) :
      ∃ l, (s.place k b).core j = { s.core j with ctx := { (s.core j).ctx with acc := l } } := by
    by_cases e : j = k
    · subst e; exact ⟨_, core_modCtx_same _ _ _⟩
    · exact ⟨(s.core j).ctx.acc, core_modCtx_other _ _ e⟩
  unfold State.portSend
  split
  · exact placed _ _
  · exact placed _ _
  · exact ⟨(s.core j).ctx.acc, rfl⟩
  · exact ⟨(s.core j).ctx.acc, rfl⟩

theorem portSend_pf (s : State) (i : Nat) (spad : List Host.Cell) (coll : List Nat) (a : Access) :
    (s.portSend i spad coll a).pf = s.pf := by
  unfold State.portSend
  split <;> rfl

theorem sameOutside_trans {s t u : State} (h : SameOutside s t) (k : SameOutside t u) : SameOutside s u where
  now := k.now.trans h.now
  wcyc := k.wcyc.trans h.wcyc
  phase := k.phase.trans h.phase
  inbox := k.inbox.trans h.inbox
  pf := k.pf.trans h.pf
  bam := k.bam.trans h.bam
  parts := k.parts.trans h.parts
  cohorts := k.cohorts.trans h.cohorts
  banks := k.banks.trans h.banks
  pchs := k.pchs.trans h.pchs
  sync := k.sync.trans h.sync
  syncBad := k.syncBad.trans h.syncBad
  host := k.host.trans h.host
  rdata := k.rdata.trans h.rdata
  tlb := k.tlb.trans h.tlb
  fatal := k.fatal.trans h.fatal

theorem sameOutside_modCore (s : State) (i : Nat) (f : Core → Core) : SameOutside s (s.modCore i f) := by
  constructor <;> rfl

theorem sameOutside_modCtx (s : State) (i : Nat) (f : Ctx → Ctx) : SameOutside s (s.modCtx i f) := by
  constructor <;> rfl

theorem sameOutside_portFallback (s : State) (i : Nat) (a : Access) : SameOutside s (s.portFallback i a) := by
  unfold State.portFallback
  split
  · dsimp only
    split
    · exact sameOutside_trans (sameOutside_modCtx _ _ _) (sameOutside_modCtx _ _ _)
    · exact sameOutside_modCtx _ _ _
  · constructor <;> rfl

/-! ## An access that is served alone -/

theorem portWrite_nil (b : List (Nat × Byte)) : portWrite [] b = b := List.filter_eq_self.mpr fun _ _ => by simp

/-- What a write stores depends on the overflow counters alone. -/
theorem stores_congr (a : Access) {c d : Ctx} (h : c.ovc = d.ovc) : a.stores c = a.stores d := by
  simp only [Access.stores, h]

/-- Core i's only access has been sent where it is sent. -/
def sentAlone (s : State) (i : Nat) (a : Access) : State :=
  (s.modCtx i (·.setAcc false [])).portSend i (s.core i).spad [] a

/-- Access a is core i's only one, it is due, and it meets no collision. -/
structure Alone (s : State) (i t : Nat) (a : Access) : Prop extends Ports s i t where
  acc : (s.ctx i).acc = [a]
  due : a.due ≤ t
  free : colliding [] [a] = []
  lost : a.lost = []

section
variable {s : State} {i t : Nat} {a : Access} (h : Alone s i t a)
include h

theorem Alone.serves : s.servePorts i = portsEnd s i t [] [a] := by
  rw [servePorts_eq h.toPorts (by simp [h.acc, h.due]) (by simp [h.acc])]
  simp only [h.acc, h.free]
  rfl

theorem Alone.sends : sendStage s i [] [a] = sentAlone s i a := by
  have clean : ((s.modCtx i (·.setAcc false [])).core i).badWord = [] := by simp [h.clean]
  show ((s.modCtx i (·.setAcc false [])).portError i false a).portSend i (s.core i).spad [] a = _
  rw [portError_clean clean]
  rfl

/-- The issuing core once its access has been sent. -/
theorem Alone.sent_core (j : Nat) : ∃ l, (sentAlone s i a).core j =
    { s.core j with ctx := { (s.core j).ctx with acc := l } } := by
  obtain ⟨l, hl⟩ := portSend_core (s.modCtx i (·.setAcc false [])) i j (s.core i).spad [] a
  refine ⟨l, ?_⟩
  rw [sentAlone, hl]
  by_cases e : j = i
  · subst e; simp [Ctx.setAcc]
  · rw [core_modCtx_other _ _ e]

theorem Alone.sent_whole : bitAt (sentAlone s i a).pf.errinj 12 = false := by
  rw [sentAlone, portSend_pf]
  exact h.whole

theorem Alone.end_eq : portsEnd s i t [] [a] =
    (((sentAlone s i a).modCtx i (enter (a.reads (s.core i).spad []))).portStore i t false a
      (a.stores (s.ctx i)) |>.portFallback i a).modCtx i
    (·.keepCycle false (s.core i).spad [a] (a.stores (s.ctx i))) := by
  obtain ⟨l, hl⟩ := h.sent_core i
  have ctx : (sentAlone s i a).ctx i = { s.ctx i with acc := l } := congrArg Core.ctx hl
  have none : ((sentAlone s i a).ctx i).handler = .none := ctx ▸ h.plain.1
  have read : readStage s i [] [a] = (sentAlone s i a).modCtx i (enter (a.reads (s.core i).spad [])) := by
    rw [readStage, h.sends]
    simp [portResults]
  have stored : storedBy ((sentAlone s i a).modCtx i (enter (a.reads (s.core i).spad []))) i [] a =
      a.stores (s.ctx i) := by
    rw [storedBy, h.lost, List.append_nil, portWrite_nil, ctx_modCtx_same, enter_eq none, ctx]
    exact stores_congr a rfl
  simp only [portsEnd, fallbackStage, storeStage, List.mergeSort_singleton, List.map_cons, List.map_nil, read, stored,
    List.flatten_cons, List.flatten_nil, List.append_nil, forAll, List.foldl_cons, List.foldl_nil]
  rw [shadowStoreCheck_whole (by exact h.sent_whole)]

/-- R137, R139: what is served alone leaves its stored bytes in the scratchpad and its results in the pipelines. -/
theorem Alone.core : ∃ q, (s.servePorts i).core i = { (sentAlone s i a).core i with
    spad := memPuts (s.core i).spad (a.stores (s.ctx i))
    ctx := { (sentAlone s i a).ctx i with
      flight := ((s.ctx i).flight ++ a.reads (s.core i).spad []).map (filled (a.reads (s.core i).spad [])) ++
        fallbackResults (memPuts (s.core i).spad (a.stores (s.ctx i))) a
      regions := q } } := by
  obtain ⟨l, hl⟩ := h.sent_core i
  have ctx : (sentAlone s i a).ctx i = { (s.core i).ctx with acc := l } := congrArg Core.ctx hl
  have none : (s.core i).ctx.handler = .none := h.plain.1
  generalize hR : (sentAlone s i a).modCtx i (enter (a.reads (s.core i).spad [])) = R
  have read : R.core i = { s.core i with ctx := { (s.core i).ctx with
      acc := l
      flight := ((s.ctx i).flight ++ a.reads (s.core i).spad []).map (filled (a.reads (s.core i).spad [])) } } := by
    rw [← hR, core_modCtx_same, enter_eq (by rw [hl]; exact none), hl]
    rfl
  obtain ⟨q, store⟩ := portStore_core (s := R) (i := i) (by rw [read]; exact h.clean) t a (a.stores (s.ctx i))
  have fallback := portFallback_core (s := R.portStore i t false a (a.stores (s.ctx i))) (i := i)
    (by rw [store, read]; exact h.clean) a
  refine ⟨q, ?_⟩
  rw [h.serves, h.end_eq, hR, core_modCtx_same, fallback,
    keepCycle_plain (by rw [store, read]; exact none), store, read, ctx, hl]

theorem Alone.others {j : Nat} (e : j ≠ i) : (s.servePorts i).core j = (sentAlone s i a).core j := by
  rw [h.serves, h.end_eq, core_modCtx_other _ _ e, portFallback_other _ e,
    portStore_other _ _ _ e, core_modCtx_other _ _ e]

theorem Alone.outside : SameOutside (sentAlone s i a) (s.servePorts i) := by
  rw [h.serves, h.end_eq]
  exact sameOutside_trans (sameOutside_modCtx _ _ _) <| sameOutside_trans (sameOutside_modCore _ _ _) <|
    sameOutside_trans (sameOutside_portFallback _ _ _) (sameOutside_modCtx _ _ _)

end

end Sys2Proof.Laws
end

section
/-! PROOFS. Numbers from bytes and registers from lanes, as a port delivers them (O41). -/

namespace Sys2Proof.Laws

open Sys2Proof Sys2Proof.Machine

/-! ## Digits -/

/-- Digit k of a number in base 2^w. -/
def digit (w y k : Nat) : Nat := y / 2 ^ (w * k) % 2 ^ w

theorem digit_eq_elem (w : Nat) (v : VWord) (k : Nat) : elem w v k = digit w v.toNat k := rfl

theorem digit_mod {w n k : Nat} (h : w * k + w ≤ n) (y : Nat) : digit w (y % 2 ^ n) k = digit w y k := field_mod h y

/-- A digit put where there was none. -/
theorem digit_put {w y a k : Nat} (none : digit w y k = 0) (ha : a < 2 ^ w) (j : Nat) :
    digit w (y + a * 2 ^ (w * k)) j = if j = k then a else digit w y j := by
  have pos : 0 < 2 ^ (w * k) := by positivity
  have shift : (y + a * 2 ^ (w * k)) / 2 ^ (w * k) = y / 2 ^ (w * k) + a := Nat.add_mul_div_right _ _ pos
  have high : y / 2 ^ (w * k) % 2 ^ w = 0 := none
  rcases Nat.lt_trichotomy j k with h | rfl | h
  · have fits : w * j + w ≤ w * k := by rw [← Nat.mul_succ]; exact Nat.mul_le_mul_left w h
    rw [if_neg (by omega), ← digit_mod fits (y + _), Nat.add_mul_mod_self_right, digit_mod fits]
  · rw [if_pos rfl, digit, shift, Nat.add_mod, high, Nat.zero_add, Nat.mod_mod, Nat.mod_eq_of_lt ha]
  · obtain ⟨d, rfl⟩ := Nat.exists_eq_add_of_lt h
    have place : 2 ^ (w * (k + d + 1)) = 2 ^ (w * k) * (2 ^ w * 2 ^ (w * d)) := by
      rw [← pow_add, ← pow_add]; ring_nf
    have carry : (y / 2 ^ (w * k) + a) / 2 ^ w = y / 2 ^ (w * k) / 2 ^ w := by
      rw [← Nat.div_add_mod (y / 2 ^ (w * k)) (2 ^ w), high, Nat.add_zero, Nat.mul_add_div (by positivity),
        Nat.div_eq_of_lt ha, Nat.mul_div_cancel_left _ (by positivity), Nat.add_zero]
    rw [if_neg (by omega), digit, digit, place, ← Nat.div_div_eq_div_mul, ← Nat.div_div_eq_div_mul, shift, carry,
      ← Nat.div_div_eq_div_mul, ← Nat.div_div_eq_div_mul]

section
variable {α : Type} (w : Nat) (key val : α → Nat)

/-- The number with digit val x at place key x for each x of a list. -/
def digits (l : List α) (y : Nat) : Nat := l.foldl (fun a x => a + val x * 2 ^ (w * key x)) y

variable {w key val}

/-- A digit that is not put stays. -/
theorem digit_digits_other {l : List α} {y : Nat} (small : ∀ x ∈ l, val x < 2 ^ w) (once : (l.map key).Nodup)
    (none : ∀ x ∈ l, digit w y (key x) = 0) {k : Nat} (hk : k ∉ l.map key) :
    digit w (digits w key val l y) k = digit w y k := by
  induction l generalizing y with
  | nil => rfl
  | cons x l ih =>
    obtain ⟨hx, once⟩ := List.nodup_cons.mp once
    rw [List.map_cons, List.mem_cons, not_or] at hk
    have put := digit_put (none x (by simp)) (small x (by simp))
    have free : ∀ z ∈ l, digit w (y + val x * 2 ^ (w * key x)) (key z) = 0 := fun z hz => by
      rw [put, if_neg fun e => hx (List.mem_map.mpr ⟨z, hz, e⟩)]
      exact none z (by simp [hz])
    exact (ih (fun z hz => small z (by simp [hz])) once free hk.2).trans (by rw [put, if_neg hk.1])

/-- A digit that is put. -/
theorem digit_digits_same {l : List α} {y : Nat} (small : ∀ x ∈ l, val x < 2 ^ w) (once : (l.map key).Nodup)
    (none : ∀ x ∈ l, digit w y (key x) = 0) {x : α} (hx : x ∈ l) :
    digit w (digits w key val l y) (key x) = val x := by
  induction l generalizing y with
  | nil => cases hx
  | cons z l ih =>
    obtain ⟨hz, rest⟩ := List.nodup_cons.mp once
    have put := digit_put (none z (by simp)) (small z (by simp))
    have free : ∀ v ∈ l, digit w (y + val z * 2 ^ (w * key z)) (key v) = 0 := fun v hv => by
      rw [put, if_neg fun e => hz (List.mem_map.mpr ⟨v, hv, e⟩)]
      exact none v (by simp [hv])
    have small' : ∀ v ∈ l, val v < 2 ^ w := fun v hv => small v (by simp [hv])
    rcases List.mem_cons.mp hx with rfl | hx
    · exact (digit_digits_other small' rest free hz).trans (by rw [put, if_pos rfl])
    · exact ih small' rest free hx

end

theorem digit_zero (w k : Nat) : digit w 0 k = 0 := by simp [digit]

/-- A bit is a digit in base 2. -/
theorem testBit_iff_digit (y k : Nat) : y.testBit k = true ↔ digit 1 y k = 1 := by
  rw [Nat.testBit_eq_decide_div_mod_eq, digit, Nat.one_mul]
  simp

/-! ## Lane masks -/

/-- The predicate with one bit for each lane of a list. -/
theorem getLsbD_lanes {lanes : List (Nat × Nat)} (once : (lanes.map (·.1)).Nodup) {k : Nat} (hk : k < 32) :
    (BitVec.ofNat 32 (lanes.foldl (fun y (e : Nat × Nat) => y + 2 ^ e.1) 0)).getLsbD k =
      decide (k ∈ lanes.map (·.1)) := by
  have sum : lanes.foldl (fun y (e : Nat × Nat) => y + 2 ^ e.1) 0 = digits 1 (·.1) (fun _ => 1) lanes 0 := by
    simp [digits]
  rw [BitVec.getLsbD_ofNat, sum, Bool.eq_iff_iff, Bool.and_eq_true, decide_eq_true_iff, decide_eq_true_iff,
    testBit_iff_digit]
  by_cases h : k ∈ lanes.map (·.1)
  · obtain ⟨e, he, rfl⟩ := List.mem_map.mp h
    have := digit_digits_same (w := 1) (val := fun _ : Nat × Nat => 1) (fun _ _ => by decide) once
      (fun _ _ => digit_zero _ _) he
    exact ⟨fun _ => h, fun _ => ⟨hk, this⟩⟩
  · have := digit_digits_other (w := 1) (val := fun _ : Nat × Nat => 1) (fun _ _ => by decide) once
      (fun _ _ => digit_zero _ _) h
    rw [this, digit_zero]
    simp [h]

/-- Element k of a lane mask. -/
theorem elem_laneMask (m : Half) {k : Nat} (hk : k < 32) :
    elem 32 (laneMask m) k = if m.getLsbD k then 2 ^ 32 - 1 else 0 := by
  have sum : (List.range 32).foldl (fun a i => if bitAt m i then a + (2 ^ 32 - 1) * 2 ^ (32 * i) else a) 0 =
      digits 32 id (fun i => if bitAt m i then 2 ^ 32 - 1 else 0) (List.range 32) 0 := by
    rw [digits]
    congr 1
    funext a i
    split <;> simp
  have same := digit_digits_same (w := 32) (key := id) (val := fun i => if bitAt m i then 2 ^ 32 - 1 else 0)
    (fun i _ => by split <;> decide) (by simpa using List.nodup_range (n := 32)) (fun _ _ => digit_zero 32 _)
    (List.mem_range.mpr hk)
  rw [digit_eq_elem, laneMask, BitVec.toNat_ofNat, sum, digit_mod (show 32 * k + 32 ≤ 1024 by omega)]
  exact same.trans (by rw [bitAt_eq_getLsbD])

/-- The lanes of a lane mask. -/
theorem laneBits_laneMask (m : Half) : laneBits (laneMask m) = m := by
  have bit {i : Nat} (hi : i < 32) : bitAt (laneMask m) (32 * i) = m.getLsbD i := by
    rw [bitAt_eq_getLsbD, ← Nat.add_zero (32 * i), getLsbD_eq_elem (by decide), elem_laneMask m hi]
    cases m.getLsbD i <;> rfl
  have sum : (List.range 32).foldl (fun a i => if bitAt (laneMask m) (32 * i) then a + 2 ^ i else a) 0 =
      digits 1 id (fun i => if bitAt (laneMask m) (32 * i) then 1 else 0) (List.range 32) 0 := by
    rw [digits]
    congr 1
    funext a i
    split <;> simp
  refine BitVec.eq_of_getLsbD_eq fun k hk => ?_
  have same := digit_digits_same (w := 1) (key := id) (val := fun i => if bitAt (laneMask m) (32 * i) then 1 else 0)
    (fun i _ => by split <;> decide) (by simpa using List.nodup_range (n := 32)) (fun _ _ => digit_zero 1 _)
    (List.mem_range.mpr hk)
  rw [laneBits, BitVec.getLsbD_ofNat, sum, Bool.eq_iff_iff, Bool.and_eq_true, decide_eq_true_iff, testBit_iff_digit]
  simp only [id, bit hk] at same
  rw [same]
  simp [hk]

/-! ## Bytes -/

theorem ofBytes_eq_packed (l : List Byte) : ofBytes l = packed 8 (l.map (·.toNat)) := by
  induction l with
  | nil => rfl
  | cons b l ih =>
    have e : packed 8 ((b :: l).map (·.toNat)) = packed 8 (l.map (·.toNat)) * 2 ^ 8 + b.toNat % 2 ^ 8 := rfl
    rw [e, ← ih, Nat.mod_eq_of_lt b.isLt]
    rfl

theorem ofBytes_lt (l : List Byte) : ofBytes l < 2 ^ (8 * l.length) := by
  rw [ofBytes_eq_packed]
  simpa using packed_lt 8 (l.map (·.toNat))

/-- Bit 8k + j of a number of bytes is bit j of byte k. -/
theorem testBit_ofBytes {l : List Byte} {k j : Nat} (hk : k < l.length) (hj : j < 8) :
    (ofBytes l).testBit (8 * k + j) = l[k].getLsbD j := by
  have get := packed_get 8 (l.map (·.toNat)) k (by simpa using hk)
  rw [← ofBytes_eq_packed, List.getElem_map, Nat.mod_eq_of_lt l[k].isLt] at get
  have : (ofBytes l / 2 ^ (8 * k) % 2 ^ 8).testBit j = (ofBytes l).testBit (8 * k + j) := by
    rw [Nat.testBit_mod_two_pow, Nat.testBit_div_two_pow, Nat.add_comm j]
    simp [hj]
  rw [← this, get]
  rfl

/-- The number of a run of bytes is their sum, each in its place. -/
theorem ofBytes_range (f : Nat → Byte) (n : Nat) :
    ofBytes ((List.range n).map f) = ((List.range n).map fun k => (f k).toNat * 2 ^ (8 * k)).sum := by
  induction n generalizing f with
  | zero => rfl
  | succ n ih =>
    have tail := ih fun k => f (k + 1)
    have e : ofBytes (f 0 :: (List.range n).map (fun k => f (k + 1))) =
        ofBytes ((List.range n).map fun k => f (k + 1)) * 256 + (f 0).toNat := rfl
    simp only [List.range_succ_eq_map, List.map_cons, List.map_map, Function.comp_def, List.sum_cons,
      Nat.succ_eq_add_one, e, tail, ← List.sum_map_mul_right]
    rw [Nat.add_comm]
    congr 1
    · simp
    · congr 1
      refine List.map_congr_left fun k _ => ?_
      rw [Nat.mul_assoc, show (256 : Nat) = 2 ^ 8 from rfl, ← pow_add]
      ring_nf

/-- What a port delivers of a memory in canonical form: its bytes, and zero from a colliding bank. -/
theorem portRead_eq {m : List Host.Cell} (wf : Memory.wf m = true) (coll : List Nat) (x n : Nat) :
    portRead m coll x n = (List.range n).map fun k =>
      if coll.contains (bankOfUnit ((x + k) / 32)) then 0 else memGet m (x + k) := by
  refine List.ext_getElem (by simp [portRead]) fun k hk _ => ?_
  have hk' : k < n := by simpa [portRead] using hk
  have get := memBytes_getD x n k hk' wf
  rw [List.getD_eq_getElem _ _ (by simpa using hk')] at get
  simp [portRead, get]

theorem portRead_nil {m : List Host.Cell} (wf : Memory.wf m = true) (x n : Nat) :
    portRead m [] x n = (List.range n).map fun k => memGet m (x + k) := by
  simp [portRead_eq wf]

end Sys2Proof.Laws
end

section
/-! PROOFS. What a store, a read and a send that a port serves alone leave (O41). -/

namespace Sys2Proof.Laws

open Sys2Proof Sys2Proof.Machine

/-! ## Accesses that stay at home -/

/-- The access sends nothing to another core or to a pseudo-channel. -/
def staysHome (p : Port) : Bool :=
  match p with
  | .push .. | .pull .. | .toDram .. => false
  | _ => true

/-- The access stores nothing and lands no fallback. -/
def onlyReads (p : Port) : Bool :=
  match p with
  | .write _ none | .ovc .. | .fallback .. => false
  | _ => true

theorem stores_of_onlyReads {a : Access} (h : onlyReads a.act = true) (c : Ctx) : a.stores c = [] := by
  unfold Access.stores
  split
  · next e => simp [onlyReads, e] at h
  · next e => simp [onlyReads, e] at h
  · rfl

theorem fallbackResults_of_onlyReads {a : Access} (h : onlyReads a.act = true) (spad : List Host.Cell) :
    fallbackResults spad a = [] := by
  unfold fallbackResults
  split
  · next e => simp [onlyReads, e] at h
  · rfl

theorem portSend_of_staysHome {a : Access} (h : staysHome a.act = true) (s : State) (i : Nat) (spad : List Host.Cell)
    (coll : List Nat) : s.portSend i spad coll a = s := by
  unfold State.portSend
  split
  · next e => simp [staysHome, e] at h
  · next e => simp [staysHome, e] at h
  · next e => simp [staysHome, e] at h
  · rfl

theorem map_filled_nil (l : List Pend) : l.map (filled []) = l :=
  (List.map_congr_left fun _ _ => rfl).trans (List.map_id l)

/-- A shadow of a delivered result takes its value; the result stands as it is. -/
theorem map_filled_singleton (f : List Pend) (p : Pend) :
    (f ++ [p]).map (filled [p]) = f.map (fun x => if p.pairs x then { x with eff := p.eff } else x) ++ [p] := by
  have one (x : Pend) : filled [p] x = if p.pairs x then { x with eff := p.eff } else x := by
    unfold filled
    cases e : p.pairs x <;> simp [e]
  have self : p.pairs p = false := by
    cases e : p.shadow <;> simp [Pend.pairs, e]
  rw [List.map_append, List.map_congr_left fun x _ => one x]
  simp [one, self]

theorem sameMemory_of_outside {s u : State} (o : SameOutside s u)
    (spad : ∀ j a, u.spadByte j a = s.spadByte j a) (tile : ∀ j a, u.tileByte j a = s.tileByte j a) :
    SameMemory s u where
  spad := spad
  tile := tile
  dram p a := by simp [State.dramByte, State.pch, o.pchs]
  staged p a := by simp [State.stagedByte, State.pch, o.pchs]
  sync a := by rw [o.sync]
  host a := by rw [o.host]

/-- What is sent changes lists of accesses and commands alone. -/
theorem sameMemory_sentAlone (s : State) (i : Nat) (a : Access) : SameMemory s (sentAlone s i a) := by
  have own : SameMemory s (s.modCtx i (·.setAcc false [])) :=
    sameMemory_modCore (sameMemory_refl s) i (fun c => { c with ctx := c.ctx.setAcc false [] }) rfl rfl
  have placed (j : Nat) (q : Access) : SameMemory s ((s.modCtx i (·.setAcc false [])).place j q) :=
    sameMemory_modCore own j (fun c => { c with ctx := { c.ctx with acc := c.ctx.acc ++ [q] } }) rfl rfl
  unfold sentAlone State.portSend
  split
  · exact placed _ _
  · exact placed _ _
  · exact sameMemory_modPch own _ _ (fun _ => rfl) fun _ => rfl
  · exact own

section
variable {s : State} {i t : Nat} {a : Access} (h : Alone s i t a)
include h

/-- What stores nothing leaves every byte. -/
theorem Alone.memory (none : a.stores (s.ctx i) = []) : SameMemory s (s.servePorts i) := by
  obtain ⟨q, core⟩ := h.core
  obtain ⟨l, sent⟩ := h.sent_core i
  refine sameMemory_trans (sameMemory_sentAlone s i a) (sameMemory_of_outside h.outside (fun j x => ?_) fun j x => ?_)
  · by_cases e : j = i
    · subst e
      rw [State.spadByte, State.spadByte, core, sent, none]
      rfl
    · rw [State.spadByte, State.spadByte, h.others e]
  · by_cases e : j = i
    · subst e
      rw [State.tileByte, State.tileByte, State.ctx, core]
    · rw [State.tileByte, State.tileByte, State.ctx, State.ctx, h.others e]

/-- The accesses that wait are those that the send left. -/
theorem Alone.acc_eq (j : Nat) : ((s.servePorts i).ctx j).acc = ((sentAlone s i a).ctx j).acc := by
  by_cases e : j = i
  · subst e
    obtain ⟨q, core⟩ := h.core
    rw [State.ctx, core]
  · rw [State.ctx, State.ctx, h.others e]

/-- What lands nothing leaves the pipelines. -/
theorem Alone.flight_eq (reads : onlyReads a.act = true) (none : a.reads (s.core i).spad [] = []) :
    ((s.servePorts i).ctx i).flight = (s.ctx i).flight := by
  obtain ⟨q, core⟩ := h.core
  rw [State.ctx, core, none, fallbackResults_of_onlyReads reads]
  dsimp only
  rw [List.append_nil, List.append_nil, map_filled_nil]

end

theorem sentAlone_home {a : Access} (home : staysHome a.act = true) (s : State) (i : Nat) :
    sentAlone s i a = s.modCtx i (·.setAcc false []) := portSend_of_staysHome home _ _ _ _

section
variable {s : State} {i t : Nat} {a : Access} (h : Alone s i t a) (home : staysHome a.act = true)
include h home

/-- R137, R139: what stays at home changes its own core alone. -/
theorem Alone.home_core : ∃ q, (s.servePorts i).core i = { s.core i with
    spad := memPuts (s.core i).spad (a.stores (s.ctx i))
    ctx := { s.ctx i with
      acc := []
      flight := ((s.ctx i).flight ++ a.reads (s.core i).spad []).map (filled (a.reads (s.core i).spad [])) ++
        fallbackResults (memPuts (s.core i).spad (a.stores (s.ctx i))) a
      regions := q } } := by
  obtain ⟨q, core⟩ := h.core
  refine ⟨q, ?_⟩
  rw [core, sentAlone_home home, core_modCtx_same, ctx_modCtx_same]
  rfl

theorem Alone.home_others {j : Nat} (e : j ≠ i) : (s.servePorts i).core j = s.core j := by
  rw [h.others e, sentAlone_home home, core_modCtx_other _ _ e]

theorem Alone.home_outside : SameOutside s (s.servePorts i) := by
  refine sameOutside_trans ?_ h.outside
  rw [sentAlone_home home]
  exact sameOutside_modCtx _ _ _

theorem Alone.home_acc : ((s.servePorts i).ctx i).acc = [] := by
  obtain ⟨q, core⟩ := h.home_core home
  rw [State.ctx, core]

theorem Alone.home_spadByte (x : Nat) :
    (s.servePorts i).spadByte i x = memGet (memPuts (s.core i).spad (a.stores (s.ctx i))) x := by
  obtain ⟨q, core⟩ := h.home_core home
  rw [State.spadByte, core]

theorem Alone.home_tileByte (x : Nat) : (s.servePorts i).tileByte i x = s.tileByte i x := by
  obtain ⟨q, core⟩ := h.home_core home
  rw [State.tileByte, State.ctx, core]
  rfl

/-- A read leaves its result in the pipelines, where its shadow finds it. -/
theorem Alone.lands (reads : onlyReads a.act = true) {p : Pend} (hp : a.reads (s.core i).spad [] = [p]) :
    SameMemory s (s.servePorts i) ∧ ((s.servePorts i).ctx i).acc = [] ∧ ((s.servePorts i).ctx i).flight =
      (s.ctx i).flight.map (fun x => if p.pairs x then { x with eff := p.eff } else x) ++ [p] := by
  obtain ⟨q, core⟩ := h.home_core home
  refine ⟨h.memory (stores_of_onlyReads reads _), h.home_acc home, ?_⟩
  rw [State.ctx, core, hp, fallbackResults_of_onlyReads reads]
  dsimp only
  rw [List.append_nil, map_filled_singleton]

end

/-! ## Stores (R137) -/

/-- Bytes that are written once each read as written. -/
theorem memGet_puts_same {m : List Host.Cell} {b : List (Nat × Byte)} (once : (b.map (·.1)).Nodup) {e : Nat × Byte}
    (he : e ∈ b) : memGet (memPuts m b) e.1 = e.2 := by
  induction b generalizing m with
  | nil => cases he
  | cons x b ih =>
    obtain ⟨hx, once⟩ := List.nodup_cons.mp once
    rcases List.mem_cons.mp he with rfl | he
    · exact (memGet_puts_other b _ fun y hy k => hx (List.mem_map.mpr ⟨y, hy, k⟩)).trans (memGet_set_same _ _ _)
    · exact ih once he

theorem bytesOf_getD {n x k : Nat} (hk : k < n) :
    (bytesOf n x).getD k blankByte = BitVec.ofNat 8 (x / 2 ^ (8 * k)) := by
  simp [bytesOf, hk]

section
variable {s : State} {i t : Nat} {a : Access} (h : Alone s i t a)
include h

/-- R137: a store writes exactly its bytes. -/
theorem Alone.store {b : List (Nat × Byte)} (ha : a.act = .write b none) (once : (b.map (·.1)).Nodup) :
    (∀ e ∈ b, (s.servePorts i).spadByte i e.1 = e.2) ∧
    (∀ x, x ∉ b.map (·.1) → (s.servePorts i).spadByte i x = s.spadByte i x) ∧
    (∀ x, (s.servePorts i).tileByte i x = s.tileByte i x) ∧
    (∀ j ≠ i, (s.servePorts i).core j = s.core j) ∧ SameOutside s (s.servePorts i) ∧
    ((s.servePorts i).ctx i).acc = [] := by
  have home : staysHome a.act = true := by rw [ha]; rfl
  have stores : a.stores (s.ctx i) = b := by simp [Access.stores, ha]
  refine ⟨fun e he => ?_, fun x hx => ?_, h.home_tileByte home, fun j => h.home_others home, h.home_outside home,
    h.home_acc home⟩
  · rw [h.home_spadByte home, stores, memGet_puts_same once he]
  · rw [h.home_spadByte home, stores, memGet_puts_other b _ fun e he k => hx (List.mem_map.mpr ⟨e, he, k⟩)]
    rfl

/-- R142: a shadow stores nothing. -/
theorem Alone.shadowStore {b : List (Nat × Byte)} {r : Nat} (ha : a.act = .write b (some r)) :
    SameMemory s (s.servePorts i) ∧ ((s.servePorts i).ctx i).acc = [] := by
  have home : staysHome a.act = true := by rw [ha]; rfl
  exact ⟨h.memory (stores_of_onlyReads (by rw [ha]; rfl) _), h.home_acc home⟩

/-- R157: the 32 bytes of a tile's overflow counters. -/
theorem Alone.overflow {n x : Nat} {old : Word} (ha : a.act = .ovc n x old) (y : Nat) :
    let w := ovcAdd old (bits (SMap.get (s.ctx i).ovc 0 n) 31 0) (bits (SMap.get (s.ctx i).ovc 0 n) 47 32)
    (s.servePorts i).spadByte i y = if x ≤ y ∧ y < x + 8 then w.extractLsb' (8 * (y - x)) 8
      else if x ≤ y ∧ y < x + 32 then 0 else s.spadByte i y := by
  intro w
  have home : staysHome a.act = true := by rw [ha]; rfl
  have stores : a.stores (s.ctx i) = placed x (bytesOf 8 w.toNat ++ List.replicate 24 0) := by
    simp [Access.stores, ha, w]
  have eight : (bytesOf 8 w.toNat).length = 8 := by simp [bytesOf]
  have len : (bytesOf 8 w.toNat ++ List.replicate 24 0).length = 32 := by simp [eight]
  rw [h.home_spadByte home, stores, memPuts_placed, memGet_put, len]
  by_cases near : x ≤ y ∧ y < x + 8
  · rw [if_pos (by omega), if_pos near, List.getD_append _ _ _ _ (by omega)]
    rw [bytesOf_getD (by omega), BitVec.extractLsb', Nat.shiftRight_eq_div_pow]
  · rw [if_neg near]
    split
    · rw [List.getD_append_right _ _ _ _ (by omega),
        List.getD_eq_getElem _ _ (by simp only [List.length_replicate]; omega), List.getElem_replicate]
    · rfl

end

end Sys2Proof.Laws
end

section
/-! PROOFS. What a read and a send that a port serves alone leave (O41). -/

namespace Sys2Proof.Laws

open Sys2Proof Sys2Proof.Machine

/-! ## Reads (R139) -/

theorem portRead_length (m : List Host.Cell) (coll : List Nat) (x n : Nat) : (portRead m coll x n).length = n := by
  simp [portRead]

/-- A number of n bytes as it is delivered to a scalar register: extended with zeros, or with its sign. -/
theorem scalar_value {l : List Byte} {n : Nat} (len : l.length = n) (pos : 0 < n) (le : n ≤ 8) (z : Bool) :
    let v : Word := if z then BitVec.ofNat 64 (ofBytes l) else BitVec.ofInt 64 (sval (8 * n) (ofBytes l))
    (∀ k (hk : k < n), v.extractLsb' (8 * k) 8 = l[k]) ∧
      ∀ k < 64, 8 * n ≤ k → v.getLsbD k = (!z && v.getLsbD (8 * n - 1)) := by
  subst len
  intro v
  let x : BitVec (8 * l.length) := BitVec.ofNat _ (ofBytes l)
  have toNat : x.toNat = ofBytes l := (BitVec.toNat_ofNat _ _).trans (Nat.mod_eq_of_lt (ofBytes_lt l))
  have wide : v = if z then x.setWidth 64 else x.signExtend 64 := by
    cases z with
    | true => exact BitVec.eq_of_toNat_eq (by simp [v, toNat, BitVec.toNat_setWidth])
    | false =>
      have value : sval (8 * l.length) (ofBytes l) = x.toInt := by rw [← toNat, sval_toNat x (by omega)]
      simp [v, value, BitVec.signExtend]
  have low {j : Nat} (hj : j < 8 * l.length) : v.getLsbD j = (ofBytes l).testBit j := by
    have : x.getLsbD j = (ofBytes l).testBit j := by rw [← toNat]; rfl
    rw [wide, ← this]
    cases z with
    | true => simp [BitVec.getLsbD_setWidth]; omega
    | false => simp [BitVec.getLsbD_signExtend, hj]; omega
  refine ⟨fun k hk => BitVec.eq_of_getLsbD_eq fun j hj => ?_, fun k hk far => ?_⟩
  · rw [BitVec.getLsbD_extractLsb', low (by omega), testBit_ofBytes hk hj]
    simp [hj]
  · rw [wide]
    cases z with
    | true => simp [BitVec.getLsbD_of_ge x k far]
    | false =>
      have last : x.getLsbD (8 * l.length - 1) = x.msb := (BitVec.msb_eq_getLsbD_last x).symm
      have sign (j : Nat) (hj : j < 64) :
          (x.signExtend 64).getLsbD j = if j < 8 * l.length then x.getLsbD j else x.msb := by
        rw [BitVec.getLsbD_signExtend]
        simp [hj]
      simp only [Bool.false_eq_true, if_false, Bool.not_false, Bool.true_and]
      rw [sign k hk, sign _ (by omega), if_neg (by omega), if_pos (by omega), last]

section
variable {s : State} {i t : Nat} {a : Access} (h : Alone s i t a)
include h

/-- What the port delivers. -/
theorem Alone.delivers (x n : Nat) : portRead (s.core i).spad ([] ++ a.lost) x n =
    (List.range n).map fun k => s.spadByte i (x + k) := by
  rw [h.lost]
  exact portRead_nil h.wf x n

/-- R139: a load delivers its bytes to its register. -/
theorem Alone.toScalar {r x n land : Nat} {z : Bool} (ha : a.act = .toS r x n z land) (pos : 0 < n) (le : n ≤ 8) :
    ∃ p : Pend, (p.land = land ∧ p.shadow = false ∧ ∃ v : Word, p.eff = .sreg r v ∧
        (∀ k < n, v.extractLsb' (8 * k) 8 = s.spadByte i (x + k)) ∧
        ∀ k < 64, 8 * n ≤ k → v.getLsbD k = (!z && v.getLsbD (8 * n - 1))) ∧
      SameMemory s (s.servePorts i) ∧ ((s.servePorts i).ctx i).acc = [] ∧ ((s.servePorts i).ctx i).flight =
        (s.ctx i).flight.map (fun x => if p.pairs x then { x with eff := p.eff } else x) ++ [p] := by
  obtain ⟨low, high⟩ := scalar_value (l := (List.range n).map fun k => s.spadByte i (x + k)) (by simp) pos le z
  refine ⟨a.result land fNone false (.sreg r _), ⟨rfl, rfl, _, rfl, fun k hk => ?_, high⟩,
    h.lands (by rw [ha]; rfl) (by rw [ha]; rfl) ?_⟩
  · exact (low k hk).trans (by simp)
  · simp only [Access.reads, ha, h.delivers]

/-- The number of n bytes. -/
theorem Alone.number (x n : Nat) : ofBytes (portRead (s.core i).spad ([] ++ a.lost) x n) =
    ((List.range n).map fun k => (s.spadByte i (x + k)).toNat * 2 ^ (8 * k)).sum := by
  rw [h.delivers, ofBytes_range]

/-- R139, R141, R143: a vector load delivers the elements of its lanes. -/
theorem Alone.toVector {r land : Nat} {lanes : List (Nat × Nat)} {words : List Nat} {shadow : Bool}
    (ha : a.act = .toV r lanes words land shadow) (once : (lanes.map (·.1)).Nodup) (fit : ∀ e ∈ lanes, e.1 < 32) :
    ∃ p : Pend, (p.land = land ∧ p.shadow = shadow ∧ ∃ m v, p.eff = .vreg r m v ∧
        (∀ k < 32, elem 32 m k = if k ∈ lanes.map (·.1) then 2 ^ 32 - 1 else 0) ∧
        ∀ e ∈ lanes, elem 32 v e.1 =
          ((List.range 4).map fun k => (s.spadByte i (e.2 + k)).toNat * 2 ^ (8 * k)).sum) ∧
      SameMemory s (s.servePorts i) ∧ ((s.servePorts i).ctx i).acc = [] ∧ ((s.servePorts i).ctx i).flight =
        (s.ctx i).flight.map (fun x => if p.pairs x then { x with eff := p.eff } else x) ++ [p] := by
  let rd : Nat × Nat → Nat := fun e => ofBytes (portRead (s.core i).spad ([] ++ a.lost) e.2 4)
  have small (e : Nat × Nat) : rd e < 2 ^ 32 := by
    have lt := ofBytes_lt (portRead (s.core i).spad ([] ++ a.lost) e.2 4)
    rwa [portRead_length] at lt
  refine ⟨a.result land fNone shadow (.vreg r (laneMask (BitVec.ofNat 32 (lanes.foldl (fun y e => y + 2 ^ e.1) 0)))
      (BitVec.ofNat 1024 (digits 32 (·.1) rd lanes 0))),
    ⟨rfl, rfl, _, _, rfl, fun k hk => ?_, fun e he => ?_⟩, h.lands (by rw [ha]; rfl) (by rw [ha]; rfl) ?_⟩
  · rw [elem_laneMask _ hk, getLsbD_lanes once hk]
    simp only [decide_eq_true_iff]
  · have same := digit_digits_same (w := 32) (key := (·.1)) (val := rd) (fun e _ => small e) once
      (fun _ _ => digit_zero 32 _) he
    have place := fit e he
    rw [digit_eq_elem, BitVec.toNat_ofNat, digit_mod (show 32 * e.1 + 32 ≤ 1024 by omega), same]
    exact h.number e.2 4
  · simp only [Access.reads, ha]
    rfl

/-- R157: a tile load delivers its image. -/
theorem Alone.toTile {n x land : Nat} (ha : a.act = .toTile n x land) :
    ∃ p : Pend, (p.land = land ∧ p.shadow = false ∧
        p.eff = .tile [(4096 * n, (List.range 4096).map fun k => s.spadByte i (x + k))] (tileLines n) []) ∧
      SameMemory s (s.servePorts i) ∧ ((s.servePorts i).ctx i).acc = [] ∧ ((s.servePorts i).ctx i).flight =
        (s.ctx i).flight.map (fun x => if p.pairs x then { x with eff := p.eff } else x) ++ [p] := by
  refine ⟨a.result land fNone false (.tile [(4096 * n, (List.range 4096).map fun k => s.spadByte i (x + k))]
    (tileLines n) []), ⟨rfl, rfl, rfl⟩, h.lands (by rw [ha]; rfl) (by rw [ha]; rfl) ?_⟩
  simp only [Access.reads, ha, h.delivers]

end

/-! ## Tables (R126) -/

/-- An element depends on the table's 2064 bytes alone. -/
theorem tintElem_congr (f : Fmt) (mode : Nat) (ftz : Bool) {tab tab' : Nat → Nat} (same : ∀ o ≤ 2060, tab o = tab' o)
    (x : Nat) : tintElem f mode ftz tab x = tintElem f mode ftz tab' x := by
  have place (v : FV) : tintPlace ftz tab v = tintPlace ftz tab' v := by
    rw [tintPlace, same 0 (by omega), same 4 (by omega)]
    rfl
  cases hv : fisNan (fdec f ftz x) with
  | true => rw [tintElem_nan hv, tintElem_nan hv]
  | false =>
    cases hu : tintPlace ftz tab' (fdec f ftz x) with
    | nan _ =>
      rw [tintElem_nan_place hv (by rw [place, hu]; rfl), tintElem_nan_place hv (by rw [hu]; rfl)]
    | inf n =>
      rw [tintElem_inf hv ((place _).trans hu), tintElem_inf hv hu, same _ (by split <;> omega),
        same _ (by split <;> omega)]
    | fin n m e =>
      have le : tintIndex n m e ≤ 255 := by
        unfold tintIndex
        split
        · split <;> omega
        · omega
      rw [tintElem_fin hv ((place _).trans hu), tintElem_fin hv hu, same _ (by omega), same _ (by omega)]

section
variable {s : State} {i t : Nat} {a : Access} (h : Alone s i t a)
include h

/-- R126: VTINT's elements are those of the table that the port delivers. -/
theorem Alone.table {r x w mode land : Nat} {src : VWord} {m : Half} {z shadow : Bool}
    (ha : a.act = .table r x src (laneMask m) w mode z land shadow) :
    ∃ p : Pend, (p.land = land ∧ p.shadow = shadow ∧ ∃ v, p.eff = .vreg r (laneMask m) v ∧
        let y := fun k => tintElem (if w = 32 then fmtF32 else fmtBF16) mode z
          (fun o => ((List.range 4).map fun k => (s.spadByte i (x + o + k)).toNat * 2 ^ (8 * k)).sum) (elem w src k)
        (∀ k < 1024 / w, active m w k = true → elem w v k = (y k).1 % 2 ^ w) ∧
          p.flags = laneFlags m w fun k => (y k).2) ∧
      SameMemory s (s.servePorts i) ∧ ((s.servePorts i).ctx i).acc = [] ∧ ((s.servePorts i).ctx i).flight =
        (s.ctx i).flight.map (fun x => if p.pairs x then { x with eff := p.eff } else x) ++ [p] := by
  let tab := fun o => ofBytes (((portRead (s.core i).spad ([] ++ a.lost) x 2064).drop o).take 4)
  let f := if w = 32 then fmtF32 else fmtBF16
  have bytes (o : Nat) (ho : o ≤ 2060) : tab o =
      ((List.range 4).map fun k => (s.spadByte i (x + o + k)).toNat * 2 ^ (8 * k)).sum := by
    have four : (((List.range 2064).map fun k => s.spadByte i (x + k)).drop o).take 4 =
        (List.range 4).map fun k => s.spadByte i (x + o + k) := by
      refine List.ext_getElem (by simp; omega) fun k _ _ => ?_
      simp [Nat.add_assoc]
    simp only [tab, h.delivers, four, ofBytes_range]
  have elems (k : Nat) := tintElem_congr f mode z bytes (elem w src k)
  refine ⟨a.result land (tintValue w mode z tab (laneBits (laneMask m)) src).2 shadow
      (.vreg r (laneMask m) (tintValue w mode z tab (laneBits (laneMask m)) src).1),
    ⟨rfl, rfl, _, rfl, fun k hk hm => ?_, ?_⟩, h.lands (by rw [ha]; rfl) (by rw [ha]; rfl) ?_⟩
  · rw [laneBits_laneMask, tintValue, elem_packElems _ _ _ (by simpa using hk)
      (by simpa using Nat.mul_div_le 1024 w)]
    simp only [List.getElem_map, List.getElem_range, hm, if_true]
    rw [← elems]
  · show (tintValue ..).2 = _
    rw [laneBits_laneMask, tintValue, laneFlags]
    dsimp only
    rw [List.map_map]
    congr 1
    refine List.map_congr_left fun k _ => ?_
    simp only [Function.comp]
    split
    · exact congrArg Prod.snd (elems k)
    · rfl
  · simp only [Access.reads, ha]
    rfl

end

/-! ## Sends (R146, R147, R217) -/

/-- The bytes at dst that a run of bytes from x makes. -/
theorem placed_delivered (f : Nat → Byte) (dst n : Nat) :
    placed dst ((List.range n).map f) = (List.range n).map fun k => (dst + k, f k) := by
  refine List.ext_getElem (by simp [placed]) fun k _ _ => ?_
  simp [placed]

section
variable {s : State} {i t : Nat} {a : Access} (h : Alone s i t a)
include h

/-- An access that is placed on core j waits there. -/
theorem Alone.places {j : Nat} {q : Access} (reads : onlyReads a.act = true)
    (none : a.reads (s.core i).spad [] = []) (sent : sentAlone s i a = (s.modCtx i (·.setAcc false [])).place j q) :
    SameMemory s (s.servePorts i) ∧ ((s.servePorts i).ctx i).flight = (s.ctx i).flight ∧
      ((s.servePorts i).ctx j).acc = (if j = i then [] else (s.ctx j).acc) ++ [q] := by
  refine ⟨h.memory (stores_of_onlyReads reads _), h.flight_eq reads none, ?_⟩
  rw [h.acc_eq, sent, State.place, ctx_modCtx_same]
  split
  · next e => subst e; rw [ctx_modCtx_same]; rfl
  · next e => rw [ctx_modCtx_other _ _ e]

/-- R146: PUSH's bytes wait for their port cycle at the peer. -/
theorem Alone.push {x n peer dst due member : Nat} (ha : a.act = .push x n peer dst due member) :
    SameMemory s (s.servePorts i) ∧ ((s.servePorts i).ctx i).flight = (s.ctx i).flight ∧ ∃ (q : Access) (b : _),
      ((s.servePorts i).ctx peer).acc = (if peer = i then [] else (s.ctx peer).acc) ++ [q] ∧ q.act = .write b none ∧
        b = ((List.range n).map fun k => (dst + k, s.spadByte i (x + k))) ∧ q.due = due ∧ q.units = unitsOf dst n ∧
        q.window = none ∧ q.cls = (if peer = i then 2 else 1) ∧ q.key = if peer = i then a.key else member := by
  have sent : sentAlone s i a = (s.modCtx i (·.setAcc false [])).place peer
      { due := due, cls := if peer = i then 2 else 1, key := if peer = i then a.key else member, issued := a.issued
        again := false, window := none, units := unitsOf dst n, lost := []
        act := .write (placed dst (portRead (s.core i).spad ([] ++ a.lost) x n)) none } := by
    simp only [sentAlone, State.portSend, ha]
  obtain ⟨memory, flight, acc⟩ := h.places (by rw [ha]; rfl) (by rw [Access.reads, ha]) sent
  refine ⟨memory, flight, _, _, acc, rfl, ?_, rfl, rfl, rfl, rfl, rfl⟩
  rw [h.delivers, placed_delivered]

/-- R147: PULL's bytes wait for their port cycle at the issuer. -/
theorem Alone.pull {x n issuer dst due : Nat} (ha : a.act = .pull x n issuer dst due) :
    SameMemory s (s.servePorts i) ∧ ((s.servePorts i).ctx i).flight = (s.ctx i).flight ∧ ∃ (q : Access) (b : _),
      ((s.servePorts i).ctx issuer).acc = (if issuer = i then [] else (s.ctx issuer).acc) ++ [q] ∧
        q.act = .write b none ∧ b = ((List.range n).map fun k => (dst + k, s.spadByte i (x + k))) ∧ q.due = due ∧
        q.units = unitsOf dst n ∧ q.window = none ∧ q.cls = 2 ∧ q.key = a.key := by
  have sent : sentAlone s i a = (s.modCtx i (·.setAcc false [])).place issuer
      { due := due, cls := 2, key := a.key, issued := a.issued, again := false, window := none
        units := unitsOf dst n, lost := []
        act := .write (placed dst (portRead (s.core i).spad ([] ++ a.lost) x n)) none } := by
    simp only [sentAlone, State.portSend, ha]
  obtain ⟨memory, flight, acc⟩ := h.places (by rw [ha]; rfl) (by rw [Access.reads, ha]) sent
  refine ⟨memory, flight, _, _, acc, rfl, ?_, rfl, rfl, rfl, rfl, rfl⟩
  rw [h.delivers, placed_delivered]

/-- R217: MWR's bytes go to its command. -/
theorem Alone.toDram {x pch cmd : Nat} (ha : a.act = .toDram x pch cmd) :
    SameMemory s (s.servePorts i) ∧ ((s.servePorts i).pch pch).path = (s.pch pch).path.map fun k =>
      if k.id = cmd then { k with data := (List.range 32).map fun b => s.spadByte i (x + b) } else k := by
  refine ⟨h.memory (stores_of_onlyReads (by rw [ha]; rfl) _), ?_⟩
  have pch_eq : (s.servePorts i).pch pch = (sentAlone s i a).pch pch := by
    simp only [State.pch, h.outside.pchs]
  rw [pch_eq]
  simp only [sentAlone, State.portSend, ha, pch_modPch_same, h.delivers]
  rfl

end

/-! ## Fallbacks (R175) -/

/-- The exact sum of column j of a fallback whose copy begins at byte x. -/
def columnSum (v : List Int) (cols : Nat) (byte : Nat → Byte) (x j : Nat) : Int :=
  ((List.range v.length).map fun r => v.getD r 0 * (byte (x + r * cols + j)).toInt).sum

/-- Column j of a fallback, as it is computed from the bytes of the copy. -/
def column (v : List Int) (cols : Nat) (copy : List Byte) (j : Nat) : Int :=
  (v.zipIdx.map fun (e : Int × Nat) => e.1 * (copy.getD (e.2 * cols + j) 0).toInt).foldl (· + ·) 0

theorem column_eq (v : List Int) (cols : Nat) (byte : Nat → Byte) (x : Nat) {j : Nat} (hj : j < cols) :
    column v cols ((List.range (v.length * cols)).map fun k => byte (x + k)) j = columnSum v cols byte x j := by
  rw [column, ← List.sum_eq_foldl, columnSum]
  congr 1
  refine List.ext_getElem (by simp) fun r hr _ => ?_
  have row : r < v.length := by simpa using hr
  have lt : r * cols + j < v.length * cols := by nlinarith
  simp only [List.getElem_map, List.getElem_zipIdx, List.getElem_range, Nat.zero_add]
  rw [List.getD_eq_getElem _ _ (by simpa using lt), List.getD_eq_getElem _ _ row]
  simp [Nat.add_assoc]

/-- The columns of a fallback, and the count of those that saturate. -/
theorem fallbackOut_eq (v : List Int) (cols : Nat) (byte : Nat → Byte) (x : Nat) :
    let y := columnSum v cols byte x
    fallbackOut cols v ((List.range (v.length * cols)).map fun k => byte (x + k)) =
      ((List.range cols).map fun j => satS 32 (y j),
        ((List.range cols).filter fun j => satS 32 (y j) != y j).length) := by
  intro y
  have columns : (List.range cols).map (column v cols ((List.range (v.length * cols)).map fun k => byte (x + k))) =
      (List.range cols).map y := List.map_congr_left fun j hj => column_eq v cols byte x (List.mem_range.mp hj)
  show (((List.range cols).map (column v cols _)).map (satS 32),
    (((List.range cols).map (column v cols _)).filter fun z => satS 32 z != z).length) = _
  rw [columns, List.map_map, List.filter_map, List.length_map]
  rfl

/-- A saturated value in an element. -/
theorem sval_wrapTo_satS (x : Int) : sval 32 (wrapTo 32 (satS 32 x) % 2 ^ 32) = satS 32 x := by
  obtain ⟨low, high⟩ : -(2 ^ 31) ≤ satS 32 x ∧ satS 32 x < 2 ^ 31 := by
    unfold satS
    split
    · omega
    · split <;> omega
  generalize satS 32 x = y at low high
  unfold sval wrapTo
  split <;> omega

section
variable {s : State} {i t : Nat} {a : Access} (h : Alone s i t a)
include h

/-- R175: a fallback lands its columns, its exponent and its count of saturated columns. -/
theorem Alone.fallback {x grp vd sx cols land top : Nat} {v : List Int}
    (ha : a.act = .fallback x grp vd sx cols v top land) :
    let y := columnSum v cols (s.spadByte i) x
    ∃ l : List Pend, ((s.servePorts i).ctx i).flight = (s.ctx i).flight ++ l ∧ SameMemory s (s.servePorts i) ∧
      (∀ p ∈ l, p.land = land ∧ p.shadow = false) ∧ l.length = cols / 32 + 2 ∧
      (∀ k < cols / 32, ∃ p ∈ l, ∃ w, p.eff = .vreg (vd + k) (BitVec.allOnes 1024) w ∧
        ∀ j < 32, sval 32 (elem 32 w j) = satS 32 (y (32 * k + j))) ∧
      (∃ p ∈ l, p.eff = .sreg sx (BitVec.ofNat 64 top)) ∧
      ∃ p ∈ l, p.eff = .xcount grp ((List.range cols).filter fun j => satS 32 (y j) != y j).length 1 0 := by
  intro y
  have none (c : Ctx) : a.stores c = [] := by simp [Access.stores, ha]
  have reads : a.reads (s.core i).spad [] = [] := by simp [Access.reads, ha]
  have copy : fallbackOut cols v (memBytes (s.core i).spad x (v.length * cols)) =
      ((List.range cols).map fun j => satS 32 (y j),
        ((List.range cols).filter fun j => satS 32 (y j) != y j).length) := by
    rw [← fallbackOut_eq v cols (s.spadByte i) x]
    congr 1
    refine List.ext_getElem (by simp) fun k hk _ => ?_
    have get := memBytes_getD x _ k (by simpa using hk) h.wf
    rw [List.getD_eq_getElem _ _ hk] at get
    simp [get, State.spadByte]
  obtain ⟨q, core⟩ := h.core
  refine ⟨fallbackResults (s.core i).spad a, ?_, h.memory (none _), ?_⟩
  · rw [State.ctx, core, reads, none]
    dsimp only
    rw [List.append_nil, map_filled_nil]
    rfl
  · simp only [fallbackResults, ha, copy]
    refine ⟨fun p hp => ?_, by simp, fun k hk => ⟨_, List.mem_append_left _ (List.mem_map.mpr
      ⟨k, List.mem_range.mpr hk, rfl⟩), _, rfl, fun j hj => ?_⟩, ?_, ?_⟩
    · simp only [List.mem_append, List.mem_map, List.mem_cons, List.not_mem_nil, or_false] at hp
      rcases hp with ⟨k, -, rfl⟩ | rfl | rfl <;> exact ⟨rfl, rfl⟩
    · have fits : 32 * k + j < cols := by omega
      rw [elem_packElems 32 _ j (by simp; omega) (by simp; omega)]
      simp only [List.getElem_map, List.getElem_take, List.getElem_drop, List.getElem_range]
      exact sval_wrapTo_satS _
    · exact ⟨_, List.mem_append_right _ List.mem_cons_self, rfl⟩
    · exact ⟨_, List.mem_append_right _ (List.mem_cons_of_mem _ List.mem_cons_self), rfl⟩

end

end Sys2Proof.Laws
end

section
/-! PROOFS. Accesses that a port serves together, collisions, and the ports as a whole (O41). -/

namespace Sys2Proof.Laws

open Sys2Proof Sys2Proof.Machine

/-! ## Banks in which accesses collide (R138) -/

theorem nodup_eraseDups (l : List Nat) : l.eraseDups.Nodup := by
  induction h : l.length using Nat.strong_induction_on generalizing l with
  | _ n ih =>
    cases l with
    | nil => exact List.nodup_nil
    | cons a l =>
      rw [List.eraseDups_cons, List.nodup_cons]
      refine ⟨by simp, ih _ ?_ _ rfl⟩
      rw [← h]
      exact Nat.lt_succ_of_le (List.length_filter_le _ _)

/-- A bank is crowded where two units of it are named. -/
theorem mem_crowded {units : List Nat} {b : Nat} :
    b ∈ crowded 1 units ↔ ∃ m ∈ units, ∃ n ∈ units, m ≠ n ∧ bankOfUnit m = b ∧ bankOfUnit n = b := by
  have once : (units.eraseDups.filter (bankOfUnit · == b)).Nodup := (nodup_eraseDups units).filter _
  have two : 1 < (units.eraseDups.filter (bankOfUnit · == b)).length ↔
      ∃ m ∈ units, ∃ n ∈ units, m ≠ n ∧ bankOfUnit m = b ∧ bankOfUnit n = b := by
    rw [← List.toFinset_card_of_nodup once, Finset.one_lt_card]
    simp only [List.mem_toFinset, List.mem_filter, List.mem_eraseDups, beq_iff_eq]
    constructor
    · rintro ⟨m, ⟨hm, bm⟩, n, ⟨hn, bn⟩, ne⟩
      exact ⟨m, hm, n, hn, ne, bm, bn⟩
    · rintro ⟨m, hm, n, hn, ne, bm, bn⟩
      exact ⟨m, ⟨hm, bm⟩, n, ⟨hn, bn⟩, ne⟩
  simp only [crowded, List.mem_filter, List.mem_eraseDups, List.mem_map, gt_iff_lt, decide_eq_true_iff, two,
    and_iff_right_iff_imp]
  rintro ⟨m, hm, -, -, -, bm, -⟩
  exact ⟨m, hm, bm⟩

/-- R138: without gather windows, the banks of which accesses use two units. -/
theorem mem_colliding {l : List Access} (plain : ∀ a ∈ l, a.window = none) {b : Nat} :
    b ∈ colliding [] l ↔
      ∃ x ∈ l, ∃ y ∈ l, ∃ m ∈ x.units, ∃ n ∈ y.units, m ≠ n ∧ m % 192 = b ∧ n % 192 = b := by
  have windows : ((l.filter fun a => !a.units.isEmpty).all (·.window.isNone)) = true :=
    List.all_eq_true.mpr fun a ha => by rw [plain a (List.mem_filter.mp ha).1]; rfl
  have unit {m : Nat} : m ∈ (((l.filter fun a => !a.units.isEmpty).map (·.units)).flatten) ↔
      ∃ x ∈ l, m ∈ x.units := by
    simp only [List.mem_flatten, List.mem_map, List.mem_filter, Bool.not_eq_true', List.isEmpty_eq_false_iff]
    constructor
    · rintro ⟨-, ⟨x, ⟨hx, -⟩, rfl⟩, hm⟩
      exact ⟨x, hx, hm⟩
    · rintro ⟨x, hx, hm⟩
      exact ⟨_, ⟨x, ⟨hx, List.ne_nil_of_mem hm⟩, rfl⟩, hm⟩
  have all : colliding [] l = crowded 1 ((l.filter fun a => !a.units.isEmpty).map (·.units)).flatten := by
    simp only [colliding, windows, if_true, List.nil_append]
    split
    · next e => rw [List.isEmpty_iff.mp e]; rfl
    · rfl
  rw [all, mem_crowded]
  simp only [unit, bankOfUnit]
  constructor
  · rintro ⟨m, ⟨x, hx, hm⟩, n, ⟨y, hy, hn⟩, apart⟩
    exact ⟨x, hx, y, hy, m, hm, n, hn, apart⟩
  · rintro ⟨x, hx, y, hy, m, hm, n, hn, apart⟩
    exact ⟨m, ⟨x, hx, hm⟩, n, ⟨y, hy, hn⟩, apart⟩

/-- One of several is picked. -/
theorem pick_mem {α : Type} (s : State) {l : List α} (h : l ≠ []) (d : α) : (s.pick l d).1 ∈ l := by
  unfold State.pick
  split
  · simp
  · have lt : Config.choice s.draw.1 % max l.length 1 < l.length := by
      have := List.length_pos_of_ne_nil h
      rw [Nat.max_eq_left this]
      exact Nat.mod_lt _ this
    dsimp only
    rw [List.getD_eq_getElem _ _ lt]
    exact List.getElem_mem lt

/-! ## What no stage changes -/

/-- From s to u no stage of core i's port cycle has touched a colliding bank, or taken an event. -/
structure Serving (s : State) (i : Nat) (coll : List Nat) (u : State) : Prop where
  handler : (u.core i).ctx.handler = none
  clean : (u.core i).badWord = []
  whole : bitAt u.pf.errinj 12 = false
  bev : (u.core i).ctx.bev = (s.ctx i).bev
  spad : ∀ x, x / 32 % 192 ∈ coll → memGet (u.core i).spad x = s.spadByte i x

theorem Ports.serving {s : State} {i t : Nat} (h : Ports s i t) (coll : List Nat) : Serving s i coll s :=
  ⟨h.plain.1, h.clean, h.whole, rfl, fun _ _ => rfl⟩

namespace Serving

variable {s : State} {i : Nat} {coll : List Nat} {u : State} (h : Serving s i coll u)
include h

/-- A change of core i's pipelines and regions, and of bytes outside the colliding banks. -/
theorem change {v : State} (pf : v.pf = u.pf) {f : List Pend} {a : List Access} {r : List Region} {m : List Host.Cell}
    (core : v.core i = { u.core i with
      spad := m, ctx := { (u.core i).ctx with flight := f, acc := a, regions := r } })
    (spad : ∀ x, x / 32 % 192 ∈ coll → memGet m x = memGet (u.core i).spad x) : Serving s i coll v where
  handler := by rw [core]; exact h.handler
  clean := by rw [core]; exact h.clean
  whole := by rw [pf]; exact h.whole
  bev := by rw [core]; exact h.bev
  spad x hx := by rw [core]; exact (spad x hx).trans (h.spad x hx)

theorem setAcc (l : List Access) : Serving s i coll (u.modCtx i (·.setAcc false l)) :=
  h.change rfl (core_modCtx_same _ _ _) fun _ _ => rfl

theorem send (spad : List Host.Cell) (a : Access) :
    Serving s i coll ((u.portError i false a).portSend i spad coll a) := by
  rw [portError_clean h.clean]
  obtain ⟨l, core⟩ := portSend_core u i i spad coll a
  exact h.change (portSend_pf _ _ _ _ _) core fun _ _ => rfl

theorem enter (r : List Pend) : Serving s i coll (u.modCtx i (Laws.enter r)) := by
  have core := core_modCtx_same u i (Laws.enter r)
  rw [enter_eq h.handler] at core
  exact h.change rfl core fun _ _ => rfl

theorem store (t : Nat) (a : Access) : Serving s i coll (u.portStore i t false a (storedBy u i coll a)) := by
  obtain ⟨r, core⟩ := portStore_core h.clean t a (storedBy u i coll a)
  refine h.change rfl core fun x hx => memGet_puts_other _ _ fun e he k => ?_
  have free := (List.mem_filter.mp he).2
  rw [Bool.not_eq_true', k] at free
  exact absurd (List.contains_iff_mem.mpr (List.mem_append_left _ hx)) (Bool.eq_false_iff.mp free)

theorem fallback (t : Nat) (a : Access) :
    Serving s i coll ((u.shadowStoreCheck i t false a).portFallback i a) := by
  rw [shadowStoreCheck_whole h.whole]
  exact h.change (sameOutside_portFallback _ _ _).pf (portFallback_core h.clean a) fun _ _ => rfl

theorem keep (old : List Host.Cell) (now : List Access) (b : List (Nat × Byte)) :
    Serving s i coll (u.modCtx i (·.keepCycle false old now b)) := by
  have core := core_modCtx_same u i (·.keepCycle false old now b)
  rw [keepCycle_plain h.handler] at core
  exact h.change rfl core fun _ _ => rfl

end Serving

section
variable {s : State} {i t : Nat} (h : Ports s i t) (coll : List Nat) (l : List Access)
include h

theorem Ports.serving_read : Serving s i coll (readStage s i coll l) :=
  (forAll_keeps ((h.serving coll).setAcc []) fun a _ _ hu => hu.send _ a).enter _

theorem Ports.serving_store : Serving s i coll (storeStage s i t coll l) :=
  forAll_keeps (h.serving_read coll l) fun a _ _ hu => hu.store t a

theorem Ports.serving_end : Serving s i coll (portsEnd s i t coll l) :=
  (forAll_keeps (h.serving_store coll l) fun a _ _ hu => hu.fallback t a).keep _ _ _

/-- A result that no shadow is stands in the pipelines at the end of the port cycle. -/
theorem Ports.result_stays {p : Pend} (hp : p ∈ portResults s i coll l) (primary : p.shadow = false) :
    p ∈ ((portsEnd s i t coll l).core i).ctx.flight := by
  have same : filled (portResults s i coll l) p = p := by
    have none : (portResults s i coll l).find? (·.pairs p) = none :=
      List.find?_eq_none.mpr fun q _ => by simp [Pend.pairs, primary]
    rw [filled, none]
  have entered : p ∈ ((readStage s i coll l).core i).ctx.flight := by
    have sent : Serving s i coll (sendStage s i coll l) :=
      forAll_keeps ((h.serving coll).setAcc []) fun a _ _ hu => hu.send _ a
    rw [readStage, core_modCtx_same, enter_eq sent.handler]
    exact List.mem_map.mpr ⟨p, List.mem_append_right _ hp, same⟩
  have stored : Serving s i coll (storeStage s i t coll l) ∧ p ∈ ((storeStage s i t coll l).core i).ctx.flight := by
    refine forAll_keeps (P := fun u => Serving s i coll u ∧ p ∈ (u.core i).ctx.flight)
      ⟨h.serving_read coll l, entered⟩ fun a _ u hu => ⟨hu.1.store t a, ?_⟩
    obtain ⟨r, core⟩ := portStore_core hu.1.clean t a (storedBy u i coll a)
    rw [core]
    exact hu.2
  have landed : Serving s i coll (fallbackStage s i t coll l) ∧
      p ∈ ((fallbackStage s i t coll l).core i).ctx.flight := by
    refine forAll_keeps (P := fun u => Serving s i coll u ∧ p ∈ (u.core i).ctx.flight)
      stored fun a _ u hu => ⟨hu.1.fallback t a, ?_⟩
    rw [shadowStoreCheck_whole hu.1.whole, portFallback_core hu.1.clean]
    exact List.mem_append_left _ hu.2
  rw [portsEnd, core_modCtx_same, keepCycle_plain landed.1.handler]
  exact landed.2

end

/-! ## Collisions (R138, R139) -/

section
variable {s : State} {i t : Nat} (h : Ports s i t)
  (all : ∀ a ∈ (s.ctx i).acc, a.due ≤ t ∧ a.window = none ∧ a.lost = [])
include h all

/-- R138, R139: colliding banks store nothing and deliver zeros, and one of them is told. -/
theorem Ports.collides (ne : colliding [] (s.ctx i).acc ≠ []) :
    (∃ b ∈ colliding [] (s.ctx i).acc, ((s.servePorts i).ctx i).bev = (s.ctx i).bev ++
        [{ due := t + 1, issued := t, kind := .collision (BitVec.ofNat 64 (b + 256 * t)) }]) ∧
      (∀ x, x / 32 % 192 ∈ colliding [] (s.ctx i).acc → (s.servePorts i).spadByte i x = s.spadByte i x) ∧
      ∀ a ∈ (s.ctx i).acc, ∀ r x n z land, a.act = .toS r x n z land → 0 < n → n ≤ 8 →
        ∃ p ∈ ((s.servePorts i).ctx i).flight, p.land = land ∧ ∃ v : Word, p.eff = .sreg r v ∧
          ∀ k < n, v.extractLsb' (8 * k) 8 =
            if (x + k) / 32 % 192 ∈ colliding [] (s.ctx i).acc then 0 else s.spadByte i (x + k) := by
  generalize hl : (s.ctx i).acc = l at *
  have some : (s.ctx i).acc ≠ [] := fun e => ne (by rw [← hl, e]; rfl)
  let e := portsEnd s i t (colliding [] l) l
  have serves := servePorts_eq h (fun a ha => (all a (hl ▸ ha)).1) some
  rw [hl] at serves
  simp only [List.isEmpty_eq_false_iff.mpr ne, Bool.false_eq_true, if_false] at serves
  obtain ⟨f, hf⟩ := pick_eq e (colliding [] l) 0
  have core : (s.servePorts i).core i = { e.core i with ctx := { (e.core i).ctx with bev := (e.core i).ctx.bev ++
      [{ due := t + 1, issued := t
         kind := .collision (BitVec.ofNat 64 ((e.pick (colliding [] l) 0).1 + 256 * t)) }] } } := by
    rw [serves, core_modCtx_same, hf]
    rfl
  have serving := h.serving_end (t := t) (colliding [] l) l
  refine ⟨⟨_, pick_mem e ne 0, ?_⟩, fun x hx => ?_, fun a ha r x n z land act pos le => ?_⟩
  · rw [State.ctx, core]
    exact congrArg (· ++ _) serving.bev
  · rw [State.spadByte, core]
    exact serving.spad x hx
  · have lost := (all a ha).2.2
    let bytes := portRead (s.core i).spad (colliding [] l) x n
    obtain ⟨low, -⟩ := scalar_value (l := bytes) (portRead_length _ _ _ _) pos le z
    let p := a.result land fNone false
      (.sreg r (if z then BitVec.ofNat 64 (ofBytes bytes) else BitVec.ofInt 64 (sval (8 * n) (ofBytes bytes))))
    have mem : p ∈ portResults s i (colliding [] l) l := by
      refine List.mem_flatten.mpr ⟨_, List.mem_map_of_mem ha, ?_⟩
      simp [Access.reads, act, lost, p, bytes]
    refine ⟨p, ?_, rfl, _, rfl, fun k hk => (low k hk).trans ?_⟩
    · rw [State.ctx, core]
      exact h.result_stays _ _ mem rfl
    · simp only [bytes, portRead_eq h.wf, List.getElem_map, List.getElem_range, List.contains_iff_mem]
      rfl

end

/-- Settles O41: an access that is served alone, kind by kind, and accesses that collide. -/
theorem portsServe : Obligations.PortsServe := by
  unfold Obligations.PortsServe
  refine ⟨fun s i t a plain adv time acc due free lost clean whole wf => ?_,
    fun s i t plain adv time clean whole wf => ?_⟩
  · have h : Alone s i t a := ⟨⟨plain, adv, time, clean, whole, wf⟩, acc, due, free, lost⟩
    dsimp only
    refine ⟨fun b => h.store, fun b r => h.shadowStore, fun n x old => ?_, fun r x n z land => ?_,
      fun r lanes words land shadow => ?_, fun n x land => ?_,
      fun r x src m w mode z land shadow ha _ => ?_, fun x n peer dst due member ha => ?_,
      fun x n issuer dst due ha => ?_, fun x pch cmd => ?_, fun x grp vd sx cols v top land ha => ?_⟩
    · exact h.overflow
    · exact h.toScalar
    · exact h.toVector
    · exact h.toTile
    · exact h.table ha
    · exact h.push ha
    · exact h.pull ha
    · exact h.toDram
    · exact h.fallback ha
  · intro l all
    have h : Ports s i t := ⟨plain, adv, time, clean, whole, wf⟩
    exact ⟨fun b => mem_colliding fun a ha => (all a ha).2.1, h.collides all⟩

end Sys2Proof.Laws
end

section
/-! PROOFS. What guarded scalar operations land, and scalar arithmetic (O1). -/

namespace Sys2Proof.Laws

open Sys2Proof Sys2Proof.Machine

/-! ## What a guarded operation lands (R103, R107) -/

section
variable {s : State} {g : Guard} (hg : s.guarded g = true) {sd sa sb sh : BitVec 6} {imm : BitVec 8} {off : Nat} {v : Word}
  {fl : NFlags}
include hg

theorem opRR_lands {f : Word → Word → Word × NFlags} (h : f (s.cx.rs sa.toNat) (s.cx.rs sb.toNat) = (v, fl)) :
    opRR ⟨g, sd, sa, sb⟩ off f s = .next (s.landing off fl false (.sreg sd.toNat v)) := by
  rw [opRR, scalarOp_guarded hg, h]

/-- An operation on two registers that sets no flag. -/
theorem opRR_plain {f : Word → Word → Word} (h : f (s.cx.rs sa.toNat) (s.cx.rs sb.toNat) = v) :
    opRR ⟨g, sd, sa, sb⟩ off (plain f) s = .next (s.landing off fNone false (.sreg sd.toNat v)) :=
  opRR_lands hg (by rw [plain, h])

theorem opRI_lands {f : Word → Int → Word × NFlags} (h : f (s.cx.rs sa.toNat) (immOf imm s.cur.ext) = (v, fl)) :
    opRI ⟨g, sd, sa, imm⟩ f s = .next (s.landing 1 fl false (.sreg sd.toNat v)) := by
  rw [opRI, scalarOp_guarded hg, h]

theorem opRS_lands {f : Word → Nat → Word} (h : f (s.cx.rs sa.toNat) sh.toNat = v) :
    opRS ⟨g, sd, sa, sh⟩ f s = .next (s.landing 1 fNone false (.sreg sd.toNat v)) := by
  rw [opRS, scalarOp_guarded hg, h]

theorem opRU_lands {f : Word → Word} (h : f (s.cx.rs sa.toNat) = v) :
    opRU ⟨g, sd, sa⟩ f s = .next (s.landing 1 fNone false (.sreg sd.toNat v)) := by
  rw [opRU, scalarOp_guarded hg, h]

/-- A guarded predicate operation writes every bit of its register. -/
theorem predOp_lands {pd : Nat} {f : Ctx → Half} {p : Half} (h : f s.cx = p) :
    predOp g pd f s = .next (s.landing 1 fNone false (.preg pd (BitVec.allOnes 32) p)) := by
  rw [predOp, if_pos hg, h]
  rfl

end

/-! ## Integer results (R29, R104) -/

theorem ofNat_wrapTo (w : Nat) (x : Int) : BitVec.ofNat w (wrapTo w x) = BitVec.ofInt w x := by
  apply BitVec.eq_of_toNat_eq
  have nonneg : 0 ≤ x % 2 ^ w := Int.emod_nonneg _ (by positivity)
  have below : wrapTo w x < 2 ^ w := by
    rw [wrapTo, Int.toNat_lt nonneg]
    exact_mod_cast Int.emod_lt_of_pos x (by positivity)
  rw [BitVec.toNat_ofNat, Nat.mod_eq_of_lt below, BitVec.toNat_ofInt, wrapTo]
  norm_cast

theorem arith_wraps (x : Int) : arith false x = (BitVec.ofInt 64 x, fNone) :=
  congrArg (·, fNone) (ofNat_wrapTo 64 x)

theorem arith_add (a b : Word) : arith false (a.toInt + b.toInt) = (a + b, fNone) := by
  rw [arith_wraps, BitVec.ofInt_add, BitVec.ofInt_toInt, BitVec.ofInt_toInt]

theorem arith_addi (a : Word) (n : Int) : arith false (a.toInt + n) = (a + BitVec.ofInt 64 n, fNone) := by
  rw [arith_wraps, BitVec.ofInt_add, BitVec.ofInt_toInt]

theorem arith_sub (a b : Word) : arith false (a.toInt - b.toInt) = (a - b, fNone) := by
  rw [arith_wraps, Int.sub_eq_add_neg, BitVec.ofInt_add, BitVec.ofInt_neg, BitVec.ofInt_toInt, BitVec.ofInt_toInt,
    BitVec.sub_eq_add_neg]

theorem arith_mul (a b : Word) : arith false (a.toInt * b.toInt) = (a * b, fNone) := by
  rw [arith_wraps, BitVec.ofInt_mul, BitVec.ofInt_toInt, BitVec.ofInt_toInt]

theorem satS_eq_clamp (x : Int) : satS 64 x = max (-2 ^ 63) (min (2 ^ 63 - 1) x) := by
  unfold satS
  split_ifs <;> omega

/-- The bounded result is exact in 64 bits. -/
theorem arith_bounds (x : Int) : (arith true x).1.toInt = max (-2 ^ 63) (min (2 ^ 63 - 1) x) := by
  show (BitVec.ofNat 64 (wrapTo 64 (satS 64 x))).toInt = _
  rw [ofNat_wrapTo, satS_eq_clamp]
  exact BitVec.toInt_ofInt_eq_self (by decide) (by omega) (by omega)

/-- SQ tells that the bound replaced the result. -/
theorem arith_flags (x : Int) : (arith true x).2 = if -2 ^ 63 ≤ x ∧ x ≤ 2 ^ 63 - 1 then fNone else fSQ := by
  have kept : satS 64 x = x ↔ -2 ^ 63 ≤ x ∧ x ≤ 2 ^ 63 - 1 := by
    rw [satS_eq_clamp]
    omega
  exact if_congr kept rfl rfl

/-- What a .SAT form lands: the bounded exact result, with SQ when the bound replaced it. -/
theorem arith_lands {o : Out} {s : State} {off r : Nat} {x : Int}
    (h : o = .next (s.landing off (arith true x).2 false (.sreg r (arith true x).1))) :
    ∃ v : Word, o = .next (s.landing off (if -2 ^ 63 ≤ x ∧ x ≤ 2 ^ 63 - 1 then fNone else fSQ) false (.sreg r v)) ∧
      v.toInt = max (-2 ^ 63) (min (2 ^ 63 - 1) x) :=
  ⟨_, arith_flags x ▸ h, arith_bounds x⟩

/-! ## High products, quotients, remainders (R104) -/

theorem extract_high_ofInt (x : Int) : (BitVec.ofInt 128 x).extractLsb' 64 64 = BitVec.ofInt 64 (x / 2 ^ 64) := by
  apply BitVec.eq_of_toNat_eq
  rw [BitVec.extractLsb'_toNat, BitVec.toNat_ofInt, BitVec.toNat_ofInt, Nat.shiftRight_eq_div_pow]
  omega

theorem mulh_eq (a b : Word) : BitVec.ofInt 64 (a.toInt * b.toInt / 2 ^ 64) =
    (a.signExtend 128 * b.signExtend 128).extractLsb' 64 64 := by
  rw [← extract_high_ofInt, BitVec.ofInt_mul]
  rfl

theorem mulhu_eq (a b : Word) : BitVec.ofNat 64 (a.toNat * b.toNat / 2 ^ 64) =
    (a.zeroExtend 128 * b.zeroExtend 128).extractLsb' 64 64 := by
  have wide : a.zeroExtend 128 * b.zeroExtend 128 = BitVec.ofInt 128 (a.toNat * b.toNat : Nat) := by
    rw [BitVec.ofInt_natCast, BitVec.ofNat_mul, BitVec.ofNat_toNat, BitVec.ofNat_toNat]
  rw [wide, extract_high_ofInt, ← BitVec.ofInt_natCast]
  norm_cast

theorem toInt_eq_zero_iff (b : Word) : b.toInt = 0 ↔ b = 0 := by
  rw [← BitVec.toInt_inj]
  rfl

/-- The truncated quotient as a word: −2^63 for −2^63 over −1 (R104). -/
theorem sdiv_eq_ofInt (a b : Word) : a.sdiv b = BitVec.ofInt 64 (a.toInt.tdiv b.toInt) :=
  BitVec.eq_of_toInt_eq (by rw [BitVec.toInt_sdiv, BitVec.toInt_ofInt])

theorem srem_eq_ofInt (a b : Word) : a.srem b = BitVec.ofInt 64 (a.toInt - b.toInt * a.toInt.tdiv b.toInt) := by
  rw [← Int.tmod_def, ← BitVec.toInt_srem, BitVec.ofInt_toInt]

theorem sdiv_pair (a b : Word) : sdiv a b = if b = 0 then (BitVec.allOnes 64, a) else (a.sdiv b, a.srem b) := by
  rw [sdiv, sdiv_eq_ofInt, srem_eq_ofInt]
  refine if_congr (toInt_eq_zero_iff b) rfl (ite_eq_right_iff.mpr fun spill => ?_)
  obtain ⟨ha, hb⟩ := spill
  have least : a = BitVec.ofInt 64 (-2 ^ 63) := by rw [← ha, BitVec.ofInt_toInt]
  rw [ha, hb, least]
  decide

theorem sdiv_quotient (a b : Word) : (sdiv a b).1 = if b = 0 then BitVec.allOnes 64 else a.sdiv b := by
  rw [sdiv_pair, apply_ite Prod.fst]

theorem sdiv_remainder (a b : Word) : (sdiv a b).2 = if b = 0 then a else a.srem b := by
  rw [sdiv_pair, apply_ite Prod.snd]

theorem toNat_eq_zero_iff (b : Word) : b.toNat = 0 ↔ b = 0 := by
  rw [← BitVec.toNat_inj]
  rfl

theorem udiv_pair (a b : Word) : udiv a b = if b = 0 then (BitVec.allOnes 64, a) else (a / b, a % b) := by
  rw [udiv, BitVec.udiv_def, BitVec.umod_def]
  exact if_congr (toNat_eq_zero_iff b) rfl rfl

theorem udiv_quotient (a b : Word) : (udiv a b).1 = if b = 0 then BitVec.allOnes 64 else a / b := by
  rw [udiv_pair, apply_ite Prod.fst]

theorem udiv_remainder (a b : Word) : (udiv a b).2 = if b = 0 then a else a % b := by
  rw [udiv_pair, apply_ite Prod.snd]

/-- Settles O1: the wrapped forms by what `arith` and the wide products are as words, the .SAT forms by `arith_lands`,
the quotients and remainders by the cases of a zero divisor and of overflow. -/
theorem scalarArithmetic : Obligations.ScalarArithmetic := by
  unfold Obligations.ScalarArithmetic
  refine ⟨fun s g sd sa sb imm hg => ?_, fun s g sd sa sb imm hg => ?_, fun s g sd sa sb hg => ?_⟩
  · dsimp only [exec, execAdd, execSub, execAddi, execMul, execMulh, execMulhu]
    exact ⟨opRR_lands hg (arith_add _ _), opRR_lands hg (arith_sub _ _), opRI_lands hg (arith_addi _ _),
      opRR_lands hg (arith_mul _ _), opRR_plain hg (mulh_eq _ _), opRR_plain hg (mulhu_eq _ _)⟩
  · dsimp only [exec, execAdd, execSub, execAddi, execMul]
    exact ⟨arith_lands (opRR_lands hg rfl), arith_lands (opRR_lands hg rfl), arith_lands (opRI_lands hg rfl),
      arith_lands (opRR_lands hg rfl)⟩
  · dsimp only [exec, execDiv, execRem, execDivu, execRemu]
    exact ⟨opRR_plain hg (sdiv_quotient _ _), opRR_plain hg (sdiv_remainder _ _), opRR_plain hg (udiv_quotient _ _),
      opRR_plain hg (udiv_remainder _ _)⟩

end Sys2Proof.Laws
end

section
/-! PROOFS. Scalar logic, shifts and counts (O2), and opcodes of the scalar map. -/

namespace Sys2Proof.Laws

open Sys2Proof Sys2Proof.Machine

/-! ## Logic, shifts, counts (R105) -/

/-- A shift by a register uses its count modulo 64. -/
theorem toNat_mod_64 (b : Word) : (b % 64).toNat = b.toNat % 64 := BitVec.toNat_umod

theorem ite_toInt_lt (x y a b : Word) : (if x.toInt < y.toInt then a else b) = if x.slt y then a else b :=
  if_congr BitVec.slt_iff_toInt_lt.symm rfl rfl

theorem ite_toNat_lt (x y a b : Word) : (if x.toNat < y.toNat then a else b) = if x.ult y then a else b :=
  if_congr BitVec.ult_iff_toNat_lt.symm rfl rfl

theorem bitLen_eq_sub_clz (a : Word) : bitLen a.toNat = 64 - a.clz.toNat := by
  by_cases zero : a = 0
  · subst zero
    decide
  have low := BitVec.two_pow_sub_clz_le_toNat_of_ne_zero (by decide) zero
  have high := a.toNat_lt_two_pow_sub_clz
  have count : a.clz.toNat < 64 := BitVec.clz_lt_iff_ne_zero.mpr zero
  have pos : a.toNat ≠ 0 := fun h => zero ((toNat_eq_zero_iff a).mp h)
  have log : a.toNat.log2 = 63 - a.clz.toNat := by
    rw [Nat.log2_eq_iff pos]
    exact ⟨low, by rwa [show 63 - a.clz.toNat + 1 = 64 - a.clz.toNat by omega]⟩
  rw [bitLen, if_neg (by simpa using pos), log]
  omega

theorem clz_eq (a : Word) : BitVec.ofNat 64 (64 - bitLen a.toNat) = a.clz := by
  have bound : a.clz.toNat ≤ 64 := BitVec.clz_le
  rw [bitLen_eq_sub_clz, Nat.sub_sub_self bound, BitVec.ofNat_toNat, BitVec.setWidth_eq]

theorem popCount_succ (n x : Nat) : popCount (n + 1) x = popCount n x + (x / 2 ^ n % 2 == 1).toNat := by
  rw [popCount, List.range_succ, List.filter_append, List.length_append, ← popCount]
  cases h : x / 2 ^ n % 2 == 1 <;> simp [h]

theorem cpopNatRec_eq_popCount (a : Word) (n : Nat) : a.cpopNatRec n 0 = popCount n a.toNat := by
  induction n with
  | zero => rfl
  | succ n ih =>
    rw [BitVec.cpopNatRec_succ, BitVec.cpopNatRec_eq, ih, popCount_succ, ← bitAt_eq_getLsbD, Nat.zero_add]
    rfl

theorem popc_eq (a : Word) : BitVec.ofNat 64 (popCount 64 a.toNat) = a.cpop := by
  rw [← cpopNatRec_eq_popCount]
  rfl

/-! ## Opcodes of the scalar map (R40, R59) -/

/-- Every syllable that the encoder writes for i is of the scalar class, with opcode n. -/
def HasOpcode (i : Instr) (n : Nat) : Prop :=
  ∀ second stop x, encode second stop i = some x → clsOf x.w = 2 ∧ opOf x.w = n

/-- The marks of a scalar syllable stand above its class and opcode. -/
theorem HasOpcode.of_fields {i : Instr} {f n : Nat} (hf : encodeFields i = some f) (cls : clsOf f = 2)
    (op : opOf f = n) : HasOpcode i n := by
  intro second stop x e
  have first : (second && (clsOf f == 3 || clsOf f == 6)) = false := by simp [cls]
  simp only [encode, hf, first, Bool.false_eq_true, if_false, Option.some.injEq] at e
  subst e
  unfold clsOf opOf at *
  split_ifs <;> dsimp only <;> omega

theorem HasOpcode.of_pack {i : Instr} {op : Nat} {items : List Nat} {l : List Field} (ho : op < 128)
    (hl : total items = lay l) (sep : separate (⟨27, 3, 2⟩ :: ⟨20, 7, BitVec.ofNat 7 op⟩ :: l) = true)
    (hf : encodeFields i = pack 2 op items) : HasOpcode i op := by
  rw [pack, head_eq (by decide) ho, hl, lay_add] at hf
  have cls := lay_field sep (f := ⟨27, 3, 2⟩) (by simp)
  have code := lay_field sep (f := ⟨20, 7, BitVec.ofNat 7 op⟩) (by simp)
  exact .of_fields hf cls (code.trans ((BitVec.toNat_ofNat ..).trans (Nat.mod_eq_of_lt ho)))

section
variable {i : Instr} {op : Nat}

theorem hasOpcode_rr {o : ScRR} (hf : encodeFields i = pack 2 op [o.enc]) (ho : op < 128 := by decide) :
    HasOpcode i op :=
  .of_pack ho (by rw [total_cons, total_nil, scrr_enc, lay_add]) rfl hf

theorem hasOpcode_ri {o : ScRI} (hf : encodeFields i = pack 2 op [o.enc]) (ho : op < 128 := by decide) :
    HasOpcode i op :=
  .of_pack ho (by rw [total_cons, total_nil, scri_enc, lay_add]) rfl hf

theorem hasOpcode_rs {o : ScRS} (hf : encodeFields i = pack 2 op [o.enc]) (ho : op < 128 := by decide) :
    HasOpcode i op :=
  .of_pack ho (by rw [total_cons, total_nil, scrs_enc, lay_add]) rfl hf

theorem hasOpcode_ru {o : ScRU} (hf : encodeFields i = pack 2 op [o.enc]) (ho : op < 128 := by decide) :
    HasOpcode i op :=
  .of_pack ho (by rw [total_cons, total_nil, scru_enc, lay_add]) rfl hf

theorem hasOpcode_pp {o : ScPP} (hf : encodeFields i = pack 2 op [o.enc]) (ho : op < 128 := by decide) :
    HasOpcode i op :=
  .of_pack ho (by rw [total_cons, total_nil, scpp_enc, lay_add]) rfl hf

end

/-! ## An XIMM whose target has no immediate (R46, R56, R332) -/

theorem decodeFault_of_illegal {l : List Syl} (h : bundleLegal l = false) (c : Ctx) (next : BitVec 54) :
    c.decodeFault l next = some (3, 0) := by
  rw [Ctx.decodeFault, h]
  rfl

/-- An XIMM makes its bundle illegal where its target has an assigned opcode and no immediate. -/
theorem bundleLegal_of_ximm {l : List Syl} {x : Syl} {e : Nat × Half} (he : e ∈ ximms l) (hx : slotSyl l e.1 = some x)
    (noImm : hasImm x = false) (known : assigned x.w = true) : bundleLegal l = false := by
  have bad : ximmsOk l = false := by
    rw [ximmsOk, List.all_eq_false]
    exact ⟨e, he, by simp [hx, noImm, known]⟩
  simp [bundleLegal, bad]

theorem cls_of_slotSyl {l : List Syl} {k : Nat} {x : Syl} (h : slotSyl l k = some x) : x.cls = k + 1 := by
  simpa using List.find?_some h

theorem decodeClass_scalar {w : Nat} (h : clsOf w = 2) : decodeClass w = decodeSc w := by
  rw [decodeClass_eq, h]
  rfl

theorem assigned_of_whole {w : Nat} {r : List (Nat × Nat)} {i : Instr} (h : decodeClass w = whole w r i) :
    assigned w = true := by
  rw [assigned, h, whole]
  split_ifs <;> rfl

/-- The shifts have no immediate for XIMM. -/
theorem shift_takes_no_ximm {x : Syl} (hc : x.cls = 2) (low : 0x18 ≤ opOf x.w) (high : opOf x.w ≤ 0x1D) :
    hasImm x = false ∧ assigned x.w = true := by
  have op : opOf x.w = 0x18 ∨ opOf x.w = 0x19 ∨ opOf x.w = 0x1A ∨ opOf x.w = 0x1B ∨ opOf x.w = 0x1C ∨ opOf x.w = 0x1D := by
    omega
  have row : ∃ r i, decodeSc x.w = whole x.w r i := by
    rcases op with h | h | h | h | h | h <;> simp only [decodeSc, h] <;> exact ⟨_, _, rfl⟩
  obtain ⟨r, i, row⟩ := row
  refine ⟨?_, assigned_of_whole ((decodeClass_scalar hc).trans row)⟩
  rw [hasImm, hc, Syl.op]
  rcases op with h | h | h | h | h | h <;> rw [h] <;> rfl

/-- Settles O2: each result as a word, the opcodes by the shape of the operands, and an XIMM on a shift by its bundle
being illegal. -/
theorem scalarLogicAndShifts : Obligations.ScalarLogicAndShifts := by
  unfold Obligations.ScalarLogicAndShifts
  refine ⟨fun s g sd sa sb sh imm hg => ?_, fun s g sd sa sb hg => ?_, fun o r h u => ?_,
    fun c next l x e hx low high he one => ?_⟩
  · dsimp only [exec, execAnd, execOr, execXor, execAndi, execOri, execXori, execShl, execShr, execSra, execShli,
      execShri, execSrai]
    refine ⟨opRR_plain hg rfl, opRR_plain hg rfl, opRR_plain hg rfl, opRI_lands hg rfl, opRI_lands hg rfl,
      opRI_lands hg rfl, opRR_plain hg ?_, opRR_plain hg ?_, opRR_plain hg ?_, opRS_lands hg rfl, opRS_lands hg rfl,
      opRS_lands hg rfl⟩
    · rw [BitVec.shiftLeft_eq', toNat_mod_64]
    · rw [BitVec.ushiftRight_eq', toNat_mod_64]
    · rw [BitVec.sshiftRight_eq', toNat_mod_64]
  · dsimp only [exec, execMin, execMax, execMinu, execMaxu, execClz, execPopc]
    exact ⟨opRR_plain hg (ite_toInt_lt _ _ _ _), opRR_plain hg (ite_toInt_lt _ _ _ _),
      opRR_plain hg (ite_toNat_lt _ _ _ _), opRR_plain hg (ite_toNat_lt _ _ _ _), opRU_lands hg (clz_eq _),
      opRU_lands hg (popc_eq _)⟩
  · simp only [List.forall_mem_cons]
    exact ⟨hasOpcode_rr rfl, hasOpcode_rr rfl, hasOpcode_rr rfl, hasOpcode_ri rfl, hasOpcode_ri rfl,
      hasOpcode_ri rfl, hasOpcode_rr rfl, hasOpcode_rr rfl, hasOpcode_rr rfl, hasOpcode_rs rfl, hasOpcode_rs rfl,
      hasOpcode_rs rfl, hasOpcode_rr rfl, hasOpcode_rr rfl, hasOpcode_rr rfl, hasOpcode_rr rfl, hasOpcode_ru rfl,
      hasOpcode_ru rfl, by simp⟩
  · obtain ⟨noImm, known⟩ := shift_takes_no_ximm (cls_of_slotSyl hx) low high
    exact decodeFault_of_illegal (bundleLegal_of_ximm he (one ▸ hx) noImm known) c next

end Sys2Proof.Laws
end

section
/-! PROOFS. Comparisons and predicates (O4, O5, O6), and words of the scalar map that are no instruction. -/

namespace Sys2Proof.Laws

open Sys2Proof Sys2Proof.Machine

/-! ## Words of the scalar map that are no instruction (R46) -/

theorem also_none {r : Reject} {ok : Bool} (h : ok = false) : also none r ok ≠ none := by
  subst h
  exact Option.some_ne_none r

theorem decodeSyl_ok {wide : Bool} {w : Nat} {i : Instr} (h : decodeSyl wide w = .ok i) :
    decodeClass w = .ok i ∧ legal i = none := by
  unfold decodeSyl at h
  cases map : decodeClass w with
  | error r => simp [map] at h
  | ok j =>
    cases bad : legal j with
    | some r =>
      simp only [map, bad] at h
      split_ifs at h
    | none =>
      simp only [map, bad] at h
      split_ifs at h
      obtain rfl := Except.ok.inj h
      exact ⟨rfl, bad⟩

/-- A row of the scalar map whose instruction is illegal decodes to nothing. -/
theorem not_decoded_of_illegal {wide : Bool} {w : Nat} {r : List (Nat × Nat)} {j : Instr} (hc : clsOf w = 2)
    (row : decodeSc w = whole w r j) (bad : legal j ≠ none) (i : Instr) : decodeSyl wide w ≠ .ok i := fun h => by
  obtain ⟨map, good⟩ := decodeSyl_ok h
  rw [decodeClass_scalar hc, row, whole] at map
  split_ifs at map
  obtain rfl := Except.ok.inj map
  exact bad good

theorem not_decoded_of_error {wide : Bool} {w : Nat} {r : Reject} (hc : clsOf w = 2) (row : decodeSc w = .error r)
    (i : Instr) : decodeSyl wide w ≠ .ok i := fun h => by
  obtain ⟨map, -⟩ := decodeSyl_ok h
  rw [decodeClass_scalar hc, row] at map
  cases map

theorem fld_toNat (w lo len : Nat) : (fld w lo len).toNat = w / 2 ^ lo % 2 ^ len := BitVec.toNat_ofNat _ _

/-! ## Comparisons (R107) -/

/-- The twelve conditions of R107, by number. -/
def conditions (a b : Word) : List (BitVec 4 × Bool) :=
  [(0, a == b), (1, a != b), (2, a.slt b), (3, b.sle a), (4, a.ult b), (5, b.ule a), (6, b.slt a), (7, a.sle b),
    (8, b.ult a), (9, a.ule b), (10, a &&& b != 0), (11, a &&& b == 0)]

theorem condition_eq {a b : Word} {e : BitVec 4 × Bool} (h : e ∈ conditions a b) : condition e.1 a b = e.2 := by
  revert e
  simp only [conditions, List.forall_mem_cons]
  refine ⟨rfl, rfl, rfl, rfl, rfl, rfl, rfl, rfl, rfl, rfl, rfl, rfl, by simp⟩

theorem allBits_condition {a b : Word} {e : BitVec 4 × Bool} (h : e ∈ conditions a b) :
    allBits (condition e.1 a b) = if e.2 then BitVec.allOnes 32 else 0 := by
  rw [condition_eq h]
  rfl

/-- Settles O4: each condition as a test of words, landed in every bit; codes from 12 on are illegal in both rows. -/
theorem scalarCompare : Obligations.ScalarCompare := by
  unfold Obligations.ScalarCompare
  intro s g pd sa sb hg table a lands
  dsimp only [exec, execCmp, execCmpi]
  refine ⟨fun e he => predOp_lands hg (allBits_condition he), fun e he => predOp_lands hg (allBits_condition he),
    fun wide w hc op high => ?_, fun x undecoded => by simp only [State.issueOp, undecoded]⟩
  have code : decide ((ScCmp.of w).cc.toNat < 12) = false := by
    rw [decide_eq_false_iff_not, not_lt]
    exact high.trans_eq (fld_toNat w 12 4).symm
  rcases op with op | op
  · have row : decodeSc w = whole w [(37, 27)] (.cmp (ScCmp.of w)) := by simp only [decodeSc, op]
    exact not_decoded_of_illegal hc row (also_none code)
  · have row : decodeSc w = whole w [(37, 27)] (.cmpi (ScCmp.of w)) := by simp only [decodeSc, op]
    exact not_decoded_of_illegal hc row (also_none code)

/-! ## Predicates (R108, R109) -/

/-- Settles O5: each operation lands its word, and its opcode is that of its row. -/
theorem predicateLogic : Obligations.PredicateLogic := by
  unfold Obligations.PredicateLogic
  intro s g pd pa pb hg
  dsimp only [exec, execPand, execPor, execPxor, execPandn, opPP]
  exact ⟨⟨predOp_lands hg rfl, hasOpcode_pp rfl⟩, ⟨predOp_lands hg rfl, hasOpcode_pp rfl⟩,
    ⟨predOp_lands hg rfl, hasOpcode_pp rfl⟩, ⟨predOp_lands hg rfl, hasOpcode_pp rfl⟩⟩

/-- A predicate code of PMOV from 16 on is no register. -/
theorem fld_not_predicate {w lo : Nat} (h : 16 ≤ w / 2 ^ lo % 64) : decide ((fld w lo 6).toNat < 16) = false := by
  rw [decide_eq_false_iff_not, not_lt]
  exact h.trans_eq (fld_toNat w lo 6).symm

/-- Settles O6: each mode lands its word; a row of PMOV with a code from 16 on is illegal, and MODE 3 has none. -/
theorem predicateMoves : Obligations.PredicateMoves := by
  unfold Obligations.PredicateMoves
  refine ⟨fun s g dst src hg => ?_, fun wide w hc op =>
    ⟨fun mode out => ?_, fun mode out => ?_, fun mode out => ?_, fun mode => ?_⟩⟩
  · dsimp only [exec, execPmovPP, execPmovPS, execPmovSP]
    rw [BitVec.ofNat_toNat]
    exact ⟨predOp_lands hg rfl, predOp_lands hg rfl, scalarOp_guarded hg ..⟩
  · have row : decodeSc w = whole w [(0, 6), (37, 27)] (.pmovPP (fld w 32 5) (fld w 12 6) (fld w 6 6)) := by
      simp only [decodeSc, op, mode]
    refine not_decoded_of_illegal hc row (also_none ?_)
    rcases out with out | out <;> simp only [fld_not_predicate out, Bool.false_and, Bool.and_false]
  · have row : decodeSc w = whole w [(0, 6), (37, 27)] (.pmovPS (fld w 32 5) (fld w 12 6) (fld w 6 6)) := by
      simp only [decodeSc, op, mode]
    exact not_decoded_of_illegal hc row (also_none (fld_not_predicate out))
  · have row : decodeSc w = whole w [(0, 6), (37, 27)] (.pmovSP (fld w 32 5) (fld w 12 6) (fld w 6 6)) := by
      simp only [decodeSc, op, mode]
    exact not_decoded_of_illegal hc row (also_none (fld_not_predicate out))
  · have row : decodeSc w = .error .field := by simp only [decodeSc, op, mode]
    exact not_decoded_of_error hc row

end Sys2Proof.Laws
end

section
/-! PROOFS. Moves of control registers (O13). -/

namespace Sys2Proof.Laws

open Sys2Proof Sys2Proof.Machine

/-! ## Control registers (R96, R97, R110) -/

theorem csrLogged_iff (n : Nat) : csrLogged n = true ↔ (0x080 ≤ n ∧ n ≤ 0x087) ∨ 0x100 ≤ n := by
  simp [csrLogged]

theorem execCsrr_eq {s : State} {g : Guard} (hg : s.guarded g = true) (sd : BitVec 6) (n : BitVec 12) :
    exec (.csrr g sd n) s = .next (s.landS sd (s.csr s.cur.site n.toNat) (!csrLogged n.toNat)) :=
  congrArg _ (if_pos hg)

theorem bits_low_eq (v : Word) (hi : Nat) : bits v hi 0 = (v.extractLsb' 0 (hi + 1)).toNat := by
  simp [bits]

theorem csrRefuses_iff (n : BitVec 12) (v : Word) : csrRefuses n.toNat v = true ↔
    (n = 0x001 ∧ v.extractLsb' 0 3 = 7) ∨ (n = 0x002 ∧ v.extractLsb' 0 2 ≠ 0) := by
  simp only [csrRefuses, bits_low_eq, Bool.or_eq_true, Bool.and_eq_true, beq_iff_eq, bne_iff_ne, ne_eq,
    ← BitVec.toNat_inj]
  rfl

theorem execCsrw_eq {s : State} {g : Guard} (hg : s.guarded g = true) (sa : BitVec 6) (n : BitVec 12) :
    exec (.csrw g sa n) s = if csrRefuses n.toNat (s.cx.rs sa.toNat) then .next s.illegal
      else .next (s.landing 1 fNone false (.csr n.toNat (s.cx.rs sa.toNat))) := by
  show execCsrw g sa n s = _
  rw [execCsrw, hg]
  rfl

/-- Settles O13: CSRR by whether its register is logged, CSRW by whether it refuses the value. -/
theorem controlRegisterMoves : Obligations.ControlRegisterMoves := by
  unfold Obligations.ControlRegisterMoves
  intro s g sd sa n hg v e logged refused
  refine ⟨fun h => ?_, fun h => ?_, fun h => ?_, fun h => ?_⟩
  · have plainly : csrLogged n.toNat = false := Bool.eq_false_iff.mpr fun c => h ((csrLogged_iff _).mp c)
    rw [execCsrr_eq hg, plainly]
    rfl
  · rw [execCsrr_eq hg, (csrLogged_iff _).mpr h]
    rfl
  · rw [execCsrw_eq hg, if_neg fun c => h ((csrRefuses_iff n v).mp c)]
  · rw [execCsrw_eq hg, if_pos ((csrRefuses_iff n v).mpr h)]

end Sys2Proof.Laws
end

section
/-! PROOFS. Integer arithmetic of the vector lanes (O14), and results of the lanes put in another form. -/

namespace Sys2Proof.Laws

open Sys2Proof Sys2Proof.Machine

/-! ## Results of the lanes in another form -/

section
variable {out : Out} {s : State} {o : VOp} {off w : Nat} {r : Nat → Nat × NFlags}

/-- The outcome completes with the elements r k and their flags. -/
def LandsLanes (out : Out) (s : State) (o : VOp) (off w : Nat) (r : Nat → Nat × NFlags) : Prop :=
  ∃ t, out = .next t ∧ LandsV s t o off w (fun k => (r k).1) (laneFlags (s.cx.mask o.g) w fun k => (r k).2)

/-- Elements may be given by others that are equal modulo their width. -/
theorem LandsLanes.elementwise {i : Instr} {x : Nat → Nat} {f : Nat → NFlags} (h : LandsLanes out s o off w r)
    (run : exec i s = out) (hx : ∀ k < 1024 / w, (r k).1 % 2 ^ w = x k % 2 ^ w)
    (hf : ∀ k < 1024 / w, (r k).2 = f k) : Elementwise i s o off w x f := by
  obtain ⟨t, next, lands⟩ := h
  exact ⟨t, run.trans next, LandsV.congr lands hx hf⟩

/-- Elements and flags as they are formed. -/
theorem LandsLanes.exactly {i : Instr} (h : LandsLanes out s o off w r) (run : exec i s = out) :
    Elementwise i s o off w (fun k => (r k).1) fun k => (r k).2 :=
  h.elementwise run (fun _ _ => rfl) fun _ _ => rfl

/-- Elements that are formed as integer results. -/
theorem LandsLanes.integer {i : Instr} {x : Nat → Int} (h : LandsLanes out s o off (tyWidth o.ty) r)
    (run : exec i s = out) (hx : ∀ k, r k = vint o (tyWidth o.ty) (x k)) : IntegerLanes i s o off x :=
  h.elementwise run (fun k _ => by rw [hx, vint, intResult_eq]) fun k _ => by rw [hx, vint, intResult_eq]

end

/-! ## Integers (R115, R117) -/

/-- A pattern read as signed and wrapped again. -/
theorem wrapTo_sval (w x : Nat) : wrapTo w (sval w x) = x % 2 ^ w := by
  rw [wrapTo, sval_emod]
  exact_mod_cast Int.toNat_natCast (x % 2 ^ w)

/-- The lesser of two patterns read as signed, as VMIN picks it. -/
theorem pick_lesser (w a b : Nat) :
    (if sval w b < sval w a then b else a) % 2 ^ w = wrapTo w (min (sval w a) (sval w b)) := by
  rw [← wrapTo_sval]
  congr 1
  split <;> omega

/-- The greater of two patterns read as signed, as VMAX picks it. -/
theorem pick_greater (w a b : Nat) :
    (if sval w a < sval w b then b else a) % 2 ^ w = wrapTo w (max (sval w a) (sval w b)) := by
  rw [← wrapTo_sval]
  congr 1
  split <;> omega

theorem wrapTo_lt (w : Nat) (x : Int) : wrapTo w x < 2 ^ w := by
  have nonneg : 0 ≤ x % 2 ^ w := Int.emod_nonneg _ (by positivity)
  have below : x % 2 ^ w < 2 ^ w := Int.emod_lt_of_pos _ (by positivity)
  zify
  rwa [wrapTo, Int.toNat_of_nonneg nonneg]

theorem wrapTo_mod (w : Nat) (x : Int) : wrapTo w x % 2 ^ w = wrapTo w x := Nat.mod_eq_of_lt (wrapTo_lt w x)

/-- Settles O14: each form is a two-source operation on integers, or one of one source; its elements are formed as
the statement says, but for VMIN and VMAX, which pick a pattern. -/
theorem vectorIntegerArithmetic : Obligations.VectorIntegerArithmetic := by
  unfold Obligations.VectorIntegerArithmetic
  intro s o hi hm hr w a b sa sb none_
  have binary (offF offI : Nat) (ff : Fmt → FV → FV → Nat × NFlags) (fi : Nat → Nat → Nat → Nat × NFlags) :
      LandsLanes (vecBin o offF offI ff fi s) s o offI w fun k => fi w (a k) (b k) :=
    vecBin_int o offF offI ff fi s hi hm hr
  have unary (f : Nat → Nat → Nat × NFlags) : LandsLanes (vecUn o 2 f s) s o 2 w fun k => f w (a k) :=
    vecUn_lands o 2 f s hm (State.readable.sub hr (by simp))
  refine ⟨?vadd, ?vsub, ?vmul, ?vabs, ?vneg, ?vmulhu, ?vmulh, ?vmin, ?vmax, ?vminu, ?vmaxu⟩
  case vadd => exact LandsLanes.integer (out := execVadd o s) (binary ..) rfl fun _ => rfl
  case vsub => exact LandsLanes.integer (out := execVsub o s) (binary ..) rfl fun _ => rfl
  case vmul => exact LandsLanes.integer (out := execVmul o s) (binary ..) rfl fun _ => rfl
  case vabs => exact LandsLanes.integer (out := execVabs o s) (unary _) rfl fun k => by simp [hi, sa, w]
  case vneg => exact LandsLanes.integer (out := execVneg o s) (unary _) rfl fun k => by simp [hi, sa, w]
  case vmulhu => exact LandsLanes.exactly (out := execVmulh o true s) (binary ..) rfl
  case vmulh => exact LandsLanes.exactly (out := execVmulh o false s) (binary ..) rfl
  case vmin =>
    exact LandsLanes.elementwise (out := execVmin o s) (binary ..) rfl
      (fun k _ => (pick_lesser w (a k) (b k)).trans (wrapTo_mod w _).symm) fun _ _ => rfl
  case vmax =>
    exact LandsLanes.elementwise (out := execVmax o s) (binary ..) rfl
      (fun k _ => (pick_greater w (a k) (b k)).trans (wrapTo_mod w _).symm) fun _ _ => rfl
  case vminu =>
    exact LandsLanes.elementwise (out := execVminu o s) (binary ..) rfl
      (fun k _ => congrArg (· % 2 ^ w) ((min_comm ..).trans (min_def_lt ..)).symm) fun _ _ => rfl
  case vmaxu =>
    exact LandsLanes.elementwise (out := execVmaxu o s) (binary ..) rfl
      (fun k _ => congrArg (· % 2 ^ w) (max_def_lt ..).symm) fun _ _ => rfl

end Sys2Proof.Laws
end

section
/-! PROOFS. Floating-point arithmetic of the vector lanes, and VMAC (O15). -/

namespace Sys2Proof.Laws

open Sys2Proof Sys2Proof.Machine

/-! ## One rounding for each element (R114, R115) -/

/-- The top bit set by an addition. -/
theorem add_two_pow_eq_xor {n a : Nat} (low : a < 2 ^ n) : a + 2 ^ n = a ^^^ 2 ^ n := by
  have disjoint := Nat.two_pow_add_eq_or_of_lt low 1
  rw [Nat.mul_one] at disjoint
  rw [Nat.add_comm, disjoint]
  refine Nat.eq_of_testBit_eq fun i => ?_
  rw [Nat.testBit_or, Nat.testBit_xor, Nat.testBit_two_pow]
  by_cases h : n = i
  · simp [← h, Nat.testBit_lt_two_pow low]
  · simp [h]

/-- Inverting the sign bit of a pattern (R114). -/
theorem flip_sign {w a : Nat} (pos : 0 < w) (ha : a < 2 ^ w) :
    (if a < 2 ^ (w - 1) then a + 2 ^ (w - 1) else a - 2 ^ (w - 1)) = a ^^^ 2 ^ (w - 1) := by
  have double : 2 ^ w = 2 ^ (w - 1) * 2 := (Nat.pow_pred_mul pos).symm
  split
  · next low => exact add_two_pow_eq_xor low
  · next high =>
    have cleared : a - 2 ^ (w - 1) < 2 ^ (w - 1) := by omega
    have back := add_two_pow_eq_xor cleared
    rw [Nat.sub_add_cancel (not_lt.mp high)] at back
    rw [back, Nat.xor_assoc, Nat.xor_self, Nat.xor_zero, ← back]

/-- The flags of two products and their operands, merged with others. -/
theorem merge_two (f p a b q c d : NFlags) :
    f ||| orAll [p ||| a ||| b, q ||| c ||| d] = f ||| (a ||| b ||| p) ||| (c ||| d ||| q) := by
  simp only [orAll, List.foldl_cons, List.foldl_nil, fNone]
  ac_rfl

section
variable {o : VOp} {s : State} (hm : s.cx.mask o.g ≠ 0) (hr : s.readable [o.va, o.vb])
include hm hr

theorem vecFused_lands (f : FV → FV → FV → FV × FV × FV) :
    let e := fun v k => fdec (fmtOf o.ty) s.cx.ftz (elem (tyWidth o.ty) v k)
    let t := fun k => f (e (s.srcV (tyWidth o.ty) o.va) k) (e (s.srcV (tyWidth o.ty) o.vb) k) (e (s.readV o.vd.toNat) k)
    LandsLanes (vecFused o f s) s o 4 (tyWidth o.ty) fun k =>
      ffmaR (fmtOf o.ty) (modeOf o.rms s.cx) s.cx.ftz (t k).1 (t k).2.1 (t k).2.2 := by
  rw [vecFused, withB_readable _ _ _ hr]
  exact vecOut_lands o 4 _ _ s hm

/-- VMAC on integers: the products of a lane added to the destination's element, wrapped or saturated (R116). -/
theorem vmac_int (hi : isFloat o.ty = false) {x : Nat → Int} (total : ∀ i,
      let w := tyWidth o.ty
      (laneProducts (32 / w) i).foldl
        (fun x j => x + sval w (elem w (s.srcV w o.va) j) * sval w (elem w (s.srcV w o.vb) j))
        (sval 32 (elem 32 (s.readV o.vd.toNat) i)) = x i) :
    Elementwise (.vmac o) s o 3 32 (fun k => wrapTo 32 (if o.sat then satS 32 (x k) else x k))
      fun k => if o.sat && satS 32 (x k) != x k then fSQ else fNone := by
  have lands : LandsLanes (execVmac o s) s o 3 32 fun i => intResult 32 o.sat (x i) := by
    rw [execVmac, withB_readable _ _ _ hr]
    simp only [hi, Bool.false_eq_true, if_false, total]
    exact vecOut_lands o 3 _ _ s hm
  exact lands.elementwise rfl (fun k _ => by rw [intResult_eq]) fun k _ => by rw [intResult_eq]

/-- VMAC on floating values: the exact sum of the products and the destination's element, rounded once (R116). -/
theorem vmac_float (hf : isFloat o.ty = true) :
    let w := tyWidth o.ty
    let a := fun k => fdec (fmtOf o.ty) s.cx.ftz (elem w (s.srcV w o.va) k)
    let b := fun k => fdec (fmtOf o.ty) s.cx.ftz (elem w (s.srcV w o.vb) k)
    let d := fun k => fdec fmtF32 s.cx.ftz (elem 32 (s.readV o.vd.toNat) k)
    let ps := fun i => (laneProducts (32 / w) i).map fun j => (fmulx (a j) (b j), a j, b j)
    let sum := fun i => fsumx (modeOf o.rms s.cx) (d i :: (ps i).map (·.1.1))
    let r := fun i => fround fmtF32 (modeOf o.rms s.cx) s.cx.ftz (sum i).1
    LandsLanes (execVmac o s) s o 4 32 fun i =>
      ((r i).1, (r i).2 ||| (sum i).2 ||| fsig (d i) |||
        orAll ((ps i).map fun p => p.1.2 ||| fsig p.2.1 ||| fsig p.2.2)) := by
  rw [execVmac, withB_readable _ _ _ hr]
  simp only [hf, if_true]
  exact vecOut_lands o 4 _ _ s hm

end

/-- Settles O15: the forms of two sources, the fused ones and those of one source by the lemma about each shape; VMAC by
the products that a lane of its type holds. -/
theorem vectorFloatArithmetic : Obligations.VectorFloatArithmetic := by
  unfold Obligations.VectorFloatArithmetic
  constructor
  · intro s o hf hm hr w f m z a b d bits_ does
    have binary (offF offI : Nat) (ff : Fmt → FV → FV → Nat × NFlags) (fi : Nat → Nat → Nat → Nat × NFlags) :
        LandsLanes (vecBin o offF offI ff fi s) s o offF w fun k => ff f (a k) (b k) :=
      vecBin_float o offF offI ff fi s hf hm hr
    have unary (f : Nat → Nat → Nat × NFlags) : LandsLanes (vecUn o 2 f s) s o 2 w fun k => f w (bits_ k) :=
      vecUn_lands o 2 f s hm (State.readable.sub hr (by simp))
    refine ⟨?vadd, ?vsub, ?vmul, ?vfma, ?vfms, ?vfnma, ?vmin, ?vmax, ?vabs, ?vneg⟩
    case vadd => exact LandsLanes.exactly (out := execVadd o s) (binary ..) rfl
    case vsub => exact LandsLanes.exactly (out := execVsub o s) (binary ..) rfl
    case vmul => exact LandsLanes.exactly (out := execVmul o s) (binary ..) rfl
    case vfma => exact LandsLanes.exactly (out := execVfma o s) (vecFused_lands hm hr _) rfl
    case vfms => exact LandsLanes.exactly (out := execVfms o s) (vecFused_lands hm hr _) rfl
    case vfnma => exact LandsLanes.exactly (out := execVfnma o s) (vecFused_lands hm hr _) rfl
    case vmin => exact LandsLanes.exactly (out := execVmin o s) (binary ..) rfl
    case vmax => exact LandsLanes.exactly (out := execVmax o s) (binary ..) rfl
    case vabs =>
      exact LandsLanes.elementwise (out := execVabs o s) (unary _) rfl (fun k _ => by simp [hf])
        fun k _ => by simp [hf]
    case vneg =>
      exact LandsLanes.elementwise (out := execVneg o s) (unary _) rfl
        (fun k _ => by simp only [hf, if_true, flip_sign (tyWidth_pos o.ty) (elem_lt w _ k), w, bits_])
        fun k _ => by simp [hf]
  · intro s o hm hr w a b d lands f z fa fb
    refine ⟨fun ho => ?_, fun ho => ?_, ?_⟩
    · have two (k : Nat) : laneProducts (32 / tyWidth o.ty) k = [2 * k, 2 * k + 1] := by rw [ho]; rfl
      exact vmac_int hm hr (by rw [ho]; rfl) fun k => by simp only [two]; rfl
    · have four (k : Nat) : laneProducts (32 / tyWidth o.ty) k = [4 * k, 4 * k + 1, 4 * k + 2, 4 * k + 3] := by
        rw [ho]; rfl
      exact vmac_int hm hr (by rw [ho]; rfl) fun k => by simp only [four]; rfl
    · intro fd product sum rounded signals ho
      have hf : isFloat o.ty = true := by rcases ho with e | e <;> rw [e] <;> rfl
      have two (k : Nat) : laneProducts (32 / tyWidth o.ty) k = [2 * k, 2 * k + 1] := by
        rcases ho with e | e <;> rw [e] <;> rfl
      have lands := vmac_float hm hr hf
      simp only [two, List.map_cons, List.map_nil] at lands
      exact lands.elementwise rfl (fun k _ => rfl) fun k _ => merge_two ..

end Sys2Proof.Laws
end

section
/-! PROOFS. Shifts of a floating-point type (O16): a result in flight is what its operation has put there. -/

namespace Sys2Proof.Laws

open Sys2Proof Sys2Proof.Machine

open Sys2Proof.Tests (vop vbench readable_two)

theorem addFlight_injective (c : Ctx) : Function.Injective c.addFlight := by
  intro p q same
  unfold Ctx.addFlight at same
  split at same
  · next h busy =>
    split at same
    · have flights := congrArg (fun c => c.handler.map (·.flight)) same
      simpa using flights
    · simpa using congrArg Ctx.flight same
  · simpa using congrArg Ctx.flight same

theorem landV_injective {s : State} {o : VOp} {off r : Nat} {mask v v' : VWord} {f f' : NFlags}
    (same : s.landV o off r mask v f = s.landV o off r mask v' f') : v = v' := by
  have ctx := congrArg (·.ctx s.cur.site) same
  simp only [State.landV, State.landing, ctx_modCtx_same] at ctx
  have pend := congrArg Pend.eff (addFlight_injective _ ctx)
  injection pend

/-- An operation lands one element in each active lane. -/
theorem Elementwise.unique {i : Instr} {s : State} {o : VOp} {off w : Nat} {x y : Nat → Nat} {f g : Nat → NFlags}
    (hx : Elementwise i s o off w x f) (hy : Elementwise i s o off w y g) {k : Nat} (hk : k < 1024 / w)
    (ha : active (s.cx.mask o.g) w k = true) : x k % 2 ^ w = y k % 2 ^ w := by
  obtain ⟨t, run, v, rfl, vx⟩ := hx
  obtain ⟨u, run', v', rfl, vy⟩ := hy
  have same : v = v' := landV_injective (Host.Outcome.next.inj (run.symm.trans run'))
  rw [← vx k hk ha, ← vy k hk ha, same]

/-- VSHL on a floating-point type lands zeros. -/
theorem vshl_float {o : VOp} {s : State} (hf : isFloat o.ty = true) (hm : s.cx.mask o.g ≠ 0)
    (hr : s.readable [o.va, o.vb]) : Elementwise (.vshl o) s o 2 (tyWidth o.ty) (fun _ => 0) fun _ => fNone :=
  have lands : LandsLanes (execVshl o s) s o 2 (tyWidth o.ty) fun _ => (0, fNone) :=
    vecBin_float o 2 2 (fun _ _ _ => (0, fNone)) (fun w a b => (shl w a (b % w), fNone)) s hf hm hr
  lands.exactly rfl

/-- Core 0 with the element 1 in lane 0 of V2, and zeros in V3. -/
def oneInV2 : State := vbench [(2, 1)]

/-- Read as FP32 patterns, 1 shifted by 0. -/
theorem oneInV2_shifted : elem (tyWidth (vop 0).ty) (oneInV2.srcV (tyWidth (vop 0).ty) (vop 0).va) 0 *
    2 ^ (elem (tyWidth (vop 0).ty) (oneInV2.srcV (tyWidth (vop 0).ty) (vop 0).vb) 0 % tyWidth (vop 0).ty) = 1 := by
  decide +kernel

/-- Refutes O16: its clauses about the shifts take every type code. On a floating-point type, for which R118 has no
shift and which the decoder refuses, the model's VSHL lands zeros, and 1 shifted by 0 is not 0. -/
theorem not_vectorElementMoves : ¬ Obligations.VectorElementMoves := by
  unfold Obligations.VectorElementMoves
  intro h
  obtain ⟨-, shifts⟩ := h
  have mask : oneInV2.cx.mask (vop 0).g ≠ 0 := by decide
  have readable : oneInV2.readable [(vop 0).va, (vop 0).vb] := readable_two _
  obtain ⟨vshl, -⟩ := shifts oneInV2 (vop 0) 0 0 0 mask readable
  have zero := Elementwise.unique vshl (vshl_float rfl mask readable) (k := 0) (by decide) (by decide)
  dsimp only at zero
  rw [oneInV2_shifted] at zero
  exact absurd zero (by decide)

end Sys2Proof.Laws
end

section
/-! PROOFS. Comparisons and conversions of the vector lanes (O17). -/

namespace Sys2Proof.Laws

open Sys2Proof Sys2Proof.Machine

/-! ## VCMP (R119) -/

/-- The predicate that marks the places of a list's items that meet a test. -/
theorem getLsbD_marks {α : Type} {key : α → Nat} {test : α → Bool} {l : List α} (once : (l.map key).Nodup) {x : α}
    (hx : x ∈ l) (hk : key x < 32) :
    (BitVec.ofNat 32 (l.foldl (fun y e => if test e then y + 2 ^ key e else y) 0)).getLsbD (key x) = test x := by
  have kept (y : Nat) (k : List α) : k.foldl (fun y e => if test e then y + 2 ^ key e else y) y =
      digits 1 key (fun e => if test e then 1 else 0) k y := by
    rw [digits]
    congr 1
    funext y e
    split <;> simp
  have same := digit_digits_same (w := 1) (val := fun e => if test e then 1 else 0) (fun e _ => by split <;> decide) once
    (fun _ _ => digit_zero 1 _) hx
  rw [BitVec.getLsbD_ofNat, kept, Bool.eq_iff_iff, Bool.and_eq_true, decide_eq_true_iff, testBit_iff_digit, same]
  simp [hk]

/-- The packed elements of lane i. -/
theorem mem_laneProducts {k i j : Nat} : j ∈ laneProducts k i ↔ i * k ≤ j ∧ j < (i + 1) * k := by
  simp only [laneProducts, List.mem_map, List.mem_range]
  constructor
  · rintro ⟨a, ha, rfl⟩
    constructor <;> nlinarith
  · rintro ⟨low, high⟩
    exact ⟨j - i * k, by rw [Nat.add_mul] at high; omega, by rw [Nat.mul_comm k]; omega⟩

/-- The active lanes, with the conditions and flags of their elements. -/
def cmpLanes (o : VOp) (cc : BitVec 4) (s : State) : List (Nat × List (Bool × NFlags)) :=
  ((List.range 32).filter (bitAt (s.cx.mask o.g) ·)).map fun i =>
    (i, (laneProducts (32 / tyWidth o.ty) i).map (vcond o cc s))

theorem cmpLanes_once (o : VOp) (s : State) (cc : BitVec 4) : ((cmpLanes o cc s).map (·.1)).Nodup := by
  simpa [cmpLanes, Function.comp_def] using List.nodup_range.filter _

section
variable {o : VOp} {s : State} (hm : s.cx.mask o.g ≠ 0) (cc : BitVec 4) (hr : s.readable [o.va, o.vb])
include hm hr

theorem vcmp_lands : LandsLanes (execVcmp o cc s) s o 2 (tyWidth o.ty) fun i =>
    (if (vcond o cc s i).1 then 2 ^ tyWidth o.ty - 1 else 0, (vcond o cc s i).2) := by
  rw [execVcmp, withB_readable _ _ _ hr]
  exact vecOut_lands o 2 _ _ s hm

theorem exec_vcmpP :
    let fl := orAll ((cmpLanes o cc s).map fun r => orAll (r.2.map (·.2)))
    exec (.vcmpP o cc) s = .next (s.landing 2 (if o.sh then fNone else fl) o.sh (.preg o.vd.toNat (s.cx.mask o.g)
      (BitVec.ofNat 32 ((cmpLanes o cc s).foldl (fun y r => if r.2.all (·.1) then y + 2 ^ r.1 else y) 0)))) := by
  intro fl
  show execVcmpP o cc s = _
  rw [execVcmpP, withB_readable _ _ _ hr]
  exact if_neg hm

/-- The predicate form marks the active lanes in which every element meets the condition. -/
theorem vcmpP_lands : ∃ v fl, exec (.vcmpP o cc) s =
      .next (s.landing 2 (if o.sh then fNone else fl) o.sh (.preg o.vd.toNat (s.cx.mask o.g) v)) ∧
    ∀ i < 32, (s.cx.mask o.g).getLsbD i = true → (v.getLsbD i = true ↔
      ∀ j, i * (32 / tyWidth o.ty) ≤ j → j < (i + 1) * (32 / tyWidth o.ty) → (vcond o cc s j).1 = true) := by
  refine ⟨_, _, exec_vcmpP hm cc hr, fun i hi active => ?_⟩
  have lane : (i, (laneProducts (32 / tyWidth o.ty) i).map (vcond o cc s)) ∈ cmpLanes o cc s :=
    List.mem_map.mpr ⟨i, by simp [hi, bitAt_eq_getLsbD, active], rfl⟩
  rw [getLsbD_marks (cmpLanes_once o s cc) lane hi]
  simp only [List.all_eq_true, List.forall_mem_map, mem_laneProducts, and_imp]

end

/-! ## VCVT (R121, R122) -/

/-- An element of a register that is given by index. -/
theorem elem_packElems_range {w k : Nat} (f : Nat → Nat) (hk : k < 1024 / w) :
    elem w (packElems w ((List.range (1024 / w)).map f)) k = f k % 2 ^ w := by
  rw [elem_packElems _ _ _ (by simpa using hk) (by simpa using Nat.mul_div_le 1024 w)]
  simp

/-- The source element that VCVT converts into element i, if any. -/
def cvtFrom (ws wd q i : Nat) : Option Nat :=
  if wd < ws then
    if 1024 / ws * q ≤ i ∧ i < 1024 / ws * (q + 1) then some (i - 1024 / ws * q) else none
  else if ws < wd then some (1024 / wd * q + i) else some i

/-- The model's way to find that element. -/
theorem cvtFrom_eq (ws wd q i : Nat) : cvtFrom ws wd q i =
    if wd < ws then
      if 1024 / ws * q ≤ i ∧ i < 1024 / ws * q + 1024 / ws then some (i - 1024 / ws * q) else none
    else some (1024 / wd * q * (if wd = ws then 0 else 1) + i) := by
  rw [cvtFrom, Nat.mul_succ]
  rcases Nat.lt_trichotomy wd ws with narrows | rfl | widens
  · rw [if_pos narrows, if_pos narrows]
  · simp
  · simp [widens, widens.ne', widens.not_gt]

/-- What VCVT writes to element i, if anything. -/
def cvtWritten (o : VOp) (dst src : BitVec 4) (s : State) (i : Nat) : Option (Nat × NFlags) :=
  if active (s.cx.mask o.g) (cvtWidth dst) i then
    (cvtFrom (cvtWidth src) (cvtWidth dst) o.ty.toNat i).map fun j =>
      cvtElem dst src (modeOf o.rms s.cx) s.cx.ftz o.sat (elem (cvtWidth src) (s.srcV (cvtWidth src) o.va) j)
  else none

section
variable {o : VOp} {s : State} (hm : s.cx.mask o.g ≠ 0) (dst src : BitVec 4) (hr : s.readable [o.va])
include hm hr

theorem exec_vcvt :
    let wd := cvtWidth dst
    let l := (List.range (1024 / wd)).map (cvtWritten o dst src s)
    exec (.vcvt o dst src) s = .next (s.landV o 3 o.vd.toNat
      (packElems wd (l.map fun x => if x.isSome then 2 ^ wd - 1 else 0))
      (packElems wd (l.map fun x => (x.getD (0, fNone)).1)) (orAll (l.map fun x => (x.getD (0, fNone)).2))) := by
  show execVcvt o dst src s = _
  rw [execVcvt, withB_readable _ _ _ hr]
  simp only [hm, if_false, ← cvtFrom_eq]
  rfl

theorem vcvt_lands :
    let wd := cvtWidth dst
    let r := cvtWritten o dst src s
    ∃ mask v fl, exec (.vcvt o dst src) s = .next (s.landV o 3 o.vd.toNat mask v fl) ∧
      (∀ i < 1024 / wd, elem wd mask i = (if (r i).isSome then 2 ^ wd - 1 else 0) ∧
        ∀ x, r i = some x → elem wd v i = x.1 % 2 ^ wd) ∧
      fl = orAll ((List.range (1024 / wd)).map fun i => ((r i).map (·.2)).getD fNone) := by
  intro wd r
  have ones : (2 ^ wd - 1) % 2 ^ wd = 2 ^ wd - 1 := Nat.mod_eq_of_lt (Nat.sub_lt (Nat.two_pow_pos wd) one_pos)
  refine ⟨_, _, _, exec_vcvt hm dst src hr, fun i hi => ⟨?_, fun x hx => ?_⟩, ?_⟩
  · rw [List.map_map, elem_packElems_range _ hi]
    show (if (r i).isSome then 2 ^ wd - 1 else 0) % 2 ^ wd = _
    rw [apply_ite (· % 2 ^ wd), ones, Nat.zero_mod]
  · rw [List.map_map, elem_packElems_range _ hi]
    show ((r i).getD (0, fNone)).1 % 2 ^ wd = _
    rw [hx, Option.getD_some]
  · rw [List.map_map]
    congr 2
    funext i
    show ((r i).getD (0, fNone)).2 = _
    cases r i <;> rfl

end

/-- Settles O17: VCMP and its predicate form by the conditions of their elements, VCVT by what it writes to each. -/
theorem vectorCompareAndConvert : Obligations.VectorCompareAndConvert := by
  unfold Obligations.VectorCompareAndConvert
  constructor
  · intro s o cc hm hr w a b fp r
    exact ⟨LandsLanes.exactly (vcmp_lands hm cc hr) rfl, vcmpP_lands hm cc hr⟩
  · intro s o dst src hm hr ws wd q from_ r
    exact vcvt_lands hm dst src hr

end Sys2Proof.Laws
end

section
/-! PROOFS. Scalar loads and stores of the scratchpad (O7). -/

namespace Sys2Proof.Laws

open Sys2Proof Sys2Proof.Machine

/-! ## Addresses of the scratchpad (R134, R141) -/

theorem inSpad_iff (a : Int) (n al : Nat) : inSpad a n al = true ↔ 0 ≤ a ∧ a % al = 0 ∧ a + n ≤ 786432 := by
  rw [inSpad, Bool.and_eq_true, Bool.and_eq_true, decide_eq_true_eq, decide_eq_true_eq, beq_iff_eq, and_assoc]
  rfl

theorem inSpad_false_iff (a : Int) (n al : Nat) :
    inSpad a n al = false ↔ a < 0 ∨ a % al ≠ 0 ∨ 786432 < a + n := by
  rw [← Bool.not_eq_true, inSpad_iff]
  omega

theorem placed_bytesOf (a n x : Nat) :
    placed a (bytesOf n x) = (List.range n).map fun k => (a + k, BitVec.ofNat 8 (x / 2 ^ (8 * k))) :=
  placed_delivered _ a n

/-- The bytes of a word are fields of the word. -/
theorem placed_bytesOf_word (a n : Nat) (v : Word) :
    placed a (bytesOf n v.toNat) = (List.range n).map fun k => (a + k, v.extractLsb' (8 * k) 8) := by
  simp only [placed_bytesOf, BitVec.extractLsb', Nat.shiftRight_eq_div_pow]

/-! ## LDS and STS -/

/-- The address of a scalar access (R141). -/
def scalarEa (o : ScMem) (s : State) : Int :=
  s.ea1 ((s.cx.rs o.sa.toNat).toInt + immOf o.off s.cur.ext * ((2 ^ o.sz.toNat : Nat) : Int))

/-- A scalar access whose guard is true goes to its address, or traps there. -/
theorem scalarMem_eq {s : State} {o : ScMem} (hg : s.guarded o.g = true) (k : Nat → Nat → State → State) :
    scalarMem o s k =
      .next (if inSpad (scalarEa o s) (2 ^ o.sz.toNat) (2 ^ o.sz.toNat)
        then k (2 ^ o.sz.toNat) (scalarEa o s).toNat (s.setEa (scalarEa o s) 0)
        else (s.setEa (scalarEa o s) 0).slotTrap 0x09 (BitVec.ofInt 64 (scalarEa o s))) := by
  unfold scalarMem scalarEa
  dsimp only
  generalize s.ea1 _ = ea
  rw [show (s.setEa ea 0).guarded o.g = true from hg]
  cases inSpad ea (2 ^ o.sz.toNat) (2 ^ o.sz.toNat) <;> rfl

/-- Settles O7: both operations are one access, at an address inside the scratchpad or outside it. -/
theorem scalarScratchpadAccess : Obligations.ScalarScratchpadAccess := by
  unfold Obligations.ScalarScratchpadAccess
  intro s o u hg n ea s' v
  have load : exec (.lds o u) s = execLds o u s := rfl
  have store : exec (.sts o) s = execSts o s := rfl
  rw [load, store, execLds, execSts, scalarMem_eq hg, scalarMem_eq hg]
  refine ⟨fun low aligned high => ?_, fun outside => ?_⟩
  · have inside : inSpad (scalarEa o s) n n = true := (inSpad_iff _ _ _).mpr ⟨low, aligned, high⟩
    rw [if_pos inside, if_pos inside, placed_bytesOf_word]
    exact ⟨rfl, rfl⟩
  · have outside : ¬ inSpad (scalarEa o s) n n = true :=
      Bool.eq_false_iff.mp ((inSpad_false_iff _ _ _).mpr outside)
    rw [if_neg outside, if_neg outside]
    exact ⟨rfl, rfl⟩

end Sys2Proof.Laws
end

section
/-! PROOFS. Vector loads and stores of the scratchpad (O20). -/

namespace Sys2Proof.Laws

open Sys2Proof Sys2Proof.Machine

/-! ## Lanes and their addresses (R142, R143) -/

/-- The address of a vector access. -/
def vectorEa (o : VMem) (s : State) : Int := s.ea1 ((s.cx.rs o.sa.toNat).toInt + immOf o.off s.cur.ext)

/-- A vector access with an active lane is made at its address. -/
theorem vecMem_eq {s : State} {o : VMem} (hm : s.cx.mask o.g ≠ 0) (k : Int → Half → State → Out) :
    vecMem o s k = k (vectorEa o s) (s.cx.mask o.g) (s.setEa (vectorEa o s) 0) := if_neg hm

theorem laneBytes_map (v : VWord) (l : List Nat) (a : Nat → Nat) :
    laneBytes v (l.map fun i => (i, a i)) =
      l.flatMap fun i => (List.range 4).map fun k => (a i + k, BitVec.ofNat 8 (elem 32 v i / 2 ^ (8 * k))) := by
  simp only [laneBytes, List.map_map, List.flatMap, Function.comp_def, placed_bytesOf]

/-- A bank is crowded where more than k of its rows are touched. -/
theorem mem_crowded_iff (k : Nat) (units : List Nat) (b : Nat) :
    b ∈ crowded k units ↔ k < (units.eraseDups.filter fun u => u % 192 == b).length := by
  simp only [crowded, List.mem_filter, List.mem_eraseDups, List.mem_map, gt_iff_lt, decide_eq_true_iff, bankOfUnit,
    and_iff_right_iff_imp]
  intro h
  obtain ⟨u, hu⟩ := List.exists_mem_of_length_pos (Nat.zero_lt_of_lt h)
  obtain ⟨mem, here⟩ := List.mem_filter.mp hu
  exact ⟨u, List.mem_eraseDups.mp mem, beq_iff_eq.mp here⟩

/-- Words whose addresses are inside the scratchpad and crowd no bank are accessed. -/
theorem checked_inside {rows : Nat} {l : List (Nat × Int)} {s : State} {k : List (Nat × Nat) → State → Out}
    (inside : ∀ e ∈ l, inSpad e.2 4 4 = true) (room : crowded rows (l.map fun e => e.2.toNat / 32) = []) :
    checked rows l s k = k (l.map fun e => (e.1, e.2.toNat)) s := by
  have bad : (l.map (·.2)).filter (fun a => !inSpad a 4 4) = [] := by simpa using fun a n h => inside (n, a) h
  simp [checked, bad, Function.comp_def, room]

/-- Of the addresses outside the scratchpad one is reported (log 27). -/
theorem checked_outside (rows : Nat) {l : List (Nat × Int)} (s : State) (k : List (Nat × Nat) → State → Out)
    (outside : ∃ a ∈ l.map (·.2), ¬ inSpad a 4 4 = true) :
    ∃ a ∈ l.map (·.2), ¬ inSpad a 4 4 = true ∧
      ∃ n, checked rows l s k = .next ({ s with fresh := n }.slotTrap 0x09 (BitVec.ofInt 64 a)) := by
  obtain ⟨a, ha, out⟩ := outside
  have ne : (l.map (·.2)).filter (fun a => !inSpad a 4 4) ≠ [] :=
    List.ne_nil_of_mem (List.mem_filter.mpr ⟨ha, by simpa using out⟩)
  obtain ⟨mem, bad⟩ := List.mem_filter.mp (pick_mem s ne 0)
  obtain ⟨n, drawn⟩ := pick_eq s ((l.map (·.2)).filter fun a => !inSpad a 4 4) 0
  exact ⟨_, mem, by simpa using bad, n, by simp [checked, ne, addrTrap, trapOut, drawn]⟩

/-- Of the crowded banks one is reported (log 27). -/
theorem checked_crowded {rows : Nat} {l : List (Nat × Int)} (s : State) (k : List (Nat × Nat) → State → Out)
    (inside : ∀ e ∈ l, inSpad e.2 4 4 = true) (full : crowded rows (l.map fun e => e.2.toNat / 32) ≠ []) :
    ∃ b ∈ crowded rows (l.map fun e => e.2.toNat / 32),
      ∃ n, checked rows l s k = .next ({ s with fresh := n }.slotTrap 0x0A (BitVec.ofInt 64 (b : Nat))) := by
  have good : (l.map (·.2)).filter (fun a => !inSpad a 4 4) = [] := by simpa using fun a n h => inside (n, a) h
  obtain ⟨n, drawn⟩ := pick_eq s (crowded rows (l.map fun e => e.2.toNat / 32)) 0
  refine ⟨_, pick_mem s full 0, n, ?_⟩
  simp [checked, good, Function.comp_def, full, trapOut, drawn]

/-- Of the lanes that a shadow store keeps, lane 0 is the only one (log 62). -/
theorem lanes_zero (m : Half) (f : Nat → Int) :
    (((lanesOf m).map fun i => (i, f i)).filter fun e => e.1 = 0 && inSpad e.2 4 4) =
      if m.getLsbD 0 = true ∧ inSpad (f 0) 4 4 = true then [(0, f 0)] else [] := by
  have others : ((List.range 31).map Nat.succ).filter
      (fun i => (decide (i = 0) && inSpad (f i) 4 4) && m.getLsbD i) = [] := by simp
  rw [lanesOf, List.filter_map, List.filter_filter,
    show List.range 32 = 0 :: (List.range 31).map Nat.succ from List.range_succ_eq_map, List.filter_cons]
  simp only [Function.comp_def, bitAt_eq_getLsbD]
  rw [others]
  cases inSpad (f 0) 4 4 <;> cases m.getLsbD 0 <;> rfl

/-! ## The operations in their primary form (R142, R143) -/

section
variable {s : State} {o : VMem} (hm : s.cx.mask o.g ≠ 0) (hr : s.readable [o.vd, o.vx]) (hs : o.sh = false)
include hm hs

theorem exec_vld : exec (.vld o) s = .next (
    let s' := s.setEa (vectorEa o s) 0
    if inSpad (vectorEa o s) 128 32 then
      s'.access 0 3 false (unitsOf (vectorEa o s).toNat 128) (.toV o.vd.toNat
        ((lanesOf (s.cx.mask o.g)).map fun i => (i, (vectorEa o s).toNat + 4 * i)) (wordsOf (vectorEa o s).toNat 128)
        (s.timeOf s.cur.site + 5) false)
    else s'.slotTrap 0x09 (BitVec.ofInt 64 (vectorEa o s))) := by
  change execVld o s = _
  rw [execVld, vecMem_eq hm, hs]
  cases inSpad (vectorEa o s) 128 32 <;> rfl

theorem exec_vlds : exec (.vlds o) s =
    checked 1 ((List.range 32).map fun i => (i, vectorEa o s + 4 * o.vx.toNat * i)) (s.setEa (vectorEa o s) 0)
      fun l s => .next (s.access 0 3 false (l.map fun e => e.2 / 32).eraseDups
        (.toV o.vd.toNat (l.filter fun e => bitAt (s.cx.mask o.g) e.1) (l.map fun e => e.2 / 8).eraseDups
          (s.timeOf s.cur.site + 5) false)) := by
  change execVlds o s = _
  rw [execVlds, vecMem_eq hm, hs]
  rfl

include hr

theorem exec_vst : exec (.vst o) s = .next (
    let s' := s.setEa (vectorEa o s) 0
    if inSpad (vectorEa o s) 128 32 then
      s'.access 0 3 false (unitsOf (vectorEa o s).toNat 128) (.write (laneBytes (s.srcV 32 o.vd)
        ((lanesOf (s.cx.mask o.g)).map fun i => (i, (vectorEa o s).toNat + 4 * i))) none)
    else s'.slotTrap 0x09 (BitVec.ofInt 64 (vectorEa o s))) := by
  change execVst o s = _
  rw [execVst, withB_readable _ _ _ (State.readable.sub hr (by simp)), vecMem_eq hm, hs]
  cases inSpad (vectorEa o s) 128 32 <;> rfl

theorem exec_vgth : exec (.vgth o) s =
    checked 4 (gatherAddrs o (vectorEa o s) (s.cx.mask o.g) s) (s.setEa (vectorEa o s) 0)
      fun l s => .next (s.access 3 3 true (l.map fun e => e.2 / 32).eraseDups
        (.toV o.vd.toNat l (l.map fun e => e.2 / 8).eraseDups (s.timeOf s.cur.site + 8) false)) := by
  change execVgth o s = _
  rw [execVgth, withB_readable _ _ _ (State.readable.sub hr (by simp)), vecMem_eq hm, hs]
  rfl

theorem exec_vsct : exec (.vsct o) s =
    checked 4 (gatherAddrs o (vectorEa o s) (s.cx.mask o.g) s) (s.setEa (vectorEa o s) 0)
      fun l s => .next (s.access 3 3 true (l.map fun e => e.2 / 32).eraseDups
        (.write (laneBytes (s.srcV 32 o.vd) l) none)) := by
  change execVsct o s = _
  rw [execVsct, withB_readable _ _ _ (State.readable.sub hr (by simp)), vecMem_eq hm, hs]
  rfl

end

/-! ## Shadow forms -/

/-- What a shadow store keeps of its lanes: the word of lane 0 (log 62). -/
theorem shadowStore_lanes (o : VMem) (off : Nat) (m : Half) (f : Nat → Int) (u : State) :
    shadowStore o off ((lanesOf m).map fun i => (i, f i)) u =
      .next (u.access off 3 false [] (.write
        (if m.getLsbD 0 = true ∧ inSpad (f 0) 4 4 = true then
          (List.range 4).map fun k => ((f 0).toNat + k, BitVec.ofNat 8 (elem 32 (u.srcV 32 o.vd) 0 / 2 ^ (8 * k)))
        else []) (some o.vd.toNat))) := by
  rw [shadowStore, lanes_zero]
  split
  · have word := laneBytes_map (u.srcV 32 o.vd) [0] fun _ => (f 0).toNat
    simp only [List.map_cons, List.map_nil, List.flatMap_cons, List.flatMap_nil, List.append_nil] at word
    simp only [List.map_cons, List.map_nil, word]
  · rfl

section
variable {s : State} {o : VMem} (hm : s.cx.mask o.g ≠ 0) (hr : s.readable [o.vd, o.vx]) (hs : o.sh = true)
include hm hr hs

theorem exec_shadow_loads :
    let load := fun off => Host.Outcome.next
      ((s.setEa (vectorEa o s) 0).landing off fNone true (.vreg o.vd.toNat (laneMask (s.cx.mask o.g)) 0))
    exec (.vld o) s = load 5 ∧ exec (.vlds o) s = load 5 ∧ exec (.vgth o) s = load 8 := by
  change execVld o s = _ ∧ execVlds o s = _ ∧ execVgth o s = _
  rw [execVld, execVlds, execVgth, withB_readable _ _ _ (State.readable.sub hr (by simp)), vecMem_eq hm, vecMem_eq hm,
    vecMem_eq hm, hs]
  exact ⟨rfl, rfl, rfl⟩

theorem exec_shadow_stores :
    exec (.vst o) s = shadowStore o 0 ((lanesOf (s.cx.mask o.g)).map fun (i : Nat) => (i, vectorEa o s + 4 * i))
      (s.setEa (vectorEa o s) 0) ∧
    exec (.vsct o) s = shadowStore o 3 (gatherAddrs o (vectorEa o s) (s.cx.mask o.g) s) (s.setEa (vectorEa o s) 0) := by
  change execVst o s = _ ∧ execVsct o s = _
  rw [execVst, execVsct, withB_readable _ _ _ (State.readable.sub hr (by simp)), withB_readable _ _ _ hr, vecMem_eq hm,
    vecMem_eq hm, hs]
  exact ⟨rfl, rfl⟩

end

/-- Settles O20: each operation is one checked access; its shadow form touches no bank. -/
theorem vectorScratchpadAccess : Obligations.VectorScratchpadAccess := by
  unfold Obligations.VectorScratchpadAccess
  refine ⟨fun s o hm hr hs => ?_, fun s o hm hr hs => ?_, fun s o hm hr hs => ?_, mem_crowded_iff⟩
  · intro m t ea s' x word bytes inside units words line strided gathered
    refine ⟨fun low aligned high => ?_, fun inl room => ?_, fun inl room => ?_⟩
    · have here : inSpad (vectorEa o s) 128 32 = true := (inSpad_iff _ _ _).mpr ⟨low, aligned, high⟩
      rw [exec_vld hm hs, exec_vst hm hr hs, if_pos here, if_pos here, laneBytes_map]
      exact ⟨rfl, rfl⟩
    · have low : 0 ≤ ea := by simpa using (inl 0 (by decide)).1
      have word (i : Nat) : (vectorEa o s + 4 * o.vx.toNat * i).toNat = strided i := by
        rw [show (4 * o.vx.toNat * i : Int) = (4 * o.vx.toNat * i : Nat) by push_cast; rfl]
        exact Int.toNat_add_nat low _
      have inl : ∀ e ∈ (List.range 32).map fun (i : Nat) => (i, vectorEa o s + 4 * o.vx.toNat * i),
          inSpad e.2 4 4 = true := by
        rintro e he
        obtain ⟨i, hi, rfl⟩ := List.mem_map.mp he
        exact (inSpad_iff _ _ _).mpr (inl i (by exact_mod_cast List.mem_range.mp hi))
      rw [exec_vlds hm hs, checked_inside inl (by simpa only [List.map_map, Function.comp_def, word] using room)]
      simp only [List.map_map, Function.comp_def, word, List.filter_map, units, words]
      rfl
    · have inl : ∀ e ∈ gatherAddrs o (vectorEa o s) m s, inSpad e.2 4 4 = true := by
        rintro e he
        obtain ⟨i, hi, rfl⟩ := List.mem_map.mp he
        exact (inSpad_iff _ _ _).mpr (inl i hi)
      have room : crowded 4 ((gatherAddrs o (vectorEa o s) m s).map fun e => e.2.toNat / 32) = [] := by
        rw [gatherAddrs, List.map_map]
        exact room
      rw [exec_vgth hm hr hs, exec_vsct hm hr hs, checked_inside inl room, checked_inside inl room]
      simp only [gatherAddrs, List.map_map, Function.comp_def, laneBytes_map, units, words]
      exact ⟨rfl, rfl⟩
  · intro ea s' load lane0 store
    obtain ⟨vld, vlds, vgth⟩ := exec_shadow_loads hm hr hs
    obtain ⟨vst, vsct⟩ := exec_shadow_stores hm hr hs
    refine ⟨vld, vlds, vgth, ?_, ?_⟩
    · rw [vst, shadowStore_lanes]
      simp only [inSpad_iff, Nat.cast_zero, mul_zero, add_zero]
      rfl
    · rw [vsct, gatherAddrs, shadowStore_lanes]
      simp only [inSpad_iff]
      rfl
  · intro ea s' inside gathered strided traps outside overfull
    have out {i : Instr} {rows : Nat} {l : List (Nat × Int)} {k : List (Nat × Nat) → State → Out}
        (e : exec i s = checked rows l s' k) : outside i (l.map (·.2)) := by
      rintro ⟨a, ha, far⟩
      obtain ⟨b, hb, far, n, trap⟩ := checked_outside rows s' k ⟨a, ha, mt (inSpad_iff a 4 4).mp far⟩
      exact ⟨b, hb, mt (inSpad_iff b 4 4).mpr far, n, e.trans trap⟩
    have crowd {i : Instr} {rows : Nat} {l : List (Nat × Int)} {k : List (Nat × Nat) → State → Out}
        (e : exec i s = checked rows l s' k) : overfull i rows (l.map (·.2)) := by
      intro near full ne
      have units : full = crowded rows (l.map fun e => e.2.toNat / 32) := congrArg (crowded rows) (List.map_map ..)
      obtain ⟨b, hb, trap⟩ := checked_crowded s' k
        (fun x hx => (inSpad_iff x.2 4 4).mpr (near x.2 (List.mem_map_of_mem hx))) (units ▸ ne)
      exact ⟨b, units ▸ hb, trap.imp fun _ trap => e.trans trap⟩
    have lanes : (gatherAddrs o (vectorEa o s) (s.cx.mask o.g) s).map (·.2) = gathered := List.map_map ..
    have line : ((List.range 32).map fun (i : Nat) => (i, vectorEa o s + 4 * o.vx.toNat * i)).map (·.2) = strided :=
      List.map_map ..
    refine ⟨fun far => ?_, ?_, ?_⟩
    · have far : ¬ inSpad (vectorEa o s) 128 32 = true := Bool.eq_false_iff.mp ((inSpad_false_iff _ _ _).mpr far)
      rw [exec_vld hm hs, exec_vst hm hr hs, if_neg far, if_neg far]
      exact ⟨rfl, rfl⟩
    · rw [← lanes, ← line]
      exact ⟨out (exec_vlds hm hs), out (exec_vgth hm hr hs), out (exec_vsct hm hr hs)⟩
    · rw [← lanes, ← line]
      exact ⟨crowd (exec_vlds hm hs), crowd (exec_vgth hm hr hs), crowd (exec_vsct hm hr hs)⟩

end Sys2Proof.Laws
end

section
/-! PROOFS. The timed fabric (O32). -/

namespace Sys2Proof.Laws

open Sys2Proof Sys2Proof.Machine

/-! ## Operands and checks (R145, R146) -/

theorem withScalar_source {s : State} {bs : Bool} {r : BitVec 6} {v : Word} (h : s.source bs r = some v)
    (k : Word → Out) : withScalar bs r s k = k v := by
  cases bs with
  | true =>
    have h : s.cur.b = some v := h
    simp [withScalar, h]
  | false =>
    obtain rfl : s.cx.rs r.toNat = v := Option.some.inj h
    rfl

theorem barred_outside {s : State} (h : s.cx.inHandler = false) (k : Out) : s.barred k = k :=
  if_neg (Bool.eq_false_iff.mp h)

section
variable {s : State} {o : DOp} {v : Word} {c : Cohort} (hv : s.source o.bs o.sa = some v)
  (hg : s.guarded o.g = true) (hh : s.cx.inHandler = false) (hc : s.myCoh = some c) (sr : BitVec 6) (peer : BitVec 7)
  (sz : BitVec 2) (k : Nat → Nat → Nat → Nat → Nat × Bool → Cohort → State → State)
include hv hg hh hc

/-- A transfer outside a handler, with its guard true, comes to its checks. -/
theorem fabric_eq :
    let la := s.ea1 v.toInt
    let ra := s.ea2 (s.cx.rs sr.toNat).toInt
    let n := 128 / 2 ^ sz.toNat
    let u := s.setEa la ra
    let bad := [la, ra].filter fun a => !inSpad a n 32
    fabric o sr peer sz s k = .next (
      if peer.toNat ≥ c.members.length then u.slotTrap 0x0C (peer.zeroExtend 64)
      else if !bad.isEmpty then (u.pick bad 0).2.slotTrap 0x09 (BitVec.ofInt 64 (u.pick bad 0).1)
      else k n la.toNat ra.toNat (c.members.getD peer.toNat 0) (c.hop (c.memberOf s.cur.site) peer.toNat) c u) := by
  intro la ra n u bad
  have coh : u.myCoh = some c := hc
  rw [fabric, withScalar_source hv]
  change (if !u.guarded o.g then _ else u.barred _) = _
  rw [show u.guarded o.g = true from hg, barred_outside (s := u) hh, coh]
  change (if peer.toNat ≥ c.members.length then Host.Outcome.next _ else
    if !bad.isEmpty then Host.Outcome.next _ else .next _) = _
  split
  · rfl
  · split <;> rfl

end

/-- Settles O32: both operations are one transfer, which checks the peer, then both addresses. -/
theorem fabricTransfers : Obligations.FabricTransfers := by
  unfold Obligations.FabricTransfers
  intro s o sr peer sz v c hv hg hh hc n la ra inside i j me h t u own more ops
  have both : ∀ x ∈ ops, ∃ k, exec x s = fabric o sr peer sz s k := by
    intro x hx
    rcases List.mem_pair.mp hx with rfl | rfl
    · change ∃ k, execPush o sr peer sz s = _
      exact ⟨_, execPush.eq_def ..⟩
    · change ∃ k, execPull o sr peer sz s = _
      exact ⟨_, execPull.eq_def ..⟩
  have near {a : Int} : inSpad a n 32 = true ↔ inside a := inSpad_iff a n 32
  have away {a : Int} : (!inSpad a n 32) = true ↔ ¬ inside a := by rw [← near, Bool.not_eq_true', Bool.not_eq_true]
  refine ⟨fun stranger x hx => ?_, fun member far x hx => ?_, fun member hl hr => ?_⟩
  · obtain ⟨k, e⟩ := both x hx
    rw [e, fabric_eq hv hg hh hc, if_pos stranger]
  · obtain ⟨k, e⟩ := both x hx
    let bad := [la, ra].filter fun a => !inSpad a n 32
    have ne : bad ≠ [] := by
      rcases far with far | far
      · exact List.ne_nil_of_mem (List.mem_filter.mpr ⟨List.mem_cons_self, away.mpr far⟩)
      · exact List.ne_nil_of_mem (List.mem_filter.mpr ⟨List.mem_cons_of_mem _ List.mem_cons_self, away.mpr far⟩)
    obtain ⟨mem, out⟩ := List.mem_filter.mp (pick_mem u ne 0)
    obtain ⟨m, drawn⟩ := pick_eq u bad 0
    refine ⟨_, m, List.mem_pair.mp mem, away.mp out, ?_⟩
    rw [e, fabric_eq hv hg hh hc, if_neg (Nat.not_le.mpr member), if_pos (by simpa [bad] using ne), drawn]
  · have none_ : ([la, ra].filter fun a => !inSpad a n 32).isEmpty = true := by
      simp [near.mpr hl, near.mpr hr]
    have push : exec (.push o sr peer sz) s = execPush o sr peer sz s := rfl
    have pull : exec (.pull o sr peer sz) s = execPull o sr peer sz s := rfl
    rw [push, execPush, pull, execPull, fabric_eq hv hg hh hc, fabric_eq hv hg hh hc, if_neg (Nat.not_le.mpr member),
      if_neg (Nat.not_le.mpr member), none_, Bool.not_true, if_neg Bool.false_ne_true, if_neg Bool.false_ne_true]
    have due (x y : Nat) : t + (if h.2 then x + y else x) = t + x + more y := by
      change _ = t + x + if h.2 then y else 0
      split <;> omega
    have site (x : State) : (own x).cur.site = x.cur.site := by
      change (if j = i then x.touch (unitsOf ra.toNat n) else x).cur.site = _
      split <;> rfl
    have key (x : State) : (own x).issueKey = x.issueKey := by
      change (if j = i then x.touch (unitsOf ra.toNat n) else x).issueKey = _
      split <;> rfl
    rw [← due 5 24, ← due 6 24, ← due 11 48]
    refine ⟨?_, ?_⟩
    · change Host.Outcome.next ((own u).access 0 3 false (unitsOf la.toNat n) (.push la.toNat n j ra.toNat
        (t + (if h.2 then 29 else 5) + 2 * h.1) (c.memberOf (own u).cur.site))).irrevocable = _
      rw [site]
      rfl
    · change Host.Outcome.next ((own (u.touch (unitsOf la.toNat n))).place j
        { due := t + (if h.2 then 30 else 6) + 2 * h.1, cls := 3, key := (own (u.touch (unitsOf la.toNat n))).issueKey
          issued := t, again := false, window := none, units := unitsOf ra.toNat n, lost := []
          act := .pull ra.toNat n i la.toNat (t + (if h.2 then 59 else 11) + 4 * h.1) }) = _
      rw [key]
      rfl

end Sys2Proof.Laws
end

section
/-! PROOFS. The events of one core site (O45). -/

namespace Sys2Proof.Laws

open Sys2Proof Sys2Proof.Machine

/-! ## Locks and traces (R140, R309) -/

theorem exec_blockLockExpire (i : Nat) (s : State) : exec (.blockLockExpire i) s =
    .next (s.modCore i fun c => { c with locks := c.locks.filter fun l => s.ccycOf i ≤ l.to_ }) := by rfl

theorem exec_traceFreeze {s : State} {i : Nat} (h : s.freezeDue i = true) : exec (.traceFreeze i) s =
    .next (s.modCore i fun c => { c with trace := { c.trace with frozen := true, armed := none } }) :=
  congrArg Host.Outcome.next (if_pos h)

theorem exec_trcctlFrozenClear (i : Nat) (s : State) : exec (.trcctlFrozenClear i) s =
    .next (s.modCore i fun c => { c with trace := { c.trace with
      frozen := false, armed := if c.trace.armed == some 0 then none else c.trace.armed } }) := by rfl

theorem exec_thaw {s : State} {i : Nat} (h : s.thawDue i = true) : exec (.thaw i) s =
    .next (s.modCore i fun c => { c with run := .free }) :=
  congrArg Host.Outcome.next (if_pos h)

/-! ## The request of a retrain (R184) -/

/-- A new cause of hold joins those of its cohort. -/
theorem addHold_spec {s : State} {k : Nat} {c : Cohort} (hc : s.coh? k = some c) (run : c.st = .running)
    (cause : HoldCause) (code first : Nat) :
    SameMemory s (s.addHold k cause code first) ∧ (s.addHold k cause code first).banks = s.banks ∧
      ∃ d, (s.addHold k cause code first).coh? k = some d ∧ cause ∈ d.holds := by
  have said : Recorded s (if c.resuming then forAll c.members s fun i s => s.traceRec i 12 0 0 else s) := by
    split
    · exact forAll_keeps (.refl s) fun i _ _ ht => ht.traceRec i 12 0 0
    · exact .refl s
  simp only [State.addHold, hc, run, show (CohState.running == .ending) = false from rfl]
  exact ⟨sameMemory_setCoh said.sameMemory _ _, said.banks, _, coh?_setCoh_same _ _ _, by simp⟩

/-- A retrain that begins ends within 24,000 wall cycles. -/
def retrainFrom (s : State) (i : Nat) : State :=
  s.draw.2.modBank i fun b => { b with retraining := some (s.now + 1 + Config.latency s.fresh % 23999) }

theorem retrainFrom_spec (s : State) (i : Nat) : SameMemory s (retrainFrom s i) ∧
    ∃ n, ((retrainFrom s i).bank i).retraining = some n ∧ s.now < n ∧ n < s.now + 24000 := by
  refine ⟨sameMemory_of_fields (sameMemory_refl s) rfl rfl rfl rfl, _, by simp [retrainFrom]; rfl, ?_, ?_⟩ <;> omega

/-- The bus of a pair is retrained, and the cohort that runs there is held. -/
theorem retrainRequest_spec {s : State} {i : Nat} (idle : (s.bank i).retraining = none) :
    ∃ t, exec (.retrainRequest i) s = .next t ∧ SameMemory s t ∧
      (∃ n, (t.bank i).retraining = some n ∧ s.now < n ∧ n < s.now + 24000) ∧
      ∀ k c, s.cohOf i = some k → s.coh? k = some c → c.st = .running →
        ∃ d, t.coh? k = some d ∧ HoldCause.retrain i ∈ d.holds := by
  obtain ⟨memory, ends⟩ := retrainFrom_spec s i
  change ∃ t, execRetrainRequest i s = .next t ∧ _
  have eq : execRetrainRequest i s = match s.cohOf i with
      | none => .next (retrainFrom s i)
      | some k => match s.coh? k with
        | some c => .next (if c.st == .running then
            (retrainFrom s i).addHold k (.retrain i) 6 (retrainFrom s i).firstBoundary else retrainFrom s i)
        | none => .next (retrainFrom s i) := by
    unfold execRetrainRequest
    rw [idle]
    rfl
  rw [eq]
  cases hk : s.cohOf i with
  | none => exact ⟨_, rfl, memory, ends, fun _ _ h => nomatch h⟩
  | some k =>
    cases hc : s.coh? k with
    | none => exact ⟨_, by simp only [hc], memory, ends, fun j c hj => by cases hj; simp [hc]⟩
    | some c =>
      by_cases run : c.st = .running
      · obtain ⟨same, banks, held⟩ := addHold_spec (s := retrainFrom s i) hc run (.retrain i) 6
          (retrainFrom s i).firstBoundary
        refine ⟨_, by simp only [hc, run, beq_self_eq_true, if_true], sameMemory_trans memory same, ?_, ?_⟩
        · simpa only [State.bank, banks] using ends
        · intro j d hj hd _
          cases hj
          exact held
      · refine ⟨_, by simp only [hc, beq_iff_eq, run, if_false], memory, ends, fun j d hj hd hr => ?_⟩
        cases hj
        cases hc.symm.trans hd
        exact absurd hr run

/-! ## The end of a retrain (R185, R186) -/

/-- A cohort that has ended with a fault. -/
def Faulted (k : Nat) (t : State) : Prop :=
  ∃ d, t.coh? k = some d ∧ d.st = .ending ∧ d.requeue = none ∧ d.status = some 1

/-- From s to t the banks and the map of pairs stand. -/
def SamePairs (s t : State) : Prop := t.banks = s.banks ∧ t.bam = s.bam

theorem traceCoh_pairs {s t : State} (h : SamePairs s t) (c : Cohort) (kind payload d : Nat) :
    SamePairs s (t.traceCoh c kind payload d) := forAll_keeps h fun _ _ _ hu => hu

theorem sayHold_pairs {s t : State} (h : SamePairs s t) (k : Nat) : SamePairs s (t.sayHold k) := by
  unfold State.sayHold
  split
  · exact h
  · split
    · exact h
    · split
      · exact h
      · exact traceCoh_pairs (t := t.setCoh k _) h _ _ _ _

theorem sayRelease_pairs {s t : State} (h : SamePairs s t) (k : Nat) : SamePairs s (t.sayRelease k) := by
  unfold State.sayRelease
  split
  · exact h
  · split
    · exact h
    · dsimp only
      split
      · exact traceCoh_pairs h _ _ _ _
      · split
        · exact h
        · unfold State.qtrOften
          split <;> exact traceCoh_pairs (sayHold_pairs h k) _ _ _ _

theorem endNode_pairs {s t : State} (h : SamePairs s t) (k : Nat) (r : Option Requeue) (status : Option Nat) :
    SamePairs s (t.endNode k r status) := by
  unfold State.endNode
  split
  · exact h
  · split
    · exact h
    · have said := sayRelease_pairs h k
      dsimp only
      refine forAll_keeps (P := SamePairs s) ?_ fun _ _ _ hu => hu
      split
      · exact said
      · exact forAll_keeps (P := SamePairs s) said fun _ _ _ hu => hu

/-- The end of another node leaves a cohort, but for whether its hold is recorded. -/
theorem endNode_other {s : State} {k j : Nat} {c : Cohort} (hc : s.coh? k = some c) (ne : k ≠ j) (r : Option Requeue)
    (status : Option Nat) : SameCoh k c (s.endNode j r status) := by
  unfold State.endNode
  split
  · exact ⟨c.holdSaid, hc⟩
  · split
    · exact ⟨c.holdSaid, hc⟩
    · obtain ⟨said, h⟩ := ((Recorded.refl s).sayRelease j).coh k c hc
      have put : ∀ d, ((s.sayRelease j).setCoh j d).coh? k = some { c with holdSaid := said } := fun d => by
        rw [coh?_setCoh_other _ _ ne, h]
      dsimp only
      refine forAll_keeps (P := SameCoh k c) ?_ fun _ _ _ hu => hu
      split
      · exact ⟨said, put _⟩
      · exact forAll_keeps (P := SameCoh k c) ⟨said, put _⟩ fun _ _ _ hu => hu

/-- A node that ends already is not ended again. -/
theorem endNode_ending {s : State} {k : Nat} {c : Cohort} (hc : s.coh? k = some c) (ending : c.st = .ending)
    (r : Option Requeue) (status : Option Nat) : s.endNode k r status = s := by
  simp [State.endNode, hc, ending]

theorem faulted_endNode {k : Nat} {t : State} (h : Faulted k t) (j : Nat) :
    Faulted k (t.endNode j none (some stFault)) := by
  obtain ⟨d, hd, st, rq, status⟩ := h
  by_cases e : k = j
  · subst e
    exact ⟨d, by rw [endNode_ending hd st, hd], st, rq, status⟩
  · obtain ⟨said, hs⟩ := endNode_other hd e none (some stFault)
    exact ⟨_, hs, st, rq, status⟩

/-- A pass that ends nodes faults each cohort that it visits and that has not ended. -/
theorem forAll_endNode {l : List Nat} {s : State} {k : Nat} {c : Cohort} (hk : k ∈ l) (hc : s.coh? k = some c)
    (run : c.st ≠ .ending) : Faulted k (forAll l s fun k s => s.endNode k none (some stFault)) := by
  refine forAll_reaches (I := fun t => SameCoh k c t ∨ Faulted k t) (P := Faulted k) hk (.inl ⟨c.holdSaid, hc⟩)
    ?_ ?_
    fun j t _ ht => faulted_endNode ht j
  · rintro j t (⟨said, ht⟩ | ht)
    · by_cases e : k = j
      · subst e
        exact .inr ⟨_, (endNode_spec ht run none (some stFault)).1, rfl, rfl, rfl⟩
      · obtain ⟨again, h⟩ := endNode_other ht e none (some stFault)
        exact .inl ⟨again, h⟩
    · exact .inr (faulted_endNode ht j)
  · rintro t (⟨said, ht⟩ | ht)
    · exact ⟨_, (endNode_spec ht run none (some stFault)).1, rfl, rfl, rfl⟩
    · exact faulted_endNode ht k

/-- Cohort k has a context on core i in which the event of the latency class waits. -/
def LatencyWaits (i k : Nat) (t : State) : Prop := ∃ e ∈ ((t.core i).ctxOf k).bev, e.kind = .latencyClass

/-- Core c holds a context of cohort k, live or saved. -/
def Holds (c : Core) (k : Nat) : Prop := c.serves k = true ∨ ∃ x ∈ c.shadow, x.coh = k

theorem holds_of_cohortsAt {s : State} {i k : Nat} (h : k ∈ s.cohortsAt i) : Holds (s.core i) k := by
  rcases List.mem_append.mp h with h | h
  · exact .inl (serves_of_liveCoh (by simpa [State.liveCoh, Option.mem_toList] using h))
  · exact .inr (List.mem_map.mp h)

theorem modOf_serves (c : Core) (j k : Nat) (f : Ctx → Ctx) : (c.modOf j f).serves k = c.serves k := by
  unfold Core.modOf
  split <;> rfl

theorem Holds.modOf {c : Core} {k : Nat} (h : Holds c k) (j : Nat) (f : Ctx → Ctx) : Holds (c.modOf j f) k := by
  rcases h with h | ⟨x, hx, hk⟩
  · exact .inl (by rw [modOf_serves, h])
  · unfold Core.modOf
    split
    · exact .inr ⟨x, hx, hk⟩
    · refine .inr ⟨_, List.mem_map_of_mem hx, ?_⟩
      split <;> exact hk

theorem ctxOf_live {c : Core} {k : Nat} (h : c.serves k = true) : c.ctxOf k = c.ctx := if_pos h

theorem ctxOf_saved {c : Core} {k : Nat} {x : Saved} (h : ¬ c.serves k = true)
    (hx : c.shadow.find? (·.coh == k) = some x) : c.ctxOf k = x.ctx := by
  rw [Core.ctxOf, if_neg h, hx]

/-- The entry of a cohort among the saved contexts, after a change of the entries of another or the same. -/
theorem find?_saved (l : List Saved) (j k : Nat) (f : Ctx → Ctx) :
    (l.map fun x => if x.coh = j then { x with ctx := f x.ctx } else x).find? (·.coh == k) =
      (l.find? (·.coh == k)).map fun x => if x.coh = j then { x with ctx := f x.ctx } else x := by
  rw [List.find?_map]
  congr 2
  funext x
  dsimp only [Function.comp]
  split <;> rfl

/-- A change of the context of a cohort that has one changes no other's. -/
theorem ctxOf_modOf {c : Core} {k : Nat} (h : Holds c k) (j : Nat) (f : Ctx → Ctx) :
    (c.modOf j f).ctxOf k = if k = j then f (c.ctxOf k) else c.ctxOf k := by
  have sameServes := modOf_serves c j k f
  by_cases hk : c.serves k = true
  · rw [ctxOf_live (sameServes.trans hk), ctxOf_live hk]
    split
    · next e => rw [← e, modOf_ctx hk]
    · next e =>
      have hj : ¬ c.serves j = true := by
        simp only [Core.serves, Bool.or_eq_true, beq_iff_eq] at hk ⊢
        rcases hk with hk | hk <;> simp [hk, e]
      rw [Core.modOf, if_neg hj]
  · obtain ⟨y, hy, rfl⟩ := h.resolve_left hk
    obtain ⟨x, hx⟩ : ∃ x, c.shadow.find? (·.coh == y.coh) = some x :=
      Option.isSome_iff_exists.mp (List.find?_isSome.mpr ⟨y, hy, beq_self_eq_true y.coh⟩)
    have coh : x.coh = y.coh := by simpa using List.find?_some hx
    rw [ctxOf_saved hk hx]
    by_cases hj : c.serves j = true
    · have ne : y.coh ≠ j := fun e => hk (e ▸ hj)
      rw [ctxOf_saved (fun e => hk (sameServes ▸ e)) (x := x) (by rw [Core.modOf, if_pos hj]; exact hx), if_neg ne]
    · have found : (c.modOf j f).shadow.find? (·.coh == y.coh) =
          some (if x.coh = j then { x with ctx := f x.ctx } else x) := by
        rw [Core.modOf, if_neg hj, find?_saved, hx, Option.map_some]
      rw [ctxOf_saved (fun e => hk (sameServes ▸ e)) found, ← coh]
      split <;> rfl

/-- R185: the event of the latency class waits with each cohort that has a context on the pair. -/
theorem latencyEvent_waits {s : State} {i k : Nat} {c : Cohort} (hk : k ∈ s.cohortsAt i) (hc : s.coh? k = some c)
    {l : List Nat} (hl : k ∈ l) :
    LatencyWaits i k (forAll l s fun k s => s.latencyEvent i k) := by
  refine forAll_reaches (I := fun t => Holds (t.core i) k ∧ t.coh? k = some c) (P := LatencyWaits i k) hl
    ⟨holds_of_cohortsAt hk, hc⟩ ?_ ?_ ?_
  · rintro j t ⟨holds, coh⟩
    unfold State.latencyEvent
    split
    · exact ⟨holds, coh⟩
    · exact ⟨by simpa using holds.modOf j _, coh⟩
  · rintro t ⟨holds, coh⟩
    simp only [State.latencyEvent, coh, LatencyWaits, core_modCore_same, ctxOf_modOf holds, if_true]
    exact ⟨_, List.mem_append_right _ List.mem_cons_self, rfl⟩
  · rintro j t ⟨holds, coh⟩ ⟨e, he, kind⟩
    unfold State.latencyEvent
    split
    · exact ⟨e, he, kind⟩
    · refine ⟨e, ?_, kind⟩
      rw [core_modCore_same, ctxOf_modOf holds]
      split
      · exact List.mem_append_left _ he
      · exact he

/-- The pair as its retrain ends, before its cohorts are told. -/
def retrained (s : State) (i : Nat) (result : Retrain) : State :=
  let t := s.draw.2.modBank i fun b =>
    { b with retraining := none, retr := min 65535 (b.retr + 1), narrow := decide (result = .half) }
  { t with pf := { t.pf with trained := match SMap.get? t.pf.bankTemp i with
    | some v => SMap.set t.pf.trained i v
    | none => t.pf.trained } }

theorem exec_retrainComplete {s : State} {i : Nat} (busy : (s.bank i).retraining ≠ none) (result : Retrain) :
    exec (.retrainComplete i result) s = .next (match result with
      | .full => retrained s i .full
      | .half => forAll (s.cohortsAt i) (retrained s i .half) fun k s => s.latencyEvent i k
      | .failed => forAll (s.cohortsAt i) { retrained s i .failed with bam := SMap.set s.bam i 2 } fun k s =>
          s.endNode k none (some stFault)) := by
  change execRetrainComplete i result s = _
  unfold execRetrainComplete
  rw [if_neg (by simpa using busy)]
  cases result <;> rfl

/-- What a retrain leaves of its bank. -/
theorem retrained_bank (s : State) (i : Nat) (result : Retrain) : (retrained s i result).bank i =
    { s.bank i with retraining := none, retr := min 65535 ((s.bank i).retr + 1), narrow := decide (result = .half) } :=
  bank_modBank_same s.draw.2 i fun b =>
    { b with retraining := none, retr := min 65535 (b.retr + 1), narrow := decide (result = .half) }

/-- R185, R186: what the end of a retrain leaves of the pair and of the cohorts that have a context there. -/
theorem retrainComplete_spec {s : State} {i : Nat} (result : Retrain) (busy : (s.bank i).retraining ≠ none) :
    ∃ t, exec (.retrainComplete i result) s = .next t ∧ t.bank i = (retrained s i result).bank i ∧
      (result = .failed → SMap.get t.bam 0 i = 2) ∧
      ∀ k ∈ s.cohortsAt i, ∀ c, s.coh? k = some c →
        (result = .full → t.coh? k = some c) ∧
        (result = .half → t.coh? k = some c ∧ LatencyWaits i k t) ∧
        (result = .failed → c.st ≠ .ending → Faulted k t) := by
  refine ⟨_, exec_retrainComplete busy result, ?_⟩
  cases result with
  | full => exact ⟨rfl, nofun, fun k _ c hc => ⟨fun _ => hc, nofun, nofun⟩⟩
  | half =>
    have events : (forAll (s.cohortsAt i) (retrained s i .half) fun k s => s.latencyEvent i k).banks =
        (retrained s i .half).banks :=
      forAll_keeps (P := fun t => t.banks = (retrained s i .half).banks) rfl fun k _ t ht => by
        unfold State.latencyEvent
        split <;> exact ht
    refine ⟨by simp only [State.bank, events], nofun, fun k hk c hc => ⟨nofun, fun _ => ⟨?_, ?_⟩, nofun⟩⟩
    · refine forAll_keeps (P := fun t => t.coh? k = some c) hc fun j _ t ht => ?_
      unfold State.latencyEvent
      split <;> exact ht
    · exact latencyEvent_waits (s := retrained s i .half) hk hc hk
  | failed =>
    obtain ⟨banks, bam⟩ : SamePairs { retrained s i .failed with bam := SMap.set s.bam i 2 }
        (forAll (s.cohortsAt i) { retrained s i .failed with bam := SMap.set s.bam i 2 } fun k s =>
          s.endNode k none (some stFault)) :=
      forAll_keeps (P := SamePairs _) ⟨rfl, rfl⟩ fun k _ t ht => endNode_pairs ht k _ _
    refine ⟨by simp only [State.bank, banks], fun _ => by rw [bam]; exact get_set_same _ _ _ _,
      fun k hk c hc => ⟨nofun, nofun, fun _ run => ?_⟩⟩
    exact forAll_endNode (s := { retrained s i .failed with bam := SMap.set s.bam i 2 }) hk hc run

/-! ## Temperature (R187) -/

/-- The lowest temperature of a class above 0 is in the class. -/
theorem thermClass_floor {n : Nat} (pos : 0 < n) (le : n ≤ 3) : thermClass (classFloor n) = n := by
  interval_cases n <;> rfl

/-- The measured temperature of a bank, raised to the limit that it passed. -/
def heated (s : State) (i n : Nat) : State :=
  { s with pf := { s.pf with bankTemp := SMap.set s.pf.bankTemp i (classFloor n) } }

theorem exec_overTemperature {s : State} {i : Nat} {cls : BitVec 2} (hot : s.classNow i < cls.toNat) :
    exec (.overTemperature i cls) s = .next (match (s.core i).run with
      | .bound k => if (s.bank i).therm.toNat < cls.toNat then (heated s i cls.toNat).askPreempt k heatCause
        else heated s i cls.toNat
      | _ => heated s i cls.toNat) := by
  change execOverTemperature i cls s = _
  unfold execOverTemperature
  dsimp only
  rw [if_pos hot]
  change (match (s.core i).run with
    | .bound k => Host.Outcome.next _
    | _ => Host.Outcome.next _) = _
  cases (s.core i).run <;> rfl

theorem heated_class {s : State} {i : Nat} {cls : BitVec 2} (hot : s.classNow i < cls.toNat) :
    (heated s i cls.toNat).classNow i = cls.toNat := by
  have le : cls.toNat ≤ 3 := by omega
  simp only [State.classNow, heated, get?_set_same]
  exact thermClass_floor (Nat.zero_lt_of_lt hot) le

/-- A change of a cohort leaves the temperatures and every memory. -/
theorem askPreempt_rest (s : State) (k why : Nat) : SameMemory s (s.askPreempt k why) ∧
    (s.askPreempt k why).pf = s.pf ∧ (s.askPreempt k why).banks = s.banks := by
  unfold State.askPreempt State.modCoh
  split
  · exact ⟨sameMemory_setCoh (sameMemory_refl s) _ _, rfl, rfl⟩
  · exact ⟨sameMemory_refl s, rfl, rfl⟩

theorem askPreempt_heat {s : State} {k : Nat} {c : Cohort} (hc : s.coh? k = some c) (run : c.st = .running) :
    ∃ d, (s.askPreempt k heatCause).coh? k = some d ∧ d.preempt / 2 % 2 = 1 := by
  refine ⟨{ c with preempt := c.preempt ||| heatCause }, ?_, ?_⟩
  · simp [State.askPreempt, State.modCoh, hc, run]
  · have bit : (c.preempt ||| heatCause).testBit 1 = true := by
      rw [Nat.testBit_or, show heatCause.testBit 1 = true from rfl, Bool.or_true]
    simpa [Nat.testBit_eq_decide_div_mod_eq] using bit

/-- A bank whose temperature passes the limit of its class has the new class, and its cohort is to be pre-empted. -/
theorem overTemperature_spec {s : State} {i : Nat} {cls : BitVec 2} (hot : s.classNow i < cls.toNat) :
    ∃ t, exec (.overTemperature i cls) s = .next t ∧ SameMemory s t ∧ t.classNow i = cls.toNat ∧
      t.banks = s.banks ∧ ∀ k c, (s.core i).run = .bound k → s.coh? k = some c → c.st = .running →
        (s.bank i).therm.toNat < cls.toNat →
        ∃ d, t.coh? k = some d ∧ d.preempt / 2 % 2 = 1 := by
  have heat : SameMemory s (heated s i cls.toNat) := sameMemory_of_fields (sameMemory_refl s) rfl rfl rfl rfl
  have now := heated_class hot
  refine ⟨_, exec_overTemperature hot, ?_⟩
  by_cases asked : ∃ k, (s.core i).run = .bound k ∧ (s.bank i).therm.toNat < cls.toNat
  · obtain ⟨k, run, warm⟩ := asked
    obtain ⟨memory, pf, banks⟩ := askPreempt_rest (heated s i cls.toNat) k heatCause
    simp only [run, warm, if_true]
    refine ⟨sameMemory_trans heat memory, ?_, banks, fun j c hj hc running _ => ?_⟩
    · simpa only [State.classNow, State.bank, pf, banks] using now
    · cases hj
      exact askPreempt_heat (s := heated s i cls.toNat) hc running
  · have rest : (match (s.core i).run with
        | .bound k => if (s.bank i).therm.toNat < cls.toNat then (heated s i cls.toNat).askPreempt k heatCause
          else heated s i cls.toNat
        | _ => heated s i cls.toNat) = heated s i cls.toNat := by
      split
      · next k run => exact if_neg fun warm => asked ⟨k, run, warm⟩
      · rfl
    rw [rest]
    exact ⟨heat, now, rfl, fun k _ run _ _ warm => absurd ⟨k, run, warm⟩ asked⟩

/-- Settles O45: each clause is the lemma about its event. -/
theorem siteEvents : Obligations.SiteEvents := by
  unfold Obligations.SiteEvents
  refine fun s i => ⟨?_, fun due => ?_, ?_, fun due => ?_, retrainRequest_spec, fun result busy => ?_,
    fun cls hot => overTemperature_spec hot⟩
  · refine ⟨_, exec_blockLockExpire i s, sameMemory_modCore (sameMemory_refl s) _ _ rfl rfl, fun l => ?_⟩
    simp
  · exact ⟨_, exec_traceFreeze due, sameMemory_modCore (sameMemory_refl s) _ _ rfl rfl, by simp⟩
  · exact ⟨_, exec_trcctlFrozenClear i s, sameMemory_modCore (sameMemory_refl s) _ _ rfl rfl, by simp, by simp⟩
  · exact ⟨_, exec_thaw due, by simp⟩
  · obtain ⟨t, eq, bank, failed, cohorts⟩ := retrainComplete_spec result busy
    rw [retrained_bank] at bank
    exact ⟨t, eq, by rw [bank], by rw [bank], by rw [bank]; exact decide_eq_true_iff, by rw [bank], failed, cohorts⟩

end Sys2Proof.Laws
end

section
/-! PROOFS. The canonical form of the memories (O55): what the events of a device and the ends of the phases keep
(see `Keeps`), after the operations at issue. -/

namespace Sys2Proof.Laws

open Sys2Proof Sys2Proof.Machine

section
variable {s t : State} (h : Keeps s t)
include h

/-- A change of a core that leaves each of its memories. -/
theorem keeps_modCore_of (i : Nat) (f : Core → Core) (spad : ∀ c, (f c).spad = c.spad)
    (tile : ∀ c, (f c).ctx.tile = c.ctx.tile) (shadow : ∀ c, (f c).shadow = c.shadow) : Keeps s (t.modCore i f) :=
  keeps_modCore h _ _ fun c hc => coreMem_of hc (spad c) (tile c) (shadow c)

/-- A change of a pseudo-channel that leaves its rows and lines. -/
theorem keeps_modPch_of (p : Nat) (f : Pch → Pch) (mem : ∀ q, (f q).mem = q.mem) (lines : ∀ q, (f q).lines = q.lines) :
    Keeps s (t.modPch p f) := keeps_modPch h _ _ fun q hq => pchMem_of hq (mem q) (lines q)

/-! ## Guard -/

@[simp] theorem keeps_notice (p code detail : Nat) : Keeps s (t.notice p code detail) := keeps_modPart h _ _

@[simp] theorem keeps_scrub (p bank : Nat) : Keeps s (t.scrub p bank) := by
  unfold State.scrub
  dsimp only
  (repeat' split) <;> simp [h]

@[simp] theorem keeps_scrubAny (p : Nat) : Keeps s (t.scrubAny p) := keeps_scrub (keeps_draw h) _ _

@[simp] theorem keeps_refuse (p : Nat) (k : Cmd) (rsn det d : Nat) : Keeps s (t.refuse p k rsn det d) :=
  keeps_modCtx h _ _ fun _ w => w

end

theorem pch_foldl (f : Pch → α → Pch) (hf : ∀ p x, p.MemoriesWf → (f p x).MemoriesWf) (l : List α) (p : Pch)
    (h : p.MemoriesWf) : (l.foldl f p).MemoriesWf := by
  induction l generalizing p with
  | nil => exact h
  | cons x l ih => exact ih _ (hf _ _ h)

@[simp] theorem pchMem_setBankTime {p : Pch} (h : p.MemoriesWf) (b : Nat) (x : BankTime) :
    (p.setBankTime b x).MemoriesWf := pchMem_of h rfl rfl

@[simp] theorem pchMem_refreshing {p : Pch} (h : p.MemoriesWf) (n : Nat) : (p.refreshing n).MemoriesWf :=
  pchMem_of h rfl rfl

theorem pchMem_store {p : Pch} (h : p.MemoriesWf) (a : Nat) (l : List Byte) (bad : List Nat) :
    Pch.MemoriesWf { p with mem := memPut p.mem a l, bad := bad } := ⟨wf_put _ _ h.mem, h.lines⟩

/-- A write command stores its data in its row; the others leave the rows and the lines. -/
@[simp] theorem pchMem_drive (p : Pch) (k : Cmd) (d now : Nat) (h : p.MemoriesWf) : (p.drive k d now).MemoriesWf := by
  have noted : (p.note k d).MemoriesWf := pchMem_of h rfl rfl
  have timed := pchMem_setBankTime noted k.bank
  unfold Pch.drive
  cases k.cmd <;> dsimp only
  case prea => exact pch_foldl _ (fun _ _ hp => pchMem_setBankTime hp _ _) _ _ noted
  case wr | wra => exact pchMem_store (timed _) _ _ _
  case ref => exact pchMem_refreshing (pch_foldl _ (fun _ _ hp => pchMem_setBankTime hp _ _) _ _ noted) _
  all_goals exact pchMem_of noted rfl rfl

@[simp] theorem pchMem_finish (p : Pch) (j : DramJob) (h : p.MemoriesWf) : (p.finish j).MemoriesWf := by
  unfold Pch.finish
  dsimp only
  split
  · exact ⟨wf_put _ _ h.mem, h.lines⟩
  · exact ⟨h.mem, wf_put _ _ h.lines⟩

/-- The units that a frame boundary adds to what every bank owes are no bytes. -/
theorem pchMem_framed {p : Pch} (f : Pch → Nat → BankTime) (l : List Nat) (frame : Option Nat) (hot : Bool)
    (h : p.MemoriesWf) : Pch.MemoriesWf
      { l.foldl (fun p b => p.setBankTime b (f p b)) p with frame := frame, hot := hot } := by
  have marked := pch_foldl (fun p b => p.setBankTime b (f p b)) (fun _ _ hp => pchMem_setBankTime hp _ _) l p h
  exact ⟨marked.mem, marked.lines⟩

section
variable {s t : State} (h : Keeps s t)
include h

@[simp] theorem keeps_driveNext (p : Nat) : Keeps s (t.driveNext p) := by
  unfold State.driveNext
  split
  · exact h
  · dsimp only
    split
    · exact h
    · split
      · refine keeps_refuse (keeps_setPch h _ _ ?_) _ _ _ _ _
        exact fun w => pchMem_of w rfl rfl
      · refine keeps_forAll (keeps_setPch h _ _ fun w => ?_) _ _ fun b _ u => keeps_scrub (.refl u) _ _
        exact pchMem_drive _ _ _ _ (pchMem_of w rfl rfl)

@[simp] theorem keeps_landReads (p : Nat) : Keeps s (t.landReads p) := by
  unfold State.landReads
  dsimp only
  refine keeps_forAll (keeps_modPch_of h _ _ ?_ ?_) _ _ fun x _ u => ?_
  · exact fun _ => rfl
  · exact fun _ => rfl
  · split <;> simp

@[simp] theorem keeps_frameBoundary (p : Nat) : Keeps s (t.frameBoundary p) := by
  unfold State.frameBoundary
  split
  · exact h
  · split
    · exact h
    next c _ =>
      have framed := fun q : Pch => pchMem_framed (p := q) (fun p b =>
        { p.bankTime b with owed := (p.bankTime b).owed + 2, units := 0 }) allBanks (some (c.ccyc / 7800))
        (decide (t.stackTempNow (p / 64) ≥ 85))
      have marked := keeps_modPch h p _ framed
      dsimp only
      split
      · exact marked
      · refine keeps_modCtx (keeps_pick marked _ _) _ _ ?_
        exact fun _ w => w

@[simp] theorem keeps_custodial (p : Nat) : Keeps s (t.custodial p) := by
  unfold State.custodial
  split
  · exact h
  · refine keeps_scrubAny (keeps_modPch_of h _ _ ?_ ?_) _
    · exact fun _ => rfl
    · exact fun _ => rfl

@[simp] theorem keeps_operationComplete (p : Nat) (l : Pch → List DramJob) :
    Keeps s (t.modPch p fun q => (l q).foldl Pch.finish q) :=
  keeps_modPch h _ _ fun q hq => pch_foldl _ (fun p j hp => pchMem_finish p j hp) _ q hq

/-! ## Landing -/

@[simp] theorem keeps_disarm : Keeps s t.disarm := keeps_pf h _ (Nat.le_refl _)

@[simp] theorem keeps_landError (i : Nat) (p : Pend) (cause : Nat) (tval : Word) :
    Keeps s (t.landError i p cause tval) := keeps_modCtx h _ _ fun c w => by simpa using w

@[simp] theorem keeps_injectLanding (i : Nat) (l : List Pend) : Keeps s (t.injectLanding i l).1 := by
  unfold State.injectLanding
  dsimp only
  (repeat' split) <;> simp (maxDischargeDepth := 40) [h]

@[simp] theorem keeps_shadowCheck (i : Nat) (e : Pend × Pend) : Keeps s (t.shadowCheck i e) := by
  unfold State.shadowCheck
  split <;> simp [h]

@[simp] theorem keeps_landLines (i : Nat) (was : Ctx) (p : Pend) (lines : List Nat) :
    Keeps s (t.landLines i was p lines) :=
  keeps_forAll (keeps_lineErrors h _ _ _) _ _ fun _ _ u => keeps_modCtx (.refl u) _ _ fun c w => by simpa using w

@[simp] theorem keeps_parities (i a m n : Nat) (par : List Nat) : Keeps s (t.parities i a m n par) := by
  unfold State.parities
  refine keeps_forAll ?_ _ _ fun d _ u => keeps_modCtx (.refl u) _ _ fun c w => wf_parity _ _ _ _ _ w
  split <;> simp [h]

/-- The effect of a landing writes registers, and the tile file byte by byte. -/
@[simp] theorem keeps_applyEffect (i : Nat) (was : Ctx) (p : Pend) : Keeps s (t.applyEffect i was p) := by
  unfold State.applyEffect
  cases p.eff <;> dsimp only
  case none => exact h
  case sreg => exact keeps_modCore_of h _ _ (fun _ => rfl) (fun c => tile_ws _ _ _) fun _ => rfl
  case vreg =>
    refine keeps_modCore_of h _ _ (fun c => ?_) (fun c => tile_wv _ _ _) fun c => ?_
    · dsimp only; split <;> rfl
    · dsimp only; split <;> rfl
  case preg r mask v =>
    have written : Keeps s (t.modCore i fun c => { (if mask = 0xFFFFFFFF then c.heal 2 r else c) with
        ctx := c.ctx.wp r ((c.ctx.rp r &&& ~~~mask) ||| (v &&& mask)) }) :=
      keeps_modCore_of h _ _ (fun c => by dsimp only; split <;> rfl) (fun c => tile_wp _ _ _) fun c => by
        dsimp only; split <;> rfl
    split
    · exact written
    · exact keeps_traceRec written _ _ _ _
  case csr => exact keeps_setCsr h _ _ _
  case mbox | ovcClear | ovcStore | ovcCount => exact keeps_modCtx h _ _ fun _ w => w
  case tile => exact keeps_modCtx h _ _ fun _ w => wf_putTile _ _ _ _ w
  case accumulate =>
    exact keeps_parities (keeps_modCtx (keeps_landLines h _ _ _ _) _ _ fun _ w => wf_accumulate _ _ _ _ _ _ _ w)
      _ _ _ _ _
  case softmax =>
    exact keeps_parities (keeps_modCtx (keeps_landLines h _ _ _ _) _ _ fun _ w => wf_softmax _ _ _ _ _ _ _ _ _ _ w)
      _ _ _ _ _
  case drift => exact keeps_modCore_of h _ _ (fun _ => rfl) (fun c => tile_wv _ _ _) fun _ => rfl
  case iinv =>
    split
    · exact h
    · exact keeps_modCore_of h _ _ (fun _ => rfl) (fun _ => rfl) fun _ => rfl
  case known => split <;> simp [h]
  case xcount => exact keeps_modBank h _ _
  case trace =>
    split
    · exact keeps_modCore_of (keeps_traceRec h _ _ _ _) _ _ (fun _ => rfl) (fun _ => rfl) fun _ => rfl
    · exact keeps_traceRec h _ _ _ _

@[simp] theorem keeps_land1 (i n : Nat) (log : Bool) (was : Ctx) (p : Pend) : Keeps s (t.land1 i n log was p) := by
  unfold State.land1
  refine keeps_modCtx (keeps_applyEffect ?_ _ _ _) _ _ fun c w => by simpa using w
  split
  · exact keeps_modCtx h _ _ fun c w => by simpa using w
  · exact h

@[simp] theorem keeps_landAll (i n : Nat) (log : Pend → Bool) (l : List Pend) : Keeps s (t.landAll i n log l) := by
  unfold State.landAll
  refine keeps_forAll ?_ _ _ fun e _ u => keeps_shadowCheck (.refl u) _ _
  exact keeps_forAll (keeps_injectLanding h _ _) _ _ fun p _ u => keeps_land1 (.refl u) _ _ _ _ _

end

@[simp] theorem coreMem_put (c : Core) (b : List (Nat × Byte)) (h : c.MemoriesWf) : (c.put b).MemoriesWf :=
  ⟨wf_puts _ h.spad, h.tile, h.saved⟩

section
variable {s t : State} (h : Keeps s t)
include h

@[simp] theorem keeps_deliver (i : Nat) (b : List (Nat × Byte)) (port : Option Nat) : Keeps s (t.deliver i b port) := by
  refine keeps_modCore h _ _ fun c hc => coreMem_put _ _ ?_
  split <;> simp [hc]

@[simp] theorem keeps_landSite (i : Nat) : Keeps s (t.landSite i) := by
  have taken : ∀ l, Keeps s (t.modCtx i (·.takeDue l)) := fun l => keeps_modCtx h _ _ fun c w => by
    unfold Ctx.takeDue
    split <;> exact w
  unfold State.landSite
  dsimp only
  split
  · refine keeps_forAll (keeps_landAll (keeps_modCtx (taken _) _ _ ?_) _ _ _ _) _ _ fun e _ u => ?_
    · exact fun _ w => w
    · split <;> simp
  · split
    · refine keeps_landAll (keeps_forAll (taken _) _ _ fun x _ u => ?_) _ _ _ _
      exact keeps_modCtx (.refl u) _ _ fun c w => by simpa using w
    · exact keeps_landAll (taken _) _ _ _ _

end

/-! ## Ports -/

@[simp] theorem tile_setAcc (c : Ctx) (inH : Bool) (l : List Access) : (c.setAcc inH l).tile = c.tile := by
  unfold Ctx.setAcc
  split <;> rfl

@[simp] theorem tile_putFlight (c : Ctx) (inH : Bool) (l : List Pend) : (c.putFlight inH l).tile = c.tile := by
  unfold Ctx.putFlight
  split <;> rfl

@[simp] theorem tile_putBev (c : Ctx) (inH : Bool) (e : BEvent) : (c.putBev inH e).tile = c.tile := by
  unfold Ctx.putBev
  split <;> rfl

@[simp] theorem tile_keepCycle (c : Ctx) (inH : Bool) (old : List Host.Cell) (now : List Access)
    (b : List (Nat × Byte)) : (c.keepCycle inH old now b).tile = c.tile := by
  unfold Ctx.keepCycle
  split <;> rfl

@[simp] theorem tile_fillShadows (c : Ctx) (l : List Pend) : (c.fillShadows l).tile = c.tile := by rfl

@[simp] theorem tile_overwrite (c : Ctx) (b : List (Nat × Byte)) : (c.overwrite b).tile = c.tile := by rfl

section
variable {s t : State} (h : Keeps s t)
include h

@[simp] theorem keeps_portStore (i n : Nat) (inH : Bool) (a : Access) (b : List (Nat × Byte)) :
    Keeps s (t.portStore i n inH a b) := by
  unfold State.portStore
  refine keeps_modCore h _ _ fun c hc => ?_
  have stored := fun n => coreMem_put _ b (mem_logUndo c n (b.map fun e => e.1 / 32).eraseDups hc)
  refine ⟨(stored _).spad, ?_, (stored _).saved⟩
  dsimp only
  (repeat' split) <;> simpa using (stored _).tile

@[simp] theorem keeps_shadowStoreCheck (i n : Nat) (inH : Bool) (a : Access) :
    Keeps s (t.shadowStoreCheck i n inH a) := by
  unfold State.shadowStoreCheck
  split
  · split
    · refine keeps_modCtx (keeps_modCore (keeps_draw (keeps_disarm h)) _ _ fun c hc => ?_) _ _ fun c w => by
        simpa using w
      exact ⟨wf_puts _ hc.spad, hc.tile, hc.saved⟩
    · exact h
  · exact h

@[simp] theorem keeps_portSend (i : Nat) (spad : List Host.Cell) (coll : List Nat) (a : Access) :
    Keeps s (t.portSend i spad coll a) := by
  unfold State.portSend
  dsimp only
  split
  · exact keeps_place h _ _
  · exact keeps_place h _ _
  · exact keeps_modPch_of h _ _ (fun _ => rfl) fun _ => rfl
  · exact h

@[simp] theorem keeps_portError (i : Nat) (inH : Bool) (a : Access) : Keeps s (t.portError i inH a) := by
  unfold State.portError
  split
  · exact keeps_modCtx h _ _ fun c w => by simpa using w
  · exact h

@[simp] theorem keeps_portFallback (i : Nat) (a : Access) : Keeps s (t.portFallback i a) := by
  unfold State.portFallback
  split
  · dsimp only
    split <;> simp [h]
  · exact h

@[simp] theorem keeps_servePorts (i : Nat) : Keeps s (t.servePorts i) := by
  unfold State.servePorts
  split
  · exact h
  next inH n _ =>
    dsimp only
    split
    · exact h
    · have set : ∀ l, Keeps s (t.modCtx i (·.setAcc inH l)) := fun l => by simp [h]
      split <;> simp (maxDischargeDepth := 40) [set]

end

end Sys2Proof.Laws
end

section
/-! PROOFS. The canonical form of the memories (O55): shared virtual memory, untimed work and records. -/

namespace Sys2Proof.Laws

open Sys2Proof Sys2Proof.Machine

section
variable {s t : State} (h : Keeps s t)
include h

@[simp] theorem keeps_later : Keeps s t.later.2 := keeps_draw h

@[simp] theorem keeps_modUop (i n : Nat) (f : UOp → UOp) : Keeps s (t.modCore i (·.modUop n f)) :=
  keeps_modCore h _ _ fun _ hc => coreMem_of hc rfl rfl rfl

theorem keeps_hostPut (a : Nat) (l : List Byte) : Keeps s { t with host := memPut t.host a l } :=
  keeps_host h _ (wf_put a l)

theorem keeps_hostPuts (l : List (Nat × Byte)) : Keeps s { t with host := memPuts t.host l } :=
  keeps_host h _ (wf_puts l)

/-! ## Shared virtual memory -/

@[simp] theorem keeps_evictTlb (die p n : Nat) : Keeps s (t.evictTlb die p n) := by
  refine keeps_forAll h _ _ fun _ _ u => ?_
  split
  · exact .refl u
  · exact keeps_tlb (keeps_pick (.refl u) _ _) _

@[simp] theorem keeps_fill (die p : Nat) (l : Leaf) : Keeps s (t.fill die p l) :=
  keeps_tlb (keeps_evictTlb (keeps_tlb h _) _ _ _) _

@[simp] theorem keeps_translate (i : Nat) (u : UOp) (va : Nat) (w x : Bool) : Keeps s (t.translate i u va w x).2 := by
  unfold State.translate
  dsimp only
  (repeat' split) <;> simp [h]

@[simp] theorem keeps_transFault (i : Nat) (u : UOp) (va kind src ch id : Nat) :
    Keeps s (t.transFault i u va kind src ch id) := by
  unfold State.transFault
  dsimp only
  split
  · exact keeps_modCore_of h _ _ (fun _ => rfl) (fun _ => rfl) fun _ => rfl
  · simp [h]

@[simp] theorem keeps_writeRetry (p : Nat) : Keeps s (t.writeRetry p) := by
  unfold State.writeRetry
  dsimp only
  split
  · exact h
  · split
    · exact h
    · exact keeps_setPart (keeps_hostPut h _ _) _ _

@[simp] theorem keeps_modLaunchOf (k : Nat) (f : Launch → Launch) : Keeps s (t.modLaunchOf k f) := by
  unfold State.modLaunchOf
  split <;> simp [h]

@[simp] theorem keeps_retryWalk (r : Retry) : Keeps s (t.retryWalk r) := keeps_modUop (keeps_later h) _ _ _

end

@[simp] theorem coreMem_modUop (c : Core) (n : Nat) (f : UOp → UOp) (h : c.MemoriesWf) : (c.modUop n f).MemoriesWf :=
  coreMem_of h rfl rfl rfl

@[simp] theorem coreMem_failLines (c : Core) (n : Nat) (h : c.MemoriesWf) : (c.failLines n).MemoriesWf :=
  coreMem_of h rfl rfl rfl

@[simp] theorem coreMem_dropLines (c : Core) (lo hi : Nat) (h : c.MemoriesWf) : (c.dropLines lo hi).MemoriesWf :=
  coreMem_of h rfl rfl rfl

/-- A change of a cohort's context, live or saved, that leaves the form of its tile file. -/
@[simp] theorem coreMem_modOf (c : Core) (k : Nat) (f : Ctx → Ctx) (h : c.MemoriesWf)
    (hf : ∀ x, Memory.wf x.tile = true → Memory.wf (f x).tile = true) : (c.modOf k f).MemoriesWf := by
  unfold Core.modOf
  split
  · exact ⟨h.spad, hf _ h.tile, h.saved⟩
  · refine ⟨h.spad, h.tile, fun x hx => ?_⟩
    obtain ⟨y, hy, rfl⟩ := List.mem_map.1 hx
    split
    · exact hf _ (h.saved y hy)
    · exact h.saved y hy

@[simp] theorem tile_clearPend (u : UOp) (c : Ctx) : (u.clearPend c).tile = c.tile := by
  unfold UOp.clearPend
  (repeat' split) <;> simp

@[simp] theorem tile_passDone (c : Ctx) (ops : List UOp) (ch : Nat) (failed : Option Nat) :
    (c.passDone ops ch failed).tile = c.tile := by
  unfold Ctx.passDone
  dsimp only
  split <;> rfl

section
variable {s t : State} (h : Keeps s t)
include h

@[simp] theorem keeps_abortWalk (r : Retry) : Keeps s (t.abortWalk r) := by
  unfold State.abortWalk
  dsimp only
  split
  · simp [h]
  · split
    · simp [h]
    · exact keeps_modCore (keeps_modLaunchOf h _ _) _ _ fun c hc => by simp [hc]
    · exact keeps_modCore (keeps_modLaunchOf h _ _) _ _ fun c hc => by simp +contextual [hc]

@[simp] theorem keeps_answer (p tag : Nat) (f : State → Retry → State) (hf : ∀ u r, Keeps s u → Keeps s (f u r)) :
    Keeps s (t.answer p tag f) := by
  unfold State.answer
  split
  · simp [h]
  · exact hf _ _ (keeps_modPart h _ _)

@[simp] theorem keeps_invalidate (p lo hi : Nat) : Keeps s (t.invalidate p lo hi) := by
  unfold State.invalidate
  refine keeps_modPart (keeps_forAll (keeps_later (keeps_tlb h _)) _ _ fun i _ u => ?_) _ _
  exact keeps_modCore (.refl u) _ _ fun c hc => coreMem_dropLines _ _ _ hc

/-! ## Untimed work -/

@[simp] theorem keeps_beginXfr (i ch id : Nat) : Keeps s (t.beginXfr i ch id) := by
  unfold State.beginXfr
  dsimp only
  (repeat' split) <;> simp [h]

@[simp] theorem keeps_link (k inb outb : Nat) : Keeps s (t.link k inb outb) := keeps_modPart h _ _

end

/-- A delivery of untimed work writes the scratchpad, or a granule's saved bytes. -/
@[simp] theorem coreMem_untimedStore (c : Core) (k a : Nat) (b : List Byte) (h : c.MemoriesWf) :
    (c.untimedStore k a b).MemoriesWf := by
  unfold Core.untimedStore
  split
  · refine ⟨h.spad, h.tile, fun x hx => ?_⟩
    obtain ⟨y, hy, rfl⟩ := List.mem_map.1 hx
    split <;> exact h.saved y hy
  · exact coreMem_put _ _ h

section
variable {s t : State} (h : Keeps s t)
include h

@[simp] theorem keeps_untimedWrite (i k a : Nat) (b : List Byte) : Keeps s (t.untimedWrite i k a b) := by
  have stored : Keeps s (t.modCore i (·.untimedStore k a b)) :=
    keeps_modCore h _ _ fun c hc => coreMem_untimedStore _ _ _ _ hc
  unfold State.untimedWrite
  split
  · exact stored
  · dsimp only
    split
    · exact keeps_modCtx h _ _ fun c w => by simpa using w
    · exact keeps_modCtx stored _ _ fun c w => by simpa using w

@[simp] theorem keeps_nextPage (i : Nat) (u : UOp) (get : Bool) (ch id : Nat) : Keeps s (t.nextPage i u get ch id) := by
  unfold State.nextPage
  dsimp only
  split <;> simp (maxDischargeDepth := 40) [h]

@[simp] theorem keeps_movePiece (i : Nat) (u : UOp) (get : Bool) (p : Nat × Nat × Nat) (pa : Nat) :
    Keeps s (t.movePiece i u get p pa) := by
  have port : Keeps s (t.modCore i fun c => { c.modUop u.n (·.moved p t.now) with
      portBusy := bankOfUnit (p.2.1 / 32) :: c.portBusy }) :=
    keeps_modCore_of h _ _ (fun _ => rfl) (fun _ => rfl) fun _ => rfl
  unfold State.movePiece
  split
  · exact keeps_untimedWrite (keeps_link (keeps_modUop port _ _ _) _ _ _) _ _ _ _
  · dsimp only
    split
    · exact keeps_modUop h _ _ _
    · split
      · exact keeps_modUop port _ _ _
      · exact keeps_modUop port _ _ _

@[simp] theorem keeps_moveUnit (i ch id : Nat) : Keeps s (t.moveUnit i ch id) := by
  unfold State.moveUnit
  dsimp only
  (repeat' split) <;> simp (maxDischargeDepth := 40) [h]

@[simp] theorem keeps_completeXfr (i ch id : Nat) : Keeps s (t.completeXfr i ch id) := by
  unfold State.completeXfr
  split
  · exact h
  next u _ =>
    split
    · dsimp only
      have written := keeps_link (keeps_hostPuts (keeps_later h) u.held) u.coh 0 u.held.length
      have sent := fun (b : Bool) => keeps_ite written (b = true) _ (keeps_later h)
      refine keeps_ite (keeps_modLaunchOf (keeps_modCore (sent _) _ _ ?_) _ _) _ _ (keeps_modCore (sent _) _ _ ?_) <;>
        exact fun c hc => by simp [hc]
    · exact h

@[simp] theorem keeps_stageLine (i k a : Nat) : Keeps s (t.stageLine i k a) :=
  keeps_modCore_of h _ _ (fun _ => rfl) (fun _ => rfl) fun _ => rfl

@[simp] theorem keeps_demand (i a : Nat) : Keeps s (t.demand i a) := by
  unfold State.demand
  dsimp only
  (repeat' split) <;> simp (maxDischargeDepth := 40) [h]

@[simp] theorem keeps_beginReads (i n : Nat) (g : Page) : Keeps s (t.beginReads i n g) := by
  refine keeps_forAll h _ _ fun e _ u => ?_
  dsimp only
  split
  · exact keeps_modCore_of (keeps_later (.refl u)) _ _ (fun _ => rfl) (fun _ => rfl) fun _ => rfl
  · exact .refl u

@[simp] theorem keeps_lineIn (i key : Nat) : Keeps s (t.lineIn i key) := by
  unfold State.lineIn
  split
  · exact h
  · split
    · exact h
    · split
      · exact h
      · dsimp only
        split
        · refine keeps_modCore (keeps_link h _ _ _) _ _ fun c hc => ?_
          exact coreMem_of hc rfl rfl rfl
        · split <;> simp (maxDischargeDepth := 40) [h]

@[simp] theorem keeps_performed (i : Nat) (u : UOp) (ret : Bool) (old : Nat) (bad : Bool) :
    Keeps s (t.performed i u ret old bad) := keeps_modUop (keeps_later h) _ _ _

@[simp] theorem keeps_mendSync (l : List Nat) : Keeps s (t.mendSync l) := keeps_syncBad h _

end

/-- An operation on a variable writes its bytes, or none. -/
theorem wf_atomOn (op : AtomOp) {m : List Host.Cell} (a n v c : Nat) (w : Memory.wf m = true) :
    Memory.wf (op.on m a n v c).2 = true := by
  unfold AtomOp.on
  dsimp only
  split
  · exact w
  · exact wf_put _ _ w

section
variable {s t : State} (h : Keeps s t)
include h

@[simp] theorem keeps_performSram (i : Nat) (u : UOp) (ret : Bool) (op : AtomOp) (x a n : Nat) (v c : Word) :
    Keeps s (t.performSram i u ret op x a n v c) := by
  unfold State.performSram
  dsimp only
  split
  · split <;> simp (maxDischargeDepth := 40) [h]
  · exact keeps_performed (keeps_mendSync (keeps_sync h _ (wf_atomOn _ _ _ _ _)) _) _ _ _ _ _

@[simp] theorem keeps_performHost (i : Nat) (u : UOp) (ret : Bool) (op : AtomOp) (sp : Bool) (pa n : Nat)
    (v c : Word) : Keeps s (t.performHost i u ret op sp pa n v c) := by
  unfold State.performHost
  dsimp only
  split
  · simp [h]
  · split
    · simp (maxDischargeDepth := 40) [h]
    · exact keeps_performed (keeps_link (keeps_host h _ (wf_atomOn _ _ _ _ _)) _ _ _) _ _ _ _ _

@[simp] theorem keeps_perform (i n : Nat) : Keeps s (t.perform i n) := by
  unfold State.perform
  split
  · exact h
  · split
    · exact h
    · split
      · split
        · exact keeps_performed (keeps_link (keeps_hostPuts h _) _ _ _) _ _ _ _ _
        · split
          · simp [h]
          · split
            · simp [h]
            · dsimp only
              split <;> simp (maxDischargeDepth := 40) [h]
      · exact h

@[simp] theorem keeps_atomReturns (i n : Nat) : Keeps s (t.atomReturns i n) := by
  unfold State.atomReturns
  split
  · exact h
  · split
    · exact h
    · split
      · dsimp only
        split
        · simp [h]
        · split
          · refine keeps_modCtx (keeps_modUop h _ _ _) _ _ fun c w => ?_
            split <;> simpa using w
          · split
            · exact keeps_modCtx (keeps_modUop h _ _ _) _ _ fun c w => by simpa using w
            · split
              · simp [h]
              · exact keeps_modCtx (keeps_modUop h _ _ _) _ _ fun c w => by simpa using w
      · exact h

@[simp] theorem keeps_beginOp (i : Nat) (u : UOp) : Keeps s (t.beginOp i u) := by
  unfold State.beginOp
  dsimp only
  (repeat' split) <;> simp [h]

@[simp] theorem keeps_settleOps (i : Nat) : Keeps s (t.settleOps i) := by
  unfold State.settleOps
  split
  · exact h
  · refine keeps_forAll (keeps_modCore_of h _ _ ?_ ?_ ?_) _ _ fun u _ v => keeps_beginOp (.refl v) _ _
    all_goals exact fun _ => rfl

/-! ## Records -/

@[simp] theorem keeps_addRecord (p : Nat) (r : Rec4) : Keeps s (t.addRecord p r) := keeps_modPart h _ _

@[simp] theorem keeps_dropWord (p q status hseq : Nat) (v : Word) : Keeps s (t.dropWord p q status hseq v) :=
  keeps_qtrOften (keeps_modPart (keeps_addRecord h _ _) _ _) _ _ _ _

@[simp] theorem keeps_writeRecord (p : Nat) : Keeps s (t.writeRecord p) := by
  unfold State.writeRecord
  dsimp only
  split
  · exact h
  · have written : ∀ a l x, Keeps s (State.setPart { t with host := memPut t.host a l } p x) :=
      fun a l x => keeps_setPart (keeps_hostPut h a l) p x
    split
    · exact written _ _ _
    · exact keeps_qtr (written _ _ _) _ _

end

end Sys2Proof.Laws
end

section
/-! PROOFS. The canonical form of the memories (O55): images, launch queues and the run of a cohort. -/

namespace Sys2Proof.Laws

open Sys2Proof Sys2Proof.Machine

section
variable {s t : State} (h : Keeps s t)
include h

/-! ## Images -/

@[simp] theorem keeps_placeRows (p : Nat) (m : Image) : Keeps s (t.placeRows p m) := by
  refine keeps_forAll h _ _ fun d _ u => ?_
  split
  · exact .refl u
  · exact keeps_modPch (.refl u) _ _ fun q hq => pchMem_store hq _ _ _

@[simp] theorem keeps_tagGroups (p : Nat) (m : Image) : Keeps s (t.tagGroups p m) :=
  keeps_forAll h _ _ fun _ _ u => keeps_modBank (.refl u) _ _

@[simp] theorem keeps_loadImage (p : Nat) : Keeps s (t.loadImage p) := by
  unfold State.loadImage
  dsimp only
  (repeat' split) <;> simp (maxDischargeDepth := 40) [h]

@[simp] theorem keeps_rejectShard (p a : Nat) (m : Image) (g : GroupRec) (x : ShardRec) :
    Keeps s (t.rejectShard p a m g x) :=
  keeps_notice (keeps_modPart (keeps_forAll h _ _ fun _ _ u => keeps_modBank (.refl u) _ _) _ _) _ _ _

@[simp] theorem keeps_missShard (p a k : Nat) (m : Image) (g : GroupRec) (x : ShardRec) :
    Keeps s (t.missShard p a k m g x) := by
  unfold State.missShard
  dsimp only
  split <;> simp [h]

/-- A change of the repair record is to be written out. -/
theorem keeps_repDirty (n : Nat) : Keeps s { t with fresh := n, pf := { t.pf with repDirty := true } } :=
  keeps_pf (keeps_fresh h n) { t.pf with repDirty := true } (Nat.le_refl _)

/-- A shard goes into the banks of its partition, whose cells no memory holds. -/
@[simp] theorem keeps_programShard (p a k : Nat) : Keeps s (t.programShard p a k) := by
  unfold State.programShard
  split
  · exact h
  · split
    · exact h
    · split
      · exact h
      · split
        · exact h
        · split
          · exact keeps_missShard h _ _ _ _ _ _
          · split
            · exact keeps_missShard h _ _ _ _ _ _
            · refine keeps_forAll (keeps_modPart h _ _) _ _ fun i _ u => ?_
              refine keeps_forAll ?_ _ _ fun b _ v => keeps_notice (.refl v) _ _ _
              exact keeps_repDirty (keeps_setBank (.refl u) _ _) _

/-! ## Launch queues -/

@[simp] theorem keeps_takeHead (p q : Nat) : Keeps s (t.takeHead p q) := by
  unfold State.takeHead
  dsimp only
  (repeat' split) <;> simp [h]

@[simp] theorem keeps_dropAborted (p q : Nat) : Keeps s (t.dropAborted p q) :=
  keeps_forAll (keeps_modPart h _ _) _ _ fun _ _ u => keeps_dropWord (.refl u) _ _ _ _ _

@[simp] theorem keeps_finishLaunch (p q : Nat) : Keeps s (t.finishLaunch p q) := by
  unfold State.finishLaunch
  dsimp only
  (repeat' split) <;> simp [h]

@[simp] theorem keeps_failLaunch (p q : Nat) : Keeps s (t.failLaunch p q) := by
  unfold State.failLaunch
  (repeat' split) <;> simp [h]

end

/-! ## Binding -/

/-- The bytes of an evicted granule leave the form of the saved tile files. -/
@[simp] theorem coreMem_evict (c : Core) (n : Nat) (h : c.MemoriesWf) : (c.evict n).MemoriesWf := by
  unfold Core.evict
  split
  · exact h
  next x rest hs =>
    refine ⟨h.spad, h.tile, fun y hy => ?_⟩
    rcases List.mem_cons.1 hy with rfl | hy
    · exact h.saved x (by simp [hs])
    · exact h.saved y (by simp [hs, hy])

@[simp] theorem coreMem_putBlock (c : Core) (a : Nat) (b : List Byte) (h : c.MemoriesWf) :
    (c.putBlock a b).MemoriesWf := ⟨wf_put _ _ h.spad, h.tile, h.saved⟩

@[simp] theorem coreMem_markWords (c : Core) (l : List Nat) (h : c.MemoriesWf) : (c.markWords l).MemoriesWf :=
  coreMem_of h rfl rfl rfl

@[simp] theorem coreMem_placeData (c : Core) (m : Image) (pchs : List Nat) (shape i : Nat) (h : c.MemoriesWf) :
    (c.placeData m pchs shape i).MemoriesWf :=
  mem_foldl _ (fun _ _ hc => coreMem_putBlock _ _ _ hc) _ c h

/-- A pre-emption only adds the saved context, and marks others. -/
theorem saved_putAway {l : List Saved} {x : Saved} (h : ∀ y ∈ l, Memory.wf y.ctx.tile = true)
    (hx : Memory.wf x.ctx.tile = true) : ∀ y ∈ putAway l x, Memory.wf y.ctx.tile = true := by
  unfold putAway
  dsimp only
  intro y hy
  rcases List.mem_cons.1 hy with rfl | hy
  · exact hx
  · split at hy
    · exact h y hy
    · obtain ⟨e, he, rfl⟩ := List.mem_map.1 hy
      have kept := h e.1 (List.fst_mem_of_mem_zipIdx he)
      split <;> exact kept

section
variable {s t : State} (h : Keeps s t)
include h

@[simp] theorem keeps_dispatch (k i member : Nat) (c : Cohort) (l : Launch) (m : Image) (sh : Shape) :
    Keeps s (t.dispatch k i member c l m sh) := by
  unfold State.dispatch
  refine keeps_modCore (keeps_modBank h i _) i _ fun y hy => ?_
  have evicted := coreMem_evict y (sh.scratch.getD member 0) hy
  exact ⟨evicted.spad, hy.tile, evicted.saved⟩

@[simp] theorem keeps_bindNode (p q n : Nat) : Keeps s (t.bindNode p q n) := by
  unfold State.bindNode
  split
  · exact h
  · split
    · exact h
    · split
      · dsimp only
        refine keeps_ite (keeps_qtrCoh ?bound _ _ _ _) _ _ ?bound
        refine keeps_qtrCoh (keeps_modPart (keeps_modLaunch (keeps_forAll ?_ _ _ fun e _ u => ?_) _ _ _) _ _) _ _ _ _
        · exact keeps_setCoh (keeps_draw (keeps_draw h)) _ _
        · exact keeps_dispatch (.refl u) _ _ _ _ _ _ _
      · exact h

/-! ## The run of a cohort -/

@[simp] theorem keeps_take (p ccyc start : Nat) : Keeps s (t.modPch p (·.take ccyc start)) :=
  keeps_modPch_of h _ _ (fun _ => rfl) fun _ => rfl

@[simp] theorem keeps_startHold (k : Nat) : Keeps s (t.startHold k) := by
  unfold State.startHold
  split
  · exact h
  · split
    · exact h
    · exact keeps_forAll (keeps_sayHold (keeps_setCoh (keeps_draw h) _ _) _) _ _ fun p _ u => keeps_take (.refl u) _ _ _

@[simp] theorem keeps_startAlign (k : Nat) : Keeps s (t.startAlign k) := by
  unfold State.startAlign
  split
  · exact h
  next c _ =>
    split
    · exact h
    · dsimp only
      have aligned : ∀ (d : Cohort) (f : Nat → State → State), (∀ p u, Keeps u (f p u)) →
          Keeps s (forAll c.pchs ((t.sayRelease k).setCoh k d) f) := fun d f hf =>
        keeps_forAll (keeps_setCoh (keeps_sayRelease h k) k d) _ _ fun p _ u => hf p u
      split
      · exact aligned _ _ fun p u => keeps_modPch_of (.refl u) _ _ (fun _ => rfl) fun _ => rfl
      · refine keeps_forAll (aligned _ _ fun p u => ?_) _ _ fun e _ u => ?_
        · exact keeps_modPch_of (.refl u) _ _ (fun _ => rfl) fun _ => rfl
        · exact keeps_modCore (.refl u) _ _ fun c hc => coreMem_placeData _ _ _ _ _ hc

@[simp] theorem keeps_beginClose (k : Nat) : Keeps s (t.beginClose k) := by
  unfold State.beginClose
  split
  · exact h
  · split
    · exact keeps_setCoh (keeps_fresh (keeps_draw h) _) _ _
    · exact h

@[simp] theorem keeps_unbind (k : Nat) (c : Cohort) : Keeps s (t.unbind k c) := by
  unfold State.unbind
  refine keeps_cohorts (keeps_forAll (keeps_forAll h _ _ fun i _ u => ?_) _ _ fun p _ u => ?_) _
  · refine keeps_modBank (keeps_modCore (.refl u) _ _ fun x hx => ?_) _ _
    split
    · exact coreMem_of hx rfl rfl rfl
    · exact hx
  · exact keeps_modPch (.refl u) _ _ fun q hq => mem_fence q _ _ hq

@[simp] theorem keeps_askPreempt (k why : Nat) : Keeps s (t.askPreempt k why) := keeps_modCoh h _ _

@[simp] theorem keeps_preemptNow (k : Nat) : Keeps s (t.preemptNow k) := by
  unfold State.preemptNow
  split
  · exact h
  · split
    · exact h
    · split
      · simp [h]
      · refine keeps_forAll (keeps_setCoh (keeps_forAll (keeps_later h) _ _ fun i _ u => ?_) _ _) _ _ fun p _ u =>
          keeps_take (.refl u) _ _ _
        refine keeps_modCore (keeps_traceRec (.refl u) _ _ _ _) _ _ fun x hx => ?_
        exact ⟨hx.spad, hx.tile, saved_putAway hx.saved hx.tile⟩

@[simp] theorem keeps_restoreMember (k i : Nat) (groups : List GroupRec) : Keeps s (t.restoreMember k i groups) := by
  unfold State.restoreMember
  split
  · exact h
  next y rest hs =>
    refine keeps_setCore (keeps_modBank h _ _) _ _ fun w => coreMem_markWords _ _ ?_
    have saved : ∀ x ∈ y :: rest, Memory.wf x.ctx.tile = true := hs ▸ (w.core i).saved
    refine mem_foldl _ (fun _ _ hc => coreMem_putBlock _ _ _ hc) _ _ ?_
    exact ⟨(w.core i).spad, saved y (by simp), fun x hx => saved x (by simp [hx])⟩

@[simp] theorem keeps_resumeNow (k : Nat) : Keeps s (t.resumeNow k) := by
  unfold State.resumeNow
  split
  · exact h
  · split
    · exact h
    · exact keeps_setCoh (keeps_forAll h _ _ fun i _ u => keeps_restoreMember (.refl u) _ _ _) _ _

@[simp] theorem keeps_tooHot (k : Nat) : Keeps s (t.tooHot k) := by
  unfold State.tooHot
  dsimp only
  (repeat' split) <;> simp [h]

@[simp] theorem keeps_manageQueues (p : Nat) : Keeps s (t.manageQueues p) := by
  refine keeps_forAll h _ _ fun q _ u => keeps_finishLaunch ?_ _ _
  have tried := keeps_failLaunch (keeps_takeHead (.refl u) p q) p q
  split
  · exact keeps_askPreempt tried _ _
  · exact tried

end

end Sys2Proof.Laws
end

section
/-! PROOFS. The canonical form of the memories (O55): partitions, and the events of sites and cohorts. -/

namespace Sys2Proof.Laws

open Sys2Proof Sys2Proof.Machine

/-! ## Partitions -/

theorem coreMem_scrub (c : Core) : c.scrub.MemoriesWf := ⟨rfl, rfl, fun _ hx => absurd hx List.not_mem_nil⟩

theorem coreMem_quench (c : Core) (h : c.MemoriesWf) : c.quench.MemoriesWf :=
  ⟨h.spad, h.tile, fun _ hx => absurd hx List.not_mem_nil⟩

theorem pchMem_reset (n : Nat) : Pch.MemoriesWf { Pch.reset with idleNext := n } := ⟨rfl, rfl⟩

/-- Cleared granules are bytes without a cell. -/
theorem wf_clearGran {m : List Host.Cell} (l : List (Nat × Nat)) (w : Memory.wf m = true) :
    Memory.wf (clearGran m l) = true := by
  unfold clearGran
  induction l generalizing m with
  | nil => exact w
  | cons g l ih => exact ih (wf_clear _ _ w)

section
variable {s t : State} (h : Keeps s t)
include h

@[simp] theorem keeps_pmDone (status : Nat) : Keeps s (t.pmDone status) := keeps_pf h _ (Nat.le_refl _)

@[simp] theorem keeps_reclaimBank (i : Nat) : Keeps s (t.reclaimBank i) :=
  keeps_modBank (keeps_forAll h _ _ fun _ _ u => keeps_bankLand (.refl u) _ _) _ _

@[simp] theorem keeps_grantAll (sites : List Nat) (gran : List (Nat × Nat)) : Keeps s (t.grantAll sites gran) :=
  keeps_syncBad (keeps_sync (keeps_forAll h _ _ fun _ _ u => keeps_modBank (.refl u) _ _) _ (wf_clearGran _)) _

@[simp] theorem keeps_create : Keeps s t.create := by
  unfold State.create
  dsimp only
  (repeat' split) <;> simp (maxDischargeDepth := 40) [h]

@[simp] theorem keeps_resize : Keeps s t.resize := by
  unfold State.resize
  dsimp only
  refine keeps_ite (keeps_pmDone h _) _ _ (keeps_ite (keeps_pmDone h _) _ _ (keeps_ite (keeps_pmDone h _) _ _ ?_))
  refine keeps_pmDone (keeps_grantAll (keeps_forAll (keeps_forAll (keeps_setPart (keeps_later h) _ _) _ _
    fun i _ u => ?_) _ _ fun die _ u => keeps_evictTlb (.refl u) _ _ _) _ _) _
  exact keeps_modCore (.refl u) _ _ fun c hc => coreMem_dropLines _ _ _ hc

@[simp] theorem keeps_endWork (p : Nat) : Keeps s (t.endWork p) :=
  keeps_tlb (keeps_forAll (keeps_forAll (keeps_setPart h _ _) _ _ fun _ _ u => keeps_endNode (.refl u) _ _ _) _ _
    fun _ _ u => keeps_modCore (.refl u) _ _ coreMem_quench) _

@[simp] theorem keeps_release : Keeps s t.release := by
  unfold State.release
  dsimp only
  split <;> simp (maxDischargeDepth := 40) [h]

theorem keeps_clear (gran : List (Nat × Nat)) (bad : List Nat) (l : SMap Cohort) :
    Keeps s { t with sync := clearGran t.sync gran, syncBad := bad, cohorts := l } :=
  keeps_cohorts (keeps_syncBad (keeps_sync h _ (wf_clearGran gran)) bad) l

@[simp] theorem keeps_reclaimed (p : Nat) : Keeps s (t.reclaimed p) := by
  have scrubbed := keeps_forAll h (t.part p).reclaimPairs (fun i s => (s.modCore i Core.scrub).reclaimBank i)
    fun i _ u => keeps_reclaimBank (keeps_modCore (.refl u) _ _ fun c _ => coreMem_scrub c) _
  have filled := keeps_forAll scrubbed (t.part p).reclaimPchs
    (fun c s => s.modPch c fun q => { Pch.reset with idleNext := q.idleNext })
    fun c _ u => keeps_modPch (.refl u) _ _ fun q _ => pchMem_reset _
  unfold State.reclaimed
  refine keeps_ite (keeps_pmDone (keeps_setPart ?cleared _ _) _) _ _ ?cleared
  exact keeps_modPart (keeps_clear filled _ _ _) _ _

end

/-! ## Events -/

@[simp] theorem tile_dropBev (c : Ctx) (e : BEvent) : (c.dropBev e).tile = c.tile := by
  unfold Ctx.dropBev
  (repeat' split) <;> rfl

@[simp] theorem tile_handBack (c : Ctx) : c.handBack.tile = c.tile := by
  unfold Ctx.handBack
  split
  · rfl
  · split
    · rfl
    · dsimp only
      split <;> simp

section
variable {s t : State} (h : Keeps s t)
include h

@[simp] theorem keeps_takeEvent (i : Nat) (e : BEvent) : Keeps s (t.takeEvent i e) := by
  unfold State.takeEvent
  dsimp only
  split <;> simp [h]

@[simp] theorem keeps_latencyTrap (k : Nat) : Keeps s (t.latencyTrap k) := by
  unfold State.latencyTrap
  split
  · dsimp only
    split
    · exact keeps_modCtx h _ _ fun _ w => w
    · refine keeps_endNode (keeps_noteFault (keeps_forAll (keeps_modCtx h _ _ ?_) _ _ fun i _ u => ?_) _ _ _) _ _ _
      · exact fun _ w => w
      · exact keeps_modCtx (keeps_traceRec (.refl u) _ _ _ _) _ _ fun c w => by simpa using w
  · exact h

@[simp] theorem keeps_latencyEvent (i k : Nat) : Keeps s (t.latencyEvent i k) := by
  unfold State.latencyEvent
  split
  · exact h
  · exact keeps_modCore h _ _ fun c hc => coreMem_modOf _ _ _ hc fun _ w => w

@[simp] theorem keeps_execRetrainRequest (i : Nat) : KeepsOut s (execRetrainRequest i t) := by
  unfold execRetrainRequest
  dsimp only
  (repeat' split) <;> simp (maxDischargeDepth := 40) [h]

@[simp] theorem keeps_execRetrainComplete (i : Nat) (r : Retrain) : KeepsOut s (execRetrainComplete i r t) := by
  have trained : ∀ (f : Bank → Bank) m, Keeps s
      { t.draw.2.modBank i f with pf := { (t.draw.2.modBank i f).pf with trained := m } } := fun f m =>
    keeps_pf (keeps_modBank (keeps_draw h) _ _) _ (Nat.le_refl _)
  unfold execRetrainComplete
  split
  · simp [h]
  · dsimp only
    split
    · exact (keepsOut_next _ _).2 (trained _ _)
    · exact (keepsOut_next _ _).2 (keeps_forAll (trained _ _) _ _ fun _ _ u => keeps_latencyEvent (.refl u) _ _)
    · exact (keepsOut_next _ _).2
        (keeps_forAll (keeps_bam (trained _ _) _) _ _ fun _ _ u => keeps_endNode (.refl u) _ _ _)

@[simp] theorem keeps_endCause (c : HoldCause) : Keeps s (t.endCause c) := by
  unfold State.endCause
  split
  · dsimp only
    split
    · exact keeps_modCtx (keeps_landSite h _) _ _ fun _ w => w
    · simp [h]
  · exact h

@[simp] theorem keeps_endReplay (i : Nat) : Keeps s (t.endReplay i) := by
  unfold State.endReplay
  split
  next r k _ _ =>
    have landed := keeps_ite (keeps_landSite h i) (r.landed = true) _ h
    have rest : ∀ l : List PEntry, Keeps s (forAll l (if r.landed = true then t.landSite i else t) fun e s =>
        match e with
        | .delivery _ b port _ => s.deliver i b port
        | .arrival _ p => s.land1 i r.upTo false (s.ctx i) p
        | _ => s) := fun l => keeps_forAll landed _ _ fun e _ u => by split <;> simp
    dsimp only
    refine keeps_ite ?ended _ _ (keeps_escalate ?ended _ _ _)
    refine keeps_traceRec (keeps_modCtx (rest _) _ _ ?_) _ _ _ _
    exact fun _ w => w
  · exact h

@[simp] theorem keeps_reviewHold (k : Nat) : Keeps s (t.reviewHold k) := by
  unfold State.reviewHold
  split
  · exact h
  next c _ =>
    split
    · exact h
    · have ended := keeps_forAll h (c.members.filter (t.replayOver ·)) (fun i s => s.endReplay i) fun i _ u =>
        keeps_endReplay (.refl u) i
      dsimp only
      split
      · exact ended
      · split
        · exact ended
        · exact keeps_setCoh (keeps_forAll ended _ _ fun _ _ u => keeps_endCause (.refl u) _) _ _

@[simp] theorem keeps_release1 (k : Nat) : Keeps s (t.release1 k) := by
  have back : ∀ l : List Nat, Keeps s (forAll l t fun i s => s.modCtx i Ctx.handBack) := fun l =>
    keeps_forAll h _ _ fun _ _ u => keeps_modCtx (.refl u) _ _ fun c w => by simpa using w
  unfold State.release1
  split
  · exact h
  · split
    · exact h
    · split
      · exact keeps_setCoh (back _) _ _
      · refine keeps_forAll (keeps_modCoh (keeps_sayRelease (back _) _) _ _) _ _ fun p _ u => ?_
        exact keeps_modPch_of (.refl u) _ _ (fun _ => rfl) fun _ => rfl

end

end Sys2Proof.Laws
end

section
/-! PROOFS. The canonical form of the memories (O55): the physical function, the host's windows, and every event. -/

namespace Sys2Proof.Laws

open Sys2Proof Sys2Proof.Machine

/-! ## Outcomes -/

section
variable {s t : State} (h : Keeps s t)
include h

@[simp] theorem keeps_outState {o : Out} (ho : KeepsOut s o) : Keeps s (o.state t) := by
  cases o with
  | next u => exact ho.next u rfl
  | fault => exact h
  | refused => exact h

@[simp] theorem keeps_vfWrite (p : Nat) (f : State → Out) (hf : KeepsOut s (f t)) : KeepsOut s (t.vfWrite p f) := by
  unfold State.vfWrite
  split
  · exact hf
  · simpa using h

end

/-! ## The physical function -/

/-- Changes of a memory one after the other. -/
theorem wf_foldl (f : List Host.Cell → α → List Host.Cell)
    (hf : ∀ m x, Memory.wf m = true → Memory.wf (f m x) = true) (l : List α) {m : List Host.Cell}
    (w : Memory.wf m = true) : Memory.wf (l.foldl f m) = true := by
  induction l generalizing m with
  | nil => exact w
  | cons x l ih => exact ih (hf m x w)

/-- Pieces written into a memory. -/
theorem wf_pieces (at_ : α → Nat) (bytes : α → List Byte) (l : List α) {m : List Host.Cell} (w : Memory.wf m = true) :
    Memory.wf (l.foldl (fun m x => memPut m (at_ x) (bytes x)) m) = true :=
  wf_foldl _ (fun _ _ w => wf_put _ _ w) l w

section
variable {s t : State} (h : Keeps s t)
include h

theorem keeps_hostFresh (n : Nat) (m : List Host.Cell) (hm : Memory.wf t.host = true → Memory.wf m = true) :
    Keeps s { t with fresh := n, host := m } := keeps_host (keeps_fresh h n) m hm

@[simp] theorem keeps_fatalStop (cause : FatalCause) : Keeps s (t.fatalStop cause) := by
  unfold State.fatalStop
  exact keeps_ite (keeps_fatal h _) _ _
    (keeps_hostFresh (keeps_fatal h (some cause)) _ _ fun w => wf_pieces _ _ _ (wf_put _ _ w))

@[simp] theorem keeps_writeRepair : Keeps s t.writeRepair := by
  unfold State.writeRepair
  exact keeps_ite h _ _ (keeps_modPf (keeps_hostPut h _ _) _ fun _ => Nat.le_refl _)

theorem keeps_bamPf (m : SMap Nat) (p : Pf) (hp : p.stage = t.pf.stage) : Keeps s { t with bam := m, pf := p } :=
  keeps_pf (keeps_bam h m) p (Nat.le_of_eq hp.symm)

@[simp] theorem keeps_buildBam : Keeps s t.buildBam := by
  unfold State.buildBam
  refine keeps_forAll (keeps_bamPf h _ _ ?_) _ _ fun i _ u => keeps_modBank (.refl u) _ _
  rfl

end

/-- No stage of the boot is undone; its end sets WCYC to 0. -/
@[simp] theorem keeps_bootStep {s t : State} (h : Keeps s t) : Keeps s t.bootStep := by
  have next : ∀ {u v : State}, Keeps u v → ∀ n e, v.pf.stage ≤ n →
      Keeps u (v.modPf fun p => { p with stage := n, err := e }) := fun hv n e hn =>
    keeps_pf hv { (_ : State).pf with stage := n, err := e } hn
  refine h.trans ?_
  unfold State.bootStep
  split
  · exact .refl t
  next hdue =>
    have before : t.pf.stage < 5 := by
      simp [State.bootDue] at hdue
      exact hdue.1.2
    dsimp only
    split
    next e => exact next (.refl t) _ _ (by simp [e])
    next e =>
      refine next (keeps_modPf (.refl t) _ ?_) _ _ (show t.pf.stage ≤ 2 by omega)
      exact fun _ => Nat.le_refl _
    next e => exact next (.refl t) _ _ (by simp [e])
    next e =>
      have drawn : t.draw.2.pf.stage ≤ 4 := by simp [e]
      split
      · exact next (keeps_draw (.refl t)) _ _ drawn
      · exact keeps_buildBam (next (keeps_draw (.refl t)) _ _ drawn)
    next =>
      exact { now := rfl, phase := rfl, stage := Nat.le_of_lt before, wcyc := .inr ⟨before, rfl⟩
              mem := fun w => ⟨w.host, w.sync, w.core, w.pch⟩ }

section
variable {s t : State} (h : Keeps s t)
include h

@[simp] theorem keeps_execTrccopyComplete : KeepsOut s (execTrccopyComplete t) := by
  unfold execTrccopyComplete
  refine keepsOut_ite _ _ _ (by simpa using h) ((keepsOut_next _ _).2 ?_)
  exact keeps_modPf (keeps_host h _ fun w => wf_pieces _ _ _ (wf_clear _ _ w)) _ fun _ => Nat.le_refl _

@[simp] theorem keeps_execQtrcopyComplete : KeepsOut s (execQtrcopyComplete t) := by
  unfold execQtrcopyComplete
  refine keepsOut_ite _ _ _ (by simpa using h) ((keepsOut_next _ _).2 ?_)
  refine keeps_modPf (keeps_hostFresh h _ _ fun w => ?_) _ fun _ => Nat.le_refl _
  exact wf_pieces _ _ _ (wf_pieces _ _ _ (wf_put _ _ (wf_clear _ _ w)))

@[simp] theorem keeps_execAttestationReport : KeepsOut s (execAttestationReport t) := by
  unfold execAttestationReport
  refine keepsOut_ite _ _ _ (by simpa using h) ((keepsOut_next _ _).2 ?_)
  exact keeps_modPf (keeps_hostPut h _ _) _ fun _ => Nat.le_refl _

@[simp] theorem keeps_bankSample (i : Nat) (v : Int) : Keeps s (t.bankSample i v) := by
  have recorded : ∀ u, Keeps s u → Keeps s (match SMap.get? u.pf.trained i with
      | none => u.modPf fun p => { p with trained := SMap.set p.trained i v }
      | some w => if 16 ≤ (v - w).natAbs then Out.state u (execRetrainRequest i u) else u) := fun u hu => by
    split
    · exact keeps_modPf hu _ fun _ => Nat.le_refl _
    · exact keeps_ite (keeps_outState hu (keeps_execRetrainRequest hu i)) _ _ hu
  refine recorded _ ?_
  split
  · exact keeps_ite (keeps_askPreempt h _ _) _ _ h
  · exact h

@[simp] theorem keeps_sample (r : PowerReading) : Keeps s (t.sample r) := by
  unfold State.sample
  refine keeps_ite (keeps_fatalStop ?sampled _) _ _
    (keeps_forAll ?sampled _ _ fun _ _ u => keeps_bankSample (.refl u) _ _)
  refine keeps_forAll (keeps_modPf h _ ?_) _ _ fun _ _ u => keeps_modPart (.refl u) _ _
  exact fun _ => Nat.le_refl _

@[simp] theorem keeps_capAction (p : Nat) : Keeps s (t.capAction p) := by
  unfold State.capAction
  split <;> simp [h]

end

end Sys2Proof.Laws
end

section
/-! PROOFS. The canonical form of the memories (O55): the host's windows, and every operation and event. -/

namespace Sys2Proof.Laws

open Sys2Proof Sys2Proof.Machine

/-! ## Writes to registers -/

section
variable {s t : State} (h : Keeps s t)
include h

/-- A change of a partition's registers by a host write. -/
theorem keeps_vfModPart (p : Nat) (f : Part → Part) : KeepsOut s (t.vfWrite p fun s => .next (s.modPart p f)) :=
  keeps_vfWrite h _ _ (by simp [h])

/-- A change of the physical function's registers, its boot stage apart. -/
theorem keeps_modPf_of (f : Pf → Pf) (hf : ∀ p, (f p).stage = p.stage) : KeepsOut s (.next (t.modPf f)) :=
  (keepsOut_next _ _).2 (keeps_modPf h _ fun p => Nat.le_of_eq (hf p).symm)

@[simp] theorem keeps_execRrrespRetry (p tag : Nat) : KeepsOut s (execRrrespRetry p tag t) :=
  keeps_vfWrite h _ _ ((keepsOut_next _ _).2 (keeps_answer h _ _ _ fun _ _ hu => keeps_retryWalk hu _))

@[simp] theorem keeps_execRrrespAbort (p tag : Nat) : KeepsOut s (execRrrespAbort p tag t) :=
  keeps_vfWrite h _ _ ((keepsOut_next _ _).2 (keeps_answer h _ _ _ fun _ _ hu => keeps_abortWalk hu _))

@[simp] theorem keeps_execRrbaseWrite (p : Nat) (v : Word) : KeepsOut s (execRrbaseWrite p v t) := keeps_vfModPart h _ _

@[simp] theorem keeps_execRrcntWrite (p : Nat) (v : Word) : KeepsOut s (execRrcntWrite p v t) := keeps_vfModPart h _ _

@[simp] theorem keeps_execPtrootWrite (p : Nat) (v : Word) : KeepsOut s (execPtrootWrite p v t) :=
  keeps_vfWrite h _ _ (by simp [h])

@[simp] theorem keeps_execTlbinvWrite (p : Nat) (v : Word) : KeepsOut s (execTlbinvWrite p v t) := by
  refine keeps_vfWrite h _ _ ?_
  dsimp only
  (repeat' split) <;> simp [h]

@[simp] theorem keeps_execEvbaseWrite (p : Nat) (v : Word) : KeepsOut s (execEvbaseWrite p v t) := keeps_vfModPart h _ _

@[simp] theorem keeps_execEvtailWrite (p : Nat) (v : Word) : KeepsOut s (execEvtailWrite p v t) := keeps_vfModPart h _ _

@[simp] theorem keeps_execImgloadLoad (p : Nat) (v : Word) : KeepsOut s (execImgloadLoad p v t) := by
  refine keeps_vfWrite h _ _ ?_
  dsimp only
  (repeat' split) <;> simp [h]

@[simp] theorem keeps_execImgloadUnload (p : Nat) (v : Word) : KeepsOut s (execImgloadUnload p v t) :=
  keeps_vfModPart h _ _

@[simp] theorem keeps_execLaunchWrite (p q : Nat) (full : Bool) (v : Word) :
    KeepsOut s (execLaunchWrite p q full v t) := by
  refine keeps_vfWrite h _ _ ?_
  dsimp only
  (repeat' split) <;> simp [h]

@[simp] theorem keeps_execQctlErrClear (p q : Nat) : KeepsOut s (execQctlErrClear p q t) := keeps_vfModPart h _ _

@[simp] theorem keeps_execQctlAbort (p q : Nat) : KeepsOut s (execQctlAbort p q t) := by
  refine keeps_vfWrite h _ _ (keepsOut_ite _ _ _ ((keepsOut_next _ _).2 (keeps_finishLaunch ?_ _ _))
    ((keepsOut_next _ _).2 (keeps_dropAborted (keeps_modPart h _ _) _ _)))
  exact keeps_forAll (keeps_modLaunch (keeps_modPart h _ _) _ _ _) _ _ fun _ _ u => keeps_endNode (.refl u) _ _ _

@[simp] theorem keeps_execSyncwinRead (p off size : Nat) : KeepsOut s (execSyncwinRead p off size t) := by
  unfold execSyncwinRead
  dsimp only
  (repeat' split) <;> simp only [keepsOut_next]
  case h_2.isTrue => exact keeps_rdata (keeps_draw h) _
  all_goals exact keeps_rdata h _

@[simp] theorem keeps_execSyncwinWrite (p off size : Nat) (v : Word) :
    KeepsOut s (execSyncwinWrite p off size v t) := by
  unfold execSyncwinWrite
  dsimp only
  split
  · simpa using h
  · split
    · simpa using h
    · exact (keepsOut_next _ _).2 (keeps_mendSync (keeps_sync h _ (wf_put _ _)) _)

@[simp] theorem keeps_execTrccopyWrite (v : Word) : KeepsOut s (execTrccopyWrite v t) := by
  unfold execTrccopyWrite
  exact keepsOut_ite _ _ _ (by simpa using h) (keeps_modPf_of (keeps_later h) _ fun _ => rfl)

@[simp] theorem keeps_execQtrcopyWrite (v : Word) : KeepsOut s (execQtrcopyWrite v t) := by
  unfold execQtrcopyWrite
  exact keepsOut_ite _ _ _ (by simpa using h) (keeps_modPf_of (keeps_later h) _ fun _ => rfl)

@[simp] theorem keeps_execAttreqWrite (v : Word) : KeepsOut s (execAttreqWrite v t) := by
  unfold execAttreqWrite
  exact keepsOut_ite _ _ _ (by simpa using h) (keeps_modPf_of (keeps_later h) _ fun _ => rfl)

@[simp] theorem keeps_execErrinjWrite (v : Word) : KeepsOut s (execErrinjWrite v t) := keeps_modPf_of h _ fun _ => rfl

@[simp] theorem keeps_execBootaddrWrite (v : Word) : KeepsOut s (execBootaddrWrite v t) :=
  keeps_modPf_of h _ fun _ => rfl

@[simp] theorem keeps_execPwrcapWrite (v : Word) : KeepsOut s (execPwrcapWrite v t) := by
  unfold execPwrcapWrite
  refine (keepsOut_next _ _).2 (keeps_ite (keeps_modPf h _ ?_) _ _ h)
  exact fun _ => Nat.le_refl _

@[simp] theorem keeps_execTrcctlFrozenClear (i : Nat) : KeepsOut s (execTrcctlFrozenClear i t) :=
  (keepsOut_next _ _).2 (keeps_modCore_of h _ _ (fun _ => rfl) (fun _ => rfl) fun _ => rfl)

/-! ## The windows -/

@[simp] theorem keeps_pmGo (v : Word) : Keeps s (t.pmGo v) := by
  unfold State.pmGo
  exact keeps_ite h _ _ (keeps_modPf (keeps_later h) _ fun _ => Nat.le_refl _)

@[simp] theorem keeps_writeTrcctl (i : Nat) (v : Word) : Keeps s (t.writeTrcctl i v) := by
  unfold State.writeTrcctl
  have set := keeps_modCore_of h i (fun c => { c with trace := { c.trace with
    kmask := BitVec.ofNat 16 (bits v 15 0), tkind := BitVec.ofNat 8 (bits v 23 16)
    post := BitVec.ofNat 12 (bits v 35 24) } })
    (fun _ => rfl) (fun _ => rfl) fun _ => rfl
  exact keeps_ite (keeps_outState set (keeps_execTrcctlFrozenClear set i)) _ _ set

@[simp] theorem keeps_writePf (off : Nat) (v : Word) : Keeps s (t.writePf off v) := by
  unfold State.writePf
  split <;> simp (maxDischargeDepth := 40) [h, execDumpcmdGo]

@[simp] theorem keeps_writeRrresp (p : Nat) (v : Word) : Keeps s (t.writeRrresp p v) := by
  simp (maxDischargeDepth := 40) [State.writeRrresp, h]

@[simp] theorem keeps_writeImgload (p : Nat) (v : Word) : Keeps s (t.writeImgload p v) := by
  unfold State.writeImgload
  split <;> simp (maxDischargeDepth := 40) [h]

@[simp] theorem keeps_writeQctl (p q : Nat) (v : Word) : Keeps s (t.writeQctl p q v) := by
  unfold State.writeQctl
  have cleared := fun (b : Bool) (f : Part → Part) =>
    keeps_ite (keeps_outState (keeps_modPart h p f) (keeps_execQctlErrClear (keeps_modPart h p f) p q)) (b = true) _
      (keeps_modPart h p f)
  exact keeps_ite (keeps_outState (cleared _ _) (keeps_execQctlAbort (cleared _ _) p q)) _ _ (cleared _ _)

@[simp] theorem keeps_oddWrite (n off : Nat) (v : Word) : Keeps s (t.oddWrite n off v) := by
  unfold State.oddWrite
  split <;> simp (maxDischargeDepth := 40) [h]

@[simp] theorem keeps_writeVf (p off : Nat) (v : Word) : Keeps s (t.writeVf p off v) := by
  unfold State.writeVf
  split <;> simp (maxDischargeDepth := 40) [h]

@[simp] theorem keeps_execRegisterWrite (fn off : Nat) (v : Word) : KeepsOut s (execRegisterWrite fn off v t) := by
  unfold execRegisterWrite
  split
  · simp (maxDischargeDepth := 40) [h]
  · exact keeps_vfWrite h _ _ (by simp (maxDischargeDepth := 40) [h])

@[simp] theorem keeps_barRead (fn off size : Nat) : Keeps s (t.barRead fn off size) := by
  unfold State.barRead
  dsimp only
  (repeat' split) <;> simp (maxDischargeDepth := 40) [h]

@[simp] theorem keeps_barWrite (fn off size : Nat) (v : Word) : Keeps s (t.barWrite fn off size v) := by
  unfold State.barWrite
  (repeat' split) <;> simp (maxDischargeDepth := 40) [h]

@[simp] theorem keeps_barAccess (fn off size : Nat) (w : Option Word) : Keeps s (t.barAccess fn off size w) := by
  unfold State.barAccess
  split <;> simp (maxDischargeDepth := 40) [h]

@[simp] theorem keeps_pfReset : Keeps s t.pfReset := by
  unfold State.pfReset
  refine keeps_modPf (keeps_forAll h _ _ fun e _ u => ?_) _ fun _ => Nat.le_refl _
  exact keeps_modCore_of (.refl u) _ _ (fun _ => rfl) (fun _ => rfl) fun _ => rfl

@[simp] theorem keeps_configRead (fn off : Nat) : Keeps s (t.configRead fn off) := keeps_rdata h _

/-! ## Events of sites, cohorts and partitions -/

@[simp] theorem keeps_takeFetchFault (i : Nat) : Keeps s (t.takeFetchFault i) := by
  unfold State.takeFetchFault
  split
  · exact h
  · refine keeps_decodeTrap ?_ _ _ _ _ _
    split
    · exact keeps_modCore_of h _ _ (fun _ => rfl) (fun _ => rfl) fun _ => rfl
    · exact h

@[simp] theorem keeps_execAutoPrecharge (p b : Nat) : KeepsOut s (execAutoPrecharge p b t) := by
  unfold execAutoPrecharge
  split
  · simpa using h
  · exact (keepsOut_next _ _).2 (keeps_modPch h _ _ fun q hq => pchMem_setBankTime hq _ _)

@[simp] theorem keeps_execIdleRefresh (p : Nat) : KeepsOut s (execIdleRefresh p t) := by
  unfold execIdleRefresh
  refine keepsOut_ite _ _ _ ((keepsOut_next _ _).2 (keeps_scrubAny (keeps_modPch_of h _ _ ?_ ?_) _)) (by simpa using h)
  · exact fun _ => rfl
  · exact fun _ => rfl

@[simp] theorem keeps_execBlockLockExpire (i : Nat) : KeepsOut s (execBlockLockExpire i t) :=
  (keepsOut_next _ _).2 (keeps_modCore_of h _ _ (fun _ => rfl) (fun _ => rfl) fun _ => rfl)

@[simp] theorem keeps_execTraceFreeze (i : Nat) : KeepsOut s (execTraceFreeze i t) := by
  unfold execTraceFreeze
  refine (keepsOut_next _ _).2 (keeps_ite (keeps_modCore_of h _ _ ?_ ?_ ?_) _ _ h)
  all_goals exact fun _ => rfl

@[simp] theorem keeps_execTimingFault (i : Nat) : KeepsOut s (execTimingFault i t) := by
  unfold execTimingFault
  dsimp only
  split <;> simp (maxDischargeDepth := 40) [h]

@[simp] theorem keeps_execRegionRollback (i : Nat) : KeepsOut s (execRegionRollback i t) := by
  unfold execRegionRollback
  dsimp only
  split <;> simp (maxDischargeDepth := 40) [h]

@[simp] theorem keeps_execOverTemperature (i : Nat) (cls : BitVec 2) : KeepsOut s (execOverTemperature i cls t) := by
  have heated : ∀ m, Keeps s { t with pf := { t.pf with bankTemp := m } } := fun m =>
    keeps_pf h { t.pf with bankTemp := m } (Nat.le_refl _)
  unfold execOverTemperature
  dsimp only
  split
  · exact (keepsOut_next _ _).2 (keeps_ite (keeps_askPreempt (heated _) _ _) _ _ (heated _))
  · exact (keepsOut_next _ _).2 (heated _)

@[simp] theorem keeps_execThaw (i : Nat) : KeepsOut s (execThaw i t) := by
  unfold execThaw
  refine (keepsOut_next _ _).2 (keeps_ite (keeps_modCore_of h _ _ ?_ ?_ ?_) _ _ h)
  all_goals exact fun _ => rfl

@[simp] theorem keeps_execNodeRetire (k : Nat) : KeepsOut s (execNodeRetire k t) := by
  unfold execNodeRetire
  (repeat' split) <;> simp [h]

@[simp] theorem keeps_execNodeRequeue (k : Nat) : KeepsOut s (execNodeRequeue k t) := by
  unfold execNodeRequeue
  (repeat' split) <;> simp [h]

@[simp] theorem keeps_execWdogTimeout (k : Nat) : KeepsOut s (execWdogTimeout k t) := by
  unfold execWdogTimeout
  (repeat' split) <;> simp [h]

@[simp] theorem keeps_execFunctionLevelReset (p : Nat) : KeepsOut s (execFunctionLevelReset p t) := by
  unfold execFunctionLevelReset
  dsimp only
  split <;> simp (maxDischargeDepth := 40) [h]

@[simp] theorem keeps_execFlrComplete (p : Nat) : KeepsOut s (execFlrComplete p t) := by
  unfold execFlrComplete
  dsimp only
  split <;> simp [h]

/-! ## Every operation and every event -/

/-- No meaning breaks the form of a memory: the named operations and events have their lemma, and what is left is
one function of the model, in some of them only where it is due. -/
theorem keeps_exec (i : Instr) : KeepsOut s (exec i t) := by
  cases i <;> dsimp only [exec]
  all_goals simp (maxDischargeDepth := 40) [h, execGuardCommandDrive, execDramOperationComplete, execDramReadLanding,
    execRefreshFrameBoundary, execCustodialRefresh, execXfrBegin, execXfrComplete, execUntimedPortAccess,
    execDemandStaging, execLineStagingComplete, execRetryEntryWrite, execTlbinvComplete, execAtomicPerform,
    execAtomReturn, execResultLanding, execHoldRelease, execTrapHandlerEntry, execLatencyClass, execPreempt, execResume,
    execNodeBind, execEventRecordWrite, execEvcoalTimeout, execImageLoadComplete, execStartAlignment,
    execShardProgram, execPartitionCreate, execPartitionResize, execPartitionRelease, execReclamationComplete,
    execDumpcmdGo, execFatalError, execBoot, execPowerSample]

end

end Sys2Proof.Laws
end

section
/-! PROOFS. The canonical form of the memories (O55): the issue of a bundle, the ends of the phases, and the step. -/

namespace Sys2Proof.Laws

open Sys2Proof Sys2Proof.Machine

/-! ## Issue -/

theorem KeepsOut.andThen {s : State} {o : Out} {f : State → Out} (ho : KeepsOut s o)
    (hf : ∀ u, Keeps s u → KeepsOut s (f u)) : KeepsOut s (andThen o f) := by
  cases o with
  | next u => exact hf u (ho.next u rfl)
  | fault => exact ⟨fun _ e => nomatch e⟩
  | refused => exact ⟨fun _ e => nomatch e⟩

@[simp] theorem tile_countLayouts (c : Ctx) : c.countLayouts.tile = c.tile := by
  unfold Ctx.countLayouts
  split <;> rfl

@[simp] theorem tile_goTo (c : Ctx) (pc : BitVec 54) (n : Nat) : (c.goTo pc n).tile = c.tile := by rfl

@[simp] theorem tile_endLoops (c : Ctx) (next : BitVec 54) (l : List Nat) : (c.endLoops next l).1.tile = c.tile := by
  induction l generalizing c with
  | nil => rfl
  | cons n l ih =>
    unfold Ctx.endLoops
    dsimp only
    split
    · rfl
    · split
      · rfl
      · exact (ih _).trans (tile_setLoop _ _ _)

@[simp] theorem tile_advance (c : Ctx) (u : Cur) (n : Nat) : (c.advance u n).tile = c.tile := by
  unfold Ctx.advance
  split
  · rfl
  · split
    · rfl
    · exact tile_endLoops _ _ _

section
variable {s t : State} (h : Keeps s t)
include h

@[simp] theorem keeps_prepare (x : Op) : Keeps s (t.prepare x) := keeps_cur h _

@[simp] theorem keeps_readFault (op : Instr) (code : Nat) : Keeps s (t.readFault op code) := by
  unfold State.readFault
  refine keeps_ite h _ _ (keeps_modCtx (keeps_ite (keeps_fresh (keeps_disarm h) _) _ _ h) _ _ fun c w => ?_)
  simpa using w

@[simp] theorem keeps_keepLatch (x : Op) (i : Instr) : Keeps s (t.keepLatch x i) := by
  unfold State.keepLatch
  refine keeps_modCtx h _ _ ?_
  exact fun _ w => w

@[simp] theorem keeps_softTrap : Keeps s t.softTrap := by
  unfold State.softTrap
  split
  · exact h
  · exact keeps_cur (keeps_takeTrap h _ _) _

@[simp] theorem keeps_settle (x : Op) (i : Instr) (code : Nat) : Keeps s (t.settle x i code) := by
  unfold State.settle
  split <;> simp (maxDischargeDepth := 40) [h]

@[simp] theorem keeps_lockBanks : Keeps s t.lockBanks := by
  unfold State.lockBanks
  refine keeps_ite h _ _ (keeps_modCore_of h _ _ ?_ ?_ ?_)
  all_goals exact fun _ => rfl

@[simp] theorem keeps_closeBundle : Keeps s t.closeBundle := by
  unfold State.closeBundle
  refine keeps_ite (keeps_lockBanks h) _ _ (keeps_modCtx (keeps_lockBanks h) _ _ fun c w => ?_)
  dsimp only
  (repeat' split) <;> simpa using w

@[simp] theorem keeps_openBundle (i : Nat) (l : List Syl) (next : BitVec 54) : Keeps s (t.openBundle i l next) :=
  keeps_cur h _

theorem keeps_issueAll {f : α → State → Out} (l : List α) (hf : ∀ x u, Keeps s u → KeepsOut s (f x u)) :
    KeepsOut s (issueAll f l t) := by
  induction l generalizing t with
  | nil => simpa [issueAll] using h
  | cons x l ih => exact (hf x t h).andThen fun u hu => ih hu

theorem keeps_prefixOp (x : Syl) : KeepsOut s (State.prefixOp x t) := by
  unfold State.prefixOp
  split
  · exact keeps_exec h _
  · simpa using h

/-- In a replay what is not issued again leaves its addresses alone. -/
theorem keeps_issueOp (x : Op) : KeepsOut s (t.issueOp x) := by
  have prepared := keeps_prepare h x
  unfold State.issueOp
  dsimp only
  split
  · simpa using keeps_illegal prepared
  · split
    · exact (keeps_exec prepared _).andThen fun u _ => (keepsOut_next _ _).2 (keeps_settle (keeps_cur prepared _) _ _ _)
    · exact (keeps_exec prepared _).andThen fun u hu => (keepsOut_next _ _).2 (keeps_settle hu _ _ _)

theorem keeps_issueSlot (l : List Syl) (k : Nat) : KeepsOut s (State.issueSlot l k t) := by
  unfold State.issueSlot
  split
  · simpa using h
  · split
    · simpa using h
    · exact keeps_issueOp h _

theorem keeps_issueBundle (i : Nat) : KeepsOut s (t.issueBundle i) := by
  unfold State.issueBundle
  split
  · refine (keeps_issueAll (keeps_openBundle h _ _ _) _ fun x _ hu => keeps_prefixOp hu x).andThen fun u hu => ?_
    exact (keeps_issueAll hu _ fun x _ hv => keeps_issueSlot hv _ x).andThen fun v hv =>
      (keepsOut_next _ _).2 (keeps_closeBundle hv)
  · exact (keepsOut_next _ _).2 (keeps_modCtx h _ _ fun _ w => w)

/-! ## The inbox -/

@[simp] theorem keeps_hitResult (i n : Nat) : Keeps s (t.hitResult i n) := by
  unfold State.hitResult
  split
  · exact h
  · exact keeps_modCtx (keeps_draw h) _ _ fun _ w => w

@[simp] theorem keeps_crcError (p : Nat) (write : Bool) : Keeps s (t.crcError p write) := by
  have charged : ∀ (i k : Nat) (b : Ctx → List BEvent),
      Keeps s (t.modCore i (·.modOf k fun c => { c with bev := b c })) := fun i k b =>
    keeps_modCore h _ _ fun c hc => coreMem_modOf _ _ _ hc fun _ w => w
  unfold State.crcError
  dsimp only
  split
  · split
    · exact charged _ _ _
    · exact h
  · split
    · exact charged _ _ _
    · exact h

@[simp] theorem keeps_strike (u : Upset) : Keeps s (t.strike u) := by
  unfold State.strike
  cases u <;> dsimp only
  case register | word => exact keeps_modCore_of h _ _ (fun _ => rfl) (fun _ => rfl) fun _ => rfl
  case line =>
    refine keeps_modCore h _ _ fun c hc => ?_
    split
    · exact coreMem_of hc rfl rfl rfl
    · exact hc
  case tile => exact keeps_modCtx h _ _ fun c w => by split <;> exact w
  case result => exact keeps_hitResult h _ _
  case block => exact keeps_modPch_of h _ _ (fun _ => rfl) fun _ => rfl
  case crc => exact keeps_crcError h _ _
  case sync => exact keeps_syncBad h _
  case transfer =>
    split
    · exact keeps_modUop h _ _ _
    · exact h
  case argument => exact keeps_modLaunch h _ _ _

theorem keeps_receive (e : Nat × Input) : KeepsOut s (t.receive e) := by
  have taken := keeps_inbox h (t.inbox.erase e)
  unfold State.receive
  cases e.2 <;> dsimp only
  case hostStore => exact (keepsOut_next _ _).2 (keeps_hostPut taken _ _)
  case act => exact keepsOut_ite _ _ _ (keeps_exec taken _) ((keepsOut_next _ _).2 taken)
  case access => exact (keepsOut_next _ _).2 (keeps_ite (keeps_barAccess taken _ _ _ _) _ _ taken)
  case configRead => exact (keepsOut_next _ _).2 (keeps_ite (keeps_configRead taken _ _) _ _ taken)
  case vfEnable | sense => exact keeps_modPf_of taken _ fun _ => rfl
  case pfReset => exact (keepsOut_next _ _).2 (keeps_pfReset taken)
  case upset => exact (keepsOut_next _ _).2 (keeps_ite (keeps_strike taken _) _ _ taken)

/-! ## The ends of the phases -/

theorem keeps_backgroundEnd : Keeps s t.backgroundEnd :=
  keeps_forAll h _ _ fun k _ u => keeps_beginClose (keeps_reviewHold (keeps_startHold (.refl u) k) k) k

theorem keeps_releaseEnd : Keeps s t.releaseEnd := keeps_forAll h _ _ fun _ _ u => keeps_modCoh (.refl u) _ _

theorem keeps_fetchEnd : Keeps s t.fetchEnd := by
  refine keeps_forAll (keeps_forAll h _ _ fun i _ u => keeps_modCtx (.refl u) i _ ?_) _ _ fun _ _ u =>
    keeps_modCoh (.refl u) _ _
  exact fun _ w => w

theorem keeps_issueEnd : Keeps s t.issueEnd := keeps_forAll h _ _ fun _ _ u => keeps_sayHold (.refl u) _

theorem keeps_portEnd : Keeps s t.portEnd :=
  keeps_stopEnded (keeps_forAll h _ _ fun _ _ u => keeps_servePorts (.refl u) _)

theorem keeps_untimedEnd : Keeps s t.untimedEnd := keeps_forAll h _ _ fun _ _ u => keeps_settleOps (.refl u) _

theorem keeps_refusePm : Keeps s t.refusePm := by
  unfold State.refusePm
  exact keeps_ite (keeps_pmDone h _) _ _ h

theorem keeps_manageEnd : Keeps s t.manageEnd :=
  keeps_forAll (keeps_forAll (keeps_writeRepair (keeps_refusePm h)) _ _ fun p _ u =>
    keeps_qtrFlush (keeps_capAction (keeps_manageQueues (.refl u) p) p) p) _ _ fun _ _ u => keeps_tooHot (.refl u) _

@[simp] theorem keeps_custody (k : Nat) : Keeps s (t.custody k) := by
  unfold State.custody
  split
  · exact h
  · split
    · exact keeps_forAll h _ _ fun p _ u => keeps_ite (.refl u) _ _ (keeps_take (.refl u) _ _ _)
    · exact h

/-- The cohorts' counts pass, and the guards of held ones take custody. -/
theorem keeps_counted : Keeps s (
    let u : State := { t with cohorts := t.cohorts.map fun e => (e.1, e.2.tick) }
    forAll u.cohKeys u fun k s => s.custody k) :=
  keeps_forAll (keeps_cohorts h _) _ _ fun k _ u => keeps_custody (.refl u) k

end

@[simp] theorem tile_tick (c : Ctx) (now : Nat) : (c.tick now).tile = c.tile := by
  unfold Ctx.tick
  dsimp only
  (repeat' split) <;> rfl

/-- States with the same memories. -/
theorem memoriesWf_of_fields {s t : State} (w : s.MemoriesWf) (host : t.host = s.host) (sync : t.sync = s.sync)
    (cores : t.cores = s.cores) (pchs : t.pchs = s.pchs) : t.MemoriesWf where
  host := host ▸ w.host
  sync := sync ▸ w.sync
  core i := by have := w.core i; simpa [State.core, cores] using this
  pch p := by have := w.pch p; simpa [State.pch, pchs] using this

/-- The end of the wall cycle moves the clocks, and no byte. -/
theorem finishCycle_memoriesWf {s : State} (w : s.MemoriesWf) : s.finishCycle.MemoriesWf := by
  have ticked := keeps_forAll (.refl s) s.siteKeys
    (fun i s => s.modCore i fun c => { c with portBusy := [], ctx := c.ctx.tick s.now })
    fun i _ u => keeps_modCore_of (.refl u) _ _ (fun _ => rfl) (fun c => tile_tick _ _) fun _ => rfl
  exact memoriesWf_of_fields ((keeps_counted ticked).mem w) rfl rfl rfl rfl

/-- The end of a phase keeps the form of the memories. -/
theorem endPhase_memoriesWf {s : State} (w : s.MemoriesWf) : s.endPhase.MemoriesWf := by
  have moved : ∀ {u : State}, Keeps s u → ∀ p, State.MemoriesWf { u with phase := p } := fun h p =>
    memoriesWf_of_fields (h.mem w) rfl rfl rfl rfl
  have h := Keeps.refl s
  unfold State.endPhase
  split
  · exact moved h _
  · exact moved (keeps_backgroundEnd h) _
  · exact moved (keeps_releaseEnd h) _
  · exact moved h _
  · exact moved h _
  · exact moved (keeps_fetchEnd h) _
  · exact moved (keeps_issueEnd h) _
  · exact moved (keeps_portEnd h) _
  · exact moved h _
  · exact moved (keeps_untimedEnd h) _
  · exact moved (keeps_manageEnd h) _
  · exact memoriesWf_of_fields (finishCycle_memoriesWf w) rfl rfl rfl rfl

/-! ## One step -/

/-- What happens next is an item of the inbox, a bundle, an event, or the end of a phase. -/
theorem advance_memoriesWf {s t : State} (w : s.MemoriesWf) (ht : s.advance = .next t) : t.MemoriesWf := by
  have h := Keeps.refl s
  unfold State.advance at ht
  split at ht
  · exact ((keeps_receive h _).next t ht).mem w
  · exact ((keeps_issueBundle h _).next t ht).mem w
  · split at ht
    · exact ((keeps_exec h _).next t ht).mem w
    · exact Host.Outcome.next.inj ht ▸ endPhase_memoriesWf w

/-- Settles O55: each operation and event writes memories by the functions that keep their form (`keeps_exec`), and
the ends of the phases move no other byte. -/
theorem stepsKeepMemoriesCanonical : Obligations.StepsKeepMemoriesCanonical := by
  unfold Obligations.StepsKeepMemoriesCanonical
  intro s t w ht
  unfold step at ht
  split at ht
  · exact nomatch ht
  · exact advance_memoriesWf w ht

end Sys2Proof.Laws
end
